-- ==== Sys2Proof/Word.lean ====
section
/-!
DEFINITION. The word types of the Triaris (R6, R52) and their plainest readings.
-/

namespace Sys2Proof

/-- A byte. -/
abbrev Byte := BitVec 8

/-- A 16-bit code parcel (R144). -/
abbrev Parcel16 := BitVec 16

/-- A register word of one lane (R49). -/
abbrev Word := BitVec 32

/-- A 64-bit value: a register pair, a global address (R52, R88). -/
abbrev DWord := BitVec 64

end Sys2Proof
end

