-- ==== Sys2Proof/Syntax.lean ====
section
/-!
DEFINITION. Syntax of the Triaris: one constructor of `Instr` per row of the opcode table, instructions of the lane
stream and the M-stream and the machine events alike (file 95). An instruction carries the raw fields of its words
(R148, R150, R153, R155); `WellFormed` says which field values are legal. An event carries what the outside world or
the timing of the part chooses for it.
-/

namespace Sys2Proof

/-- A field of seven bits of the base word or the X-ctl word (R148, R150). -/
abbrev Fld := BitVec 7

/-- The free fields of a one-word instruction (R148). -/
structure R3 where
  s : Bool
  d : Fld
  a : Fld
  b : Fld
  deriving DecidableEq, Repr

/-- The free fields of a one-word instruction whose F field is an operand too (R165: ICMP, MWLD). -/
structure R3F where
  s : Bool
  d : Fld
  a : Fld
  b : Fld
  f : BitVec 3
  deriving DecidableEq, Repr

/-- The X-ctl word (R150). -/
structure Xc where
  c : Fld
  g : Fld
  ge : Bool
  gn : Bool
  l : BitVec 3
  imm : BitVec 13
  deriving DecidableEq, Repr

/-- A base word with its X-ctl word (R150). -/
structure RX where
  s : Bool
  d : Fld
  a : Fld
  b : Fld
  x : Xc
  deriving DecidableEq, Repr

/-- As `RX`, with F an operand (R165: LEA, SHFL, LD, ATOM and others). -/
structure RXF where
  s : Bool
  d : Fld
  a : Fld
  b : Fld
  f : BitVec 3
  x : Xc
  deriving DecidableEq, Repr

/-- A base word with its X-imm word (R153). -/
structure RI where
  s : Bool
  d : Fld
  a : Fld
  b : Fld
  imm : Word
  deriving DecidableEq, Repr

/-- As `RI`, with F an operand (R165: ICMPI). -/
structure RIF where
  s : Bool
  d : Fld
  a : Fld
  b : Fld
  f : BitVec 3
  imm : Word
  deriving DecidableEq, Repr

/-- The fields of a dictionary parcel or of BRK16 (R155). -/
structure Parcel where
  s : Bool
  index : BitVec 10
  deriving DecidableEq, Repr

/-- Kinds of access for translation (R418): read, write, atomic (read and write), fetch. -/
inductive AccKind | read | write | atomic | fetch
  deriving DecidableEq, Repr

/-- Units in which an error is detected (R488, R501). -/
inductive ErrUnit
  | regFile | sram | cleanCopy | l2Data | l2Tag | mscData | mscTag | hbm | matrix | kennel | stage2 | firmware
  | ucie | fabric | hostLink
  deriving DecidableEq, Repr

/-- An array error as the hardware finds it (R488): the unit, where it is, and whether the code corrects it. `addr` is a
physical address, a local byte number, an architectural register or an intermediate page, by the unit; `tile` picks the
tile (0 to 7), slot (8 to 11) or q register (16 to 47) of a matrix unit, and `addr` its element or byte; `way` is also the number of a
link or of the edge of a die. -/
structure MemErr where
  unit : ErrUnit
  corrected : Bool
  die : Nat
  core : Nat
  blk : Nat
  slot : Nat
  fib : Nat
  lane : Nat
  way : Nat
  tile : Nat
  addr : Nat
  deriving DecidableEq, Repr

/-- A link of the package (R488): a UCIe edge, a fabric link, the host link, or the link of one master (R513). -/
inductive LinkId
  | edge (die e : Nat) | fabric (w : Nat) | host | master (m : Nat)
  deriving DecidableEq, Repr

/-- How the host completes a device request (R426): with data, refused (Unsupported Request or Completer Abort), or with poison. -/
inductive Completion | ok | refused | poisoned
  deriving DecidableEq, Repr

/-- A host request (R469): at a BAR2 offset of a virtual function, or through CXL.mem at a physical address; `t`: its T bit (R427);
`rid`: its requester (R115). -/
structure HostReq where
  vf : Option Nat
  t : Bool := false
  addr : Nat
  len : Nat
  data : List Byte
  rid : Nat := 0
  deriving DecidableEq, Repr

/-- A request of a peer module at a window's exposed range (R471). -/
structure PeerReq where
  win : Nat
  tenant : DWord
  addr : Nat
  len : Nat
  data : Option (List Byte)
  deriving DecidableEq, Repr

/-- A whistle flit (R468). -/
structure Flit where
  gid : Nat
  step : Nat
  tenant : DWord
  kbase : Nat
  lcnt : Nat
  opc : Nat
  typ : Nat
  count : Nat
  root : Nat
  deriving DecidableEq, Repr

/-- A mailbox request of a master (R510): OPS, LEN, TAG, and the bytes that the master has put in its data window. `cmd`: the CMD field of
the request where it names no command; else it names that of the row. -/
structure Mbx where
  m : Nat
  tag : Nat
  ops : BitVec 448
  len : Nat
  win : List Byte
  cmd : Option Nat := none
  deriving DecidableEq, Repr

/-- An SPDM request (R518): the requester, the certificate slot or measurement index, and the message bytes. -/
structure SpdmReq where
  m : Nat
  idx : Nat
  data : List Byte
  deriving DecidableEq, Repr

/-- Every row of the opcode table. -/
inductive Instr
  /-- Adds two words modulo 2^32 in each active lane (R179). -/
  | iadd (r : R3)
  /-- Subtracts two words modulo 2^32 in each active lane (R179). -/
  | isub (r : R3)
  /-- Signed saturating add (R179). -/
  | iadds (r : R3)
  /-- Signed saturating subtract (R179). -/
  | isubs (r : R3)
  /-- Unsigned saturating add (R179). -/
  | iaddns (r : R3)
  /-- Unsigned saturating subtract (R179). -/
  | isubns (r : R3)
  /-- Absolute difference of two signed words (R179). -/
  | iabsd (r : R3)
  /-- Negates a word modulo 2^32 (R179). -/
  | ineg (r : R3)
  /-- Adds a 32-bit immediate (R180). -/
  | iaddi (r : RI)
  /-- Subtracts a word from a 32-bit immediate (R180). -/
  | irsubi (r : RI)
  /-- Low 32 bits of a product (R181). -/
  | imul (r : R3)
  /-- High 32 bits of a signed product (R181). -/
  | imulhi (r : R3)
  /-- High 32 bits of an unsigned product (R181). -/
  | imulhin (r : R3)
  /-- Signed 64-bit product into a pair (R181). -/
  | imulw (r : R3)
  /-- Unsigned 64-bit product into a pair (R181). -/
  | imulwn (r : R3)
  /-- Multiply-add modulo 2^32 (R182). -/
  | imad (r : RX)
  /-- Signed widening multiply-add into a pair (R182). -/
  | imadw (r : RX)
  /-- Unsigned widening multiply-add into a pair (R182). -/
  | imadwn (r : RX)
  /-- Signed division truncated toward zero, never trapping (R183). -/
  | idiv (r : R3)
  /-- Unsigned division (R183). -/
  | idivn (r : R3)
  /-- Signed remainder (R183). -/
  | irem (r : R3)
  /-- Unsigned remainder (R183). -/
  | iremn (r : R3)
  /-- 64-bit add of pairs (R184). -/
  | add64 (r : R3)
  /-- 64-bit subtract of pairs (R184). -/
  | sub64 (r : R3)
  /-- 64-bit negate of a pair (R184). -/
  | neg64 (r : R3)
  /-- 64-bit equality compare (R184). -/
  | icmp64Eq (r : R3)
  /-- 64-bit signed less-than compare (R184). -/
  | icmp64Lt (r : R3)
  /-- 64-bit unsigned less-than compare (R184). -/
  | icmp64Ltn (r : R3)
  /-- Copies a pair (R184). -/
  | mov64 (r : R3)
  /-- Forms a 64-bit address from a base pair, a sign-extended scaled index and an offset (R185). -/
  | lea (r : RXF)
  /-- As LEA with a zero-extended index (R185). -/
  | lean (r : RXF)
  /-- Bitwise and (R186). -/
  | and (r : R3)
  /-- Bitwise or (R186). -/
  | or (r : R3)
  /-- Bitwise xor (R186). -/
  | xor (r : R3)
  /-- And with complement (R186). -/
  | andn (r : R3)
  /-- Or with complement (R186). -/
  | orn (r : R3)
  /-- Complemented xor (R186). -/
  | xnor (r : R3)
  /-- Bitwise complement (R186). -/
  | not (r : R3)
  /-- Copies a word (R186). -/
  | mov (r : R3)
  /-- And with an immediate (R186). -/
  | andi (r : RI)
  /-- Or with an immediate (R186). -/
  | ori (r : RI)
  /-- Xor with an immediate (R186). -/
  | xori (r : RI)
  /-- Writes an immediate (R186). -/
  | movi (r : RI)
  /-- Shift left by a register amount (R187). -/
  | shl (r : R3)
  /-- Logical shift right by a register amount (R187). -/
  | shr (r : R3)
  /-- Arithmetic shift right by a register amount (R187). -/
  | sar (r : R3)
  /-- Rotate left (R187). -/
  | rotl (r : R3)
  /-- Rotate right (R187). -/
  | rotr (r : R3)
  /-- 64-bit shift left (R187). -/
  | shl64 (r : R3)
  /-- 64-bit logical shift right (R187). -/
  | shr64 (r : R3)
  /-- 64-bit arithmetic shift right (R187). -/
  | sar64 (r : R3)
  /-- Shift left by an amount in field B (R188). -/
  | shli (r : R3)
  /-- Logical shift right by an immediate amount (R188). -/
  | shri (r : R3)
  /-- Arithmetic shift right by an immediate amount (R188). -/
  | sari (r : R3)
  /-- Rotate left by an immediate amount (R188). -/
  | rotli (r : R3)
  /-- Rotate right by an immediate amount (R188). -/
  | rotri (r : R3)
  /-- 64-bit shift left by an immediate amount (R188). -/
  | shli64 (r : R3)
  /-- 64-bit logical shift right by an immediate amount (R188). -/
  | shri64 (r : R3)
  /-- 64-bit arithmetic shift right by an immediate amount (R188). -/
  | sari64 (r : R3)
  /-- Population count (R189). -/
  | popc (r : R3)
  /-- Count leading zeros (R189). -/
  | clz (r : R3)
  /-- Count trailing zeros (R189). -/
  | ctz (r : R3)
  /-- Bit reverse (R189). -/
  | brev (r : R3)
  /-- Sign-extend the low byte (R189). -/
  | sext8 (r : R3)
  /-- Sign-extend the low half (R189). -/
  | sext16 (r : R3)
  /-- Zero-extend the low byte (R189). -/
  | zext8 (r : R3)
  /-- Zero-extend the low half (R189). -/
  | zext16 (r : R3)
  /-- Extracts a bit field zero-extended (R190). -/
  | bfx (r : RX)
  /-- Extracts a bit field sign-extended (R190). -/
  | bfxi (r : RX)
  /-- Inserts a bit field (R190). -/
  | bfi (r : RX)
  /-- Signed minimum (R191). -/
  | imin (r : R3)
  /-- Signed maximum (R191). -/
  | imax (r : R3)
  /-- Unsigned minimum (R191). -/
  | iminn (r : R3)
  /-- Unsigned maximum (R191). -/
  | imaxn (r : R3)
  /-- Integer comparison under the condition selected by F (R192). -/
  | icmp (r : R3F)
  /-- Integer comparison with a 32-bit immediate (R192). -/
  | icmpi (r : RIF)
  /-- Selects A or B by C in each active lane (R193). -/
  | sel (r : RX)
  /-- FP32 add rounded to nearest even (R232). -/
  | fadd (r : R3)
  /-- FP32 subtract (R232). -/
  | fsub (r : R3)
  /-- FP32 multiply (R232). -/
  | fmul (r : R3)
  /-- FP32 minimumNumber (R232). -/
  | fmin (r : R3)
  /-- FP32 maximumNumber (R232). -/
  | fmax (r : R3)
  /-- FP32 minimum propagating NaN (R232). -/
  | fminp (r : R3)
  /-- FP32 maximum propagating NaN (R232). -/
  | fmaxp (r : R3)
  /-- FP32 add with a selected rounding mode (R233). -/
  | faddx (r : RX)
  /-- FP32 subtract with a selected rounding mode (R233). -/
  | fsubx (r : RX)
  /-- FP32 multiply with a selected rounding mode (R233). -/
  | fmulx (r : RX)
  /-- FP32 fused multiply-add rounded once (R234). -/
  | ffma (r : RX)
  /-- FP32 reciprocal within 1 ulp (R237). -/
  | frcp (r : R3)
  /-- FP32 reciprocal square root (R237). -/
  | frsq (r : R3)
  /-- FP32 square root correctly rounded (R237). -/
  | fsqrt (r : R3)
  /-- FP32 base-2 exponential (R237). -/
  | fex2 (r : R3)
  /-- FP32 base-2 logarithm (R237). -/
  | flg2 (r : R3)
  /-- FP32 sine (R237). -/
  | fsin (r : R3)
  /-- FP32 cosine (R237). -/
  | fcos (r : R3)
  /-- FP32 hyperbolic tangent (R237). -/
  | ftanh (r : R3)
  /-- FP32 ordered equality compare (R235). -/
  | fcmpEq (r : R3)
  /-- FP32 not-equal compare (R235). -/
  | fcmpNe (r : R3)
  /-- FP32 less-than compare (R235). -/
  | fcmpLt (r : R3)
  /-- FP32 less-or-equal compare (R235). -/
  | fcmpLe (r : R3)
  /-- FP32 unordered compare (R235). -/
  | fcmpUn (r : R3)
  /-- Classifies a floating-point value into one of ten classes (R236). -/
  | fclass (r : R3)
  /-- FP64 add (R239). -/
  | dadd (r : R3)
  /-- FP64 subtract (R239). -/
  | dsub (r : R3)
  /-- FP64 multiply (R239). -/
  | dmul (r : R3)
  /-- FP64 minimumNumber (R239). -/
  | dmin (r : R3)
  /-- FP64 maximumNumber (R239). -/
  | dmax (r : R3)
  /-- FP64 fused multiply-add (R240). -/
  | dfma (r : RX)
  /-- FP64 square root correctly rounded (R241). -/
  | dsqrt (r : R3)
  /-- FP64 reciprocal within 1 ulp (R241). -/
  | drcp (r : R3)
  /-- FP64 reciprocal square root within 1 ulp (R241). -/
  | drsq (r : R3)
  /-- Packed FP16 add (R242). -/
  | hadd2 (r : R3)
  /-- Packed FP16 subtract (R242). -/
  | hsub2 (r : R3)
  /-- Packed FP16 multiply (R242). -/
  | hmul2 (r : R3)
  /-- Packed FP16 minimumNumber (R242). -/
  | hmin2 (r : R3)
  /-- Packed FP16 maximumNumber (R242). -/
  | hmax2 (r : R3)
  /-- Packed BF16 add (R242). -/
  | badd2 (r : R3)
  /-- Packed BF16 subtract (R242). -/
  | bsub2 (r : R3)
  /-- Packed BF16 multiply (R242). -/
  | bmul2 (r : R3)
  /-- Packed BF16 minimumNumber (R242). -/
  | bmin2 (r : R3)
  /-- Packed BF16 maximumNumber (R242). -/
  | bmax2 (r : R3)
  /-- Packed FP16 fused multiply-add (R243). -/
  | hfma2 (r : RX)
  /-- Packed BF16 fused multiply-add (R243). -/
  | bfma2 (r : RX)
  /-- FP16 two-term dot product accumulated in FP32 (R243). -/
  | hdot2 (r : RX)
  /-- BF16 two-term dot product accumulated in FP32 (R243). -/
  | bdot2 (r : RX)
  /-- Converts one element between types under R84 (R246). -/
  | cvt (r : RX)
  /-- Rounds a float element to an integral value (R246). -/
  | frnd (r : RX)
  /-- Packs four registers into bytes under block scales (R249). -/
  | pack8 (r : RX)
  /-- Decodes packed bytes into four FP32 registers (R250). -/
  | unpack8 (r : RX)
  /-- Packs eight registers into E2M1 nibbles under block scales (R249). -/
  | pack4 (r : RX)
  /-- Decodes packed nibbles into eight FP32 registers (R250). -/
  | unpack4 (r : RX)
  /-- Computes MX block scales over the active lanes (R248). -/
  | bscale (r : RX)
  /-- Reads a word of another lane by index, up, down or xor (R194). -/
  | shfl (r : RXF)
  /-- True if the operand is nonzero in every active lane (R195). -/
  | voteall (r : R3)
  /-- True if the operand is nonzero in some active lane (R195). -/
  | voteany (r : R3)
  /-- True if the operand is uniform over active lanes (R195). -/
  | voteuni (r : R3)
  /-- Mask of active lanes with a nonzero operand (R195). -/
  | ballot (r : R3)
  /-- Writes leader, count and rank of equal keys (R195). -/
  | matchw (r : R3)
  /-- Reads a lane mask into a register (R195). -/
  | mread (r : R3)
  /-- Writes a lane mask from the lowest active lane (R195). -/
  | mwrite (r : R3)
  /-- Reads a 32-bit special register (R196). -/
  | srd (r : R3)
  /-- Reads a 64-bit special register into a pair (R196). -/
  | srd64 (r : R3)
  /-- Sum over active lanes (R197). -/
  | redadd (r : R3)
  /-- Signed minimum over active lanes (R197). -/
  | redmin (r : R3)
  /-- Signed maximum over active lanes (R197). -/
  | redmax (r : R3)
  /-- Unsigned minimum over active lanes (R197). -/
  | redminn (r : R3)
  /-- Unsigned maximum over active lanes (R197). -/
  | redmaxn (r : R3)
  /-- Bitwise and over active lanes (R197). -/
  | redand (r : R3)
  /-- Bitwise or over active lanes (R197). -/
  | redor (r : R3)
  /-- Bitwise xor over active lanes (R197). -/
  | redxor (r : R3)
  /-- Segmented sum over each segment (R198). -/
  | segadd (r : R3)
  /-- Segmented inclusive prefix sum (R198). -/
  | segaddi (r : R3)
  /-- Exclusive prefix sum over active lanes (R198). -/
  | scanadd (r : R3)
  /-- Inclusive prefix sum over active lanes (R198). -/
  | scanaddi (r : R3)
  /-- Per-lane global load of the selected width (R259). -/
  | ld (r : RXF)
  /-- Per-lane global store of the selected width (R259). -/
  | st (r : RXF)
  /-- Per-lane local load (R259). -/
  | ldl (r : RXF)
  /-- Per-lane local store (R259). -/
  | stl (r : RXF)
  /-- Indivisible 32-bit global atomic at the home (R263). -/
  | atom (r : RXF)
  /-- Bitwise, float and 64-bit global atomics (R263). -/
  | atomb (r : RXF)
  /-- Local atomic at the bank ALU (R263). -/
  | atoml (r : RXF)
  /-- Asynchronous global reduction without return, counted on A (R265). -/
  | red (r : RXF)
  /-- Orders the lane's accesses at a scope (R267). -/
  | fence (r : R3)
  /-- Exclusive acquire of a synchronisation object (R268). -/
  | acqx (r : R3)
  /-- Shared acquire of a synchronisation object (R268). -/
  | acqs (r : R3)
  /-- Publishes bound writes and releases an object (R269). -/
  | rel (r : R3)
  /-- Adds an object-region entry to the binding table (R270). -/
  | bind (r : R3)
  /-- Deletes every binding entry naming an object (R270). -/
  | unbind (r : R3)
  /-- Prefetch hint into L2 or the memory-side cache (R272). -/
  | pref (r : RXF)
  /-- Creates a stash mapping with every line Absent (R275). -/
  | smap (r : R3)
  /-- Writes back, deregisters and deletes a stash mapping (R276). -/
  | sunmap (r : R3)
  /-- Starts fills of the Absent stash lines of a range (R277). -/
  | sfill (r : R3)
  /-- Writes back dirty bytes of a stash range (R277). -/
  | sclean (r : R3)
  /-- Makes stash lines Absent, discarding dirty bytes (R277). -/
  | sdrop (r : R3)
  /-- Returns the state of a stash line per lane (R278). -/
  | squery (r : R3)
  /-- Adopts an orphaned mapping by tag (R279). -/
  | sadopt (r : R3)
  /-- Waits while a handle is Filling or Draining (R284). -/
  | hwait (r : R3)
  /-- Returns the state of a handle (R281). -/
  | hstate (r : R3)
  /-- Starts the drain of a Full output handle (R282). -/
  | hdrain (r : R3)
  /-- Frees a Full handle without draining it (R283). -/
  | hfree (r : R3)
  /-- Returns whether HWAIT would complete at once (R281). -/
  | htry (r : R3)
  /-- Puts an entry into a FIFO ring, waiting while full (R288). -/
  | qput (r : R3)
  /-- Gets an entry from a FIFO ring, waiting while empty and open (R288). -/
  | qget (r : R3)
  /-- Non-blocking put returning status 2 when full (R288). -/
  | qputn (r : R3)
  /-- Non-blocking get returning status 2 when empty (R288). -/
  | qgetn (r : R3)
  /-- Returns a ring's closed flag and entry count (R289). -/
  | qcount (r : R3)
  /-- Sets a ring's closed flag (R289). -/
  | qclose (r : R3)
  /-- Waits until an engine counter is at most n (R291). -/
  | waitc (r : R3)
  /-- Reads an engine counter (R291). -/
  | rdc (r : R3)
  /-- Issues one collective step from a descriptor (R293). -/
  | coll (r : RX)
  /-- Issues one collective step over shape records (R293). -/
  | collt (r : RX)
  /-- Returns from a call, popping the window at the last return (R204). -/
  | ret (r : R3)
  /-- Removes the active lanes from the fibre (R205). -/
  | exit (r : R3)
  /-- Unconditional relative branch (R199). -/
  | bra (r : RI)
  /-- Branch if nonzero (R199). -/
  | bnz (r : RI)
  /-- Branch if zero (R199). -/
  | bz (r : RI)
  /-- Calls a target with a frame, pushing the window base (R202). -/
  | call (r : RI)
  /-- Indirect branch through a jump table (R200). -/
  | brx (r : RI)
  /-- Indirect call through a jump table by target group (R203). -/
  | callx (r : RI)
  /-- Adds the active lanes to a mask (R206). -/
  | join (r : R3)
  /-- Removes the active lanes from a mask (R206). -/
  | leave (r : R3)
  /-- Holds lanes until every lane of a mask arrives or leaves (R207). -/
  | waitm (r : R3)
  /-- Sets a mask to the active lanes (R206). -/
  | mset (r : R3)
  /-- And of two masks (R206). -/
  | mand (r : R3)
  /-- Or of two masks (R206). -/
  | mor (r : R3)
  /-- Clears a mask (R206). -/
  | mclr (r : R3)
  /-- Complement of a mask within m0 (R206). -/
  | mnot (r : R3)
  /-- Sets the meeting address of the active lanes (R208). -/
  | meet (r : RI)
  /-- Clears the meeting register (R208). -/
  | meetclr (r : RI)
  /-- Arrives at a block or matrix barrier (R211). -/
  | bararv (r : R3)
  /-- Waits for the pending phase of a barrier (R211). -/
  | barwait (r : R3)
  /-- Arrives and waits at a barrier (R211). -/
  | barsync (r : R3)
  /-- Tests whether a barrier wait would complete at once (R211). -/
  | bartry (r : R3)
  /-- Quad barrier of the launch (R213). -/
  | qbar (r : R3)
  /-- Die barrier of the launch (R213). -/
  | dbar (r : R3)
  /-- Package barrier of the launch (R213). -/
  | pbar (r : R3)
  /-- Waits on a global word, yielding the slot (R214). -/
  | tryw (r : RX)
  /-- Waits on a local word, yielding the slot (R214). -/
  | trywl (r : RX)
  /-- Moves the fibre's window base (R215). -/
  | win (r : R3)
  /-- Switch point with no other effect (R216). -/
  | fyield (r : R3)
  /-- Places a new fibre in an empty position (R217). -/
  | fspawn (r : R3)
  /-- Stops a fibre at its next issue boundary (R218). -/
  | fstop (r : R3)
  /-- Barrier among the fibres of the slot (R219). -/
  | fbar (r : R3)
  /-- Kills a run of registers (R220). -/
  | kill (r : R3)
  /-- No effect beyond bit S (R216). -/
  | nop (r : R3)
  /-- Repeats the following instruction with stepped register fields (R160). -/
  | rep (r : R3)
  /-- Pushes a task record to a queue of the context (R222). -/
  | spawn (r : R3)
  /-- Adds to a join counter at its home (R223). -/
  | joinc (r : R3)
  /-- Ends every lane of the block and retires it (R224). -/
  | taskend (r : R3)
  /-- Hop distance between two virtual dies (R225). -/
  | vdist (r : R3)
  /-- Core and quad counts of a virtual die (R225). -/
  | vdinfo (r : R3)
  /-- Raises the software trap with a 21-bit code (R226). -/
  | trap (r : R3)
  /-- Raises the breakpoint trap with a 21-bit code (R226). -/
  | brk (r : R3)
  /-- Executes a dictionary entry as if it stood at the parcel (R157). -/
  | dictionaryParcel (r : Parcel)
  /-- One-parcel breakpoint trap (R158). -/
  | brk16 (r : Parcel)
  /-- Opens a stream over a row-pointer array (R306). -/
  | sopen (r : R3)
  /-- Assigns the next element positions of a stream to lanes (R307). -/
  | snext (r : R3)
  /-- Returns the state of a stream (R308). -/
  | stend (r : R3)
  /-- Closes a stream (R308). -/
  | sclose (r : R3)
  /-- Skips rows of an open stream (R308). -/
  | sskip (r : R3)
  /-- Returns a stream's row and position (R308). -/
  | spos (r : R3)
  /-- Retriever gather of elements or rows by index (R311). -/
  | gath (r : RXF)
  /-- Retriever scatter-add of values (R314). -/
  | scata (r : RX)
  /-- Retriever scatter-add of one (R314). -/
  | scatai (r : RX)
  /-- Retriever scatter-add of FP32 rows (R314). -/
  | scatab (r : RX)
  /-- Local scatter-add at the bank ALU (R315). -/
  | scatal (r : RX)
  /-- Local scatter-add of one at the bank ALU (R315). -/
  | scatali (r : RX)
  /-- Retriever scatter keeping the last value (R314). -/
  | scat (r : RX)
  /-- Retriever scatter-minimum (R314). -/
  | scatmin (r : RX)
  /-- Embedding row lookup into local memory (R320). -/
  | embl (r : RX)
  /-- Embedding row gradient update (R321). -/
  | embu (r : RX)
  /-- Reads and optionally clears the drop count (R322). -/
  | embq (r : RX)
  /-- Waits for the operations bound to a table version (R322). -/
  | embv (r : RX)
  /-- Counts keys into pens (R326). -/
  | binc (r : R3)
  /-- Files items into pens or overflow (R326). -/
  | bins (r : R3)
  /-- Waits for binning and resets pen counts (R327). -/
  | binr (r : R3)
  /-- Sets M, N and K of the sequencer (R346). -/
  | mshape (r : R3)
  /-- Sets operand types and scale flags (R346). -/
  | mfmt (r : R3)
  /-- Adds a shifted q register to another (R346). -/
  | mqadd (r : R3)
  /-- Sets a q register from an immediate or a local word (R347). -/
  | mqset (r : RI)
  /-- Loads weight bricks into a weight slot (R348). -/
  | mwld (r : R3F)
  /-- Accumulates a brick product into a tile (R349). -/
  | mma (r : R3)
  /-- Zeroes a tile and accumulates a product (R349). -/
  | mmz (r : R3)
  /-- Accumulates a product with B from a record (R349). -/
  | mmas (r : R3)
  /-- Stores a tile as plain writes (R350). -/
  | mst (r : R3)
  /-- Adds a tile into memory as one indivisible update (R350). -/
  | mstadd (r : R3)
  /-- Stores a tile all or nothing under a version word (R350). -/
  | mstatom (r : R3)
  /-- Loads a tile from memory (R350). -/
  | mldt (r : R3)
  /-- Zeroes a tile (R350). -/
  | mzero (r : R3)
  /-- Sequencer release of a numbered matrix barrier (R332). -/
  | marv (r : R3)
  /-- Sequencer wait for fibre arrivals at a matrix barrier (R332). -/
  | mwait (r : R3)
  /-- Sequencer jump (R352). -/
  | mjmp (r : RI)
  /-- Sequencer counted loop (R352). -/
  | mloop (r : RI)
  /-- Ends the sequencer (R353). -/
  | mend (r : R3)
  /-- Scales tile rows or columns by a vector (R353). -/
  | mscale (r : R3)
  /-- Applies an activation to a tile (R353). -/
  | mact (r : R3)
  /-- Row maxima of a tile into a vector (R353). -/
  | mrowmax (r : R3)
  /-- Row sums of a tile into a vector (R353). -/
  | mrowsum (r : R3)
  /-- Creates a child context (R401). -/
  | ctxnew (r : R3)
  /-- Grants a budget amount to a child (R402). -/
  | ctxgrant (r : R3)
  /-- Takes a budget amount back from a descendant (R402). -/
  | ctxtake (r : R3)
  /-- Moves a context to Running (R403). -/
  | ctxrun (r : R3)
  /-- Stops a context cooperatively or by force (R403). -/
  | ctxstop (r : R3)
  /-- Starts revocation of a descendant subtree (R404). -/
  | ctxrevoke (r : R3)
  /-- Writes a context image (R405). -/
  | ctxqry (r : R3)
  /-- Maps the executing context's frames into a descendant (R407). -/
  | ctxmap (r : R3)
  /-- Removes a descendant's mapping of a range, selected by UNMAP (R407). -/
  | ctxmapUnmap (r : R3)
  /-- Resumes a trapped fibre or sequencer and deletes the ticket (R409). -/
  | trapret (r : R3)
  /-- Passes a ticket to the next holder (R409). -/
  | trapfwd (r : R3)
  /-- Reads a word of a trap record (R409). -/
  | trapinfo (r : R3)
  /-- Drops cached translations of a range in a subtree (R410). -/
  | tlbinv (r : R3)
  /-- Discards cached code parcels of a range (R410). -/
  | icinv (r : R3)
  /-- Makes resident blocks reload a dictionary (R410). -/
  | dctinv (r : R3)
  /-- Opens a profiling session (R476). -/
  | profOpen (r : R3)
  /-- Writes a session's counters and sample pointer (R476). -/
  | profRead (r : R3)
  /-- Ends a session with a final counter write (R476). -/
  | profClose (r : R3)
  /-- Writes a session image and closes the session (R476). -/
  | profExport (r : R3)
  /-- Opens a session from an image (R479). -/
  | profImport (r : R3)
  /-- Starts a causal experiment (R480). -/
  | trialStart (r : R3)
  /-- Writes an experiment's results (R480). -/
  | trialRead (r : R3)
  /-- Ends a running experiment (R480). -/
  | trialAbort (r : R3)
  /-- Writes a system register of a descendant or a ticket's frozen state (R411). -/
  | srw (r : R3)
  /-- Reads a system register or a ticket's frozen state (R411). -/
  | srr (r : R3)
  /-- A write of a queue descriptor enables, re-enables or stops a queue (R450). -/
  | qdescWrite (ctx q : Nat) (v : DWord)
  /-- A write of a LEND register lends quads or reclaims them (R394). -/
  | lendWrite (ctx k : Nat) (v : Word)
  /-- A write of a collective group entry (R467). -/
  | groupWrite (ctx g : Nat) (v : DWord)
  /-- The kennel die pushes a handler task to the holder's queue, retrying while full (R433). -/
  | handlerTaskPush
  /-- The kennel die reads and examines the next ring entry and writes STATUS and HEAD (R449). -/
  | queueEntryExamine (ctx q : Nat)
  /-- The kennel die reads a queue header every 100 µs (R449). -/
  | queueHeaderPoll (ctx q : Nat)
  /-- The scheduler reserves slots and banks for a ready block and starts its loading (R21). -/
  | blockPlacement (launch task : Nat)
  /-- An input copy finishes and its handle becomes Full (R111). -/
  | inputCopyComplete (blk h : Nat)
  /-- All slots loaded, the block's lanes start at their entries (R21). -/
  | blockStart (blk : Nat)
  /-- A register result returns and is written or dropped (R35). -/
  | registerResultReturn (blk slot reg : Nat)
  /-- A refilled chunk becomes Resident (R61). -/
  | chunkRefillComplete (blk slot chunk : Nat)
  /-- A fibre that issued 64 instructions without a switch point yields (R33). -/
  | forcedSwitch (blk slot fib : Nat)
  /-- A fibre selects another group after 64 instructions of one group (R36). -/
  | groupSelect (blk slot fib : Nat)
  /-- A block whose slots have ended retires through the steps of R23 (R23). -/
  | blockRetire (blk : Nat)
  /-- An output copy is performed and its handle becomes Free (R111). -/
  | outputDrainComplete (blk h : Nat)
  /-- The kennel die reads and pushes the continuation record, waiting while full (R472). -/
  | continuationPush
  /-- A walker walks the tables for a TLB miss (R418). -/
  | tlbMissWalk (core ctx : Nat) (va : DWord) (kind : AccKind)
  /-- Firmware examines a failed walk and resolves it or leaves it unresolved (R428). -/
  | faultExamine (blk slot fib : Nat)
  /-- A stash fill returns and the line becomes Shared or Exclusive (R104). -/
  | stashFillReturn (core line : Nat)
  /-- Ownership is granted and an Upgrading line becomes Exclusive (R104). -/
  | stashOwnershipGrant (core line : Nat)
  /-- Invalidation of a touched line moves a stash line to Absent or Filling (R104). -/
  | stashInvalidate (core line : Nat)
  /-- Another agent's read recalls dirty stash bytes (R104). -/
  | stashRecall (core line : Nat)
  /-- A directory capacity eviction makes a stash line Absent (R104). -/
  | stashCapacityEviction (core line : Nat)
  /-- A G-class operation completes and the G counter falls (R133). -/
  | retrieverOpComplete (op : Nat)
  /-- An A-class update is performed and the A counter falls (R133). -/
  | atomicUpdateComplete (op : Nat)
  /-- A stash operation completes and the S counter falls (R133). -/
  | stashOpComplete (op : Nat)
  /-- A collective step and its STATUS are performed and X falls (R296). -/
  | collectiveStepComplete (op : Nat)
  /-- A binning operation is written and the B counter falls (R326). -/
  | binningComplete (op : Nat)
  /-- A scatter window closes, including after 64 further instructions (R313). -/
  | scatterWindowClose (blk slot fib : Nat)
  /-- A closed window applies one indivisible update per location (R314). -/
  | scatterWindowApply (win : Nat)
  /-- A write signal to the watched line triggers a new read (R214). -/
  | trywRecheck (blk slot fib : Nat)
  /-- The watched word is read again after 4096 clk (R214). -/
  | trywPoll (blk slot fib : Nat)
  /-- The timeout of a wait elapses and the lane completes (R214). -/
  | trywTimeout (blk slot fib lane : Nat)
  /-- Issue stops in a block and in-flight operations land or become replay entries (R435). -/
  | forcedPreemption (blk : Nat)
  /-- Once quiesced, the block's state is written to its save area (R440). -/
  | blockSave (blk : Nat)
  /-- At a slice boundary credits are added and a tenant chosen (R458). -/
  | sliceBoundary (ctx : Nat)
  /-- A waiting block's level rises each 2 ms up to CEIL (R454). -/
  | priorityAging (launch task : Nat)
  /-- A lent quad is reclaimed and borrowers frozen and re-queued (R395). -/
  | quadReclaim (ctx vd quad : Nat)
  /-- The eight steps of revocation of a subtree (R397). -/
  | revocation (ctx : Nat)
  /-- Memory-side cache slices retag lines of a revoked subtree (R496). -/
  | mscRetag (ctx : Nat)
  /-- A host function level reset ends the blocks of a context's subtree (R445). -/
  | functionLevelReset (vf : Nat)
  /-- A page migrates under LOCK to a new frame (R443). -/
  | migration (ctx page frame : Nat)
  /-- After 2 ms a remote mapping returns to V = 0 and the hold-off ends (R444). -/
  | remoteMapExpiry (ctx page : Nat)
  /-- A frame is retired by migration to a spare (R498). -/
  | pageRetire (frame : Nat)
  /-- An array error is corrected or its fate applied (R488). -/
  | memoryErrorDetect (e : MemErr)
  /-- The kennel die finds the bearer and acts on it (R495). -/
  | mscLossExamine
  /-- The sweeper writes back and invalidates a removed or quarantined way (R464). -/
  | sweeperWayClear (die way : Nat)
  /-- The patrol scrubber reads and corrects a line (R489). -/
  | patrolScrub (line : Nat)
  /-- An error record is written to the owner and the context rings (R502). -/
  | errorRecordDelivery
  /-- Corrected events of one unit are folded into one record per second (R502). -/
  | correctedEventFold
  /-- A link fails after the 8th failed replay or drops (R488). -/
  | linkDown (l : LinkId)
  /-- A host write arrives through the aperture or CXL.mem (R141). -/
  | hostWrite (q : HostReq)
  /-- A host read is served at the directory (R141). -/
  | hostRead (q : HostReq)
  /-- A completion for a device request to host memory arrives (R426). -/
  | hostCompletion (pa : Nat) (how : Completion)
  /-- A fabric window request arrives from a peer module (R471). -/
  | peerRequest (q : PeerReq)
  /-- The caller counts a whistle flit from a module (R468). -/
  | whistleFlit (w : Flit)
  /-- A module receives go and performs the step (R468). -/
  | whistleGo (gid step : Nat) (data : List (List Byte))
  /-- A module receives an abort and writes its STATUS (R468). -/
  | whistleAbort (gid step code : Nat)
  /-- RLIM elapses at the caller, which sends abort 3 (R468). -/
  | whistleTimeout (gid step : Nat)
  /-- A core writes one sample when sr.clk crosses a multiple of PERIOD (R478). -/
  | profileSample (sid core : Nat)
  /-- At each epoch end range clk are collected and debt assigned (R481). -/
  | trialEpochEnd (slice : Nat)
  /-- Package reset starts bring-up (R505). -/
  | packageReset
  /-- Ownership lapses after the owner's link stays down 1 s (R513). -/
  | ownerLapse
  /-- A pending handover lapses after 10 s (R514). -/
  | handoverTimeout
  /-- Firmware adjusts clk to hold the 10 ms average power (R519). -/
  | powerControl (steps : Nat)
  /-- A die at 105 °C runs at 1.2 GHz (R520). -/
  | thermalThrottle (die temp : Nat)
  /-- A throttled die falling to 95 °C leaves throttle (R520). -/
  | thermalRecover (die temp : Nat)
  /-- At 115 °C the module controller removes power (R520). -/
  | thermalTrip (die temp : Nat)
  /-- A master claims ownership (R513). -/
  | claim (r : Mbx)
  /-- The owner names a pending target (R514). -/
  | handover (r : Mbx)
  /-- The pending target becomes owner (R514). -/
  | accept (r : Mbx)
  /-- The owner gives up ownership (R511). -/
  | release (r : Mbx)
  /-- Returns state, owner, pending target and SVN (R511). -/
  | statusq (r : Mbx)
  /-- Writes the window into the image (R507). -/
  | imgload (r : Mbx)
  /-- Verifies and writes a loaded image, then resets (R507). -/
  | imgcommit (r : Mbx)
  /-- Appends configuration entries (R515). -/
  | config (r : Mbx)
  /-- Checks the configuration and creates the partitions and roots (R516). -/
  | commit (r : Mbx)
  /-- Sets the owner's event ring (R517). -/
  | evring (r : Mbx)
  /-- Returns per-die temperature, power and clk (R518). -/
  | telem (r : Mbx)
  /-- Sets the module power limit (R519). -/
  | plimit (r : Mbx)
  /-- Resets the package (R511). -/
  | preset (r : Mbx)
  /-- Resets a hard partition's dies and rebuilds its partitions (R511). -/
  | hreset (r : Mbx)
  /-- Rewrites MSCW and MISSCAP of a slice record (R511). -/
  | sliceset (r : Mbx)
  /-- Resumes an owner-held trap (R512). -/
  | mtrapResume (r : Mbx)
  /-- Revokes the trapping context of an owner-held ticket (R512). -/
  | mtrapEnd (r : Mbx)
  /-- Writes an owner-held trap record to the window (R512). -/
  | mtrapRead (r : Mbx)
  /-- Returns the next owner-held ticket (R512). -/
  | mtrapNext (r : Mbx)
  /-- Writes a partition root's space-0 register (R521). -/
  | rootsrWrite (r : Mbx)
  /-- Reads a partition root's space-0 register (R521). -/
  | rootsrRead (r : Mbx)
  /-- Declares pages migratable (R470). -/
  | migdecl (r : Mbx)
  /-- Clears MIGR of pages (R470). -/
  | migundecl (r : Mbx)
  /-- Host request to migrate a page toward host memory (R470). -/
  | migreq (r : Mbx)
  /-- Grants the device's pending migration request (R470). -/
  | miggrant (r : Mbx)
  /-- SPDM version request (R518). -/
  | getVersion (r : SpdmReq)
  /-- SPDM capabilities request (R518). -/
  | getCapabilities (r : SpdmReq)
  /-- SPDM algorithm negotiation (R518). -/
  | negotiateAlgorithms (r : SpdmReq)
  /-- SPDM certificate digests request (R518). -/
  | getDigests (r : SpdmReq)
  /-- SPDM certificate request (R518). -/
  | getCertificate (r : SpdmReq)
  /-- SPDM challenge (R518). -/
  | challenge (r : SpdmReq)
  /-- SPDM measurements request (R518). -/
  | getMeasurements (r : SpdmReq)
  /-- SPDM session key exchange (R518). -/
  | keyExchange (r : SpdmReq)
  /-- SPDM session finish (R518). -/
  | finish (r : SpdmReq)
  /-- SPDM session heartbeat (R518). -/
  | heartbeat (r : SpdmReq)
  /-- SPDM session key update (R518). -/
  | keyUpdate (r : SpdmReq)
  /-- Ends an SPDM session (R518). -/
  | endSession (r : SpdmReq)
  /-- TDISP version request (R427). -/
  | getTdispVersion (vf : Nat)
  /-- TDISP capabilities request (R427). -/
  | getTdispCapabilities (vf : Nat)
  /-- Locks a TDI to CONFIG_LOCKED (R427). -/
  | lockInterfaceRequest (vf : Nat)
  /-- Returns a TDI interface report (R427). -/
  | getDeviceInterfaceReport (vf : Nat)
  /-- Returns a TDI state (R427). -/
  | getDeviceInterfaceState (vf : Nat)
  /-- Moves a TDI to RUN (R427). -/
  | startInterfaceRequest (vf : Nat)
  /-- Stops a TDI (R427). -/
  | stopInterfaceRequest (vf : Nat)
  /-- A device request to host memory whose completion does not arrive in time ends with cause 0x06 (R426). -/
  | completionTimeout (pa : Nat)
  /-- A store, tile store or write-back without a register result becomes performed at its scope some time after issue (R117). -/
  | accessPerformed (id : Nat)
  /-- Loss of the module's supply, which during a flash write leaves the image slot invalid (R507). -/
  | powerLoss
  /-- A link that was down, such as the owner's host link, comes back up (R513). -/
  | linkUp (l : LinkId)
  deriving DecidableEq, Repr

end Sys2Proof
end

