-- ==== Sys2Proof/Machine/Forms.lean ====
section
/-!
DEFINITION. The encoding forms of the Triaris: for each major opcode its length and functions (R165), for each function
the use of its fields (R148, R149, R150 and each instruction's own rule), and the fate of an encoding that is no
instruction (R167). One table serves the check of well-formedness, the operand reads, the last-use marks and REP.
-/

namespace Sys2Proof

/-- The length of an opcode (R165): one word, a word with X-ctl, a word with X-imm. -/
inductive Len | one | x | i
  deriving DecidableEq, Repr

/-- The raw fields of a word with its extension (R148, R150, R153). -/
structure Raw where
  op : BitVec 7
  s : Bool
  d : Fld
  a : Fld
  b : Fld
  f : BitVec 3
  x : Option Xc
  i : Option Word
  deriving DecidableEq, Repr

/-- How an instruction uses a field: not at all (it must be 0, R149); as register names `name + offset` with the name a
multiple of `al` (R52); as a number below a limit (R176); as the mask written (R206); as any number. -/
inductive Use
  | z | v (offs : List Nat) (al : Nat) | lim (k : Nat) | md | any
  deriving DecidableEq, Repr

/-- The uses of the four fields. `dSrc`: field D names a source. -/
structure Form where
  d : Use := .z
  a : Use := .z
  b : Use := .z
  c : Use := .z
  dSrc : Bool := false
  deriving DecidableEq, Repr

namespace Forms

/-- A single register. -/
def v1 : Use := .v [0] 1
/-- A pair (R52). -/
def v2 : Use := .v [0, 1] 2
/-- A quadruple (R52). -/
def v4 : Use := .v [0, 1, 2, 3] 4
/-- An octuple (R247). -/
def v8 : Use := .v [0, 1, 2, 3, 4, 5, 6, 7] 8

/-- R165, R166: the length of a major opcode and the number of its functions; none where it is reserved. -/
def opInfo (op : Nat) : Option (Len × Nat) :=
  match op with
  | 0x00 => some (.one, 8) | 0x01 => some (.i, 2) | 0x02 => some (.one, 5) | 0x03 => some (.x, 3)
  | 0x04 => some (.one, 4) | 0x05 => some (.one, 7) | 0x06 => some (.x, 8) | 0x07 => some (.x, 8)
  | 0x08 => some (.one, 8) | 0x09 => some (.i, 4) | 0x0A => some (.one, 8) | 0x0B => some (.one, 8)
  | 0x0C => some (.one, 8) | 0x0D => some (.x, 3) | 0x0E => some (.one, 4) | 0x0F => some (.one, 8)
  | 0x10 => some (.i, 8) | 0x11 => some (.x, 1)
  | 0x14 => some (.one, 7) | 0x15 => some (.x, 3) | 0x16 => some (.x, 1) | 0x17 => some (.one, 8)
  | 0x18 => some (.one, 6) | 0x19 => some (.one, 5) | 0x1A => some (.x, 1) | 0x1B => some (.one, 3)
  | 0x1C => some (.one, 5) | 0x1D => some (.one, 5) | 0x1E => some (.x, 4) | 0x1F => some (.x, 2)
  | 0x20 => some (.x, 5)
  | 0x22 => some (.x, 4) | 0x23 => some (.one, 7) | 0x24 => some (.one, 2) | 0x25 => some (.one, 8)
  | 0x26 => some (.one, 4)
  | 0x28 => some (.x, 7) | 0x29 => some (.x, 5) | 0x2A => some (.x, 7) | 0x2B => some (.x, 5)
  | 0x2C => some (.x, 8) | 0x2D => some (.x, 8) | 0x2E => some (.x, 8) | 0x2F => some (.x, 8)
  | 0x30 => some (.one, 6) | 0x31 => some (.x, 2) | 0x32 => some (.one, 7) | 0x33 => some (.one, 5)
  | 0x34 => some (.one, 6) | 0x35 => some (.one, 2) | 0x36 => some (.one, 2) | 0x37 => some (.x, 2)
  | 0x38 => some (.i, 6) | 0x39 => some (.one, 8) | 0x3A => some (.i, 2) | 0x3B => some (.one, 7)
  | 0x3C => some (.x, 2) | 0x3D => some (.one, 7) | 0x3E => some (.one, 1) | 0x3F => some (.one, 7)
  | 0x60 => some (.one, 6) | 0x61 => some (.x, 5) | 0x62 => some (.x, 7) | 0x63 => some (.x, 4)
  | 0x64 => some (.one, 3)
  | 0x70 => some (.one, 3) | 0x71 => some (.one, 4) | 0x72 => some (.one, 3) | 0x73 => some (.one, 5)
  | 0x74 => some (.one, 2) | 0x75 => some (.i, 2) | 0x76 => some (.one, 5) | 0x77 => some (.i, 1)
  | 0x7C => some (.one, 8) | 0x7D => some (.one, 3) | 0x7E => some (.one, 5) | 0x7F => some (.one, 2)
  | _ => none

/-- R164: the opcodes of the M-stream. -/
def isM (op : Nat) : Bool := decide (0x70 ≤ op ∧ op ≤ 0x77)

/-- R257: the registers of a load's or store's data by width in bytes. -/
def byWidth (w : Nat) : Use := if w = 16 then v4 else if w = 8 then v2 else v1

/-- R257: the width in bytes of a load's function code. -/
def loadWidth (f : Nat) : Nat :=
  match f with | 0 => 1 | 1 => 1 | 2 => 2 | 3 => 2 | 4 => 4 | 5 => 8 | _ => 16

/-- R257: the width in bytes of a store's function code. -/
def storeWidth (f : Nat) : Nat :=
  match f with | 0 => 1 | 1 => 2 | 2 => 4 | 3 => 8 | _ => 16

/-- The uses of the fields of function `f` of opcode `op`, with IMM13 where it selects operands (BFX, SHFL, CVT, PACK,
ATOM, GATH). Integer and float opcodes 0x00 to 0x26 (R179 to R198, R232 to R250). -/
def formLow (op f imm : Nat) : Form :=
  let d3 : Form := { d := v1, a := v1, b := v1 }
  let d2 : Form := { d := v1, a := v1 }
  match op with
  | 0x00 => if f = 7 then d2 else d3
  | 0x01 => d2
  | 0x02 => if 3 ≤ f then { d := v2, a := v1, b := v1 } else d3
  | 0x03 => if f = 0 then { d := v1, a := v1, b := v1, c := v1 } else { d := v2, a := v1, b := v1, c := v2 }
  | 0x04 => d3
  | 0x05 =>
    match f with
    | 0 | 1 => { d := v2, a := v2, b := v2 }
    | 2 | 6 => { d := v2, a := v2 }
    | _ => { d := v1, a := v2, b := v2 }
  | 0x06 | 0x07 => { d := v2, a := v2, b := v1 }
  | 0x08 => if 6 ≤ f then d2 else d3
  | 0x09 => if f = 3 then { d := v1 } else d2
  | 0x0A => if 5 ≤ f then { d := v2, a := v2, b := v1 } else d3
  | 0x0B => if 5 ≤ f then { d := v2, a := v2, b := .lim 64 } else { d := v1, a := v1, b := .lim 32 }
  | 0x0C => d2
  | 0x0D =>
    let c := if imm.testBit 12 then v1 else .z
    if f = 2 then { d := v1, a := v1, b := v1, c := c } else { d := v1, a := v1, c := c }
  | 0x0E | 0x0F => d3
  | 0x10 => d2
  | 0x11 => { d := v1, a := v1, b := v1, c := v1 }
  | 0x14 | 0x15 => d3
  | 0x16 => { d := v1, a := v1, b := v1, c := v1 }
  | 0x17 => d2
  | 0x18 => if f = 5 then { d := v1, a := v1, b := .lim 4 } else d3
  | 0x19 => { d := v2, a := v2, b := v2 }
  | 0x1A => { d := v2, a := v2, b := v2, c := v2 }
  | 0x1B => { d := v2, a := v2 }
  | 0x1C | 0x1D => d3
  | 0x1E => { d := v1, a := v1, b := v1, c := v1 }
  | 0x1F =>
    let dt := if f = 1 then imm / 16 % 16 else imm / 256 % 16
    { d := if dt = 0 then v2 else v1, a := if imm / 16 % 16 = 0 then v2 else v1, b := .lim 8 }
  | 0x20 =>
    let rw := imm.testBit 7
    let four := imm / 8 % 8 = 2
    match f with
    | 0 => { d := v1, a := v4, c := if rw then .z else v1 }
    | 1 => { d := v4, a := v1, c := if rw then .z else v1 }
    | 2 => { d := v1, a := v8, c := if rw then .z else v2 }
    | 3 => { d := v8, a := v1, c := if rw then .z else v2 }
    | _ => if four then { d := v2, a := v8 } else { d := v1, a := v4 }
  | 0x22 =>
    { d := v1, a := v1, b := if imm.testBit 12 then v1 else .z, c := if imm.testBit 11 then v1 else .z }
  | 0x23 =>
    match f with
    | 5 => { d := v1, a := .lim 12 }
    | 6 => { d := .md, a := v1 }
    | _ => d2
  | 0x24 => { d := if f = 1 then v2 else v1, a := .any }
  | 0x25 => d2
  | _ => if f ≤ 1 then d3 else d2

/-- The uses of the fields of the memory, synchronisation and control opcodes 0x28 to 0x3F. -/
def formMid (op f imm : Nat) : Form :=
  match op with
  | 0x28 => { d := byWidth (loadWidth f), a := v2, b := .lim 4 }
  | 0x29 => { d := byWidth (storeWidth f), a := v2, b := .lim 4, dSrc := true }
  | 0x2A => { d := byWidth (loadWidth f), a := v1 }
  | 0x2B => { d := byWidth (storeWidth f), a := v1, dSrc := true }
  | 0x2C => { d := if imm.testBit 5 then .z else v1, a := v2, b := v1, c := if f = 6 then v1 else .z }
  | 0x2D =>
    let w := if 6 ≤ f then v2 else v1
    { d := if imm.testBit 5 then .z else w, a := v2, b := w, c := if f = 7 then v2 else .z }
  | 0x2E => { d := v1, a := v1, b := v1, c := if f = 6 then v1 else .z }
  | 0x2F => { a := v2, b := v1 }
  | 0x30 =>
    match f with
    | 0 => { b := .lim 6 }
    | 1 | 2 => { d := v1, a := v2, b := .lim 6 }
    | 3 => { a := v2, b := .lim 6 }
    | 4 => { d := v1, a := v2, b := .v [0, 1, 2] 4 }
    | _ => { d := v1, a := v2 }
  | 0x31 => { a := v2 }
  | 0x32 =>
    match f with
    | 0 => { d := .v [0, 1, 2, 3, 4, 5] 2, a := v1, dSrc := true }
    | 1 => { a := v1 }
    | 5 | 6 => { d := v1, a := v1 }
    | _ => { a := v1, b := v1 }
  | 0x33 => if f = 0 then { a := .lim 64 } else { d := v1, a := .lim 64 }
  | 0x34 =>
    match f with
    | 0 | 2 => { d := v1, a := v1, b := v1 }
    | 1 | 3 => { d := v2, a := v1 }
    | 4 => { d := v1, a := v1 }
    | _ => { a := v1 }
  | 0x35 => if f = 0 then { a := .lim 6, b := .any } else { d := v1, a := .lim 6 }
  | 0x36 => {}
  | 0x37 => { a := v2 }
  | 0x38 =>
    match f with
    | 0 => {}
    | 3 => { d := .any }
    | 5 => { d := .any, a := v1 }
    | _ => { a := v1 }
  | 0x39 =>
    match f with
    | 2 => { a := .lim 12 }
    | 4 | 5 => { d := .md, a := .lim 12, b := .lim 12 }
    | 7 => { d := .md, a := .lim 12 }
    | _ => { d := .md }
  | 0x3A => {}
  | 0x3B => if f = 3 then { d := v1, a := .lim 32 } else if f ≤ 2 then { a := .lim 32 } else {}
  | 0x3C => { d := v1, a := if f = 0 then v2 else v1, b := v1, c := v1 }
  | 0x3D =>
    match f with
    | 0 => { d := .any }
    | 2 => { d := v1, a := v2, b := v2 }
    | 3 => { a := v1 }
    | 5 => { d := .any, a := .any }
    | _ => {}
  | 0x3E => { d := .any, a := .any, b := .any }
  | _ =>
    match f with
    | 0 | 1 => { d := v1, a := v2, b := v1 }
    | 2 => {}
    | 3 => { d := v1, a := v1, b := v1 }
    | 4 => { d := v1, a := v1 }
    | _ => { d := .any, a := .any, b := .any }

/-- The uses of the fields of opcodes 0x60 to 0x7F (R305 to R325, R345 to R353, R400 to R411). -/
def formHigh (op f : Nat) : Form :=
  match op with
  | 0x60 =>
    match f with
    | 0 => { d := .lim 8, a := v2, b := v2 }
    | 1 => { d := v4, a := .lim 8 }
    | 2 => { d := v1, a := .lim 8 }
    | 3 => { a := .lim 8 }
    | 4 => { a := .lim 8, b := v1 }
    | _ => { d := v2, a := .lim 8 }
  | 0x61 => { d := if f = 3 then v2 else v1, a := v2, b := v1, c := v1, dSrc := decide (f = 4) }
  | 0x62 =>
    let d := if f = 1 ∨ f = 4 then .z else v1
    { d := d, a := if f = 3 ∨ f = 4 then v1 else v2, b := v1, c := v1, dSrc := true }
  | 0x63 =>
    match f with
    | 0 | 1 => { d := v1, a := v2, b := v1, dSrc := true }
    | 2 => { d := v1 }
    | _ => { d := v1, a := v2 }
  | 0x64 =>
    match f with
    | 0 => { a := v1, b := v1 }
    | 1 => { d := v1, a := v1, b := v1, dSrc := true }
    | _ => { d := v1, a := v1 }
  | 0x70 =>
    match f with
    | 0 => { d := .lim 64, a := .lim 64, b := .lim 32 }
    | 1 => { d := .lim 12, a := .lim 12, b := .lim 4 }
    | _ => { d := .lim 32, a := .any, b := .any }
  | 0x71 => { d := .lim 4, a := .lim 32 }
  | 0x72 => { d := .lim 8, a := .lim 32, b := if f = 2 then .lim 32 else .lim 4 }
  | 0x73 =>
    match f with
    | 0 => { d := .lim 8, a := .lim 32, b := .lim 32 }
    | 1 | 2 => { d := .lim 8, a := .lim 32, b := .lim 6 }
    | 3 => { d := .lim 8, a := .lim 32 }
    | _ => { d := .lim 8 }
  | 0x74 => if f = 0 then { a := .lim 16 } else { a := .lim 16, b := .lim 64 }
  | 0x75 => if f = 0 then {} else { d := .lim 32 }
  | 0x76 =>
    match f with
    | 0 => {}
    | 2 => { d := .lim 8, a := .lim 32, b := .lim 8 }
    | _ => { d := .lim 8, a := .lim 32, b := .lim 2 }
  | 0x77 => { d := .lim 32, a := .lim 3 }
  | 0x7C =>
    match f with
    | 0 | 3 => { d := v1, a := v1 }
    | 4 | 5 => { d := v1, a := v1, b := v1 }
    | _ => { d := v1, a := v1, b := v2 }
  | 0x7D =>
    match f with
    | 2 => { d := v2, a := v1, b := v1 }
    | _ => { d := v1, a := v1 }
  | 0x7E => if f ≤ 1 then { d := v1, a := v1, b := v4 } else { d := v1, a := v1, b := v2 }
  | _ => if f = 0 then { d := v1, a := v1, b := .v [0, 2, 3] 4 } else { d := v4, a := v1, b := v1 }

/-- The uses of the fields of a mapped function. -/
def form (op f imm : Nat) : Form :=
  if op < 0x28 then formLow op f imm else if op < 0x40 then formMid op f imm else formHigh op f

/-- IMM13 as a number; 0 for a form without one. -/
def immOf (r : Raw) : Nat :=
  match r.x with
  | some x => x.imm.toNat
  | none => 0

/-- The uses of the fields of an instruction: those of its function, but that FCLASS .f64 reads a pair (R236). -/
def ofRaw (r : Raw) : Form :=
  let fm := form r.op.toNat r.f.toNat (immOf r)
  if r.op = 0x18 ∧ r.f = 5 ∧ r.b = 1 then { fm with a := v2 } else fm

/-- The reasons that one field gives (R149, R52, R176, R206, R64). -/
def useReasons (u : Use) (x : Nat) : List Nat :=
  match u with
  | .z => if x = 0 then [] else [0x03]
  | .v offs al =>
    (if x % al = 0 then [] else [0x0A]) ++ (if offs.all (fun o => decide (x + o < 128)) then [] else [0x0B])
  | .lim k => if x < k then [] else [0x0B]
  | .md => if x = 0 then [0x0C] else if x < 12 then [] else [0x0B]
  | .any => []

/-- Whether a field is read as v registers, so that a last-use mark of it is legal (R152). -/
def isV (u : Use) : Bool := match u with | .v _ _ => true | _ => false

/-- R349: TA and TB belong to one class, with scales only in the 8-bit and 4-bit classes. -/
def legalClass (ta tb : Nat) (sa sb : Bool) : Bool :=
  match ta, tb with
  | 1, 1 => !sa && !sb | 2, 2 => !sa && !sb | 3, 3 => !sa && !sb
  | 4, 4 => true | 4, 5 => true | 5, 4 => true | 5, 5 => true | 6, 6 => true
  | _, _ => false

/-- R244: elements of a type held by one word or pair. -/
def epw (t : Nat) : Nat :=
  match t with
  | 0 => 1 | 1 => 1 | 2 => 2 | 3 => 2 | 4 => 4 | 5 => 4 | 6 => 8 | 7 => 1 | 8 => 1 | 9 => 4 | 10 => 4 | _ => 8

/-- A reason when a condition holds. -/
def rif (c : Bool) (r : Nat) : List Nat := if c then [r] else []

/-- The reasons that an instruction's IMM13 gives, by its own layout. -/
def immReasons (op f imm b : Nat) : List Nat :=
  match op with
  | 0x06 | 0x07 | 0x28 | 0x29 | 0x2A | 0x2B | 0x31 => []
  | 0x0D => rif (decide (imm / 1024 % 4 ≠ 0)) 3 ++ rif (imm.testBit 12 && decide (imm % 1024 ≠ 0)) 3
  | 0x15 | 0x16 | 0x1A | 0x1E => rif (decide (imm / 8 ≠ 0)) 3 ++ rif (decide (4 < imm % 8)) 0x0B
  | 0x1F =>
    let dt := imm / 256 % 16
    let st := imm / 16 % 16
    let ns := imm.testBit 3
    let rm := imm % 8
    rif (imm.testBit 12) 3 ++ rif (decide (11 < dt) || decide (11 < st) || decide (4 < rm)) 0x0B ++
    rif (decide (epw st ≤ b)) 0x0B ++
    (if f = 0 then
      rif (decide (dt = st)) 0x0B ++ rif (decide (7 ≤ st) && decide (4 ≤ dt ∧ dt ≤ 6)) 0x0B ++
      rif (ns && decide (dt ≠ 4 ∧ dt ≠ 5)) 0x0B ++ rif (decide (rm ≠ 0 ∧ 7 ≤ st ∧ 7 ≤ dt)) 0x0B
    else rif (decide (3 < st) || decide (dt ≠ 0) || ns) 0x0B)
  | 0x20 =>
    let rw := imm.testBit 7
    let ns := imm.testBit 6
    let fmt := imm / 8 % 8
    let rm := imm % 8
    rif (decide (imm / 256 ≠ 0)) 3 ++ rif (decide (2 < fmt) || decide (4 < rm)) 0x0B ++
    (if rw then rif (decide (f = 4) || ns || decide (rm ≠ 0) || decide (fmt ≠ 0)) 0x0B
     else rif (decide ((f = 0 ∨ f = 1) ∧ 1 < fmt) || decide ((f = 2 ∨ f = 3) ∧ fmt ≠ 2) ||
        (ns && decide (f ≠ 0)) || decide (rm ≠ 0 ∧ (f = 1 ∨ f = 3 ∨ f = 4))) 0x0B)
  | 0x22 => rif (decide (imm / 32 % 64 ≠ 0)) 3 ++ rif (imm.testBit 12 && decide (imm % 32 ≠ 0)) 3
  | 0x2C | 0x2D | 0x2E | 0x2F =>
    let nr := imm.testBit 5
    rif (decide (imm / 64 ≠ 0)) 3 ++ rif (nr && decide (0x2E ≤ op)) 3 ++ rif (decide (5 < imm / 4 % 8)) 0x0B ++
    rif (imm.testBit 0 && (nr || decide (op = 0x2F))) 0x0B
  | 0x3C => rif (decide (imm / 32 ≠ 0)) 3 ++ rif (decide (5 < imm / 4 % 8)) 0x0B
  | 0x61 => rif (decide (imm / 1024 ≠ 0)) 3 ++ rif (decide (f ≠ 4 ∧ imm % 1024 ≠ 0)) 0x0B
  | 0x62 =>
    let ty := imm / 512 % 4
    let ok := match f with
      | 2 => decide (ty = 2)
      | 5 => decide (ty = 0)
      | _ => decide (ty ≤ 2)
    rif (decide (imm / 2048 ≠ 0)) 3 ++ rif (!ok) 0x0B ++ rif (decide (f ≠ 2 ∧ imm % 512 ≠ 0)) 0x0B
  | 0x63 => if f = 2 then rif (decide (1 < imm)) 3 else rif (decide (imm ≠ 0)) 3
  | _ => rif (decide (imm ≠ 0)) 3

/-- R66: the special-register indexes that exist. -/
def srExists (k : Nat) : Bool :=
  decide (k ≤ 0x10) || [0x12, 0x14, 0x16, 0x17, 0x18, 0x19, 0x1A, 0x1C].contains k

/-- The reasons that single instructions add (R66, R176, R202, R220, R244, R346, R347, R350, R353, R208, R159). -/
def ownReasons (op f d a b : Nat) (i : Nat) : List Nat :=
  match op, f with
  | 0x24, _ => rif (!srExists a) 0x0B
  | 0x38, 3 => rif (decide (d = 0 ∨ 14 < d)) 0x0B
  | 0x38, 5 => rif (decide (d = 0 ∨ 14 < d)) 0x0B
  | 0x3A, 1 => rif (decide (i ≠ 0)) 3
  | 0x3D, 5 => rif (decide (127 < d + a)) 0x0B
  | 0x3E, _ => rif (decide (64 ≤ d) || decide (a % 2 ≠ 0) || decide (b % 2 ≠ 0)) 3
  | 0x70, 1 => rif (!legalClass d a (b.testBit 0) (b.testBit 1)) 0x0B
  | 0x73, 0 => rif (decide (b % 16 = 0 ∨ 5 < b % 16)) 0x0B
  | 0x76, 2 => rif (decide (b < 4 ∧ a ≠ 0)) 0x0B
  | _, _ => []

/-- Every reason of R167 that a framed word gives, in the lane stream (`m = false`) or the M-stream. -/
def reasons (m : Bool) (r : Raw) : List Nat :=
  let op := r.op.toNat
  let f := r.f.toNat
  let imm := immOf r
  match opInfo op with
  | none => [0x01]
  | some (_, n) =>
    let stream := rif (isM op != m) 0x09 ++ rif (m && r.s) 0x09
    if n ≤ f then 0x02 :: stream
    else
      let fm := ofRaw r
      stream ++ useReasons fm.d r.d.toNat ++ useReasons fm.a r.a.toNat ++ useReasons fm.b r.b.toNat ++
      ownReasons op f r.d.toNat r.a.toNat r.b.toNat (match r.i with | some w => w.toNat | none => 0) ++
      rif (decide (op = 0x3E) && r.s) 3 ++
      (match r.x with
       | none => []
       | some x =>
         useReasons fm.c x.c.toNat ++ rif (!x.ge && (decide (x.g ≠ 0) || x.gn)) 0x04 ++
         rif (x.l.getLsbD 2 && !isV fm.a) 0x05 ++ rif (x.l.getLsbD 1 && !isV fm.b) 0x05 ++
         rif (x.l.getLsbD 0 && !isV fm.c) 0x05 ++ immReasons op f imm r.b.toNat)

/-- The least of a list of reasons; none where there is none. -/
def least (l : List Nat) : Option Nat :=
  match l with
  | [] => none
  | x :: xs => some (xs.foldl min x)

/-- R167: the lowest reason for which a framed word is no instruction; none where it is one. -/
def check (m : Bool) (r : Raw) : Option Nat := least (reasons m r)

end Forms
end Sys2Proof
end

