-- ==== Sys2Proof/Machine/Raw.lean ====
section
/-!
DEFINITION. The raw words of each instruction (R148, R150, R153): the fields that its constructor carries, with the
opcode and function of the opcode map (R165). Events and one-parcel forms have no base word.
-/

namespace Sys2Proof

/-- A one-word form of a fixed function. -/
def R3.raw (op : BitVec 7) (f : BitVec 3) (r : R3) : Raw := ⟨op, r.s, r.d, r.a, r.b, f, none, none⟩
/-- A one-word form whose F is an operand. -/
def R3F.raw (op : BitVec 7) (r : R3F) : Raw := ⟨op, r.s, r.d, r.a, r.b, r.f, none, none⟩
/-- An X form of a fixed function. -/
def RX.raw (op : BitVec 7) (f : BitVec 3) (r : RX) : Raw := ⟨op, r.s, r.d, r.a, r.b, f, some r.x, none⟩
/-- An X form whose F is an operand. -/
def RXF.raw (op : BitVec 7) (r : RXF) : Raw := ⟨op, r.s, r.d, r.a, r.b, r.f, some r.x, none⟩
/-- An I form of a fixed function. -/
def RI.raw (op : BitVec 7) (f : BitVec 3) (r : RI) : Raw := ⟨op, r.s, r.d, r.a, r.b, f, none, some r.imm⟩
/-- An I form whose F is an operand. -/
def RIF.raw (op : BitVec 7) (r : RIF) : Raw := ⟨op, r.s, r.d, r.a, r.b, r.f, none, some r.imm⟩

/-- The raw words of an instruction; none for an event or a one-parcel form. -/
def rawOf (i : Instr) : Option Raw :=
  match i with
  | .iadd r => some (r.raw 0x00#7 0#3)
  | .isub r => some (r.raw 0x00#7 1#3)
  | .iadds r => some (r.raw 0x00#7 2#3)
  | .isubs r => some (r.raw 0x00#7 3#3)
  | .iaddns r => some (r.raw 0x00#7 4#3)
  | .isubns r => some (r.raw 0x00#7 5#3)
  | .iabsd r => some (r.raw 0x00#7 6#3)
  | .ineg r => some (r.raw 0x00#7 7#3)
  | .iaddi r => some (r.raw 0x01#7 0#3)
  | .irsubi r => some (r.raw 0x01#7 1#3)
  | .imul r => some (r.raw 0x02#7 0#3)
  | .imulhi r => some (r.raw 0x02#7 1#3)
  | .imulhin r => some (r.raw 0x02#7 2#3)
  | .imulw r => some (r.raw 0x02#7 3#3)
  | .imulwn r => some (r.raw 0x02#7 4#3)
  | .imad r => some (r.raw 0x03#7 0#3)
  | .imadw r => some (r.raw 0x03#7 1#3)
  | .imadwn r => some (r.raw 0x03#7 2#3)
  | .idiv r => some (r.raw 0x04#7 0#3)
  | .idivn r => some (r.raw 0x04#7 1#3)
  | .irem r => some (r.raw 0x04#7 2#3)
  | .iremn r => some (r.raw 0x04#7 3#3)
  | .add64 r => some (r.raw 0x05#7 0#3)
  | .sub64 r => some (r.raw 0x05#7 1#3)
  | .neg64 r => some (r.raw 0x05#7 2#3)
  | .icmp64Eq r => some (r.raw 0x05#7 3#3)
  | .icmp64Lt r => some (r.raw 0x05#7 4#3)
  | .icmp64Ltn r => some (r.raw 0x05#7 5#3)
  | .mov64 r => some (r.raw 0x05#7 6#3)
  | .lea r => some (r.raw 0x06#7)
  | .lean r => some (r.raw 0x07#7)
  | .and r => some (r.raw 0x08#7 0#3)
  | .or r => some (r.raw 0x08#7 1#3)
  | .xor r => some (r.raw 0x08#7 2#3)
  | .andn r => some (r.raw 0x08#7 3#3)
  | .orn r => some (r.raw 0x08#7 4#3)
  | .xnor r => some (r.raw 0x08#7 5#3)
  | .not r => some (r.raw 0x08#7 6#3)
  | .mov r => some (r.raw 0x08#7 7#3)
  | .andi r => some (r.raw 0x09#7 0#3)
  | .ori r => some (r.raw 0x09#7 1#3)
  | .xori r => some (r.raw 0x09#7 2#3)
  | .movi r => some (r.raw 0x09#7 3#3)
  | .shl r => some (r.raw 0x0A#7 0#3)
  | .shr r => some (r.raw 0x0A#7 1#3)
  | .sar r => some (r.raw 0x0A#7 2#3)
  | .rotl r => some (r.raw 0x0A#7 3#3)
  | .rotr r => some (r.raw 0x0A#7 4#3)
  | .shl64 r => some (r.raw 0x0A#7 5#3)
  | .shr64 r => some (r.raw 0x0A#7 6#3)
  | .sar64 r => some (r.raw 0x0A#7 7#3)
  | .shli r => some (r.raw 0x0B#7 0#3)
  | .shri r => some (r.raw 0x0B#7 1#3)
  | .sari r => some (r.raw 0x0B#7 2#3)
  | .rotli r => some (r.raw 0x0B#7 3#3)
  | .rotri r => some (r.raw 0x0B#7 4#3)
  | .shli64 r => some (r.raw 0x0B#7 5#3)
  | .shri64 r => some (r.raw 0x0B#7 6#3)
  | .sari64 r => some (r.raw 0x0B#7 7#3)
  | .popc r => some (r.raw 0x0C#7 0#3)
  | .clz r => some (r.raw 0x0C#7 1#3)
  | .ctz r => some (r.raw 0x0C#7 2#3)
  | .brev r => some (r.raw 0x0C#7 3#3)
  | .sext8 r => some (r.raw 0x0C#7 4#3)
  | .sext16 r => some (r.raw 0x0C#7 5#3)
  | .zext8 r => some (r.raw 0x0C#7 6#3)
  | .zext16 r => some (r.raw 0x0C#7 7#3)
  | .bfx r => some (r.raw 0x0D#7 0#3)
  | .bfxi r => some (r.raw 0x0D#7 1#3)
  | .bfi r => some (r.raw 0x0D#7 2#3)
  | .imin r => some (r.raw 0x0E#7 0#3)
  | .imax r => some (r.raw 0x0E#7 1#3)
  | .iminn r => some (r.raw 0x0E#7 2#3)
  | .imaxn r => some (r.raw 0x0E#7 3#3)
  | .icmp r => some (r.raw 0x0F#7)
  | .icmpi r => some (r.raw 0x10#7)
  | .sel r => some (r.raw 0x11#7 0#3)
  | .fadd r => some (r.raw 0x14#7 0#3)
  | .fsub r => some (r.raw 0x14#7 1#3)
  | .fmul r => some (r.raw 0x14#7 2#3)
  | .fmin r => some (r.raw 0x14#7 3#3)
  | .fmax r => some (r.raw 0x14#7 4#3)
  | .fminp r => some (r.raw 0x14#7 5#3)
  | .fmaxp r => some (r.raw 0x14#7 6#3)
  | .faddx r => some (r.raw 0x15#7 0#3)
  | .fsubx r => some (r.raw 0x15#7 1#3)
  | .fmulx r => some (r.raw 0x15#7 2#3)
  | .ffma r => some (r.raw 0x16#7 0#3)
  | .frcp r => some (r.raw 0x17#7 0#3)
  | .frsq r => some (r.raw 0x17#7 1#3)
  | .fsqrt r => some (r.raw 0x17#7 2#3)
  | .fex2 r => some (r.raw 0x17#7 3#3)
  | .flg2 r => some (r.raw 0x17#7 4#3)
  | .fsin r => some (r.raw 0x17#7 5#3)
  | .fcos r => some (r.raw 0x17#7 6#3)
  | .ftanh r => some (r.raw 0x17#7 7#3)
  | .fcmpEq r => some (r.raw 0x18#7 0#3)
  | .fcmpNe r => some (r.raw 0x18#7 1#3)
  | .fcmpLt r => some (r.raw 0x18#7 2#3)
  | .fcmpLe r => some (r.raw 0x18#7 3#3)
  | .fcmpUn r => some (r.raw 0x18#7 4#3)
  | .fclass r => some (r.raw 0x18#7 5#3)
  | .dadd r => some (r.raw 0x19#7 0#3)
  | .dsub r => some (r.raw 0x19#7 1#3)
  | .dmul r => some (r.raw 0x19#7 2#3)
  | .dmin r => some (r.raw 0x19#7 3#3)
  | .dmax r => some (r.raw 0x19#7 4#3)
  | .dfma r => some (r.raw 0x1A#7 0#3)
  | .dsqrt r => some (r.raw 0x1B#7 0#3)
  | .drcp r => some (r.raw 0x1B#7 1#3)
  | .drsq r => some (r.raw 0x1B#7 2#3)
  | .hadd2 r => some (r.raw 0x1C#7 0#3)
  | .hsub2 r => some (r.raw 0x1C#7 1#3)
  | .hmul2 r => some (r.raw 0x1C#7 2#3)
  | .hmin2 r => some (r.raw 0x1C#7 3#3)
  | .hmax2 r => some (r.raw 0x1C#7 4#3)
  | .badd2 r => some (r.raw 0x1D#7 0#3)
  | .bsub2 r => some (r.raw 0x1D#7 1#3)
  | .bmul2 r => some (r.raw 0x1D#7 2#3)
  | .bmin2 r => some (r.raw 0x1D#7 3#3)
  | .bmax2 r => some (r.raw 0x1D#7 4#3)
  | .hfma2 r => some (r.raw 0x1E#7 0#3)
  | .bfma2 r => some (r.raw 0x1E#7 1#3)
  | .hdot2 r => some (r.raw 0x1E#7 2#3)
  | .bdot2 r => some (r.raw 0x1E#7 3#3)
  | .cvt r => some (r.raw 0x1F#7 0#3)
  | .frnd r => some (r.raw 0x1F#7 1#3)
  | .pack8 r => some (r.raw 0x20#7 0#3)
  | .unpack8 r => some (r.raw 0x20#7 1#3)
  | .pack4 r => some (r.raw 0x20#7 2#3)
  | .unpack4 r => some (r.raw 0x20#7 3#3)
  | .bscale r => some (r.raw 0x20#7 4#3)
  | .shfl r => some (r.raw 0x22#7)
  | .voteall r => some (r.raw 0x23#7 0#3)
  | .voteany r => some (r.raw 0x23#7 1#3)
  | .voteuni r => some (r.raw 0x23#7 2#3)
  | .ballot r => some (r.raw 0x23#7 3#3)
  | .matchw r => some (r.raw 0x23#7 4#3)
  | .mread r => some (r.raw 0x23#7 5#3)
  | .mwrite r => some (r.raw 0x23#7 6#3)
  | .srd r => some (r.raw 0x24#7 0#3)
  | .srd64 r => some (r.raw 0x24#7 1#3)
  | .redadd r => some (r.raw 0x25#7 0#3)
  | .redmin r => some (r.raw 0x25#7 1#3)
  | .redmax r => some (r.raw 0x25#7 2#3)
  | .redminn r => some (r.raw 0x25#7 3#3)
  | .redmaxn r => some (r.raw 0x25#7 4#3)
  | .redand r => some (r.raw 0x25#7 5#3)
  | .redor r => some (r.raw 0x25#7 6#3)
  | .redxor r => some (r.raw 0x25#7 7#3)
  | .segadd r => some (r.raw 0x26#7 0#3)
  | .segaddi r => some (r.raw 0x26#7 1#3)
  | .scanadd r => some (r.raw 0x26#7 2#3)
  | .scanaddi r => some (r.raw 0x26#7 3#3)
  | .ld r => some (r.raw 0x28#7)
  | .st r => some (r.raw 0x29#7)
  | .ldl r => some (r.raw 0x2A#7)
  | .stl r => some (r.raw 0x2B#7)
  | .atom r => some (r.raw 0x2C#7)
  | .atomb r => some (r.raw 0x2D#7)
  | .atoml r => some (r.raw 0x2E#7)
  | .red r => some (r.raw 0x2F#7)
  | .fence r => some (r.raw 0x30#7 0#3)
  | .acqx r => some (r.raw 0x30#7 1#3)
  | .acqs r => some (r.raw 0x30#7 2#3)
  | .rel r => some (r.raw 0x30#7 3#3)
  | .bind r => some (r.raw 0x30#7 4#3)
  | .unbind r => some (r.raw 0x30#7 5#3)
  | .pref r => some (r.raw 0x31#7)
  | .smap r => some (r.raw 0x32#7 0#3)
  | .sunmap r => some (r.raw 0x32#7 1#3)
  | .sfill r => some (r.raw 0x32#7 2#3)
  | .sclean r => some (r.raw 0x32#7 3#3)
  | .sdrop r => some (r.raw 0x32#7 4#3)
  | .squery r => some (r.raw 0x32#7 5#3)
  | .sadopt r => some (r.raw 0x32#7 6#3)
  | .hwait r => some (r.raw 0x33#7 0#3)
  | .hstate r => some (r.raw 0x33#7 1#3)
  | .hdrain r => some (r.raw 0x33#7 2#3)
  | .hfree r => some (r.raw 0x33#7 3#3)
  | .htry r => some (r.raw 0x33#7 4#3)
  | .qput r => some (r.raw 0x34#7 0#3)
  | .qget r => some (r.raw 0x34#7 1#3)
  | .qputn r => some (r.raw 0x34#7 2#3)
  | .qgetn r => some (r.raw 0x34#7 3#3)
  | .qcount r => some (r.raw 0x34#7 4#3)
  | .qclose r => some (r.raw 0x34#7 5#3)
  | .waitc r => some (r.raw 0x35#7 0#3)
  | .rdc r => some (r.raw 0x35#7 1#3)
  | .coll r => some (r.raw 0x37#7 0#3)
  | .collt r => some (r.raw 0x37#7 1#3)
  | .ret r => some (r.raw 0x36#7 0#3)
  | .exit r => some (r.raw 0x36#7 1#3)
  | .bra r => some (r.raw 0x38#7 0#3)
  | .bnz r => some (r.raw 0x38#7 1#3)
  | .bz r => some (r.raw 0x38#7 2#3)
  | .call r => some (r.raw 0x38#7 3#3)
  | .brx r => some (r.raw 0x38#7 4#3)
  | .callx r => some (r.raw 0x38#7 5#3)
  | .join r => some (r.raw 0x39#7 0#3)
  | .leave r => some (r.raw 0x39#7 1#3)
  | .waitm r => some (r.raw 0x39#7 2#3)
  | .mset r => some (r.raw 0x39#7 3#3)
  | .mand r => some (r.raw 0x39#7 4#3)
  | .mor r => some (r.raw 0x39#7 5#3)
  | .mclr r => some (r.raw 0x39#7 6#3)
  | .mnot r => some (r.raw 0x39#7 7#3)
  | .meet r => some (r.raw 0x3A#7 0#3)
  | .meetclr r => some (r.raw 0x3A#7 1#3)
  | .bararv r => some (r.raw 0x3B#7 0#3)
  | .barwait r => some (r.raw 0x3B#7 1#3)
  | .barsync r => some (r.raw 0x3B#7 2#3)
  | .bartry r => some (r.raw 0x3B#7 3#3)
  | .qbar r => some (r.raw 0x3B#7 4#3)
  | .dbar r => some (r.raw 0x3B#7 5#3)
  | .pbar r => some (r.raw 0x3B#7 6#3)
  | .tryw r => some (r.raw 0x3C#7 0#3)
  | .trywl r => some (r.raw 0x3C#7 1#3)
  | .win r => some (r.raw 0x3D#7 0#3)
  | .fyield r => some (r.raw 0x3D#7 1#3)
  | .fspawn r => some (r.raw 0x3D#7 2#3)
  | .fstop r => some (r.raw 0x3D#7 3#3)
  | .fbar r => some (r.raw 0x3D#7 4#3)
  | .kill r => some (r.raw 0x3D#7 5#3)
  | .nop r => some (r.raw 0x3D#7 6#3)
  | .rep r => some (r.raw 0x3E#7 0#3)
  | .spawn r => some (r.raw 0x3F#7 0#3)
  | .joinc r => some (r.raw 0x3F#7 1#3)
  | .taskend r => some (r.raw 0x3F#7 2#3)
  | .vdist r => some (r.raw 0x3F#7 3#3)
  | .vdinfo r => some (r.raw 0x3F#7 4#3)
  | .trap r => some (r.raw 0x3F#7 5#3)
  | .brk r => some (r.raw 0x3F#7 6#3)
  | .dictionaryParcel _ => none
  | .brk16 _ => none
  | .sopen r => some (r.raw 0x60#7 0#3)
  | .snext r => some (r.raw 0x60#7 1#3)
  | .stend r => some (r.raw 0x60#7 2#3)
  | .sclose r => some (r.raw 0x60#7 3#3)
  | .sskip r => some (r.raw 0x60#7 4#3)
  | .spos r => some (r.raw 0x60#7 5#3)
  | .gath r => some (r.raw 0x61#7)
  | .scata r => some (r.raw 0x62#7 0#3)
  | .scatai r => some (r.raw 0x62#7 1#3)
  | .scatab r => some (r.raw 0x62#7 2#3)
  | .scatal r => some (r.raw 0x62#7 3#3)
  | .scatali r => some (r.raw 0x62#7 4#3)
  | .scat r => some (r.raw 0x62#7 5#3)
  | .scatmin r => some (r.raw 0x62#7 6#3)
  | .embl r => some (r.raw 0x63#7 0#3)
  | .embu r => some (r.raw 0x63#7 1#3)
  | .embq r => some (r.raw 0x63#7 2#3)
  | .embv r => some (r.raw 0x63#7 3#3)
  | .binc r => some (r.raw 0x64#7 0#3)
  | .bins r => some (r.raw 0x64#7 1#3)
  | .binr r => some (r.raw 0x64#7 2#3)
  | .mshape r => some (r.raw 0x70#7 0#3)
  | .mfmt r => some (r.raw 0x70#7 1#3)
  | .mqadd r => some (r.raw 0x70#7 2#3)
  | .mqset r => some (r.raw 0x77#7 0#3)
  | .mwld r => some (r.raw 0x71#7)
  | .mma r => some (r.raw 0x72#7 0#3)
  | .mmz r => some (r.raw 0x72#7 1#3)
  | .mmas r => some (r.raw 0x72#7 2#3)
  | .mst r => some (r.raw 0x73#7 0#3)
  | .mstadd r => some (r.raw 0x73#7 1#3)
  | .mstatom r => some (r.raw 0x73#7 2#3)
  | .mldt r => some (r.raw 0x73#7 3#3)
  | .mzero r => some (r.raw 0x73#7 4#3)
  | .marv r => some (r.raw 0x74#7 0#3)
  | .mwait r => some (r.raw 0x74#7 1#3)
  | .mjmp r => some (r.raw 0x75#7 0#3)
  | .mloop r => some (r.raw 0x75#7 1#3)
  | .mend r => some (r.raw 0x76#7 0#3)
  | .mscale r => some (r.raw 0x76#7 1#3)
  | .mact r => some (r.raw 0x76#7 2#3)
  | .mrowmax r => some (r.raw 0x76#7 3#3)
  | .mrowsum r => some (r.raw 0x76#7 4#3)
  | .ctxnew r => some (r.raw 0x7C#7 0#3)
  | .ctxgrant r => some (r.raw 0x7C#7 1#3)
  | .ctxtake r => some (r.raw 0x7C#7 2#3)
  | .ctxrun r => some (r.raw 0x7C#7 3#3)
  | .ctxstop r => some (r.raw 0x7C#7 4#3)
  | .ctxrevoke r => some (r.raw 0x7C#7 5#3)
  | .ctxqry r => some (r.raw 0x7C#7 6#3)
  | .ctxmap r => some (r.raw 0x7C#7 7#3)
  | .ctxmapUnmap r => some (r.raw 0x7C#7 7#3)
  | .trapret r => some (r.raw 0x7D#7 0#3)
  | .trapfwd r => some (r.raw 0x7D#7 1#3)
  | .trapinfo r => some (r.raw 0x7D#7 2#3)
  | .tlbinv r => some (r.raw 0x7E#7 0#3)
  | .icinv r => some (r.raw 0x7E#7 1#3)
  | .dctinv r => some (r.raw 0x7E#7 2#3)
  | .profOpen r => some (r.raw 0x7E#7 3#3)
  | .profRead r => some (r.raw 0x7E#7 3#3)
  | .profClose r => some (r.raw 0x7E#7 3#3)
  | .profExport r => some (r.raw 0x7E#7 3#3)
  | .profImport r => some (r.raw 0x7E#7 3#3)
  | .trialStart r => some (r.raw 0x7E#7 4#3)
  | .trialRead r => some (r.raw 0x7E#7 4#3)
  | .trialAbort r => some (r.raw 0x7E#7 4#3)
  | .srw r => some (r.raw 0x7F#7 0#3)
  | .srr r => some (r.raw 0x7F#7 1#3)
  | .qdescWrite _ _ _ => none
  | .lendWrite _ _ _ => none
  | .groupWrite _ _ _ => none
  | .handlerTaskPush => none
  | .queueEntryExamine _ _ => none
  | .queueHeaderPoll _ _ => none
  | .blockPlacement _ _ => none
  | .inputCopyComplete _ _ => none
  | .blockStart _ => none
  | .registerResultReturn _ _ _ => none
  | .chunkRefillComplete _ _ _ => none
  | .forcedSwitch _ _ _ => none
  | .groupSelect _ _ _ => none
  | .blockRetire _ => none
  | .outputDrainComplete _ _ => none
  | .continuationPush => none
  | .tlbMissWalk _ _ _ _ => none
  | .faultExamine _ _ _ => none
  | .stashFillReturn _ _ => none
  | .stashOwnershipGrant _ _ => none
  | .stashInvalidate _ _ => none
  | .stashRecall _ _ => none
  | .stashCapacityEviction _ _ => none
  | .retrieverOpComplete _ => none
  | .atomicUpdateComplete _ => none
  | .stashOpComplete _ => none
  | .collectiveStepComplete _ => none
  | .binningComplete _ => none
  | .scatterWindowClose _ _ _ => none
  | .scatterWindowApply _ => none
  | .trywRecheck _ _ _ => none
  | .trywPoll _ _ _ => none
  | .trywTimeout _ _ _ _ => none
  | .forcedPreemption _ => none
  | .blockSave _ => none
  | .sliceBoundary _ => none
  | .priorityAging _ _ => none
  | .quadReclaim _ _ _ => none
  | .revocation _ => none
  | .mscRetag _ => none
  | .functionLevelReset _ => none
  | .migration _ _ _ => none
  | .remoteMapExpiry _ _ => none
  | .pageRetire _ => none
  | .memoryErrorDetect _ => none
  | .mscLossExamine => none
  | .sweeperWayClear _ _ => none
  | .patrolScrub _ => none
  | .errorRecordDelivery => none
  | .correctedEventFold => none
  | .linkDown _ => none
  | .hostWrite _ => none
  | .hostRead _ => none
  | .hostCompletion _ _ => none
  | .peerRequest _ => none
  | .whistleFlit _ => none
  | .whistleGo _ _ _ => none
  | .whistleAbort _ _ _ => none
  | .whistleTimeout _ _ => none
  | .profileSample _ _ => none
  | .trialEpochEnd _ => none
  | .packageReset => none
  | .ownerLapse => none
  | .handoverTimeout => none
  | .powerControl _ => none
  | .thermalThrottle _ _ => none
  | .thermalRecover _ _ => none
  | .thermalTrip _ _ => none
  | .claim _ => none
  | .handover _ => none
  | .accept _ => none
  | .release _ => none
  | .statusq _ => none
  | .imgload _ => none
  | .imgcommit _ => none
  | .config _ => none
  | .commit _ => none
  | .evring _ => none
  | .telem _ => none
  | .plimit _ => none
  | .preset _ => none
  | .hreset _ => none
  | .sliceset _ => none
  | .mtrapResume _ => none
  | .mtrapEnd _ => none
  | .mtrapRead _ => none
  | .mtrapNext _ => none
  | .rootsrWrite _ => none
  | .rootsrRead _ => none
  | .migdecl _ => none
  | .migundecl _ => none
  | .migreq _ => none
  | .miggrant _ => none
  | .getVersion _ => none
  | .getCapabilities _ => none
  | .negotiateAlgorithms _ => none
  | .getDigests _ => none
  | .getCertificate _ => none
  | .challenge _ => none
  | .getMeasurements _ => none
  | .keyExchange _ => none
  | .finish _ => none
  | .heartbeat _ => none
  | .keyUpdate _ => none
  | .endSession _ => none
  | .getTdispVersion _ => none
  | .getTdispCapabilities _ => none
  | .lockInterfaceRequest _ => none
  | .getDeviceInterfaceReport _ => none
  | .getDeviceInterfaceState _ => none
  | .startInterfaceRequest _ => none
  | .stopInterfaceRequest _ => none
  | .completionTimeout _ => none
  | .accessPerformed _ => none
  | .powerLoss => none
  | .linkUp _ => none

end Sys2Proof
end

