-- ==== Sys2Proof/WellFormed.lean ====
section
/-!
DEFINITION. Well-formed instructions: those whose fields match no row of R167 in their own stream (R164). A one-parcel
form is well formed when bit 13 of BRK16 is 0 (R158). Events carry no encoding.
-/

namespace Sys2Proof

/-- The lowest reason of R167 for which an instruction is no instruction; none where it is one. -/
def illFormed (i : Instr) : Option Nat :=
  match i with
  | .brk16 p => if p.s then some 0x03 else none
  | j =>
    match rawOf j with
    | none => none
    | some r => Forms.check (Forms.isM r.op.toNat) r

/-- An instruction that raises no illegal-encoding trap in its own stream (R167). -/
def wf (i : Instr) : Bool := (illFormed i).isNone

end Sys2Proof
end

