-- ==== Sys2Proof/Decode.lean ====
section
/-!
DEFINITION. Decoding of parcels (R144, R145, R155) and, after it, the encoder. Decoding is total on any parcels: it
answers an instruction with its length in parcels, or the lowest reason of R167. The functions that build an `Instr` are
marked noncomputable for one reason only: the compiler numbers at most 244 constructors of a type, and the opcode table has
419 rows. Lean's kernel evaluates them on numerals all the same.
-/

namespace Sys2Proof

/-- R144: the word of two parcels, the one at the lower address in bits 31:16. -/
def wordOf (hi lo : Parcel16) : Word := hi ++ lo

/-- R148: the fields of a base word. -/
def rawWord (w : Word) (x : Option Xc) (i : Option Word) : Raw :=
  { op := w.extractLsb' 25 7, s := w.getLsbD 24, d := w.extractLsb' 17 7, a := w.extractLsb' 10 7,
    b := w.extractLsb' 3 7, f := w.extractLsb' 0 3, x := x, i := i }

/-- R150: the fields of an X-ctl word. -/
def xcWord (w : Word) : Xc :=
  { c := w.extractLsb' 25 7, g := w.extractLsb' 18 7, ge := w.getLsbD 17, gn := w.getLsbD 16,
    l := w.extractLsb' 13 3, imm := w.extractLsb' 0 13 }

/-- The one-word instruction of an opcode and a function (R165); none where it is not mapped. -/
noncomputable def buildOne (op : Nat) (f : BitVec 3) (s : Bool) (d a b : Fld) : Option Instr :=
  let r : R3 := ⟨s, d, a, b⟩
  let rf : R3F := ⟨s, d, a, b, f⟩
  match op, f.toNat with
  | 0x00, 0 => some (.iadd r)
  | 0x00, 1 => some (.isub r)
  | 0x00, 2 => some (.iadds r)
  | 0x00, 3 => some (.isubs r)
  | 0x00, 4 => some (.iaddns r)
  | 0x00, 5 => some (.isubns r)
  | 0x00, 6 => some (.iabsd r)
  | 0x00, 7 => some (.ineg r)
  | 0x02, 0 => some (.imul r)
  | 0x02, 1 => some (.imulhi r)
  | 0x02, 2 => some (.imulhin r)
  | 0x02, 3 => some (.imulw r)
  | 0x02, 4 => some (.imulwn r)
  | 0x04, 0 => some (.idiv r)
  | 0x04, 1 => some (.idivn r)
  | 0x04, 2 => some (.irem r)
  | 0x04, 3 => some (.iremn r)
  | 0x05, 0 => some (.add64 r)
  | 0x05, 1 => some (.sub64 r)
  | 0x05, 2 => some (.neg64 r)
  | 0x05, 3 => some (.icmp64Eq r)
  | 0x05, 4 => some (.icmp64Lt r)
  | 0x05, 5 => some (.icmp64Ltn r)
  | 0x05, 6 => some (.mov64 r)
  | 0x08, 0 => some (.and r)
  | 0x08, 1 => some (.or r)
  | 0x08, 2 => some (.xor r)
  | 0x08, 3 => some (.andn r)
  | 0x08, 4 => some (.orn r)
  | 0x08, 5 => some (.xnor r)
  | 0x08, 6 => some (.not r)
  | 0x08, 7 => some (.mov r)
  | 0x0A, 0 => some (.shl r)
  | 0x0A, 1 => some (.shr r)
  | 0x0A, 2 => some (.sar r)
  | 0x0A, 3 => some (.rotl r)
  | 0x0A, 4 => some (.rotr r)
  | 0x0A, 5 => some (.shl64 r)
  | 0x0A, 6 => some (.shr64 r)
  | 0x0A, 7 => some (.sar64 r)
  | 0x0B, 0 => some (.shli r)
  | 0x0B, 1 => some (.shri r)
  | 0x0B, 2 => some (.sari r)
  | 0x0B, 3 => some (.rotli r)
  | 0x0B, 4 => some (.rotri r)
  | 0x0B, 5 => some (.shli64 r)
  | 0x0B, 6 => some (.shri64 r)
  | 0x0B, 7 => some (.sari64 r)
  | 0x0C, 0 => some (.popc r)
  | 0x0C, 1 => some (.clz r)
  | 0x0C, 2 => some (.ctz r)
  | 0x0C, 3 => some (.brev r)
  | 0x0C, 4 => some (.sext8 r)
  | 0x0C, 5 => some (.sext16 r)
  | 0x0C, 6 => some (.zext8 r)
  | 0x0C, 7 => some (.zext16 r)
  | 0x0E, 0 => some (.imin r)
  | 0x0E, 1 => some (.imax r)
  | 0x0E, 2 => some (.iminn r)
  | 0x0E, 3 => some (.imaxn r)
  | 0x0F, _ => some (.icmp rf)
  | 0x14, 0 => some (.fadd r)
  | 0x14, 1 => some (.fsub r)
  | 0x14, 2 => some (.fmul r)
  | 0x14, 3 => some (.fmin r)
  | 0x14, 4 => some (.fmax r)
  | 0x14, 5 => some (.fminp r)
  | 0x14, 6 => some (.fmaxp r)
  | 0x17, 0 => some (.frcp r)
  | 0x17, 1 => some (.frsq r)
  | 0x17, 2 => some (.fsqrt r)
  | 0x17, 3 => some (.fex2 r)
  | 0x17, 4 => some (.flg2 r)
  | 0x17, 5 => some (.fsin r)
  | 0x17, 6 => some (.fcos r)
  | 0x17, 7 => some (.ftanh r)
  | 0x18, 0 => some (.fcmpEq r)
  | 0x18, 1 => some (.fcmpNe r)
  | 0x18, 2 => some (.fcmpLt r)
  | 0x18, 3 => some (.fcmpLe r)
  | 0x18, 4 => some (.fcmpUn r)
  | 0x18, 5 => some (.fclass r)
  | 0x19, 0 => some (.dadd r)
  | 0x19, 1 => some (.dsub r)
  | 0x19, 2 => some (.dmul r)
  | 0x19, 3 => some (.dmin r)
  | 0x19, 4 => some (.dmax r)
  | 0x1B, 0 => some (.dsqrt r)
  | 0x1B, 1 => some (.drcp r)
  | 0x1B, 2 => some (.drsq r)
  | 0x1C, 0 => some (.hadd2 r)
  | 0x1C, 1 => some (.hsub2 r)
  | 0x1C, 2 => some (.hmul2 r)
  | 0x1C, 3 => some (.hmin2 r)
  | 0x1C, 4 => some (.hmax2 r)
  | 0x1D, 0 => some (.badd2 r)
  | 0x1D, 1 => some (.bsub2 r)
  | 0x1D, 2 => some (.bmul2 r)
  | 0x1D, 3 => some (.bmin2 r)
  | 0x1D, 4 => some (.bmax2 r)
  | 0x23, 0 => some (.voteall r)
  | 0x23, 1 => some (.voteany r)
  | 0x23, 2 => some (.voteuni r)
  | 0x23, 3 => some (.ballot r)
  | 0x23, 4 => some (.matchw r)
  | 0x23, 5 => some (.mread r)
  | 0x23, 6 => some (.mwrite r)
  | 0x24, 0 => some (.srd r)
  | 0x24, 1 => some (.srd64 r)
  | 0x25, 0 => some (.redadd r)
  | 0x25, 1 => some (.redmin r)
  | 0x25, 2 => some (.redmax r)
  | 0x25, 3 => some (.redminn r)
  | 0x25, 4 => some (.redmaxn r)
  | 0x25, 5 => some (.redand r)
  | 0x25, 6 => some (.redor r)
  | 0x25, 7 => some (.redxor r)
  | 0x26, 0 => some (.segadd r)
  | 0x26, 1 => some (.segaddi r)
  | 0x26, 2 => some (.scanadd r)
  | 0x26, 3 => some (.scanaddi r)
  | 0x30, 0 => some (.fence r)
  | 0x30, 1 => some (.acqx r)
  | 0x30, 2 => some (.acqs r)
  | 0x30, 3 => some (.rel r)
  | 0x30, 4 => some (.bind r)
  | 0x30, 5 => some (.unbind r)
  | 0x32, 0 => some (.smap r)
  | 0x32, 1 => some (.sunmap r)
  | 0x32, 2 => some (.sfill r)
  | 0x32, 3 => some (.sclean r)
  | 0x32, 4 => some (.sdrop r)
  | 0x32, 5 => some (.squery r)
  | 0x32, 6 => some (.sadopt r)
  | 0x33, 0 => some (.hwait r)
  | 0x33, 1 => some (.hstate r)
  | 0x33, 2 => some (.hdrain r)
  | 0x33, 3 => some (.hfree r)
  | 0x33, 4 => some (.htry r)
  | 0x34, 0 => some (.qput r)
  | 0x34, 1 => some (.qget r)
  | 0x34, 2 => some (.qputn r)
  | 0x34, 3 => some (.qgetn r)
  | 0x34, 4 => some (.qcount r)
  | 0x34, 5 => some (.qclose r)
  | 0x35, 0 => some (.waitc r)
  | 0x35, 1 => some (.rdc r)
  | 0x36, 0 => some (.ret r)
  | 0x36, 1 => some (.exit r)
  | 0x39, 0 => some (.join r)
  | 0x39, 1 => some (.leave r)
  | 0x39, 2 => some (.waitm r)
  | 0x39, 3 => some (.mset r)
  | 0x39, 4 => some (.mand r)
  | 0x39, 5 => some (.mor r)
  | 0x39, 6 => some (.mclr r)
  | 0x39, 7 => some (.mnot r)
  | 0x3B, 0 => some (.bararv r)
  | 0x3B, 1 => some (.barwait r)
  | 0x3B, 2 => some (.barsync r)
  | 0x3B, 3 => some (.bartry r)
  | 0x3B, 4 => some (.qbar r)
  | 0x3B, 5 => some (.dbar r)
  | 0x3B, 6 => some (.pbar r)
  | 0x3D, 0 => some (.win r)
  | 0x3D, 1 => some (.fyield r)
  | 0x3D, 2 => some (.fspawn r)
  | 0x3D, 3 => some (.fstop r)
  | 0x3D, 4 => some (.fbar r)
  | 0x3D, 5 => some (.kill r)
  | 0x3D, 6 => some (.nop r)
  | 0x3E, 0 => some (.rep r)
  | 0x3F, 0 => some (.spawn r)
  | 0x3F, 1 => some (.joinc r)
  | 0x3F, 2 => some (.taskend r)
  | 0x3F, 3 => some (.vdist r)
  | 0x3F, 4 => some (.vdinfo r)
  | 0x3F, 5 => some (.trap r)
  | 0x3F, 6 => some (.brk r)
  | 0x60, 0 => some (.sopen r)
  | 0x60, 1 => some (.snext r)
  | 0x60, 2 => some (.stend r)
  | 0x60, 3 => some (.sclose r)
  | 0x60, 4 => some (.sskip r)
  | 0x60, 5 => some (.spos r)
  | 0x64, 0 => some (.binc r)
  | 0x64, 1 => some (.bins r)
  | 0x64, 2 => some (.binr r)
  | 0x70, 0 => some (.mshape r)
  | 0x70, 1 => some (.mfmt r)
  | 0x70, 2 => some (.mqadd r)
  | 0x71, _ => some (.mwld rf)
  | 0x72, 0 => some (.mma r)
  | 0x72, 1 => some (.mmz r)
  | 0x72, 2 => some (.mmas r)
  | 0x73, 0 => some (.mst r)
  | 0x73, 1 => some (.mstadd r)
  | 0x73, 2 => some (.mstatom r)
  | 0x73, 3 => some (.mldt r)
  | 0x73, 4 => some (.mzero r)
  | 0x74, 0 => some (.marv r)
  | 0x74, 1 => some (.mwait r)
  | 0x76, 0 => some (.mend r)
  | 0x76, 1 => some (.mscale r)
  | 0x76, 2 => some (.mact r)
  | 0x76, 3 => some (.mrowmax r)
  | 0x76, 4 => some (.mrowsum r)
  | 0x7C, 0 => some (.ctxnew r)
  | 0x7C, 1 => some (.ctxgrant r)
  | 0x7C, 2 => some (.ctxtake r)
  | 0x7C, 3 => some (.ctxrun r)
  | 0x7C, 4 => some (.ctxstop r)
  | 0x7C, 5 => some (.ctxrevoke r)
  | 0x7C, 6 => some (.ctxqry r)
  | 0x7C, 7 => some (.ctxmap r)
  | 0x7D, 0 => some (.trapret r)
  | 0x7D, 1 => some (.trapfwd r)
  | 0x7D, 2 => some (.trapinfo r)
  | 0x7E, 0 => some (.tlbinv r)
  | 0x7E, 1 => some (.icinv r)
  | 0x7E, 2 => some (.dctinv r)
  | 0x7E, 3 => some (.profOpen r)
  | 0x7E, 4 => some (.trialStart r)
  | 0x7F, 0 => some (.srw r)
  | 0x7F, 1 => some (.srr r)
  | _, _ => none

/-- The X form of an opcode and a function (R165). -/
noncomputable def buildX (op : Nat) (f : BitVec 3) (s : Bool) (d a b : Fld) (x : Xc) : Option Instr :=
  let r : RX := ⟨s, d, a, b, x⟩
  let rf : RXF := ⟨s, d, a, b, f, x⟩
  match op, f.toNat with
  | 0x03, 0 => some (.imad r)
  | 0x03, 1 => some (.imadw r)
  | 0x03, 2 => some (.imadwn r)
  | 0x06, _ => some (.lea rf)
  | 0x07, _ => some (.lean rf)
  | 0x0D, 0 => some (.bfx r)
  | 0x0D, 1 => some (.bfxi r)
  | 0x0D, 2 => some (.bfi r)
  | 0x11, 0 => some (.sel r)
  | 0x15, 0 => some (.faddx r)
  | 0x15, 1 => some (.fsubx r)
  | 0x15, 2 => some (.fmulx r)
  | 0x16, 0 => some (.ffma r)
  | 0x1A, 0 => some (.dfma r)
  | 0x1E, 0 => some (.hfma2 r)
  | 0x1E, 1 => some (.bfma2 r)
  | 0x1E, 2 => some (.hdot2 r)
  | 0x1E, 3 => some (.bdot2 r)
  | 0x1F, 0 => some (.cvt r)
  | 0x1F, 1 => some (.frnd r)
  | 0x20, 0 => some (.pack8 r)
  | 0x20, 1 => some (.unpack8 r)
  | 0x20, 2 => some (.pack4 r)
  | 0x20, 3 => some (.unpack4 r)
  | 0x20, 4 => some (.bscale r)
  | 0x22, _ => some (.shfl rf)
  | 0x28, _ => some (.ld rf)
  | 0x29, _ => some (.st rf)
  | 0x2A, _ => some (.ldl rf)
  | 0x2B, _ => some (.stl rf)
  | 0x2C, _ => some (.atom rf)
  | 0x2D, _ => some (.atomb rf)
  | 0x2E, _ => some (.atoml rf)
  | 0x2F, _ => some (.red rf)
  | 0x31, _ => some (.pref rf)
  | 0x37, 0 => some (.coll r)
  | 0x37, 1 => some (.collt r)
  | 0x3C, 0 => some (.tryw r)
  | 0x3C, 1 => some (.trywl r)
  | 0x61, _ => some (.gath rf)
  | 0x62, 0 => some (.scata r)
  | 0x62, 1 => some (.scatai r)
  | 0x62, 2 => some (.scatab r)
  | 0x62, 3 => some (.scatal r)
  | 0x62, 4 => some (.scatali r)
  | 0x62, 5 => some (.scat r)
  | 0x62, 6 => some (.scatmin r)
  | 0x63, 0 => some (.embl r)
  | 0x63, 1 => some (.embu r)
  | 0x63, 2 => some (.embq r)
  | 0x63, 3 => some (.embv r)
  | _, _ => none

/-- The I form of an opcode and a function (R165). -/
noncomputable def buildI (op : Nat) (f : BitVec 3) (s : Bool) (d a b : Fld) (i : Word) : Option Instr :=
  let r : RI := ⟨s, d, a, b, i⟩
  let rf : RIF := ⟨s, d, a, b, f, i⟩
  match op, f.toNat with
  | 0x01, 0 => some (.iaddi r)
  | 0x01, 1 => some (.irsubi r)
  | 0x09, 0 => some (.andi r)
  | 0x09, 1 => some (.ori r)
  | 0x09, 2 => some (.xori r)
  | 0x09, 3 => some (.movi r)
  | 0x10, _ => some (.icmpi rf)
  | 0x38, 0 => some (.bra r)
  | 0x38, 1 => some (.bnz r)
  | 0x38, 2 => some (.bz r)
  | 0x38, 3 => some (.call r)
  | 0x38, 4 => some (.brx r)
  | 0x38, 5 => some (.callx r)
  | 0x3A, 0 => some (.meet r)
  | 0x3A, 1 => some (.meetclr r)
  | 0x77, 0 => some (.mqset r)
  | 0x75, 0 => some (.mjmp r)
  | 0x75, 1 => some (.mloop r)
  | _, _ => none

/-- The instruction of raw words (R165). -/
noncomputable def build (r : Raw) : Option Instr :=
  match r.x, r.i with
  | some x, _ => buildX r.op.toNat r.f r.s r.d r.a r.b x
  | none, some i => buildI r.op.toNat r.f r.s r.d r.a r.b i
  | none, none => buildOne r.op.toNat r.f r.s r.d r.a r.b

/-- The raw words of a base word and the word after it, by the length of its opcode (R145); none where it is reserved. -/
def frame (w ext : Word) : Option (Raw × Nat) :=
  match Forms.opInfo (w.extractLsb' 25 7).toNat with
  | none => none
  | some (.one, _) => some (rawWord w none none, 2)
  | some (.x, _) => some (rawWord w (some (xcWord ext)) none, 4)
  | some (.i, _) => some (rawWord w none (some ext), 4)

/-- Decoding of a base word with the word after it, in the lane stream or the M-stream (R164): the instruction with its
length in parcels, or the lowest reason of R167. -/
noncomputable def decodeWord (m : Bool) (w ext : Word) : Except Nat (Instr × Nat) :=
  match frame w ext with
  | none => .error 0x01
  | some (r, n) =>
    match Forms.check m r with
    | some k => .error k
    | none =>
      match build r with
      | some i => .ok (i, n)
      | none => .error 0x02

/-- R155, R158: decoding of a parcel whose bits 15:14 are 0b10. -/
noncomputable def decodeParcel (p : Parcel16) : Except Nat (Instr × Nat) :=
  let r : Parcel := ⟨p.getLsbD 13, p.extractLsb' 0 10⟩
  match (p.extractLsb' 10 3).toNat with
  | 0 => .ok (.dictionaryParcel r, 1)
  | 7 => if r.s then .error 0x03 else .ok (.brk16 r, 1)
  | _ => .error 0x06

/-- R145: whether a first parcel is a dictionary parcel or BRK16. -/
def isShort (p : Parcel16) : Bool := p.extractLsb' 14 2 == 0b10#2

/-- R145, R164, R167: decoding at a first parcel `p0` with the three parcels after it. -/
noncomputable def decode4 (m : Bool) (p0 p1 p2 p3 : Parcel16) : Except Nat (Instr × Nat) :=
  if isShort p0 then
    match decodeParcel p0 with
    | .error k => .error k
    | .ok r => if m then .error 0x09 else .ok r
  else decodeWord m (wordOf p0 p1) (wordOf p2 p3)

/-- Decoding of a list of bytes (R6, R144), the first at the lowest address: the instruction and the bytes after it. Bytes
that end inside the instruction are refused with reason 0. -/
noncomputable def decode (m : Bool) (bs : List Byte) : Except Nat (Instr × List Byte) :=
  let par (k : Nat) : Parcel16 := (bs.getD (2 * k + 1) 0) ++ (bs.getD (2 * k) 0)
  match decode4 m (par 0) (par 1) (par 2) (par 3) with
  | .error e => .error e
  | .ok (i, n) => if 2 * n ≤ bs.length then .ok (i, bs.drop (2 * n)) else .error 0

/-- R144, R148: the base word of raw fields. -/
def encodeBase (r : Raw) : Word := r.op ++ BitVec.ofBool r.s ++ r.d ++ r.a ++ r.b ++ r.f

/-- R150: the X-ctl word. -/
def encodeXc (x : Xc) : Word := x.c ++ x.g ++ BitVec.ofBool x.ge ++ BitVec.ofBool x.gn ++ x.l ++ x.imm

/-- R144: the two parcels of a word. -/
def parcelsOf (w : Word) : List Parcel16 := [w.extractLsb' 16 16, w.extractLsb' 0 16]

/-- The encoder: the parcels of an instruction, in address order (R144, R150, R153, R155). An event has none. -/
def encode (i : Instr) : List Parcel16 :=
  match i with
  | .dictionaryParcel p => [(0b10#2) ++ BitVec.ofBool p.s ++ (0b000#3) ++ p.index]
  | .brk16 p => [(0b10#2) ++ BitVec.ofBool p.s ++ (0b111#3) ++ p.index]
  | j =>
    match rawOf j with
    | none => []
    | some r =>
      parcelsOf (encodeBase r) ++
      (match r.x, r.i with
       | some x, _ => parcelsOf (encodeXc x)
       | none, some w => parcelsOf w
       | none, none => [])

/-- The instruction that a row's word decodes to: rows that share a word decode to the first of them (R406, R475, R480). -/
noncomputable def canon (i : Instr) : Instr :=
  match i with
  | .ctxmapUnmap r => .ctxmap r
  | .profRead r => .profOpen r
  | .profClose r => .profOpen r
  | .profExport r => .profOpen r
  | .profImport r => .profOpen r
  | .trialRead r => .trialStart r
  | .trialAbort r => .trialStart r
  | j => j

/-- What the decoder reads from the bits of an opcode-table row: bits 31:0 are the base word (a one-parcel row has 16
bits), the bits above are the extension word. -/
noncomputable def decodeTableWord (nbits w : Nat) : Option Instr :=
  let base := BitVec.ofNat 32 w
  let ext := BitVec.ofNat 32 (w / 2 ^ 32)
  let r :=
    if nbits ≤ 16 then decode4 false (BitVec.ofNat 16 w) (BitVec.ofNat 16 (w / 2 ^ 16)) 0 0
    else decodeWord (Forms.isM (base.extractLsb' 25 7).toNat) base ext
  match r with
  | .ok (i, _) => some i
  | .error _ => none

end Sys2Proof
end

