-- ==== Sys2Proof/Machine/Data.lean ====
section
/-!
DEFINITION. Plain data: maps from numbers as sorted lists, bytes at addresses as sorted lists of cells, and the reading of
bytes as little-endian numbers (R6).
-/

namespace Sys2Proof.Machine

/-- A finite map from numbers, in rising order of its keys. -/
abbrev Map (α : Type) := List (Nat × α)

/-- The value of a key. -/
def mget {α : Type} (m : Map α) (k : Nat) : Option α :=
  match m with
  | [] => none
  | (j, v) :: r => if j = k then some v else mget r k

/-- The map with a key set. -/
def mset {α : Type} (m : Map α) (k : Nat) (v : α) : Map α :=
  match m with
  | [] => [(k, v)]
  | (j, w) :: r => if j = k then (k, v) :: r else if k < j then (k, v) :: (j, w) :: r else (j, w) :: mset r k v

/-- The map without a key. -/
def mdel {α : Type} (m : Map α) (k : Nat) : Map α := m.filter (fun p => !(p.1 == k))

/-- The map with the value of a present key changed. -/
def mupd {α : Type} (m : Map α) (k : Nat) (g : α → α) : Map α := m.map (fun p => if p.1 = k then (p.1, g p.2) else p)

/-- The value of a key, or a default. -/
def mgetD {α : Type} (m : Map α) (k : Nat) (v : α) : α := (mget m k).getD v

/-- A key above every key of the map. -/
def mfresh {α : Type} (m : Map α) : Nat := (m.map (·.1)).foldl (fun a k => max a (k + 1)) 0

/-- A list with one entry changed. -/
def lset {α : Type} (l : List α) (k : Nat) (v : α) : List α := l.set k v

/-- A list with one entry changed by a function. -/
def lupd {α : Type} (l : List α) (k : Nat) (g : α → α) : List α := l.modify k g

/-- Bytes at addresses: addresses rise strictly and no listed byte is 0, what an unlisted address reads as. -/
abbrev Memory := List Host.Cell

/-- The canonical form of a memory. -/
def Memory.wf (m : Memory) : Bool :=
  match m with
  | [] => true
  | c :: r => decide (c.2 ≠ 0) && r.all (fun d => decide (c.1 < d.1)) && Memory.wf r

/-- The byte at an address. -/
def Memory.rd (m : Memory) (a : Nat) : Byte :=
  match m with
  | [] => 0
  | c :: r => if c.1 = a then c.2 else Memory.rd r a

/-- The memory with the byte at an address set. -/
def Memory.wr (m : Memory) (a : Nat) (b : Byte) : Memory :=
  match m with
  | [] => if b = 0 then [] else [(a, b)]
  | c :: r =>
    if c.1 = a then (if b = 0 then r else (a, b) :: r)
    else if a < c.1 then (if b = 0 then c :: r else (a, b) :: c :: r)
    else c :: Memory.wr r a b

/-- The bytes from an address, the lowest address first. -/
def Memory.rdN (m : Memory) (a n : Nat) : List Byte :=
  match n with
  | 0 => []
  | k + 1 => Memory.rd m a :: Memory.rdN m (a + 1) k

/-- The memory with bytes written from an address. -/
def Memory.wrN (m : Memory) (a : Nat) (bs : List Byte) : Memory :=
  match bs with
  | [] => m
  | b :: r => Memory.wrN (Memory.wr m a b) (a + 1) r

/-- The memory with every byte of a range at 0. -/
def Memory.zero (m : Memory) (a n : Nat) : Memory := m.filter (fun c => !(decide (a ≤ c.1) && decide (c.1 < a + n)))

/-- R6: the number of a list of bytes, little-endian. -/
def leNat (bs : List Byte) : Nat :=
  match bs with
  | [] => 0
  | b :: r => b.toNat + 256 * leNat r

/-- R6: the first `n` bytes of a number, little-endian. -/
def natLe (n x : Nat) : List Byte :=
  match n with
  | 0 => []
  | k + 1 => BitVec.ofNat 8 x :: natLe k (x / 256)

/-- Bits `hi` to `lo` of a number (R10). -/
def bits (x hi lo : Nat) : Nat := x / 2 ^ lo % 2 ^ (hi + 1 - lo)

/-- One bit of a number. -/
def bit (x k : Nat) : Bool := x.testBit k

/-- The lanes 0 to 31. -/
def lanes32 : List Nat := List.range 32

/-- The lanes of a mask word, ascending. -/
def lanesOf (w : Nat) : List Nat := lanes32.filter (fun l => w.testBit l)

/-- The mask word of a set of lanes. -/
def maskOf (ls : List Nat) : Nat := lanes32.foldl (fun a l => if ls.contains l then a + 2 ^ l else a) 0

/-- The lowest of a set of lanes in ascending order; 0 where there is none. -/
def lowest (ls : List Nat) : Nat := ls.headD 0

/-- The 1-bits of a number below 2^64. -/
def popcount (x : Nat) : Nat := ((List.range 64).filter (fun k => x.testBit k)).length

end Sys2Proof.Machine
end

