-- ==== Sys2Proof/Machine/Flags.lean ====
section
/-!
DEFINITION. Predicates as words. This hardware has no flag register: a comparison or a vote writes a word (R53, R178).
-/

namespace Sys2Proof.Machine

/-- R178: the word of a comparison or a vote. -/
def flag (b : Bool) : Word := if b then 1 else 0

/-- R53: a predicate word is true. -/
def holds (w : Word) : Bool := decide (w ≠ 0)

/-- R192: the condition of ICMP and ICMPI. -/
def intCond (f : Nat) (a b : Word) : Bool :=
  match f with
  | 0 => decide (a = b)
  | 1 => decide (a ≠ b)
  | 2 => decide (a.toInt < b.toInt)
  | 3 => decide (a.toInt ≤ b.toInt)
  | 4 => decide (a.toNat < b.toNat)
  | 5 => decide (a.toNat ≤ b.toNat)
  | 6 => decide (a &&& b ≠ 0)
  | _ => decide (a &&& b = 0)

end Sys2Proof.Machine
end

