-- ==== Sys2Proof/Config.lean ====
section
/-!
DEFINITION. What an implementation fixes and what the manual leaves open. Each constant is opaque: nothing in Lean can
evaluate it or prove a value of it, so every statement holds for every value. A free value is applied to a counter of the
state (`State.choice`) or to the operands it depends on.
-/

namespace Sys2Proof.Config

/-- A free choice (log entry 1): applied to the counter of the state, a key and a lane. -/
opaque freePick (n key lane : Nat) : Nat
/-- A free word (log entry 1). -/
opaque freeWord (n : Nat) : Word
/-- R408: the number of the ticket that comes `n`th; the model takes the next one that no outstanding ticket has (log entry 43). -/
opaque ticketNum (n : Nat) : Nat
/-- The clk between two steps, a free value (log entry 7). -/
opaque clkGap (n : Nat) : Nat
/-- The uclk between two steps, a free value (log entry 7). -/
opaque uclkGap (n : Nat) : Nat

/-- R237: the word that the unit of OP 0x17 forms for an input; the model takes it only where it lies within the bound. -/
opaque trans32 (f : Nat) (x : Word) : Word
/-- R241: the same for DRCP and DRSQ. -/
opaque trans64 (f : Nat) (x : DWord) : DWord

/-- R3: the enabled cores of a die as fused (bits by quad × 4 + core); the model takes a value only where it keeps the bound of R3
(log entry 54). -/
opaque dieCores (die : Nat) : Nat
/-- R508: the repairs of a die in the fused repair map (log entry 54). -/
opaque fusedMap (die : Nat) : List Nat
/-- R509: the failures that self-test of a die finds at its `n`th reset, those among them that no loaded repair covers being new. -/
opaque selfTest (n die : Nat) : List Nat
/-- R509: whether a spare row or column of a die is left for a failure, beside the repairs loaded. -/
opaque spareLeft (die : Nat) (loaded : List Nat) (failure : Nat) : Bool
/-- R506: whether an ML-DSA-87 signature verifies over the SHA3-512 of bytes under the fused key. -/
opaque sigVerify (sig msg : List Byte) : Bool
/-- R518: the SHA3-512 of bytes. -/
opaque sha3 (msg : List Byte) : List Byte
/-- R518: the capabilities that the device names. -/
opaque spdmCaps : List Byte
/-- R518: the certificate chain of slot 0. -/
opaque identityChain : List Byte
/-- R518: a signature with the key of slot 0. -/
opaque identitySign (msg : List Byte) : List Byte
/-- R518: the certificate chain of slot 1, whose key comes from the digest of the image booted. -/
opaque aliasChain (digest : List Byte) : List Byte
/-- R518: a signature with the key of slot 1, which comes from the digest of the image booted. -/
opaque aliasSign (digest msg : List Byte) : List Byte
/-- R518: the ROM digest. -/
opaque romDigest : List Byte
/-- R518: the key material of an ML-KEM-1024 exchange: ciphertext and session secret from the request. -/
opaque kemReply (msg : List Byte) : List Byte
/-- R518: whether a FINISH message verifies for a session. -/
opaque finishOk (msg : List Byte) : Bool
/-- R461: the flits that an edge drops as it closes with traffic on it, and the header of the first. -/
opaque droppedFlits (n edge : Nat) : Nat × DWord
/-- R427: whether a byte of a virtual function's aperture lies in its private ranges. -/
opaque privateRange (vf off : Nat) : Bool
/-- R471: a fabric window as the owner has configured it at a COMMIT: the peer module, the base and length of its exposed range, the
link mask, and the tenant that exposes the range; none where it has not (log entry 50). -/
opaque fabricWindow (n w : Nat) : Option (Nat × Nat × Nat × Nat × DWord)
/-- R471: the base and length of the range that fabric peers reach in a hard partition, as the owner has configured it at a COMMIT. -/
opaque exposedRange (n hard : Nat) : Nat × Nat
/-- R427: the TDISP interface report of a virtual function. -/
opaque tdiReport (vf : Nat) : List Byte
/-- R518: power of a die in W as TELEM reads it, a free value. -/
opaque telemPower (n die : Nat) : Nat

end Sys2Proof.Config
end

