-- ==== Sys2Proof/Machine/State.lean ====
section
/-!
DEFINITION. The state of the Triaris as plain data: every piece of state that the spec names, each cited at its field, the
model's own fields at the end of `State`, and the state right after package reset.
-/

namespace Sys2Proof.Machine

/-! ### Registers, lanes, fibres, slots -/

/-- A former content of a register that an early read may still return (R34, R35): the words, the lanes whose result has
not returned, the writing fibre, the clk at which a fixed latency has passed, and the asynchronous operation or the access in flight that
writes, if any. -/
structure Stale where
  vals : List Word
  mask : Nat
  fib : Nat
  due : Option Nat
  op : Option Nat := none
  deriving DecidableEq, Repr

/-- Lanes of a register that an operation of a fibre will still write (R35, R268, R430). -/
structure Late where
  id : Nat
  fib : Nat
  mask : Nat
  deriving DecidableEq, Repr

/-- A live architectural register (R49, R55, R63): its words, its poison mask, its results in flight, and the lanes for which
an operation (by its number) will still write it (R35, R430). -/
structure Reg where
  vals : List Word
  poison : Nat := 0
  stale : List Stale := []
  late : List Late := []
  deriving DecidableEq, Repr

/-- States of a chunk other than Unallocated (R58). -/
inductive ChunkSt | resident | bank | l2 | refilling
  deriving DecidableEq, Repr

/-- A chunk of eight registers (R58) with the slot's issue count of its last use (R59). -/
structure Chunk where
  st : ChunkSt
  used : Nat
  deriving DecidableEq, Repr

/-- What a held lane waits for: a WAITM of a mask at its address (R207), its meeting address (R39), an arrival at a barrier
that is not complete (R210), the completion of a phase (R211, R212), or an object that an acquire waits for (R268). Barriers are
numbered 0 to 15 for the block's, 16 to 31 for the matrix barriers, 32 for FBAR, 33 to 35 for QBAR, DBAR and PBAR. -/
inductive HoldKind
  | waitm (m : Nat)
  | meeting
  | arrive (bar : Nat) (sync : Bool)
  | phase (bar : Nat) (target : Nat)
  | object
  deriving DecidableEq, Repr

/-- A page fault that a lane or an engine met (R428): cause, address, ACCESS word of R431, the kind of access, the words of
the instruction, whether firmware has left it unresolved, the entries that the walk used, and, of a replay entry, the instruction's
address (R438). -/
structure FaultInfo where
  cause : Nat
  addr : Nat
  acc : Nat
  kind : AccKind := .read
  insn : Word := 0
  ext : Word := 0
  examined : Bool := false
  used : List Nat := []
  pc : Option DWord := none
  deriving DecidableEq, Repr

/-- Why a lane is parked (R41, R203, R276): a stash line of a core, a line whose mapping an SUNMAP is taking away, a page fault, a CALLX
budget; or a replay entry of it is still to be performed, of a block that runs (R438). -/
inductive Park
  | line (core ln : Nat) (own : Bool)
  | unmap (core ln : Nat)
  | fault (i : FaultInfo)
  | budget (insn ext : Word)
  | replay
  deriving DecidableEq, Repr

/-- The states of a lane (R45). Frozen is a state of the whole fibre; its lanes keep their prior state here. -/
inductive LaneSt
  | notLaunched | issuable
  | held (k : HoldKind) (next : DWord)
  | parked (p : Park)
  | exited
  deriving DecidableEq, Repr

/-- A lane (R45, R64, R163, R201, R36). `right`: the stash line whose fill it waited for and may still use (R276, R277). -/
structure Lane where
  st : LaneSt := .notLaunched
  pc : DWord := 0
  meet : DWord := 0
  rep : Nat := 0
  depth : Nat := 0
  age : Nat := 0
  right : Option Nat := none
  deriving DecidableEq, Repr

/-- The states of a stream (R304). -/
inductive StreamSt | closed | openSt | ended | error
  deriving DecidableEq, Repr

/-- A stream register (R304). -/
structure Stream where
  st : StreamSt := .closed
  base : DWord := 0
  row : Word := 0
  rend : Word := 0
  rbeg : Word := 0
  pos : Word := 0
  deriving DecidableEq, Repr

/-- The group that the present step issues: its block, slot, fibre and lanes, its address, the address after it, the repeat
index after it, and the words of the instruction for a trap record. `seq`: the block's sequencer issues. `entries` and `target`: the
dictionary entries, by index, and the parcels of a REP's target that the issue has taken, and keeps while it waits (R156, R161). -/
structure Issue where
  blk : Nat
  slot : Nat := 0
  fib : Nat := 0
  lanes : List Nat := []
  pc : DWord := 0
  next : DWord := 0
  repNext : Nat := 0
  insn : Word := 0
  ext : Word := 0
  code : List Parcel16 := []
  entries : Map Word := []
  target : List Parcel16 := []
  seq : Bool := false
  deriving DecidableEq, Repr

/-- The operands of an issue (R148 to R152): the lanes of the issue with their guard true, and the words of the registers that
fields A, B, C and D name, by offset and lane; the latency of the result (R34). -/
structure Env where
  i : Issue
  wb : Nat
  act : List Nat
  a : List (List Word)
  b : List (List Word)
  c : List (List Word)
  d : List (List Word)
  lat : Option Nat
  deriving DecidableEq, Repr

/-- What a waiting fibre waits for (R32, R46): results after a switch point, or the condition of a blocking instruction, which is
examined again at each change. -/
inductive WaitKind
  | results
  | retry
  deriving DecidableEq, Repr

/-- A wait of a fibre: its kind; for a blocking instruction the lanes that issued, its operands as read at issue, the clk of
the issue, the lanes that have completed and the word that each lane read last (R214). `id` is the number under which its
registers await its results (R35), and `marked` the registers that its last-use marks have killed (R57, R436). -/
structure Wait where
  kind : WaitKind
  lanes : List Nat := []
  env : Option Env := none
  start : Nat := 0
  done : List Nat := []
  last : List Word := []
  id : Nat := 0
  marked : List (Nat × Reg) := []
  deriving DecidableEq, Repr

/-- The states of a fibre position (R46): Ready, Waiting and Held are `live`, told apart by `wait` and the lanes. -/
inductive FibSt | empty | live | frozen | stopped | ended
  deriving DecidableEq, Repr

/-- A fibre (R64). -/
structure Fibre where
  st : FibSt := .empty
  wait : Option Wait := none
  lanes : List Lane := List.replicate 32 {}
  masks : List Word := List.replicate 12 0
  streams : List Stream := List.replicate 8 {}
  ctrs : List Nat := List.replicate 6 0
  wb : Nat := 0
  wstack : List Nat := []
  gen : Word := 0
  seed : Word := 0
  drops : Word := 0
  icount : Nat := 0
  nlane : Nat := 0
  since : Nat := 0
  group : List Nat := []
  gcount : Nat := 0
  stopReq : Bool := false
  pend : List (Option Nat) := List.replicate 16 none
  mwaits : List Nat := List.replicate 16 0
  window : Option Nat := none
  winIdle : Nat := 0
  deriving DecidableEq, Repr

/-- A slot (R47, R49, R58, R66): registers, chunks, counters and fibres. `last` holds the lanes that issued last, as fibre × 32 + lane,
since the last sample (R478), `acted` whether a lane was active in its last issue (R482); `switches`, `forced` and `dropped` count its
switch points, its forced switches and the indices that its fibres have dropped (R477); `issuedAt` is the clk after its last issue: a
slot issues at most once in a clk (R33, R48). -/
structure Slot where
  regs : Map Reg := []
  chunks : Map Chunk := []
  issues : Nat := 0
  cur : Nat := 0
  spbank : Nat := 0
  spl2 : Nat := 0
  refill : Nat := 0
  poisons : Nat := 0
  last : List Nat := []
  acted : Bool := false
  switches : Nat := 0
  forced : Nat := 0
  dropped : Nat := 0
  issuedAt : Nat := 0
  fibs : List Fibre := List.replicate 4 {}
  deriving DecidableEq, Repr

/-! ### Blocks, sequencers, launches -/

/-- A weight-buffer slot (R330, R348). -/
structure WSlot where
  raw : List Byte
  tb : Nat
  sb : Bool
  n : Nat
  kb : Nat
  deriving DecidableEq, Repr

/-- The states of a sequencer: running, frozen by a trap (R341), held by an unresolved fault (R342), ended (R332). -/
inductive SeqSt | running | frozen | faulted | ended
  deriving DecidableEq, Repr

/-- R493: what of a matrix unit may fail its parity: an element of a tile, a byte of a weight slot, a q register. -/
inductive MatrixCell | tile (t e : Nat) | slot (w b : Nat) | q (k : Nat)
  deriving DecidableEq, Repr

/-- The matrix sequencer of a block (R330, R332). A tile that is not listed holds +0 everywhere; a slot not listed is
empty. `queue` holds the arrivals of each matrix barrier as fibre numbers slot × 4 + position, oldest first. `lost` names
the cells whose parity fails (R493). `issued` and `mmas` count its instructions and the runs of its MMA and MMZ (R477). -/
structure Seqr where
  st : SeqSt := .running
  mpc : DWord := 0
  q : List DWord := List.replicate 32 0
  tiles : Map (List Word) := []
  slots : Map WSlot := []
  ta : Nat := 3
  tb : Nat := 3
  sa : Bool := false
  sb : Bool := false
  m : Nat := 64
  n : Nat := 64
  k : Nat := 32
  marv : List Nat := List.replicate 16 0
  queue : List (List Nat) := List.replicate 16 []
  lost : List MatrixCell := []
  fault : Option FaultInfo := none
  issued : Nat := 0
  mmas : Nat := 0
  deriving DecidableEq, Repr

/-- The states of a handle (R111). -/
inductive HandleSt | free | filling | full | draining
  deriving DecidableEq, Repr

/-- A shape record (R338). -/
structure Shape where
  dims : List (Nat × Int) := []
  typ : Nat := 0
  mrows : Nat := 0
  ver : Nat := 0
  scl : Nat := 0
  map : Nat := 0
  base : Nat := 0
  deriving DecidableEq, Repr

/-- A declaration (R110) with the shape read at acceptance (R453). -/
structure Decl where
  layout : Nat
  out : Bool
  hnd : Nat
  size : Nat
  lbase : Nat
  shape : Shape
  deriving DecidableEq, Repr

/-- A handle of a block: its declaration, its state, the bytes already copied (R111, R113, R440). -/
structure Handle where
  decl : Decl
  st : HandleSt
  copied : Nat := 0
  fault : Option FaultInfo := none
  deriving DecidableEq, Repr

/-- An entry of a binding table (R127). -/
structure Bind where
  obj : Nat
  base : Nat
  len : Nat
  deriving DecidableEq, Repr

/-- A block barrier: its phase and the fibres that have arrived (R210). -/
structure Bar where
  phase : Nat := 0
  arrived : List Nat := []
  deriving DecidableEq, Repr

/-- A dictionary entry as the core holds it (R156): readable; unreadable with its fault; or one whose new read, after a trap return,
waits for firmware (R428). -/
inductive DictEnt | word (w : Word) | unreadable (i : FaultInfo) | pending
  deriving DecidableEq, Repr

/-- The launch template of one fibre position (R452). -/
structure FibDecl where
  entry : Nat := 0
  nlane : Nat := 0
  wb : Nat := 0
  deriving DecidableEq, Repr

/-- A kernel descriptor (R452). -/
structure KDesc where
  plan : List Nat := List.replicate 64 0
  data : Nat := 0
  dataLen : Nat := 0
  fibs : List FibDecl := List.replicate 4 {}
  mentry : Nat := 0
  quadRes : Bool := false
  nslot : Nat := 1
  jtab : Nat := 0
  jtlen : Nat := 0
  mstr : Nat := 0
  mslen : Nat := 0
  dict : Nat := 0
  dictn : Nat := 0
  code : Nat := 0
  codelen : Nat := 1
  deriving DecidableEq, Repr

/-- A task record (R451). -/
structure TaskRec where
  afftag : Nat := 0
  aff : Bool := false
  gang : Bool := false
  pri : Nat := 0
  ndecl : Nat := 0
  cqueue : Nat := 0
  seed : Word := 0
  ntask : Nat := 1
  cont : Nat := 0
  join : Nat := 0
  dtab : Nat := 0
  kdesc : Nat := 0
  deriving DecidableEq, Repr

/-- A block of a launch that waits for its first placement (R454): its index, its virtual die, and the uclk for which it has
waited while its context was schedulable. -/
structure Waiting where
  task : Nat
  vd : Nat
  waited : Nat := 0
  deriving DecidableEq, Repr

/-- The states of a block's slots (R47). -/
inductive BlkSt | loading | running | quiescing | saved | retiring
  deriving DecidableEq, Repr

/-- A stash line's state (R104). -/
inductive LineSt | absent | filling | shared | upgrading | exclusive
  deriving DecidableEq, Repr

/-- A stash line (R104): state, whether the fill asks for ownership, dirty mask, and the physical address of each of its
bytes while it is not Absent (an address at or above 2^52 marks a byte that maps nothing, R101). -/
structure SLine where
  st : LineSt := .absent
  own : Bool := false
  dirty : Nat := 0
  pas : List Nat := []
  deriving DecidableEq, Repr

/-- A stash mapping (R100, R108): its core, holding block (none: an orphan), context number, tag, descriptor, lines, and the
order in which it was orphaned. `ready`: its registration is complete (R275). `unmapping`: an SUNMAP waits (R276). -/
structure Mapping where
  core : Nat
  blk : Option Nat
  ctx : Nat
  tag : Word
  gbase : DWord
  stride : Nat
  foff : Nat
  fwid : Nat
  count : Nat
  lbase : Nat
  lines : List SLine
  orphan : Nat := 0
  ready : Bool := true
  unmapping : Bool := false
  deriving DecidableEq, Repr

/-- One element of an engine operation: lane, global, physical and local addresses, operand values, whether it survives (R300), and
in a window the operation that it belongs to. -/
structure Elem where
  lane : Nat
  ok : Bool := true
  va : Nat := 0
  pa : Nat := 0
  loc : Nat := 0
  val : Nat := 0
  val2 : Nat := 0
  op : Nat := 0
  deriving DecidableEq, Repr

/-- What an asynchronous operation does (R298, R260, R273, R293, R325). -/
inductive OpKind
  | idle | gather | scatter | embLoad | embUpdate | atomic
  | smap | sunmap | sfill | sclean | sdrop
  | coll | bin
  deriving DecidableEq, Repr

/-- An asynchronous operation in flight (R133), in the issue order of its number. `code`, `w`, `x`, `y` hold the function,
width and addresses of its kind; `reg` is the architectural register of a result; `fault` an unresolved fault (R430). `ready` is false for a
replay entry (R436, R438), whose elements are translated afresh. `rep` is the repeat index of its issue (R431). -/
structure Op where
  cls : Nat
  blk : Nat
  slot : Nat
  fib : Nat
  core : Nat
  ctx : Nat
  scope : Nat
  kind : OpKind
  code : Nat := 0
  w : Nat := 0
  x : Nat := 0
  y : Nat := 0
  reg : Nat := 0
  elems : List Elem := []
  drops : Nat := 0
  win : Option Nat := none
  fault : Option FaultInfo := none
  ready : Bool := true
  pc : DWord := 0
  insn : Word := 0
  ext : Word := 0
  rep : Nat := 0
  deriving DecidableEq, Repr

/-- A scatter window (R313): function, type, row width, base and bound, its operations and elements in issue order; `ready`: its
elements are translated (R438). -/
structure Window where
  blk : Nat
  slot : Nat
  fib : Nat
  fn : Nat
  ty : Nat
  rw : Nat
  base : Nat
  bound : Nat
  issues : Nat := 0
  ops : List Nat := []
  elems : List Elem := []
  shut : Bool := false
  ready : Bool := true
  deriving DecidableEq, Repr

/-- A FIFO ring (R99, R288): entries, counts, closed flag, waiters as (block, slot × 4 + fibre, whether a put), oldest first. -/
structure Ring where
  cap : Nat
  head : Nat := 0
  tail : Nat := 0
  closed : Bool := false
  waiters : List (Nat × Nat × Bool) := []
  deriving DecidableEq, Repr

/-- A block (R14 to R24, R440). `savedSram`, `savedPoison` and `savedRings` are the bank images, at the place of a byte in the
block's cores (core of the block × 2^20 + offset), and `savedMaps` the recorded mappings, whose core is that of the block
(R441). `spots`: the slot numbers on their cores that its slots have (R31, R59); `waited`: the uclk for which it has waited for a
place (R454); `ending`: in the clk of a TASKEND, the pipes that still issue one instruction (R224). `halt`: a forced pre-emption
follows its loading (R474); `head`: it enters the wait list at the head (R455). -/
structure Block where
  launch : Nat
  task : Nat
  ctx : Nat
  die : Nat := 0
  quad : Nat := 0
  core : Nat := 0
  spots : List Nat := []
  st : BlkSt := .loading
  rstep : Nat := 0
  ending : Option (List Nat) := none
  level : Nat := 0
  waited : Nat := 0
  borrowed : Bool := false
  kd : KDesc := {}
  slots : List Slot := []
  dict : List DictEnt := []
  handles : Map Handle := []
  binds : List Bind := []
  bars : List Bar := List.replicate 16 {}
  seqr : Option Seqr := none
  saveFrames : Nat := 0
  savedMaps : Map Mapping := []
  savedSram : Memory := []
  savedPoison : List Nat := []
  savedRings : Map Ring := []
  savedAt : Nat := 0
  halt : Bool := false
  head : Bool := false
  joinFault : Option FaultInfo := none
  deriving DecidableEq, Repr

/-- An accepted launch (R453, R456). `gone` lists the tasks that have retired. -/
structure Launch where
  ctx : Nat
  queue : Nat
  tr : TaskRec
  kd : KDesc
  decls : List Decl := []
  waiting : List Waiting := []
  gone : List Nat := []
  deriving DecidableEq, Repr

/-! ### Contexts -/

/-- The states of a context number (R390). -/
inductive CtxSt | free | created | running | stopping | stopped | revoking
  deriving DecidableEq, Repr

/-- A range of pages of a composed stage 2 (R419, R420): intermediate pages `page` to `page + n - 1` name the frames from
`frame`. `giver`: the context whose mapping stands behind it. `xfer`: made with XFER. `held`: this
context's own access is withdrawn by an XFER it made (R406). -/
structure S2 where
  page : Nat
  n : Nat
  frame : Nat
  r : Bool
  w : Bool
  x : Bool
  rid : Nat := 0
  migr : Bool := false
  lock : Bool := false
  valid : Bool := true
  bad : Bool := false
  giver : Option Nat := none
  xfer : Bool := false
  held : Bool := false
  deriving DecidableEq, Repr

/-- A context number (R386 to R396, R412, R466, R503). Names are gen × 4096 + number. Quads and lent quads are masks by physical die;
`dies` is the die table, and `fallen` holds the bound dies whose quads have all been taken (R393). `credit` holds the credits of R458,
by the holder of the quads × 4096 + the context that chooses; `tenant` the tenant that this context has chosen, by the holder of the
quads; `qerr` the queues that the device holds in error (R450), `errDue` by queue the address and the value of a write of ERR that
firmware still delays (R428), and `rrq` the queue that it examined last (R449); `heir` the number that takes over its owner tags (R496).
-/
structure Ctx where
  gen : Nat := 0
  st : CtxSt := .free
  parent : Nat := 0
  depth : Nat := 0
  root : Bool := false
  quads : List Nat := [0, 0, 0, 0]
  lent : List Nat := [0, 0, 0, 0]
  dies : List Nat := []
  fallen : List Nat := []
  frames : Nat := 0
  sbank : Nat := 0
  queues : Nat := 0
  ceil : Nat := 0
  tshare : Nat := 0
  callow : Nat := 0
  vfs : List Nat := []
  s1root : DWord := 0
  htask : DWord := 0
  hqueue : Word := 0
  slice : Word := 1000
  borrow : Word := 0
  qdesc : Map DWord := []
  group : Map DWord := []
  bound : Map Nat := []
  apbase : DWord := 0
  schederr : Nat := 0
  errring : DWord := 0
  lostrec : Bool := false
  s2 : List S2 := []
  ctime : Nat := 0
  credit : Map Int := []
  tenant : Map Nat := []
  qerr : List Nat := []
  errDue : Map (Nat × Bool) := []
  rrq : Nat := 0
  waitList : List Nat := []
  waitHeads : Nat := 0
  part : Nat := 0
  retag : Bool := false
  heir : Nat := 0
  force : Bool := false
  deriving DecidableEq, Repr

/-- What a ticket resumes (R408, R409, R430). -/
inductive TrapSrc
  | fibre (blk slot fib : Nat) | seqr (blk : Nat) | op (id : Nat) | copy (blk h : Nat)
  | join (blk : Nat) | cont (ctx queue addr : Nat) | note
  deriving DecidableEq, Repr

/-- A ticket (R408, R431): its number, record words, trapping context, holder (none: the owner), source, pending SRW writes of space 1
(R413), whether its handler task is still to be pushed, and the context, queue and entry index of the pushed task (R433). -/
structure Ticket where
  num : Nat := 0
  words : List Word
  ctx : Nat
  holder : Option Nat
  src : TrapSrc
  writes : List (Nat × DWord) := []
  push : Bool := false
  spot : Option (Nat × Nat × Nat) := none
  deriving DecidableEq, Repr

/-- A continuation push that waits (R472): the context, its queue, the record's address, and the record once it has been read. -/
structure Push where
  ctx : Nat
  queue : Nat
  addr : Nat
  got : Option (List Byte) := none
  deriving DecidableEq, Repr

/-! ### Memory side -/

/-- A TLB entry (R422): core, context name, input page, size in bytes, physical page, the requester ID of a host page (R420),
permissions, the stage-1 node lines it rests on. Core 256 stands for the shape-walk engine (R425). -/
structure Tlb where
  core : Nat
  name : Nat
  va : Nat
  size : Nat
  pa : Nat
  rid : Nat := 0
  r : Bool
  w : Bool
  x : Bool
  nodes : List Nat
  deriving DecidableEq, Repr

/-- The TAIL word of an enabled queue, whose line the kennel die watches (R449, R450): its physical address, and whether an agent
other than the kennel die has written it since it was last looked at. -/
structure TailWatch where
  ctx : Nat
  queue : Nat
  pa : Nat
  hit : Bool := false
  deriving DecidableEq, Repr

/-- An entry of a table as the walkers hold it (R422, R424): context name, its physical address or, of a stage-2 leaf (`s2`), that of its
intermediate page, its value, and the range of input addresses whose walks read it. -/
structure WalkNode where
  name : Nat
  pa : Nat
  val : Nat
  va : Nat
  size : Nat
  s2 : Bool := false
  deriving DecidableEq, Repr

/-- Who fetches code: a lane, an M-stream, or a core that loads a dictionary (R147, R156, R410). -/
inductive FetchBy
  | lane
  | mstream
  | dict
  deriving DecidableEq, Repr

/-- A code parcel as it stood before a store (R147): its address, its bits, and the names of the contexts whose lane fetches, whose
M-stream fetches and whose dictionary loads may still return it (R156, R410). -/
structure OldParcel where
  pa : Nat
  old : Parcel16
  lanes : List Nat
  ms : List Nat
  dicts : List Nat
  deriving DecidableEq, Repr

/-- A single-copy atomic part of a store that is not yet performed (R116, R117): its locations (a physical byte, or 2^52 + the key of
a byte of SRAM), the address and the lane of the write, whether the address is local, the global address of its first byte where it has
one, the bytes before and after it, the views that hold it (R120): those of agents, fences and releases, whether a later access of its
writer to its bytes has been performed, and the bytes of the whole request (R436). -/
structure Shard where
  locs : List Nat
  va : Nat := 0
  lane : Nat := 0
  loc : Bool := false
  glob : Option Nat := none
  old : List Byte
  new : List Byte
  seen : List Nat
  back : Bool := false
  req : Nat := 0
  deriving DecidableEq, Repr

/-- What left the parts of a store: a plain store, an atomic, an MSTADD, or an MSTATOM (R121, R137, R138). -/
inductive PendKind | plain | atom | tileAdd | tileAtom
  deriving DecidableEq, Repr

/-- A store that is not yet performed (R117), of a fibre (slot × 4 + position) or the sequencer (64), with the parts that not every agent
sees. The stores stand in the order in which they were made, which is the modification order of each location (R120). `whole`: the parts
of an MSTADD or MSTATOM, which is one store (R137, R138, R342). -/
structure Pend where
  id : Nat
  blk : Nat
  agent : Nat
  scope : Nat
  kind : PendKind := .plain
  pieces : List Shard := []
  whole : Nat := 0
  pc : DWord := 0
  insn : Word := 0
  ext : Word := 0
  deriving DecidableEq, Repr

/-- A release that an acquire may still meet (R123, R125, R129): the bytes of its location, its agent, its scope, the view that holds
what it releases, and whether it is a REL of an object. -/
structure Pub where
  locs : List Nat
  agent : Nat
  scope : Nat
  view : Nat
  obj : Bool := false
  deriving DecidableEq, Repr

/-- An access of a lane whose result words have not returned (R34, R436): its place in the issue order, the opcode and function, the
width in bytes, whether its address is local, the address, the locations, the operands of an update, the first architectural register of
the result, the scope and the order, how it allocates (R258), the store that an update has left, the instruction and its repeat index. -/
structure Flight where
  id : Nat
  blk : Nat
  slot : Nat
  fib : Nat
  lane : Nat
  op : Nat
  f : Nat
  w : Nat
  loc : Bool
  va : Nat
  locs : List Nat
  b : Nat := 0
  c : Nat := 0
  reg : Nat
  scope : Nat := 3
  ord : Nat := 0
  pol : Nat := 0
  pend : Option Nat := none
  pc : DWord
  insn : Word
  ext : Word
  rep : Nat
  deriving DecidableEq, Repr

/-- A replay entry of KIND 1 or 5 (R436, R437): its place in the issue order, its fibre and lane, or for a tile store (`tile`) its tile
copy; the address and the bytes of each write, and whether the addresses are local; for a load or an atomic with a result the access as it
was issued, and the number under which its registers await it; the instruction and its repeat index. -/
structure Replay where
  seq : Nat
  blk : Nat
  slot : Nat
  fib : Nat
  lane : Nat
  tile : Bool
  loc : Bool := false
  items : List (Nat × List Byte)
  acc : Option Flight := none
  late : Nat := 0
  pc : DWord
  insn : Word
  ext : Word
  rep : Nat := 0
  deriving DecidableEq, Repr

/-- A waiting acquire at its object's home (R130, R268): the acting set, the object's global and physical address, the register that
receives RCNT, its scope, and the address and the repeat index after the instruction (R252). -/
structure Acq where
  id : Nat
  blk : Nat
  slot : Nat
  fib : Nat
  lanes : List Nat
  va : Nat
  pa : Nat
  excl : Bool
  reg : Nat
  scope : Nat
  next : DWord
  rep : Nat
  deriving DecidableEq, Repr

/-- A line of the memory-side cache (R464): line address, die, way, owner tag, dirty; `low`: allocated at the lowest retention (R258). -/
structure MscLine where
  line : Nat
  die : Nat
  way : Nat
  owner : Nat
  dirty : Bool
  low : Bool := false
  deriving DecidableEq, Repr

/-- A line of an L2 (R463): line address, die, way; `low`: allocated at the lowest retention (R258). -/
structure L2Line where
  line : Nat
  die : Nat
  way : Nat
  low : Bool := false
  deriving DecidableEq, Repr

/-- What has missed L2 (R465): an access, by the numbers from `lo` up to `hi` of the issue order that its issue has taken, and its line; or
the fill or upgrade of a stash line. -/
inductive MissOf
  | access (lo hi line : Nat)
  | stash (core ln : Nat)
  deriving DecidableEq, Repr

/-- A request that has missed L2 (R465), for a quad and a slice partition. -/
structure Miss where
  quad : Nat
  part : Nat
  of : MissOf
  deriving DecidableEq, Repr

/-- R442 to R444: what stands over the page in a frame: a pending grant request, a grant given, a remote mapping, the loser's hold-offs, the
uclk at which these end, and that of the device's request. -/
structure Mig where
  frame : Nat
  want : Bool := false
  granted : Bool := false
  remote : Bool := false
  devHold : Bool := false
  hostHold : Bool := false
  hostHas : Bool := false
  till : Nat := 0
  wantAt : Nat := 0
  deriving DecidableEq, Repr

/-- A slice record (R462). -/
structure SliceRec where
  colours : Nat := 0
  pcg : Nat := 0
  mscw : List Nat := [0, 0, 0, 0]
  quads : List Nat := [0, 0, 0, 0]
  tenant : DWord := 0
  spcnt : Nat := 0
  spbase : Nat := 0
  misscap : Nat := 0
  hard : Nat := 0
  slice : Nat := 0
  en : Bool := false
  fwin : Nat := 0
  deriving DecidableEq, Repr

/-- The firewall registers of one edge of a die (R461). -/
structure Edge where
  ctl : Word := 0
  part : Word := 0
  drop : Word := 0
  log : DWord := 0
  deriving DecidableEq, Repr

/-- A compute die (R505, R509, R519, R520): out of reset, enabled cores, the repairs loaded in its arrays, throttled, temperature in
0.125 °C. -/
structure Die where
  up : Bool := false
  cores : Nat := 0
  repairs : List Nat := []
  throttled : Bool := false
  temp : Nat := 0
  deriving DecidableEq, Repr

/-- A fabric window (R471): the peer module, its range and the links, as the owner configured them, and the tenant that exposes the
range there. -/
structure FWin where
  peer : Nat
  base : Nat
  len : Nat
  links : Nat
  tenant : DWord
  deriving DecidableEq, Repr

/-- An error record to be delivered (R501), with the names of its context and of the ancestors of that at detection (R502), and the
intermediate pages at which contexts, by name, mapped its frame then. -/
structure ErrRec where
  cls : Nat
  unit : Nat
  action : Nat
  loc : Nat
  ctx : Nat
  addr : Nat
  aux : Nat := 0
  seq : Nat := 0
  uclk : Nat := 0
  count : Nat := 1
  kin : List Nat := []
  pages : List (Nat × Nat) := []
  deriving DecidableEq, Repr

/-- A loss of a dirty memory-side cache line that the kennel die has not yet examined (R494), found in the data or in a tag, with the uclk
and the mappings of its detection (R501). -/
structure Loss where
  unit : Nat
  line : Nat
  tag : Nat
  die : Nat
  way : Nat
  uclk : Nat := 0
  pages : List (Nat × Nat) := []
  deriving DecidableEq, Repr

/-! ### Profiling -/

/-- A profiling session (R475, R476): the context that opened it, whose space holds the ring, and the root of its subtree; `rr`
holds by core the slot sampled last, as block × 16 + slot + 1. -/
structure Session where
  owner : Nat
  root : Nat
  evts : List Nat
  counts : List Nat
  unav : List Bool
  period : Nat
  log2n : Nat
  buf : Nat
  wrptr : Nat := 0
  rr : Map Nat := []
  deriving DecidableEq, Repr

/-- A causal experiment of a slice partition (R480 to R482), with the root's number and name. `paid` holds by core the clk of debt that
it has paid (R477), `rcAt` the end of the last clk that counted as range clk. -/
structure Trial where
  xid : Nat
  root : Nat
  name : Nat
  lo : Nat
  hi : Nat
  ms : Bool
  speed : Nat
  dur : Nat
  pps : List Nat
  pkind : Nat
  counts : List Nat := [0, 0, 0, 0]
  start : Nat
  epochs : Nat := 0
  elapsed : Nat := 0
  dglobal : Nat := 0
  trange : Nat := 0
  unpaid : Nat := 0
  done : Bool := false
  rc : Map Nat := []
  rcAt : Map Nat := []
  debt : Map Nat := []
  paid : Map Nat := []
  deriving DecidableEq, Repr

/-- A whistle step of a group on this module (R468): arrivals as operation numbers, the uclk of the first, the shapes of each
arrival's contribution and result (R294), the counted flits, abort code, the contributions read so far by member, those of the
other modules, and the arrivals whose result and STATUS are written (R297). -/
structure Whistle where
  gid : Nat
  step : Nat
  ctx : Nat
  group : Nat
  arrived : List Nat := []
  since : Option Nat := none
  shapes : Map (Shape × Shape) := []
  flits : List Flit := []
  sent : Bool := false
  go : Bool := false
  abort : Option Nat := none
  src : Map (List Nat) := []
  far : List (List Byte) := []
  wrote : List Nat := []
  deriving DecidableEq, Repr

/-! ### The kennel die -/

/-- Bring-up and ownership phases (R505, R507, R511): step 1 pending, recovery, awaiting an owner, awaiting COMMIT,
running, package fatal, and power removed (R520). -/
inductive Phase | bringUp | recovery | awaitOwner | awaitCommit | running | fatal | off
  deriving DecidableEq, Repr

/-- A mailbox of a master (R510): the response's RES, STATUS, TAG and CMD, the request, and the data window. -/
structure Mailbox where
  req : BitVec 512 := 0
  resp : BitVec 512 := 0
  win : List Byte := List.replicate 4096 0
  deriving DecidableEq, Repr

/-- An owner event (R517): code, sequence number, payload bytes. -/
structure Event where
  code : Nat
  seq : Nat
  payload : List Byte
  deriving DecidableEq, Repr

/-- States of a TDI (R427). -/
inductive TdiSt | unlocked | locked | run | error
  deriving DecidableEq, Repr

/-- An SPDM session of a requester (R518): negotiated, keyed, finished. -/
structure Spdm where
  version : Bool := false
  algs : Bool := false
  keyed : Bool := false
  finished : Bool := false
  resp : List Byte := []
  beats : Nat := 0
  keyGen : Nat := 0
  deriving DecidableEq, Repr

/-- The kennel die's own state (R505 to R521). `writing`: the image being written to flash, and whether the package is reset
after it (R507), `booted` the image that was booted (R518); `due`: frames to be retired (R497), `moved` the frames retired since package
reset with the spare of each (R498); `pendingAt`, `ownerDown`: the uclk of the HANDOVER that stands, and that at which
the owner's link went down (R513, R514); `foldLog`: the uclk of the last corrected record of each unit and location (R502). -/
structure Kennel where
  phase : Phase := .bringUp
  flash : List Byte := []
  booted : List Byte := []
  writing : Option (List Byte × Bool) := none
  minSvn : Nat := 0
  load : Memory := []
  loadLen : Nat := 0
  loader : Option Nat := none
  owner : Option Nat := none
  pending : Option Nat := none
  pendingAt : Nat := 0
  ownerDown : Option Nat := none
  mbox : List Mailbox := List.replicate 4 {}
  config : List (List Byte) := []
  committed : Bool := false
  slices : List SliceRec := []
  edges : List Edge := List.replicate 8 {}
  dies : List Die := List.replicate 4 {}
  repairLog : List (Nat × Nat) := []
  evring : Nat := 0
  evLost : Bool := false
  held : List Event := []
  evSeq : Nat := 0
  sentMctp : List Event := []
  plimit : Nat := 4200
  clkStep : Nat := 72
  spdm : List Spdm := List.replicate 4 {}
  tdis : Map TdiSt := []
  errSeq : Nat := 0
  errs : List ErrRec := []
  folds : List ErrRec := []
  foldLog : Map Nat := []
  losses : List Loss := []
  hstops : List Nat := []
  reserve : List (Nat × Nat) := []
  retired : List Nat := []
  moved : List (Nat × Nat) := []
  retiredPast : List Nat := []
  due : List Nat := []
  corrLines : List (Nat × Nat) := []
  corrSets : List (Nat × Nat × Nat) := []
  quarantine : List (Nat × Nat) := []
  sweeping : List (Nat × Nat) := []
  linksDown : List LinkId := []
  windows : Map FWin := []
  exposed : List (Nat × Nat) := []
  migconf : Map Nat := []
  tripLog : List (Nat × Nat) := []
  deriving DecidableEq, Repr

/-! ### The machine -/

/-- What an agent outside the package last received for its read (R141, R469, R471): data, with the poison of the request; a
completion with Unsupported Request; cause 0x07 at the peer. -/
inductive Answer | data (bs : List Byte) (poison : Bool) | unsupported | refused
  deriving DecidableEq, Repr

/-- The whole machine. -/
structure State where
  ken : Kennel := {}
  ctxs : Map Ctx := []
  freed : List Nat := []
  launches : Map Launch := []
  blocks : Map Block := []
  tickets : Map Ticket := []
  pushes : List Push := []
  ops : Map Op := []
  windows : Map Window := []
  mappings : Map Mapping := []
  rings : Map Ring := []
  mem : Memory := []
  sram : Memory := []
  memPoison : List Nat := []
  sramPoison : List Nat := []
  icache : List OldParcel := []
  tlb : List Tlb := []
  wcache : List WalkNode := []
  tails : List TailWatch := []
  msc : List MscLine := []
  l2 : List L2Line := []
  misses : List Miss := []
  stores : List Pend := []
  pubs : List Pub := []
  flights : List Flight := []
  replays : List Replay := []
  acqs : List Acq := []
  migs : List Mig := []
  hostBad : List Nat := []
  answer : Option Answer := none
  whistles : List Whistle := []
  sessions : Map Session := []
  trials : Map Trial := []
  xids : Map Nat := []
  /-- R477: the L2 misses, core TLB misses and requests stalled by the miss cap, by context number × 65536 + event. -/
  tallies : Map Nat := []
  /-- R465, R477: who stands stalled by the miss cap: a block, and slot × 4 + position, or 64 for its sequencer. -/
  capped : List (Nat × Nat) := []
  clk : Nat := 0
  uclk : Nat := 0
  nextTicket : Nat := 1
  nextId : Nat := 0
  saves : Nat := 0
  /-- The model's own: the group being issued. -/
  cur : Option Issue := none
  /-- The model's own: the events still to come, outside inputs and timing choices. -/
  agenda : List Instr := []
  /-- The model's own: the counter that every free value is applied to. -/
  choice : Nat := 0
  /-- The model's own: which ready fibre the step takes. -/
  turn : Nat := 0
  deriving DecidableEq, Repr

/-- Why the model stops. -/
inductive Fault
  /-- Raised by every lane instruction when `State.cur` names no live group, or a sequencer instruction when it names no
  sequencer: no such instruction issues in the hardware. Safe. -/
  | noIssuer
  deriving DecidableEq, Repr

/-- What the model has no meaning for. -/
inductive Refusal
  /-- Answered by an arm of `exec` for an instruction without a meaning yet. Safe. -/
  | notModelled (mnemonic : String)
  deriving DecidableEq, Repr

/-- The machine right after package reset: bring-up step 1 is pending (R505), no owner (R513), no partition, no context, no
block, nothing listed in memory. Values that the spec does not give are those of log entries 1, 2, 3, 5 and 6. -/
def State.reset : State := {}

end Sys2Proof.Machine
end

