-- ==== Sys2Proof/Machine/Parts.lean ====
section
/-!
DEFINITION. Access to the parts of the state: blocks, slots, fibres, lanes, contexts, cores; free choices.
-/

namespace Sys2Proof.Machine

/-- The outcome of a meaning. -/
abbrev Out := Host.Outcome State Fault Refusal

/-! ### Parts of the state -/

/-- A block, or an empty one where there is none. -/
def blkD (s : State) (b : Nat) : Block := mgetD s.blocks b { launch := 0, task := 0, ctx := 0 }
/-- The state with a block changed. -/
def updBlk (s : State) (b : Nat) (g : Block → Block) : State := { s with blocks := mupd s.blocks b g }
/-- A slot of a block. -/
def slotD (s : State) (b k : Nat) : Slot := (blkD s b).slots.getD k {}
/-- The state with a slot changed. -/
def updSlot (s : State) (b k : Nat) (g : Slot → Slot) : State :=
  updBlk s b (fun x => { x with slots := x.slots.modify k g })
/-- A fibre of a slot. -/
def fibD (s : State) (b k f : Nat) : Fibre := (slotD s b k).fibs.getD f {}
/-- The state with a fibre changed. -/
def updFib (s : State) (b k f : Nat) (g : Fibre → Fibre) : State :=
  updSlot s b k (fun x => { x with fibs := x.fibs.modify f g })
/-- A lane of a fibre. -/
def laneD (x : Fibre) (l : Nat) : Lane := x.lanes.getD l {}
/-- A fibre with some lanes changed. -/
def updLanes (x : Fibre) (ls : List Nat) (g : Nat → Lane → Lane) : Fibre :=
  { x with lanes := x.lanes.mapIdx (fun l y => if ls.contains l then g l y else y) }
/-- A context number. -/
def ctxD (s : State) (c : Nat) : Ctx := mgetD s.ctxs c {}
/-- The state with a context changed. -/
def updCtx (s : State) (c : Nat) (g : Ctx → Ctx) : State := { s with ctxs := mupd s.ctxs c g }
/-- R386: the name of a context number. -/
def ctxName (s : State) (c : Nat) : Nat := (ctxD s c).gen * 4096 + c
/-- The launch of a block. -/
def launchD (s : State) (n : Nat) : Launch := mgetD s.launches n { ctx := 0, queue := 0, tr := {}, kd := {} }
/-- The state with the kennel die's own state changed. -/
def updKen (s : State) (g : Kennel → Kennel) : State := { s with ken := g s.ken }
/-- The sequencer of a block, or a fresh one. -/
def seqD (s : State) (b : Nat) : Seqr := ((blkD s b).seqr).getD {}
/-- The state with a block's sequencer changed. -/
def updSeq (s : State) (b : Nat) (g : Seqr → Seqr) : State := updBlk s b (fun x => { x with seqr := x.seqr.map g })

/-- R14: the core of a block's slot, as die × 64 + quad × 4 + core. -/
def coreOf (x : Block) (k : Nat) : Nat := x.die * 64 + x.quad * 4 + (if x.kd.quadRes then k % 4 else x.core)
/-- The core that issues. -/
def coreIs (s : State) (i : Issue) : Nat := coreOf (blkD s i.blk) i.slot
/-- R16: the virtual die of a physical die in a context; 4 where it is not bound. -/
def vdOf (s : State) (c die : Nat) : Nat := (ctxD s c).dies.findIdx (· == die)
/-- The context of the issuing block. -/
def ctxIs (s : State) (i : Issue) : Nat := (blkD s i.blk).ctx
/-- The issuing fibre. -/
def fibIs (s : State) (i : Issue) : Fibre := fibD s i.blk i.slot i.fib
/-- The state with the issuing fibre changed. -/
def updIs (s : State) (i : Issue) (g : Fibre → Fibre) : State := updFib s i.blk i.slot i.fib g

/-- R388: the ancestors of a context number, nearest first; a tree has at most 8 levels. -/
def ancestors (s : State) (c : Nat) : List Nat :=
  let rec go (n c : Nat) : List Nat :=
    match n with
    | 0 => []
    | k + 1 => if (ctxD s c).root then [] else
      match (ctxD s c).st with
      | .free => []
      | _ => let p := (ctxD s c).parent % 4096; p :: go k p
  go 8 c
/-- R388: context `a` is an ancestor of context `c`. -/
def isAnc (s : State) (a c : Nat) : Bool := (ancestors s c).contains a
/-- R397: the subtree of a context number. -/
def subtree (s : State) (c : Nat) : List Nat :=
  (s.ctxs.map (·.1)).filter (fun d => d == c || (decide ((ctxD s d).st ≠ .free) && isAnc s c d))

/-- A free choice among `n` values (log entry 1). -/
def pick (s : State) (key lane n : Nat) : Nat := Config.freePick s.choice key lane % n

end Sys2Proof.Machine
end

