-- ==== Sys2Proof/Machine/Translate.lean ====
section
/-!
DEFINITION. Translation of global addresses (R88, R415 to R421, R426, R461, R471): the two walks, the ranges of physical
addresses, and what lies on the way to a home.
-/

namespace Sys2Proof.Machine

/-- The outcome of a translation: a physical address; a failed walk with its cause, stage and level (R428, R431); or a leaf
that a migration holds (R424). -/
inductive Xl | ok (pa : Nat) | fault (cause stage level : Nat) | locked
  deriving DecidableEq, Repr

/-- R88: bits 63:57 all equal bit 56. -/
def canonical (a : Nat) : Bool := decide (a < 2 ^ 56) || decide (2 ^ 64 - 2 ^ 56 ≤ a ∧ a < 2 ^ 64)

/-- Address arithmetic modulo 2^64 with a signed offset. -/
def addAddr (a : Nat) (o : Int) : Nat := ((Int.ofNat a + o) % (2 ^ 64 : Int)).toNat

/-- R415: physical addresses that some unit answers. -/
def isHbm (pa : Nat) : Bool := decide (pa < 0x8000000000)
/-- R415: fabric windows. -/
def isFabric (pa : Nat) : Bool := decide (0x100000000000 ≤ pa ∧ pa < 0x200000000000)
/-- R415: host memory. -/
def isHost (pa : Nat) : Bool := decide (0x8000000000000 ≤ pa ∧ pa < 0x10000000000000)
/-- R415: ranges that reach nothing. -/
def reachesNothing (pa : Nat) : Bool := !isHbm pa && !isFabric pa && !isHost pa

/-- R90: the die that homes an HBM address. -/
def homeDie (pa : Nat) : Nat := bits pa 18 16 / 2

/-- R416: the index of an address at a level. -/
def walkIndex (x lvl : Nat) : Nat := if lvl = 0 then bits x 20 16 else bits x (20 + 9 * lvl) (12 + 9 * lvl)
/-- R416: the page size of a leaf at a level. -/
def pageSize (lvl : Nat) : Nat := if lvl = 0 then 2 ^ 16 else 2 ^ (12 + 9 * lvl)
/-- R416: the size of the node that an entry at a level names. -/
def nodeSize (lvl : Nat) : Nat := if lvl ≤ 1 then 256 else 4096

/-- R417: bits 51:8 of an entry as an address. -/
def entryAddr (e : Nat) : Nat := bits e 51 8 * 256

/-- R417: a valid entry that is malformed at its level. -/
def malformed (e lvl : Nat) : Bool :=
  let leaf := bit e 1
  decide (bits e 63 52 ≠ 0) || decide (bits e 7 5 ≠ 0) ||
  (if leaf then decide (3 ≤ lvl) || decide (entryAddr e % pageSize lvl ≠ 0)
   else decide (lvl = 0) || decide (bits e 4 2 ≠ 0) || decide (entryAddr e % nodeSize lvl ≠ 0))

/-- R418: an access kind is permitted by R, W and X. -/
def permits (k : AccKind) (r w x : Bool) : Bool :=
  match k with
  | .read => r
  | .write => w
  | .atomic => r && w
  | .fetch => x

/-- R419: the range of a composed stage 2 that holds an intermediate page. -/
def leafOf (c : Ctx) (page : Nat) : Option S2 :=
  c.s2.find? (fun e => decide (e.page ≤ page) && decide (page < e.page + e.n))

/-- A leaf of one page. -/
def leafAt (s : State) (c page : Nat) : Option S2 := (leafOf (ctxD s c) page).map (fun e =>
  { e with page := page, n := 1, frame := e.frame + (page - e.page) })

/-- The frame of a context's page. -/
def frameOf (s : State) (c page : Nat) : Option Nat := (leafAt s c page).map (·.frame)

/-- The leaves of a context that name a frame. -/
def leavesOf (s : State) (c frame : Nat) : List S2 :=
  (ctxD s c).s2.filterMap (fun e => if e.frame ≤ frame ∧ frame < e.frame + e.n then
    some { e with page := e.page + (frame - e.frame), n := 1, frame := frame } else none)

/-- The contexts with a leaf that names a frame. -/
def namers (s : State) (frame : Nat) : List Nat :=
  (s.ctxs.filter (fun p => decide (p.2.st ≠ .free) && !(leavesOf s p.1 frame).isEmpty)).map (·.1)

/-- R419: the physical address that a range gives an intermediate address. -/
def leafAddr (e : S2) (ia : Nat) : Nat := (e.frame + (ia / 65536 - e.page)) * 65536 + ia % 65536

/-- R420, R421: the second walk of an intermediate address; `lvl` is the level that a failure records. -/
def stage2 (c : Ctx) (ia : Nat) (k : AccKind) (lvl : Nat) : Xl :=
  if 2 ^ 56 ≤ ia then .fault 0x04 2 lvl else
  match leafOf c (ia / 65536) with
  | none => .fault 0x04 2 lvl
  | some e =>
    if e.lock then .locked
    else if e.bad ∨ reachesNothing (leafAddr e ia) then .fault 0x05 2 lvl
    else if !e.valid ∨ e.held then .fault 0x04 2 lvl
    else if !permits k e.r e.w e.x then .fault 0x05 2 lvl
    else .ok (leafAddr e ia)

/-- R492: a byte of memory that a reader meets poisoned. -/
def poisoned (s : State) (pa : Nat) : Bool := s.memPoison.contains (pa / 64)

/-- R491: the bank word of a core's byte. -/
def sramKey (core off : Nat) : Nat := core * 2 ^ 20 + off

/-- R104: the bank byte that holds a line's dirty byte of a physical address. -/
def dirtyIn (m : Mapping) (j pa : Nat) : Option Nat :=
  let l := m.lines.getD j {}
  if l.dirty = 0 then none else
  ((List.range 64).find? (fun k => l.dirty.testBit k && decide (l.pas.getD k (2 ^ 52) = pa))).map
    (fun k => sramKey m.core (m.lbase + 64 * j + k))

/-- R104, R105: the bank byte that holds the newest value of a physical byte; none where memory holds it. -/
def dirtyAt (s : State) (pa : Nat) : Option Nat :=
  s.mappings.findSome? (fun p => (List.range p.2.lines.length).findSome? (fun j => dirtyIn p.2 j pa))

/-- R105: the newest value of a physical byte, and whether it is poisoned (R491), for a reader that leaves every copy in place. -/
def newByte (s : State) (pa : Nat) : Byte × Bool :=
  match dirtyAt s pa with
  | some key => (Memory.rd s.sram key, s.sramPoison.contains (key / 8))
  | none => (Memory.rd s.mem pa, poisoned s pa)

/-- R105: the newest bytes at a physical address, and whether one is poisoned. -/
def newBytes (s : State) (pa n : Nat) : List Byte × Bool :=
  let bs := (List.range n).map (fun k => newByte s (pa + k))
  (bs.map (·.1), bs.any (·.2))

/-- A leaf of stage 1, or the failure of its walk: the intermediate address, the permissions, the physical lines of the
nodes read, and the page size (R418). -/
structure Leaf1 where
  ia : Nat
  r : Bool
  w : Bool
  x : Bool
  nodes : List Nat
  size : Nat
  deriving DecidableEq, Repr

/-- R17, R461: an edge between two dies passes traffic: both of its register sets are open. -/
def edgeOpen (s : State) (d e : Nat) : Bool :=
  let o := if e = 0 then d ^^^ 1 else d ^^^ 2
  ((s.ken.edges.getD (d * 2 + e) {}).ctl.getLsbD 0) && ((s.ken.edges.getD (o * 2 + e) {}).ctl.getLsbD 0) &&
  !s.ken.linksDown.contains (.edge d e) && !s.ken.linksDown.contains (.edge o e)

/-- R461: a route of least hops between two dies crosses no closed edge. -/
def routeOpen (s : State) (a b : Nat) : Bool :=
  let x := a ^^^ b
  match x with
  | 0 => true
  | 1 => edgeOpen s a 0
  | 2 => edgeOpen s a 1
  | _ => (edgeOpen s a 0 && edgeOpen s (a ^^^ 1) 1) || (edgeOpen s a 1 && edgeOpen s (a ^^^ 2) 0)

/-- The slice record of a context's partition (R462). -/
def sliceOf (s : State) (c : Nat) : SliceRec := s.ken.slices.getD (ctxD s c).part {}

/-- R500: the hard partition of a context has been stopped. -/
def halted (s : State) (c : Nat) : Bool := s.ken.hstops.contains (sliceOf s c).hard

/-- R471: a fabric window answers a partition: usable, configured, some link up, the tenants equal. -/
def fabricOk (s : State) (c pa : Nat) : Bool :=
  let w := (pa - 0x100000000000) / 2 ^ 40
  let p := sliceOf s c
  p.fwin.testBit w && (match mget s.ken.windows w with
    | none => false
    | some f => decide (f.tenant = p.tenant) && decide ((pa - 0x100000000000) % 2 ^ 40 < f.len) &&
        (List.range 16).any (fun l => f.links.testBit l && !s.ken.linksDown.contains (.fabric l)))

/-- R426, R427: the host answers a device request under a requester ID. -/
def hostOk (s : State) (rid pa : Nat) : Bool :=
  !s.ken.linksDown.contains .host && !s.hostBad.contains (pa / 65536) &&
  decide (mgetD s.ken.tdis rid .unlocked ≠ .error)

/-- R426, R461, R471: what the way to a home refuses. `die`: the requester's compute die; none for the kennel die's own. -/
def wayCheck (s : State) (c : Nat) (die : Option Nat) (rid pa : Nat) : Xl :=
  if isHost pa then (if hostOk s rid pa then .ok pa else .fault 0x06 3 5)
  else if isFabric pa then (if fabricOk s c pa then .ok pa else .fault 0x07 3 5)
  else
    match die with
    | none => .ok pa
    | some d => if routeOpen s d (homeDie pa) then .ok pa else .fault 0x04 2 5

/-- R420: the requester ID under which a context's access to an intermediate address leaves the device. -/
def ridAt (c : Ctx) (ia : Nat) : Nat := ((leafOf c (ia / 65536)).map (·.rid)).getD 0

/-- R421, R426: the second walk of a node address, and the way of the walker's read of it. -/
def nodeAt (s : State) (c ea lvl : Nat) : Xl :=
  match stage2 (ctxD s c) ea .read lvl with
  | .ok pa =>
    match wayCheck s c none (ridAt (ctxD s c) ea) pa with
    | .fault cause st _ => .fault cause st lvl
    | q => q
  | q => q

/-- R418, R424: an entry as a walker reads it, and whether it is poisoned. Of a node in host memory, which no directory tracks,
the walker's copy may come instead. -/
def nodeWord (s : State) (c pa : Nat) : Nat × Bool :=
  let (bs, bad) := newBytes s pa 8
  if isHost pa then
    match s.wcache.find? (fun h => !h.s2 && decide (h.name = ctxName s c) && decide (h.pa = pa)) with
    | some h => if h.val = leNat bs ∨ pick s pa 0 2 = 0 then (leNat bs, bad) else (h.val, false)
    | none => (leNat bs, bad)
  else (leNat bs, bad)

/-- R418: the first walk from a node; `lvl + 1` levels remain. -/
def walk1 (s : State) (c x : Nat) (k : AccKind) (n node lvl : Nat) (nodes : List Nat) : Except Xl Leaf1 :=
  match n with
  | 0 => .error (.fault 0x02 1 0)
  | m + 1 =>
    match nodeAt s c (node + 8 * walkIndex x lvl) lvl with
    | .ok pa =>
      let (e, bad) := nodeWord s c pa
      if bad then .error (.fault 0x02 1 lvl)
      else if !bit e 0 then .error (.fault 0x01 1 lvl)
      else if malformed e lvl then .error (.fault 0x02 1 lvl)
      else if !bit e 1 then walk1 s c x k m (entryAddr e) (lvl - 1) (pa :: nodes)
      else if !permits k (bit e 2) (bit e 3) (bit e 4) then .error (.fault 0x03 1 lvl)
      else .ok { ia := entryAddr e + x % pageSize lvl, r := bit e 2, w := bit e 3, x := bit e 4, nodes := pa :: nodes,
                 size := pageSize lvl }
    | f => .error f

/-- R416: stage 1 of a context; without a root, bits 56:0 are the intermediate address. -/
def stage1 (s : State) (c va : Nat) (k : AccKind) : Except Xl Leaf1 :=
  let x := ctxD s c
  if x.s1root = 0 then .ok { ia := va % 2 ^ 57, r := true, w := true, x := true, nodes := [], size := 2 ^ 30 }
  else walk1 s c (va % 2 ^ 57) k 5 x.s1root.toNat 4 []

/-- The composed translation of one global address (R418, R421), by walks. -/
def walk (s : State) (c : Nat) (die : Option Nat) (va : Nat) (k : AccKind) : Xl :=
  match stage1 s c va k with
  | .error f => f
  | .ok l =>
    match stage2 (ctxD s c) l.ia k 5 with
    | .ok pa => wayCheck s c die (ridAt (ctxD s c) l.ia) pa
    | f => f

/-- R422: a cached translation of a holder that permits an access: the physical address and the requester ID. -/
def tlbHit (s : State) (who c va : Nat) (k : AccKind) : Option (Nat × Nat) :=
  ((s.tlb.find? (fun t => decide (t.core = who) && decide (t.name = ctxName s c) && decide (t.va ≤ va) &&
    decide (va < t.va + t.size) && permits k t.r t.w t.x)).map (fun t => (t.pa + (va - t.va), t.rid)))

/-- R422, R425: a translation through the TLB of a holder for an access from a compute die: cached, or walked. -/
def xlateBy (s : State) (who c : Nat) (die : Option Nat) (va : Nat) (k : AccKind) : Xl :=
  match tlbHit s who c va k with
  | some (pa, rid) => wayCheck s c die rid pa
  | none => walk s c die va k

/-- R422: the translation of a core's access. -/
def xlate (s : State) (c core va : Nat) (k : AccKind) : Xl := xlateBy s core c (some (core / 64)) va k

/-- R425: the holder of the shape-walk engine's TLB. -/
def shapeWho : Nat := 256

/-- R425: the translation of the shape-walk engine's access for a core. -/
def xlateShape (s : State) (c core va : Nat) (k : AccKind) : Xl := xlateBy s shapeWho c (some (core / 64)) va k

/-- The translations of some addresses in order, or the first failure with its address. -/
def xlateAll (f : Nat → Xl) (vas : List Nat) : Except (Nat × Xl) (List Nat) :=
  match vas with
  | [] => .ok []
  | a :: r =>
    match f a with
    | .ok pa =>
      match xlateAll f r with
      | .ok ps => .ok (pa :: ps)
      | .error e => .error e
    | e => .error (a, e)

/-- The addresses of an access of `n` bytes. -/
def spanOf (a n : Nat) : List Nat := (List.range n).map (fun k => (a + k) % 2 ^ 64)

/-- R431: ACCESS of a failed walk. `what`: 0 read, 1 write, 2 atomic, 3 fetch, 4 stash fill or upgrade. -/
def accWord (what stage level : Nat) : Nat := what + 16 * stage + 256 * level

/-- R431: the code of an access kind in ACCESS. -/
def accCode (k : AccKind) : Nat :=
  match k with
  | .read => 0
  | .write => 1
  | .atomic => 2
  | .fetch => 3

/-- R418: what the first walk of an address for an access reads, as far as it comes: each intermediate address with the entry found
there, and the final one last where the access is permitted. -/
def walkReads (s : State) (c x : Nat) (k : AccKind) (n node lvl : Nat) : List (Nat × Nat) :=
  match n with
  | 0 => []
  | m + 1 =>
    let ea := node + 8 * walkIndex x lvl
    match nodeAt s c ea lvl with
    | .ok pa =>
      let (e, bad) := nodeWord s c pa
      if bad ∨ !bit e 0 ∨ malformed e lvl ∨ (bit e 1 ∧ !permits k (bit e 2) (bit e 3) (bit e 4)) then [(ea, e)]
      else if bit e 1 then [(ea, e), (entryAddr e + x % pageSize lvl, 0)]
      else (ea, e) :: walkReads s c x k m (entryAddr e) (lvl - 1)
    | _ => [(ea, 0)]

/-- The intermediate addresses of an access to a global address of a context, each with the stage-1 entry read there. -/
def readsOf (s : State) (c va : Nat) (k : AccKind) : List (Nat × Nat) :=
  let x := ctxD s c
  if x.s1root = 0 then [(va % 2 ^ 57, 0)] else walkReads s c (va % 2 ^ 57) k 5 x.s1root.toNat 4

/-- A stage-2 leaf as a number; 0 for none. -/
def leafCode (c : Ctx) (ia : Nat) : Nat :=
  match leafOf c (ia / 65536) with
  | none => 0
  | some e => 1 + 2 * e.r.toNat + 4 * e.w.toNat + 8 * e.x.toNat + 16 * e.valid.toNat + 32 * e.held.toNat + 64 * e.bad.toNat +
      256 * (e.frame + (ia / 65536 - e.page)) + 2 ^ 60 * e.rid

/-- R428: the entries of both stages that the walk of a global address uses. -/
def walkUsed (s : State) (c va : Nat) (k : AccKind) : List Nat := (readsOf s c va k).flatMap (fun p => [p.2, leafCode (ctxD s c) p.1])

/-- R428, R442: the intermediate page whose migration or remote mapping resolves a failed walk: its leaf carries MIGR with
V = 0. -/
def migPage (s : State) (c va : Nat) (k : AccKind) : Option Nat :=
  (readsOf s c va k).findSome? (fun p => match leafOf (ctxD s c) (p.1 / 65536) with
    | some e => if e.migr ∧ !e.valid then some (p.1 / 65536) else none
    | none => none)

/-- R319: the system maps nothing at a global address: no stage-1 or no stage-2 mapping, and none that a migration brings back. -/
def unmappedAt (s : State) (c va : Nat) : Bool :=
  (migPage s c va .read).isNone && (match stage1 s c va .read with
    | .ok l => decide (stage2 (ctxD s c) l.ia .read 5 = .fault 0x04 2 5)
    | .error (.fault cause _ _) => decide (cause = 0x01 ∨ cause = 0x04)
    | .error _ => false)

/-- R428, R431: the page fault of an access of a context. -/
def mkFault (s : State) (c : Nat) (k : AccKind) (what va cause stage level : Nat) : FaultInfo :=
  { cause := cause, addr := va, acc := accWord what stage level, kind := k, used := walkUsed s c va k }

/-- R428: whether an entry that a failed walk used has changed since. What the host refused is not looked at again (R426). -/
def faultGone (s : State) (c : Nat) (i : FaultInfo) : Bool := decide (i.cause ≠ 0x06) && decide (walkUsed s c i.addr i.kind ≠ i.used)

/-- R420: a walk of an address met a malformed stage-2 entry: a firmware error. -/
def metBadLeaf (s : State) (c va : Nat) (k : AccKind) : Bool :=
  (readsOf s c va k).any (fun p => match leafOf (ctxD s c) (p.1 / 65536) with
    | some e => e.bad || reachesNothing (leafAddr e p.1)
    | none => false)

end Sys2Proof.Machine
end

