-- ==== Sys2Proof/Machine/Stores.lean ====
section
/-!
DEFINITION. Stores that are not yet performed (R116, R117, R120, R121, R136 to R140): which agents they are visible to, what an agent
may still read, and what fences, releases and acquires make visible (R118, R119, R123 to R125).
-/

namespace Sys2Proof.Machine

/-! ### Locations (R116) -/

/-- R116: the number of a byte of SRAM among all locations; a physical byte is its own number. -/
def sramLoc (key : Nat) : Nat := 2 ^ 52 + key

/-- The locations of some bytes of a core's SRAM. -/
def sramLocs (core off n : Nat) : List Nat := (List.range n).map (fun k => sramLoc (sramKey core (off + k)))

/-- R139: the bank of SRAM in which some locations lie; none for physical bytes. -/
def bankOf (locs : List Nat) : Option Nat :=
  (locs.head?).bind (fun l => if 2 ^ 52 ≤ l then some ((l - 2 ^ 52) / 0x4000) else none)

/-- R139: a local address names its bank through the quad view. -/
def quadView (a : Nat) : Bool := decide (0x100000 ≤ a)

/-! ### Agents and their scopes (R115, R118, R119) -/

/-- R115: an agent of a block. -/
def blockAgent (b n : Nat) : Nat := 2 * (2 ^ 17 + 4096 * b + n)

/-- R115: a lane of a fibre of a block's slot. -/
def laneAgent (b k f l : Nat) : Nat := blockAgent b (128 * k + 32 * f + l)

/-- R115: the matrix sequencer of a block. -/
def seqAgent (b : Nat) : Nat := blockAgent b 2048

/-- R115: the copy engine that serves a block. -/
def copyAgent (b : Nat) : Nat := blockAgent b 2049

/-- R115: a host requester, by its requester ID. -/
def hostAgent (rid : Nat) : Nat := 2 * rid

/-- R115: a peer module. -/
def peerAgent (peer : Nat) : Nat := 2 * (2 ^ 16 + peer)

/-- R115: the agent that issues: a lane, or the sequencer. -/
def agentOf (i : Issue) (l : Nat) : Nat := if i.seq then seqAgent i.blk else laneAgent i.blk i.slot i.fib l

/-- R115: the agent of a part of a store. -/
def Pend.agentAt (p : Pend) (l : Nat) : Nat :=
  if p.agent = 64 then seqAgent p.blk else laneAgent p.blk (p.agent / 4) (p.agent % 4) l

/-- R118: the core, quad or die instance of a core. -/
def coreInst (sc core : Nat) : Nat :=
  match sc with
  | 0 => core
  | 1 => 256 + core / 4
  | _ => 320 + core / 64

/-- R118: an agent's instance of a scope, numbered among all instances; none where the scope has none for it. -/
def instOf (s : State) (sc a : Nat) : Option Nat :=
  let x := a / 2
  let wide (least : Nat) : Option Nat := if least ≤ sc then some (512 + sc) else none
  if x < 2 ^ 16 then wide 4
  else if x < 2 ^ 17 then wide 5
  else
    let n := (x - 2 ^ 17) % 4096
    if n = 2049 ∨ 3 ≤ sc then wide 3
    else some (coreInst sc (coreOf (blkD s ((x - 2 ^ 17) / 4096)) (if n = 2048 then 0 else n / 128)))

/-- R118: the instance of a scope of one agent holds another. -/
def holdsAgent (s : State) (sc a b : Nat) : Bool := (instOf s sc a).isSome && decide (instOf s sc a = instOf s sc b)

/-- R119: two operations of two agents meet: the scope instance of each holds both. -/
def meets (s : State) (sa a sb b : Nat) : Bool := holdsAgent s sa a b && holdsAgent s sb b a

/-- R124: the view of the fences of an instance. -/
def fenceView (inst : Nat) : Nat := 2 * inst + 1

/-- R125: the view of a release. -/
def releaseView (n : Nat) : Nat := 2 * (1024 + n) + 1

/-- R104: the view of the fills of stash lines. -/
def fillView : Nat := 2 * 1023 + 1

/-! ### Parts of accesses (R116) -/

/-- R116: the sizes of the single-copy atomic parts of an access of `w` bytes at an address. -/
def unitSizes (a w : Nat) : List Nat :=
  if a % w ≠ 0 then List.replicate w 1 else if w = 16 then [8, 8] else [w]

/-- R311: the parts of a row: its aligned 8 bytes, and what stands before and after them. -/
def rowSizes (a n : Nat) : List Nat :=
  let lead := min n ((8 - a % 8) % 8)
  [lead] ++ List.replicate ((n - lead) / 8) 8 ++ [(n - lead) % 8]

/-- A list cut into pieces of some sizes. -/
def cutUnits {α : Type} (ns : List Nat) (xs : List α) : List (List α) :=
  match ns with
  | [] => []
  | n :: r => xs.take n :: cutUnits r (xs.drop n)

/-- R139: a part of a store was made through the quad view. -/
def Shard.quad (x : Shard) : Bool := x.loc && quadView x.va

/-- A part of a store touches one of some locations. -/
def Shard.hit (x : Shard) (locs : List Nat) : Bool := x.locs.any locs.contains

/-- R120: a view comes to hold a part of a store. -/
def Shard.see (v : Nat) (x : Shard) : Shard := if x.seen.contains v then x else { x with seen := x.seen ++ [v] }

/-- R117: no agent but the writer has seen a part, and no access of the writer that read it has been performed. -/
def Shard.unseen (x : Shard) : Bool := decide (x.seen.length ≤ 1) && !x.back

/-! ### What becomes visible to all (R117, R120) -/

/-- R120: parts of one store, oldest first, after some of them have become visible to every agent: these leave, and no older part
counts at their locations any more. `gone`: the locations that have so become visible. -/
def dropShards (f : Shard → Bool) (xs : List Shard) (gone : List Nat) : List Shard × List Nat :=
  match xs with
  | [] => ([], gone)
  | x :: r =>
    let (ys, g) := dropShards f r gone
    if f x then (ys, g ++ x.locs)
    else if x.hit g then
      let y := { x with locs := x.locs.map (fun l => if g.contains l then 2 ^ 60 else l) }
      (if y.locs.all (· == 2 ^ 60) then ys else y :: ys, g)
    else (x :: ys, g)

/-- R120: the stores after some of their parts have become visible to every agent. -/
def dropStores (f : Pend → Shard → Bool) (ps : List Pend) : List Pend × List Nat :=
  match ps with
  | [] => ([], [])
  | p :: r =>
    let (qs, g) := dropStores f r
    let (xs, g') := dropShards (f p) p.pieces g
    ({ p with pieces := xs } :: qs, g')

/-- R117, R120: some parts of stores become visible to every agent. -/
def showParts (s : State) (f : Pend → Shard → Bool) : State :=
  if s.stores.isEmpty then s else { s with stores := (dropStores f s.stores).1 }

/-- R120: the stores of some locations are visible to every agent: an agent that is not tracked has overwritten or read them. -/
def dropPieces (s : State) (locs : List Nat) : State := showParts s (fun _ x => x.hit locs)

/-- R117: a store is performed: every agent sees it. -/
def performStore (s : State) (id : Nat) : State :=
  let t := showParts s (fun p _ => p.id == id)
  { t with stores := t.stores.filter (fun p => p.id != id) }

/-- R124, R125: every store is visible to every agent. -/
def showStores (s : State) : State :=
  if s.stores.isEmpty then s else { s with stores := s.stores.map (fun p => { p with pieces := [] }) }

/-! ### Views (R120, R124, R125) -/

/-- The parts of every store, changed. -/
def mapParts (s : State) (g : Pend → Shard → Shard) : State :=
  if s.stores.isEmpty then s else { s with stores := s.stores.map (fun p => { p with pieces := p.pieces.map (g p) }) }

/-- R124, R125: a view comes to hold whatever another holds. -/
def joinView (s : State) (a v : Nat) : State := mapParts s (fun _ x => if x.seen.contains a then x.see v else x)

/-- R120: an agent sees every store of some locations. -/
def seeLocs (s : State) (v : Nat) (locs : List Nat) : State := mapParts s (fun _ x => if x.hit locs then x.see v else x)

/-- R131: the lanes of a meeting come to see what each of them has seen. -/
def joinAll (s : State) (as : List Nat) : State :=
  mapParts s (fun _ x => if x.seen.any as.contains then as.foldl (fun y a => y.see a) x else x)

/-- R124: a FENCE of an agent at a scope: the fences of one instance come one after another; each publishes what its agent has seen and
hands it what the earlier ones have published. -/
def fenceBy (s : State) (sc a : Nat) : State :=
  match instOf s sc a with
  | none => s
  | some n => joinView (joinView s a (fenceView n)) (fenceView n) a

/-- R123, R125: an agent releases at some locations at a scope what one view holds. -/
def publish (s : State) (locs : List Nat) (agent scope view : Nat) (obj : Bool) : State :=
  let live (v : Nat) : Bool := s.stores.any (fun p => p.pieces.any (fun x => x.seen.contains v))
  { s with pubs := s.pubs.filter (fun q => live q.view) ++
      (if live view then [{ locs := locs, agent := agent, scope := scope, view := view, obj := obj }] else []) }

/-- R123, R125: an agent acquires at some locations at a scope what the releases there have published that it meets. -/
def acquireAt (s : State) (locs : List Nat) (agent scope : Nat) (obj : Bool) : State :=
  (s.pubs.filter (fun q => decide (q.obj = obj) && q.locs.any locs.contains && meets s q.scope q.agent scope agent)).foldl
    (fun t q => joinView t q.view agent) s

/-- R125: a write that is no read-modify-write ends the releases of its locations. -/
def endReleases (s : State) (locs : List Nat) : State :=
  if s.pubs.isEmpty then s else { s with pubs := s.pubs.filter (fun q => q.obj || !q.locs.any locs.contains) }

/-! ### Accesses in flight (R34, R121, R436) -/

/-- R115: the agent of an access in flight. -/
def Flight.agent (x : Flight) : Nat := laneAgent x.blk x.slot x.fib x.lane

/-- R436: an access of the writer of a part of store `id`, younger than it, has been performed at its locations. -/
def Flight.after (x : Flight) (id : Nat) (y : Shard) : Bool :=
  decide (id < x.id) && decide (y.seen.head? = some x.agent) && y.hit x.locs

/-- Some accesses in flight have been performed for good: what they have read stands, and so do the older stores of their agents to their
bytes (R436). -/
def landFlights (s : State) (p : Flight → Bool) : State :=
  let gone := s.flights.filter p
  if gone.isEmpty then s else
  { mapParts s (fun q y => if gone.any (fun x => x.after q.id y) then { y with back := true } else y) with
    flights := s.flights.filter (fun x => !p x) }

/-- R120, R123: the accesses of an agent in flight to some locations, and its acquires, have been performed before a later one. -/
def landAt (s : State) (a : Nat) (locs : List Nat) : State :=
  landFlights s (fun x => x.agent == a && (decide (x.ord % 2 = 1) || x.locs.any locs.contains))

/-- R124, R125: the accesses in flight of some lanes of an issue have been performed. -/
def landLanes (s : State) (i : Issue) (ls : List Nat) : State :=
  landFlights s (fun x => x.blk == i.blk && x.slot == i.slot && x.fib == i.fib && ls.contains x.lane)

/-! ### Reads (R116, R120, R121, R138, R139) -/

/-- Bytes of some locations under the content of others. -/
def overlay (locs : List Nat) (bs : List Byte) (at' : List Nat) (c : List Byte) : List Byte :=
  (locs.zip bs).map (fun p => match at'.findIdx? (· == p.1) with
    | some k => c.getD k p.2
    | none => p.2)

/-- What a read has found so far, from the youngest store to the oldest: the bytes before those stores, the parts that it sees, oldest
first, and the banks in which it has seen one. -/
structure Sight where
  bs : List Byte
  vis : List Shard := []
  banks : List Nat := []
  deriving DecidableEq, Repr

/-- Who reads: an agent, whether it is a tile or operand read of a sequencer (R138), whether through the quad view (R139). -/
structure Reader where
  agent : Nat
  tile : Bool := false
  quad : Bool := false
  deriving DecidableEq, Repr

/-- R120: a read that sees a part of a store, or does not. -/
def Sight.meet (v : Sight) (locs : List Nat) (x : Shard) (sees : Bool) : Sight :=
  if !x.hit locs then v
  else { v with bs := overlay locs v.bs x.locs x.old, vis := if sees then x :: v.vis else v.vis }

/-- R139: one bank's order: a read through the quad view that has seen a younger write made so to the bank sees the older ones. -/
def ordered (r : Reader) (x : Shard) (v : Sight) : Bool :=
  r.quad && x.quad && ((bankOf x.locs).map v.banks.contains).getD false

/-- R120, R121, R139: a read meets a part of a store: an agent that has seen it, or a younger one of its bank, reads the new content;
another one does or does not, a free choice. `j` numbers the part of the read. -/
def lookPiece (r : Reader) (n id j : Nat) (locs : List Nat) (x : Shard) (v : Sight) : Shard × Sight :=
  if x.seen.contains r.agent then (x, v.meet locs x true)
  else if ordered r x v then (x.see r.agent, v.meet locs x true)
  else if !x.hit locs then (x, v)
  else if Config.freePick n (2 ^ 32 + id) (64 * x.locs.headD 0 + j) % 2 = 0 then (x, v.meet locs x false)
  else
    let w := v.meet locs x true
    (x.see r.agent, if r.quad ∧ x.quad then { w with banks := (bankOf x.locs).toList ++ w.banks } else w)

/-- R138: a tile read meets an MSTATOM: it reads all of it new, or, while every part of it stands and is unseen, all of it old. -/
def lookWhole (r : Reader) (n : Nat) (locs : List Nat) (p : Pend) (v : Sight) : Pend × Sight :=
  if !p.pieces.any (·.hit locs) then (p, v)
  else
    let sees := !(decide (p.pieces.length = p.whole) && p.pieces.all (fun x => !x.seen.contains r.agent) &&
      decide (Config.freePick n (2 ^ 32 + p.id) 0 % 2 = 0))
    (if sees then { p with pieces := p.pieces.map (·.see r.agent) } else p,
     p.pieces.foldr (fun x w => w.meet locs x sees) v)

/-- A read meets one store. -/
def lookPend (r : Reader) (n j : Nat) (locs : List Nat) (p : Pend) (v : Sight) : Pend × Sight :=
  if r.tile ∧ p.kind = .tileAtom then lookWhole r n locs p v
  else
    let (xs, u) := p.pieces.foldr (fun x (q : List Shard × Sight) =>
      let (y, w) := lookPiece r n p.id j locs x q.2
      (y :: q.1, w)) ([], v)
    ({ p with pieces := xs }, u)

/-- R120: what an agent reads of one single-copy atomic part, from the newest bytes. -/
def lookUnit (r : Reader) (s : State) (j : Nat) (locs : List Nat) (bs : List Byte) : State × List Byte :=
  if s.stores.isEmpty then (s, bs) else
  let (ps, v) := s.stores.foldr (fun p (q : List Pend × Sight) =>
    let (y, w) := lookPend r s.choice j locs p q.2
    (y :: q.1, w)) ([], { bs := bs })
  ({ s with stores := ps }, v.vis.foldl (fun b x => overlay locs b x.locs x.new) v.bs)

/-- R116, R120: what an agent reads of some locations in parts of some sizes, from the newest bytes. -/
def lookParts (r : Reader) (s : State) (ns locs : List Nat) (bs : List Byte) : State × List Byte :=
  if s.stores.isEmpty then (s, bs) else
  let us := (cutUnits ns locs).zip (cutUnits ns bs)
  (List.range us.length).foldl (fun p j =>
    let u := us.getD j ([], [])
    let (t, x) := lookUnit r p.1 j u.1 u.2
    (t, p.2 ++ x)) (s, [])

/-- R116, R120: what an agent reads of some locations; `a` is the address of the access. -/
def lookBytes (r : Reader) (s : State) (a : Nat) (locs : List Nat) (bs : List Byte) : State × List Byte :=
  lookParts r s (unitSizes a locs.length) locs bs

/-! ### Stores (R117, R139) -/

/-- R117: a store joins those that are not yet performed; its parts follow as they are written. -/
def addStore (s : State) (i : Issue) (scope : Nat) (kind : PendKind) : State :=
  { s with
    stores := s.stores ++ [{ id := s.nextId, blk := i.blk, agent := if i.seq then 64 else 4 * i.slot + i.fib, scope := scope, kind := kind,
                             pc := i.pc, insn := i.insn, ext := i.ext }]
    nextId := s.nextId + 1 }

/-- R117, R139: parts of a store that stand written but not seen. A writer through the quad view has seen every older such store to
the bank that it writes. -/
def addPieces (s : State) (id agent : Nat) (xs : List Shard) : State :=
  let banks := (xs.filter (·.quad)).filterMap (fun x => bankOf x.locs)
  { s with stores := s.stores.map (fun p =>
      let q := { p with pieces := p.pieces.map (fun x =>
        if x.quad ∧ ((bankOf x.locs).map banks.contains).getD false then x.see agent else x) }
      if p.id = id then { q with pieces := q.pieces ++ xs } else q) }

/-- The parts of one store at some locations as one, from the oldest content to the youngest. -/
def mergeAt (locs : List Nat) (xs : List Shard) : List Shard :=
  match xs with
  | [] => []
  | x :: r =>
    if x.locs = locs then { x with new := ((r.filter (fun y => y.locs == locs)).map (·.new)).getLastD x.new } ::
      r.filter (fun y => y.locs != locs)
    else x :: mergeAt locs r

/-- R137, R350: a store that updates an element again, from another tile row, makes one update of it. -/
def mergeParts (s : State) (id : Nat) (locs : List Nat) : State :=
  { s with stores := s.stores.map (fun p => if p.id = id then { p with pieces := mergeAt locs p.pieces } else p) }

/-- Whose write it is: the agent, the lane, the address, whether it is local, and the global address of its byte `k`. -/
structure Writer where
  agent : Nat
  lane : Nat := 0
  va : Nat
  loc : Bool := false
  glob : Nat → Option Nat := fun _ => none

/-- A write at a global address. -/
def Writer.global (agent lane va : Nat) : Writer := { agent := agent, lane := lane, va := va, glob := fun k => some ((va + k) % 2 ^ 64) }

/-- The parts of a write of some locations, in parts of some sizes, with the bytes before and after it. -/
def piecesOf (w : Writer) (ns locs : List Nat) (old new : List Byte) : List Shard :=
  let us := (cutUnits ns locs).zip ((cutUnits ns old).zip (cutUnits ns new))
  (List.range us.length).map (fun j =>
    let u := us.getD j ([], [], [])
    let k := (ns.take j).foldl (· + ·) 0
    { locs := u.1, va := w.va + k, lane := w.lane, loc := w.loc, glob := w.glob k, old := u.2.1, new := u.2.2
      seen := [w.agent], req := locs.length })

/-- R137, R138: a store is whole: MSTATOM, or MSTADD. -/
def markWhole (s : State) (id : Nat) : State :=
  { s with stores := s.stores.map (fun p => if p.id = id then { p with whole := p.pieces.length } else p) }

/-- R119, R137: the youngest part of a store at some locations that an update at a scope may lose, or that may lose it: one of the two is
an MSTADD, and their scopes do not meet. -/
def rival (s : State) (kind : PendKind) (scope agent : Nat) (locs : List Nat) : Option Shard :=
  s.stores.foldl (fun o p =>
    if (kind = .tileAdd ∧ (p.kind = .atom ∨ p.kind = .tileAdd)) ∨ (kind = .atom ∧ p.kind = .tileAdd) then
      p.pieces.foldl (fun o x =>
        if x.locs == locs then
          (if !x.seen.contains agent ∧ !meets s p.scope (p.agentAt x.lane) scope agent then some x else none)
        else if x.hit locs then none else o) o
    else if p.pieces.any (·.hit locs) then none else o) none

end Sys2Proof.Machine
end

