-- ==== Sys2Proof/Machine/Memory.lean ====
section
/-!
DEFINITION. The memory side: reads and writes of physical bytes with the recalls of R104, poison (R491), owner tags (R464),
local addresses (R91 to R93), stash lines (R100 to R107) and error records (R501).
-/

namespace Sys2Proof.Machine

/-! ### Error records and events (R490, R501, R517) -/

/-- R517: an owner event joins the events to be written; of 64 held while no ring is set the oldest is dropped. -/
def postEvent (s : State) (code : Nat) (payload : List Byte) : State :=
  updKen s (fun k =>
    let e : Event := { code := code, seq := k.evSeq, payload := payload }
    let h := k.held ++ [e]
    if h.length ≤ 64 then { k with held := h, evSeq := (k.evSeq + 1) % 2 ^ 32 }
    else { k with held := h.drop 1, evSeq := (k.evSeq + 1) % 2 ^ 32, evLost := true })

/-- R501: LOC of a line of HBM: its die, stack and pseudo-channel group. -/
def locHbm (pa : Nat) : Nat := if isHbm pa then homeDie pa * 16384 + bits pa 18 16 + 8 * bits pa 21 19 else 0
/-- R501: LOC of a core, with a bank of it. -/
def locCore (core bank : Nat) : Nat := core / 64 * 16384 + core % 64 / 4 * 1024 + core % 4 * 256 + bank

/-- R501: the intermediate pages at which contexts map a frame. -/
def framePages (s : State) (f : Nat) : List (Nat × Nat) :=
  (namers s f).map (fun c => (ctxName s c, (((leavesOf s c f).head?).map (·.page)).getD 0))

/-- R501: an error record joins the records to be delivered, with what stands at its detection, now unless it says when; corrected events
are folded first (R502). -/
def noteError (s : State) (e : ErrRec) : State :=
  updKen s (fun k =>
    let c := e.ctx % 4096
    let r := { e with seq := k.errSeq, uclk := if e.uclk = 0 then s.uclk else e.uclk
                      kin := if e.ctx = 0 then [] else (c :: ancestors s c).map (ctxName s)
                      pages := if e.addr = 0 ∨ !e.pages.isEmpty then e.pages else framePages s (e.addr / 65536) }
    if e.cls = 1 then { k with folds := k.folds ++ [r], errSeq := (k.errSeq + 1) % 2 ^ 32 }
    else { k with errs := k.errs ++ [r], errSeq := (k.errSeq + 1) % 2 ^ 32 })

/-- R420: a malformed stage-2 entry that the walk of an access meets is a package error. -/
def noteBadLeaf (s : State) (c va : Nat) (k : AccKind) : State :=
  if metBadLeaf s c va k then noteError s { cls := 6, unit := 14, action := 0, loc := 0, ctx := ctxName s c, addr := 0 } else s

/-! ### Physical bytes -/

/-- The distinct values of a list. -/
def nub (l : List Nat) : List Nat := l.foldl (fun a x => if a.contains x then a else a ++ [x]) []

/-- R497: frames of HBM that are to be retired. -/
def dueFrames (s : State) (fs : List Nat) : State :=
  updKen s (fun k => { k with due := k.due ++ (nub fs).filter (fun f => isHbm (f * 65536) && !k.due.contains f && !k.retired.contains f) })

/-- R491, R497: memory lines become poisoned; their frames are to be retired. -/
def addPoison (s : State) (lns : List Nat) : State :=
  dueFrames { s with memPoison := s.memPoison ++ (nub lns).filter (fun l => !s.memPoison.contains l) } (lns.map (· / 1024))
/-- R491: memory lines are no longer poisoned. -/
def dropPoison (s : State) (lns : List Nat) : State :=
  { s with memPoison := s.memPoison.filter (fun l => !lns.contains l) }
/-- R491: bank words become poisoned. -/
def addSramPoison (s : State) (ws : List Nat) : State :=
  { s with sramPoison := s.sramPoison ++ (nub ws).filter (fun l => !s.sramPoison.contains l) }
/-- R491: bank words are no longer poisoned. -/
def dropSramPoison (s : State) (ws : List Nat) : State :=
  { s with sramPoison := s.sramPoison.filter (fun l => !ws.contains l) }

/-- A stash line of a mapping. -/
def lineD (s : State) (m j : Nat) : SLine :=
  match mget s.mappings m with
  | none => {}
  | some x => x.lines.getD j {}
/-- The state with a stash line changed. -/
def updLine (s : State) (m j : Nat) (g : SLine → SLine) : State :=
  { s with mappings := mupd s.mappings m (fun x => { x with lines := x.lines.modify j g }) }

/-- R424: the cached translations that rest on changed node lines, and the walkers' own entries, are dropped; nodes in host memory are not
tracked. -/
def dropNodes (s : State) (lns : List Nat) : State :=
  { s with tlb := s.tlb.filter (fun t => !t.nodes.any (fun a => !isHost a && lns.contains (a / 64)))
           wcache := s.wcache.filter (fun h => h.s2 || isHost h.pa || !lns.contains (h.pa / 64)) }

/-- R147: the contexts, by name, that may fetch code from a frame. One that comes to map it only after a store fetches the new parcel: the
model's choice (log entry 15). -/
def coders (s : State) (frame : Nat) : List Nat :=
  (s.ctxs.filter (fun p => decide (p.2.st ≠ .free) && p.2.s2.any (fun e => e.x && decide (e.frame ≤ frame) &&
    decide (frame < e.frame + e.n)))).map (fun p => ctxName s p.1)

/-- The newest code parcel at a physical address. -/
def parcelAt (s : State) (pa : Nat) : Parcel16 := (newByte s (pa + 1)).1 ++ (newByte s pa).1

/-- R147: after a store to some bytes, the code parcels that have changed keep their old bits for later fetches. -/
def noteCode (s t : State) (pas : List Nat) : State :=
  let olds := (nub (pas.map (fun a => a / 2 * 2))).filterMap (fun pa =>
    let ns := coders s (pa / 65536)
    if ns.isEmpty ∨ parcelAt s pa = parcelAt t pa then none
    else some { pa := pa, old := parcelAt s pa, lanes := ns, ms := ns, dicts := ns : OldParcel })
  { t with icache := t.icache.filter (fun x => !olds.any (fun o => o.pa == x.pa && o.old == x.old)) ++ olds }

/-- R449, R450: the TAIL words that a write of some bytes reaches. -/
def hitTails (s : State) (pas : List Nat) : State :=
  { s with tails := s.tails.map (fun w =>
      if pas.any (fun a => decide (w.pa ≤ a) && decide (a < w.pa + 4)) then { w with hit := true } else w) }

/-- Bytes change: what that means for code (R147), table entries (R424) and queue headers (R449). -/
def noteWrite (s t : State) (pas : List Nat) : State := hitTails (dropNodes (noteCode s t pas) (pas.map (· / 64))) pas

/-- Bytes enter memory: the write itself, with the poison rule of R491 and what follows from it. -/
def putRaw (s : State) (pas : List Nat) (bs : List Byte) : State :=
  let lns := nub (pas.map (· / 64))
  let whole := lns.filter (fun l => (List.range 64).all (fun k => pas.contains (l * 64 + k)))
  let t : State := { s with mem := (pas.zip bs).foldl (fun m p => Memory.wr m p.1 p.2) s.mem }
  noteWrite s (dropPoison t whole) pas

/-- A write of bytes by an agent that is not tracked: every agent sees it at once. -/
def putBytes (s : State) (pas : List Nat) (bs : List Byte) : State := dropPieces (putRaw s pas bs) pas

/-- R104: the dirty bytes of a stash line go back to the global bytes that they map; poison goes with them (R491). -/
def writeBack (s : State) (m j : Nat) : State :=
  match mget s.mappings m with
  | none => s
  | some x =>
    let l := x.lines.getD j {}
    let ks := (List.range 64).filter (fun k => l.dirty.testBit k && decide (l.pas.getD k (2 ^ 52) < 2 ^ 52))
    let at' (k : Nat) := sramKey x.core (x.lbase + 64 * j + k)
    let bad := ks.filter (fun k => s.sramPoison.contains (at' k / 8))
    let s1 := putRaw s (ks.map (fun k => l.pas.getD k 0)) (ks.map (fun k => Memory.rd s.sram (at' k)))
    updLine (addPoison s1 (bad.map (fun k => l.pas.getD k 0 / 64))) m j (fun y => { y with dirty := 0 })

/-- R104: a stash line has a physical line among its touched lines. -/
def SLine.touches (l : SLine) (ln : Nat) : Bool := l.pas.any (fun pa => pa / 64 == ln)

/-- R104: the effect on one stash line of a read of a touched line by another agent. -/
def recallLine (s : State) (m j : Nat) : State :=
  if (lineD s m j).st = .exclusive then updLine (writeBack s m j) m j (fun y => { y with st := .shared }) else s

/-- R104: the effect on one stash line of the invalidation of a touched line. -/
def invalidateLine (s : State) (m j : Nat) : State :=
  match (lineD s m j).st with
  | .shared => updLine s m j (fun y => { y with st := .absent, pas := [] })
  | .upgrading => updLine s m j (fun y => { y with st := .filling, own := true })
  | .exclusive => updLine (writeBack s m j) m j (fun y => { y with st := .absent, pas := [] })
  | _ => s

/-- The stash lines that have a physical line among their touched lines, but for one exempt line. -/
def holders (s : State) (ln : Nat) (but : Option (Nat × Nat)) : List (Nat × Nat) :=
  s.mappings.flatMap (fun p =>
    ((List.range p.2.lines.length).filter (fun j => (p.2.lines.getD j {}).touches ln && decide (but ≠ some (p.1, j)))).map
      (fun j => (p.1, j)))

/-- R105: the directory recalls a physical line for a read, or invalidates it for a write. -/
def recallAt (s : State) (but : Option (Nat × Nat)) (wr : Bool) (ln : Nat) : State :=
  (holders s ln but).foldl (fun t p => if wr then invalidateLine t p.1 p.2 else recallLine t p.1 p.2) s

/-- The recalls of the lines of some addresses. -/
def recalls (s : State) (but : Option (Nat × Nat)) (wr : Bool) (pas : List Nat) : State :=
  (nub (pas.map (· / 64))).foldl (fun t ln => recallAt t but wr ln) s

/-- R463: the colour of a physical address. -/
def colour (x : Nat) : Nat := bits x 21 16 ^^^ bits x 27 22 ^^^ bits x 33 28 ^^^ bits x 39 34

/-- R463: the set of a line among the 65536 of an L2. -/
def l2Set (x : Nat) : Nat := colour x * 1024 + bits x 15 6

/-- R463: the pseudo-channel of its group in which a line of HBM lies; the group is bits 21:19 (R90, `locHbm`). -/
def pseudoChannel (x : Nat) : Nat := bits x 8 6

/-- R258: the ways that a line may take, of some: those that are empty, else those of lowest retention, else any. `old`: whether the line
that a way holds has the lowest retention, none where it holds none. -/
def waysFor (ws : List Nat) (old : Nat → Option Bool) : List Nat :=
  let free := ws.filter (fun w => (old w).isNone)
  let weak := ws.filter (fun w => decide (old w = some true))
  if !free.isEmpty then free else if !weak.isEmpty then weak else ws

/-- R464: the ways of the memory-side cache on a die in which a partition may allocate (R464, R499). -/
def allocWays (s : State) (c die : Nat) : List Nat :=
  (List.range 16).filter (fun w => (((sliceOf s c).mscw.getD die 0).testBit w) && !s.ken.quarantine.contains (die, w) &&
    !s.ken.sweeping.contains (die, w))

/-- R258: how an access allocates in the memory-side cache: as usual, at the lowest retention, or not at all. -/
inductive Retain | usual | low | never
  deriving DecidableEq, Repr

/-- R258: by the policy code of a load or a store. -/
def retainOf (policy : Nat) : Retain :=
  match policy with
  | 2 => .low
  | 3 => .never
  | _ => .usual

/-- The set of a line in the memory-side cache slice of its home die, whose ways hold 2^20 lines each (R4, R464): the line number
without the two bits that name the die (R90), modulo 2^20 (log entry 34). -/
def setOf (line : Nat) : Nat := (line / 2 ^ 13 * 2 ^ 11 + line % 2 ^ 11) % 2 ^ 20

/-- R464, R258: the ways of its set that a line may take, of those in which its partition may allocate. -/
def victimWays (s : State) (c ln : Nat) : List Nat :=
  let die := homeDie (ln * 64)
  waysFor (allocWays s c die) (fun w =>
    (s.msc.find? (fun x => decide (x.die = die) && decide (x.way = w) && decide (setOf x.line = setOf ln))).map (·.low))

/-- R464: a line is filled in one of the ways that it may take, a free choice, with the context's number as its owner tag; the line
that it displaces has been written back and leaves. -/
def fillMsc (s : State) (c : Nat) (wr low : Bool) (ln : Nat) : State :=
  let die := homeDie (ln * 64)
  match victimWays s c ln with
  | [] => s
  | ws =>
    let w := ws.getD (pick s ln 0 ws.length) 0
    { s with msc := s.msc.filter (fun x => !(decide (x.die = die) && decide (x.way = w) && decide (setOf x.line = setOf ln))) ++
        [{ line := ln, die := die, way := w, owner := c, dirty := wr, low := low }] }

/-- R464: the memory-side cache after an access on behalf of a context: a write makes a line dirty, and a missing line is filled
as the access asks (R258). -/
def touchMscBy (p : Retain) (s : State) (c : Nat) (wr : Bool) (pas : List Nat) : State :=
  (nub ((pas.filter isHbm).map (· / 64))).foldl (fun t ln =>
    if t.msc.any (fun x => x.line == ln) then
      { t with msc := t.msc.map (fun x => if x.line = ln ∧ wr then { x with dirty := true } else x) }
    else if p = .never then t
    else fillMsc t c wr (decide (p = .low)) ln) s

/-- The memory-side cache after an access that allocates as usual. -/
def touchMsc (s : State) (c : Nat) (wr : Bool) (pas : List Nat) : State := touchMscBy .usual s c wr pas

/-- A read of physical bytes on behalf of a context by an agent that sees the newest values (R105, R120). -/
def gRead (s : State) (c : Nat) (pas : List Nat) : State × List Byte :=
  let s1 := dropPieces (touchMsc (recalls s none false pas) c false pas) pas
  (s1, pas.map (Memory.rd s1.mem))

/-- R120, R121: a plain read of physical bytes by an agent, which may still read what a store not yet performed has replaced. -/
def gLook (p : Retain) (s : State) (c : Nat) (r : Reader) (pas : List Nat) : State × List Byte :=
  let s1 := touchMscBy p (recalls s none false pas) c false pas
  lookBytes r s1 (pas.headD 0) pas (pas.map (Memory.rd s1.mem))

/-- R311: a row of physical bytes as an agent reads it, by its aligned 8 bytes. -/
def gLookRow (s : State) (c : Nat) (r : Reader) (pas : List Nat) : State × List Byte :=
  let s1 := touchMsc (recalls s none false pas) c false pas
  lookParts r s1 (rowSizes (pas.headD 0) pas.length) pas (pas.map (Memory.rd s1.mem))

/-- A write of physical bytes on behalf of a context, as one request (R120, R104), that others see as its agent says. -/
def gPut (p : Retain) (s : State) (c : Nat) (pas : List Nat) (bs : List Byte) : State :=
  touchMscBy p (putRaw (recalls s none true pas) pas bs) c true pas

/-- A plain write of physical bytes by an agent that is not tracked: every agent sees it at once. -/
def gWrite (s : State) (c : Nat) (pas : List Nat) (bs : List Byte) : State :=
  endReleases (dropPieces (gPut .usual s c pas bs) pas) pas

/-- R492: some byte of a request lies in a poisoned line. -/
def anyPoison (s : State) (pas : List Nat) : Bool := pas.any (poisoned s)

/-- R424, R147: every walk and every store of firmware, without an agent's cache. -/
def physWrite (s : State) (pa : Nat) (bs : List Byte) : State :=
  let pas := (List.range bs.length).map (pa + ·)
  endReleases (putBytes (recalls s none true pas) pas bs) pas

/-- The bytes of a context's global address as the kennel die reads or writes them. -/
def kWalk (s : State) (c va n : Nat) (k : AccKind) : Except (Nat × Xl) (List Nat) :=
  if (spanOf va n).all canonical then xlateAll (fun a => walk s c none a k) (spanOf va n) else .error (va, .fault 0x01 1 4)

/-- A write of a context's global bytes by the kennel die, and whether its walk succeeds; a malformed entry is reported (R420). -/
def kWrite (s : State) (c va : Nat) (bs : List Byte) : State × Bool :=
  match kWalk s c va bs.length .write with
  | .ok pas => (gWrite s c pas bs, true)
  | .error e => (noteBadLeaf s c e.1 .write, false)

/-- A read of a context's global bytes by the kennel die, with their poison; none of them where the walk fails, whose malformed entry is
reported (R420). -/
def kRead (s : State) (c va n : Nat) : State × Option (List Byte × Bool) :=
  match kWalk s c va n .read with
  | .ok pas => let (s1, bs) := gRead s c pas; (s1, some (bs, anyPoison s1 pas))
  | .error e => (noteBadLeaf s c e.1 .read, none)

/-! ### Local addresses (R91 to R93) -/

/-- R47: a block that holds its slots and banks. -/
def Block.resident (x : Block) : Bool := decide (x.st ≠ .saved)

/-- R94: a block holds the banks of its plan on a core. -/
def holdsCore (x : Block) (core : Nat) : Bool :=
  x.resident && (if x.kd.quadRes then decide (core / 4 = x.die * 16 + x.quad) else decide (core = coreOf x 0))

/-- R95: the mode of a bank in a plan. -/
def planMode (x : Block) (bank : Nat) : Nat := x.kd.plan.getD bank 0 % 8

/-- R91: the core and the offset that a local address reaches; none for a range that reaches nothing. -/
def localAt (core a : Nat) : Option (Nat × Nat) :=
  if a < 0x100000 then some (core, a)
  else if a < 0x500000 then some (core / 4 * 4 + (a - 0x100000) / 0x100000, (a - 0x100000) % 0x100000)
  else none

/-- R3, R509: a core is enabled. -/
def coreEnabled (s : State) (core : Nat) : Bool :=
  (s.ken.dies.getD (core / 64) {}).up && (s.ken.dies.getD (core / 64) {}).cores.testBit (core % 64)

/-- R93: a core that some block of a context occupies. -/
def ctxOnCore (s : State) (c core : Nat) : Bool := s.blocks.any (fun p => decide (p.2.ctx = c) && holdsCore p.2 core)

/-- R93: a bank that a resident block of a context holds in SCRATCH or STASH mode. -/
def bankReach (s : State) (c core bank : Nat) : Bool :=
  s.blocks.any (fun p => decide (p.2.ctx = c) && holdsCore p.2 core && (planMode p.2 bank == 1 || planMode p.2 bank == 2))

/-- R111: the core that holds a block's handle buffers. -/
def handleCore (x : Block) : Nat := coreOf x 0

/-- R93: a byte range meets a handle buffer in the Draining state. -/
def inDraining (s : State) (core off n : Nat) : Bool :=
  s.blocks.any (fun p => p.2.resident && decide (handleCore p.2 = core) && p.2.handles.any (fun h =>
    decide (h.2.st = .draining) && decide (off < h.2.decl.lbase + h.2.decl.size) && decide (h.2.decl.lbase < off + n)))

/-- R93: a local access of `n` bytes by a context from a core; none where it raises the local-access trap. -/
def localOk (s : State) (c core a n : Nat) (store : Bool) : Option (Nat × Nat) :=
  match localAt core a with
  | none => none
  | some (k, off) =>
    if coreEnabled s k && ctxOnCore s c k && bankReach s c k (off / 0x4000) && decide (off / 0x4000 = (off + n - 1) / 0x4000) &&
      !(store && inDraining s k off n) then some (k, off) else none

/-! ### The L2 (R463) -/

/-- R463: the L2 of a die holds a line. -/
def inL2 (s : State) (die ln : Nat) : Bool := s.l2.any (fun x => x.die == die && x.line == ln)

/-- R463: the die whose L2 serves a line for a core: that of the core, or for an update of a line of HBM its home (R263). -/
def l2Die (core : Nat) (upd : Bool) (ln : Nat) : Nat := if upd && isHbm (ln * 64) then homeDie (ln * 64) else core / 64

/-- R463, R258: a line is filled in one of the ways of its set, a free choice. -/
def fillL2 (s : State) (die : Nat) (low : Bool) (ln : Nat) : State :=
  let here (w : Nat) (x : L2Line) : Bool := x.die == die && x.way == w && l2Set (x.line * 64) == l2Set (ln * 64)
  let ws := waysFor (List.range 16) (fun w => (s.l2.find? (here w)).map (·.low))
  let w := ws.getD (pick s ln 1 ws.length) 0
  { s with l2 := s.l2.filter (fun x => !here w x) ++ [{ line := ln, die := die, way := w, low := low }] }

/-- R463, R258: the L2 of a die after a request for a line; a write takes it from the other dies. -/
def touchL2 (p : Retain) (s : State) (die : Nat) (wr : Bool) (ln : Nat) : State :=
  let t : State := if wr then { s with l2 := s.l2.filter (fun x => x.line != ln || x.die == die) } else s
  if inL2 t die ln then t else fillL2 t die (decide (p = .low)) ln

/-! ### Counts of occurrences (R477) -/

/-- R477: an event has occurred `n` times in a context. -/
def addTally (s : State) (c e n : Nat) : State :=
  if n = 0 then s else { s with tallies := mset s.tallies (c * 65536 + e) (mgetD s.tallies (c * 65536 + e) 0 + n) }

/-- R422, R477: the pages of some addresses that a core's TLB misses. -/
def seekTlb (s : State) (c core : Nat) (k : AccKind) (vas : List Nat) : State :=
  addTally s c 0x0070 (nub ((vas.filter (fun a => (tlbHit s core c a k).isNone)).map (· / 4096))).length

/-- R34: an access in flight whose result words have not returned, and that no younger write or death has dropped. -/
def Flight.stands (s : State) (x : Flight) : Bool :=
  (List.range ((x.w + 3) / 4)).all (fun j => match mget (slotD s x.blk x.slot).regs (x.reg + j) with
    | some r => ((r.stale.find? (fun t => t.mask.testBit x.lane)).map (fun t => decide (t.op = some x.id))).getD false
    | none => false)

/-! ### Stash lines (R100 to R107) -/

/-- R100: bytes of the packed range. -/
def Mapping.size (m : Mapping) : Nat := m.count * m.fwid

/-- R101: the global byte that a byte of the packed range maps. -/
def Mapping.global (m : Mapping) (b : Nat) : Nat := (m.gbase.toNat + b / m.fwid * m.stride + m.foff + b % m.fwid) % 2 ^ 64

/-- The mapping and the line of a local byte of a core. -/
def stashAt (s : State) (core off : Nat) : Option (Nat × Nat) :=
  (s.mappings.find? (fun p => decide (p.2.core = core) && decide (p.2.lbase ≤ off) &&
    decide (off < p.2.lbase + 64 * p.2.lines.length))).map (fun p => (p.1, (off - p.2.lbase) / 64))

/-- The stash lines of a local byte range. -/
def stashLines (s : State) (core off n : Nat) : List (Nat × Nat) :=
  (List.range n).foldl (fun a k => match stashAt s core (off + k) with
    | some p => if a.contains p then a else a ++ [p]
    | none => a) []

/-- R101, R418: the physical bytes of a stash line, a byte that maps nothing at 2^52; or the first failure. -/
def linePas (s : State) (m : Mapping) (j : Nat) (k : AccKind) : Except (Nat × Xl) (List Nat) :=
  let bs := (List.range 64).map (fun i => j * 64 + i)
  match xlateAll (fun a => xlate s m.ctx m.core a k) ((bs.filter (fun b => decide (b < m.size))).map m.global) with
  | .ok ps => .ok (bs.map (fun b => if b < m.size then ps.getD (b - j * 64) (2 ^ 52) else 2 ^ 52))
  | .error e => .error e

/-- What a lane meets at the stash lines of its access: served, parked on a line or behind an SUNMAP (R276), a page fault, a lock, the
miss cap (R465). -/
inductive Meet | ok | line (core ln : Nat) (own : Bool) | behind (core ln : Nat) | fault (va cause stage level : Nat) | locked | capped
  deriving DecidableEq, Repr

/-- A stash line's number among all cores. -/
def lineKey (core ln : Nat) : Nat := core * 2 ^ 14 + ln

/-! ### The miss cap (R465) -/

/-- R465: a request that has missed L2 is outstanding: its access is still in flight, or its stash line is Filling or Upgrading. -/
def Miss.stands (s : State) (x : Miss) : Bool :=
  match x.of with
  | .access lo hi ln =>
    let mine (n : Nat) : Bool := decide (lo ≤ n) && decide (n < hi)
    s.flights.any (fun y => mine y.id && y.locs.any (fun a => a / 64 == ln) && y.stands s) ||
    s.ops.any (fun p => mine p.1 && p.2.elems.any (fun y => y.pa / 64 == ln)) ||
    s.stores.any (fun p => mine p.id && p.pieces.any (fun y => y.locs.any (fun a => a / 64 == ln)))
  | .stash core ln => match stashAt s core (64 * ln) with
    | some (m, j) => decide ((lineD s m j).st = .filling) || decide ((lineD s m j).st = .upgrading)
    | none => false

/-- R465: two requests belong to one issue. -/
def Miss.mate (x y : Miss) : Bool :=
  match x.of, y.of with
  | .access a _ _, .access b _ _ => a == b
  | _, _ => false

/-- R465: the misses that a quad may have outstanding for the slice partition of a context. -/
def missCap (s : State) (c : Nat) : Nat := 4 * ((sliceOf s c).misscap + 1)

/-- R465: the requests outstanding from the cores of a quad, for a slice partition, that have missed L2. -/
def quadMisses (s : State) (quad part : Nat) : List Miss := s.misses.filter (fun x => x.quad == quad && x.part == part && x.stands s)

/-- R465: requests of a context on a core for some lines stall at issue: one of them misses L2, and its quad has as many misses
outstanding for its partition as MISSCAP allows. -/
def missStall (s : State) (c core : Nat) (upd : Bool) (lns : List Nat) : Bool :=
  decide (missCap s c ≤ (quadMisses s (core / 4) (ctxD s c).part).length) && lns.any (fun ln => !inL2 s (l2Die core upd ln) ln)

/-- R465: a miss is outstanding from now on. Where its issue has used up what the cap leaves it, the oldest misses of that issue have been
answered when it is sent, the model's choice (log entry 34). -/
def addMiss (s : State) (c : Nat) (x : Miss) : State :=
  let rest := s.misses.filter (fun y => y.stands s && !y.mate x)
  let mine := s.misses.filter (·.mate x) ++ [x]
  let used := (rest.filter (fun y => y.quad == x.quad && y.part == x.part)).length
  { s with misses := rest ++ mine.drop (mine.length - (missCap s c - used)) }

/-- R463, R465: one request of an issue for a line goes to L2. -/
def sendLine (p : Retain) (c core : Nat) (upd wr : Bool) (lo hi : Nat) (s : State) (ln : Nat) : State :=
  let die := l2Die core upd ln
  let t := if inL2 s die ln then s else
    addMiss (addTally s c 0x0040 1) c { quad := core / 4, part := (ctxD s c).part, of := .access lo hi ln }
  touchL2 p t die wr ln

/-- R104, R465: the fill or upgrade of a stash line goes out, one request for the global lines that it touches. -/
def sendFill (s : State) (m : Mapping) (ln : Nat) (wr : Bool) (lns : List Nat) : State :=
  let gone := lns.filter (fun x => !inL2 s (m.core / 64) x)
  let t := if gone.isEmpty then s else
    addMiss (addTally s m.ctx 0x0040 gone.length) m.ctx { quad := m.core / 4, part := (ctxD s m.ctx).part, of := .stash m.core ln }
  lns.foldl (fun u x => touchL2 .usual u (m.core / 64) wr x) t

/-- The lines of HBM and host memory among some bytes of a stash line. -/
def realLines (pas : List Nat) : List Nat := nub ((pas.filter (fun pa => decide (pa < 2 ^ 52))).map (· / 64))

/-- R104, R418: an access of a kind to a whole stash line translates, or meets a fault or a lock, or the miss cap; `g` is its effect on
the line. -/
def askLine (s : State) (m : Mapping) (p : Nat × Nat) (k : AccKind) (park : Meet) (g : List Nat → SLine → SLine) : State × Meet :=
  match linePas s m p.2 k with
  | .ok pas =>
    let lns := realLines pas
    if missStall s m.ctx m.core false lns then (s, .capped) else
    let vas := ((List.range 64).map (fun i => p.2 * 64 + i)).filter (fun b => decide (b < m.size))
    let t := sendFill (seekTlb s m.ctx m.core k (vas.map m.global)) m (m.lbase / 64 + p.2) (decide (k ≠ .read)) lns
    (updLine t p.1 p.2 (g pas), park)
  | .error (va, .fault c st lv) => (s, .fault va c st lv)
  | .error _ => (s, .locked)

/-- R104: an access meets one stash line; a fill or an upgrade starts where the table says so. `right` names the line whose
fill the lane waited for: an SUNMAP lets it be served (R276). -/
def meetLine (s : State) (right : Option Nat) (store : Bool) (p : Nat × Nat) : State × Meet :=
  match mget s.mappings p.1 with
  | none => (s, .ok)
  | some m =>
    let l := m.lines.getD p.2 {}
    let ln := m.lbase / 64 + p.2
    let park : Meet := .line m.core ln store
    if !m.ready then (s, park) else
    if m.unmapping ∧ right ≠ some (lineKey m.core ln) then (s, .behind m.core ln) else
    match l.st, store with
    | .exclusive, _ => (s, .ok)
    | .shared, false => (s, .ok)
    | .upgrading, false => (s, .ok)
    | .filling, false => (s, park)
    | .filling, true => if l.own then (s, park) else askLine s m p .write park (fun _ y => { y with own := true })
    | .upgrading, true => (s, park)
    | .shared, true => askLine s m p .write park (fun _ y => { y with st := .upgrading })
    | .absent, _ => askLine s m p (if store then .atomic else .read) park (fun pas y => { y with st := .filling, own := store, pas := pas })

/-- R104: an access meets its stash lines in order; the first that does not serve it decides. -/
def meetLines (s : State) (right : Option Nat) (store : Bool) (ps : List (Nat × Nat)) : State × Meet :=
  match ps with
  | [] => (s, .ok)
  | p :: r =>
    match meetLine s right store p with
    | (t, .ok) => meetLines t right store r
    | q => q

/-- R41: the lanes parked on a stash line become issuable, with the right to use it. -/
def wakeLine (s : State) (core ln : Nat) : State :=
  { s with blocks := s.blocks.map (fun p => (p.1, { p.2 with slots := p.2.slots.map (fun x => { x with fibs := x.fibs.map (fun f =>
      { f with lanes := f.lanes.map (fun y => match y.st with
        | .parked (.line c n _) => if c = core ∧ n = ln then { y with st := .issuable, right := some (lineKey core ln) } else y
        | _ => y) }) }) })) }

/-- R276: the lanes parked behind an SUNMAP of a line become issuable. -/
def wakeUnmapped (s : State) (core ln : Nat) : State :=
  { s with blocks := s.blocks.map (fun p => (p.1, { p.2 with slots := p.2.slots.map (fun x => { x with fibs := x.fibs.map (fun f =>
      { f with lanes := f.lanes.map (fun y => if y.st = .parked (.unmap core ln) then { y with st := .issuable } else y) }) }) })) }

/-- R104, R276: the lines of a mapping that has gone or become ready wake their lanes. -/
def wakeLines (s : State) (core lo n : Nat) : State :=
  (List.range n).foldl (fun t k => wakeUnmapped (wakeLine t core (lo + k)) core (lo + k)) s

/-- R116: the locations of some bytes of a core's SRAM: a byte that a stash line maps is the global byte. -/
def localLocs (s : State) (core off n : Nat) : List Nat :=
  (List.range n).map (fun k =>
    let key := sramLoc (sramKey core (off + k))
    match stashAt s core (off + k) with
    | some (m, j) => let pa := (lineD s m j).pas.getD ((off + k) % 64) (2 ^ 52); if pa < 2 ^ 52 then pa else key
    | none => key)

/-- R94: bytes of a bank are written as they stand. -/
def sramPut (s : State) (core off : Nat) (bs : List Byte) : State :=
  dropPieces { s with sram := Memory.wrN s.sram (sramKey core off) bs } (sramLocs core off bs.length)

/-- R491: the poison of the bank words that a store of `n` bytes covers wholly is cleared. -/
def sramClears (s : State) (core off n : Nat) : State :=
  dropSramPoison s ((List.range ((n + 7) / 8 + 1)).map (fun k => sramKey core off / 8 + k) |>.filter
    (fun w => decide (sramKey core off ≤ w * 8) && decide (w * 8 + 8 ≤ sramKey core off + n)))

/-- R103, R276: a range of a core's SRAM comes to read 0, and is poisoned no longer (R491). -/
def sramZero (s : State) (core off n : Nat) : State :=
  dropPieces (sramClears { s with sram := Memory.zero s.sram (sramKey core off) n } core off n) (sramLocs core off n)

/-- A store of bytes of a core's SRAM that no stash line stands in the way of: stash bytes are marked dirty and bytes that
map nothing are discarded (R101, R104); what follows for the global bytes that they are is that of any write. Others see it as its
agent says. -/
def lPut (s : State) (core off : Nat) (bs : List Byte) : State :=
  let ps := stashLines s core off bs.length
  let keep := (List.range bs.length).filter (fun k => match stashAt s core (off + k) with
    | none => true
    | some (m, j) => decide ((lineD s m j).pas.getD ((off + k) % 64) (2 ^ 52) < 2 ^ 52))
  let s1 : State := { s with sram := keep.foldl (fun m k => Memory.wr m (sramKey core (off + k)) (bs.getD k 0)) s.sram }
  let s2 := sramClears s1 core off bs.length
  let s3 := ps.foldl (fun t p => updLine t p.1 p.2 (fun y => { y with
    dirty := keep.foldl (fun d k => if stashAt s core (off + k) = some p then d ||| 2 ^ ((off + k) % 64) else d) y.dirty })) s2
  if ps.isEmpty then s3 else
  let pas := keep.filterMap (fun k => (stashAt s core (off + k)).map (fun p => (lineD s p.1 p.2).pas.getD ((off + k) % 64) 0))
  noteWrite s s3 pas

/-- A store of bytes of a core's SRAM by an agent that is not tracked: every agent sees it at once. -/
def lWrite (s : State) (core off : Nat) (bs : List Byte) : State :=
  let at' := localLocs s core off bs.length
  endReleases (dropPieces (lPut s core off bs) at') at'

/-- The bytes of a core's SRAM. -/
def lRead (s : State) (core off n : Nat) : List Byte := Memory.rdN s.sram (sramKey core off) n

/-- R120, R121: a plain read of bytes of a core's SRAM by an agent. -/
def lLook (s : State) (r : Reader) (core off n : Nat) : State × List Byte :=
  lookBytes r s off (localLocs s core off n) (lRead s core off n)

/-! ### Stores that other agents may not yet see (R116, R117) -/

/-- R116, R120: a plain store of a lane to physical bytes, as part of the pending store `id`. -/
def gStore (q : Retain) (s : State) (i : Issue) (id lane va : Nat) (pas : List Nat) (bs : List Byte) : State :=
  let a := agentOf i lane
  let old := pas.map (fun pa => (newByte s pa).1)
  addPieces (endReleases (gPut q (landAt s a pas) (blkD s i.blk).ctx pas bs) pas) id a
    (piecesOf (.global a lane va) (unitSizes (pas.headD 0) pas.length) pas old bs)

/-- R101: a write at a local address, whose bytes may be global ones. -/
def localWriter (s : State) (agent lane la core off : Nat) : Writer :=
  { agent := agent, lane := lane, va := la, loc := true
    glob := fun k => (stashAt s core (off + k)).bind (fun p => (mget s.mappings p.1).map (fun m => m.global (off + k - m.lbase))) }

/-- R116, R120: a plain store to bytes of a core's SRAM in parts of some sizes, at a local address that may name the quad view. -/
def lStoreBy (s : State) (i : Issue) (id lane la core off : Nat) (ns : List Nat) (bs : List Byte) : State :=
  let a := agentOf i lane
  let locs := localLocs s core off bs.length
  addPieces (endReleases (lPut (landAt s a locs) core off bs) locs) id a
    (piecesOf (localWriter s a lane la core off) ns locs (lRead s core off bs.length) bs)

/-- R116: a plain store of a lane to bytes of a core's SRAM. -/
def lStore (s : State) (i : Issue) (id lane la core off : Nat) (bs : List Byte) : State :=
  lStoreBy s i id lane la core off (unitSizes off bs.length) bs

/-! ### Stores that are not performed after all (R342, R436) -/

/-- The newest content of some locations is set. -/
def setNewest (s : State) (cs : List (Nat × Byte)) : State :=
  cs.foldl (fun t p =>
    if 2 ^ 52 ≤ p.1 then { t with sram := Memory.wr t.sram (p.1 - 2 ^ 52) p.2 }
    else match dirtyAt t p.1 with
      | some key => noteWrite t { t with sram := Memory.wr t.sram key p.2 } [p.1]
      | none => putRaw t [p.1] [p.2]) s

/-- What stood before a younger part of a store, once an older one is gone: the contents that are to stand there still. -/
def patchOld (x : Shard) (cs : List (Nat × Byte)) : Shard × List (Nat × Byte) :=
  ({ x with old := (x.locs.zip x.old).map (fun p => ((cs.find? (fun q => q.1 == p.1)).map (·.2)).getD p.2) },
   cs.filter (fun q => !x.locs.contains q.1))

/-- The parts of stores from one on, oldest first, without that one; what stood before it at the locations that none of them has
written since. `cs`: none before that part is met. -/
def cutPart (id : Nat) (x : Shard) (p : Pend) (cs : Option (List (Nat × Byte))) : Pend × Option (List (Nat × Byte)) :=
  let (xs, r) := p.pieces.foldl (fun (q : List Shard × Option (List (Nat × Byte))) y =>
    match q.2 with
    | some c => let (z, c') := patchOld y c; (q.1 ++ [z], some c')
    | none => if p.id = id ∧ y = x then (q.1, some (x.locs.zip x.old)) else (q.1 ++ [y], none)) ([], cs)
  ({ p with pieces := xs }, r)

/-- R342, R436: a part of a store has not been performed: what stood just before it stands, where nothing younger does. -/
def undoPart (s : State) (id : Nat) (x : Shard) : State :=
  let (ps, r) := s.stores.foldl (fun (q : List Pend × Option (List (Nat × Byte))) p =>
    let (y, c) := cutPart id x p q.2
    (q.1 ++ [y], c)) ([], none)
  setNewest { s with stores := ps } ((r.getD []).filter (fun c => decide (c.1 ≠ 2 ^ 60)))

/-- R342, R397, R445: issue has stopped for good in some agents: of their stores in flight any part may not be performed, but an
MSTADD or MSTATOM only as a whole; a free choice. -/
def cutStores (s : State) (f : Pend → Bool) : State :=
  (s.stores.filter f).reverse.foldl (fun t p =>
    if p.whole = 0 then
      (p.pieces.reverse.filter (fun x => x.unseen && decide (Config.freePick t.choice (2 ^ 33 + p.id) (x.locs.headD 0) % 2 = 0))).foldl
        (fun u x => undoPart u p.id x) t
    else if p.pieces.length = p.whole ∧ p.pieces.all (·.unseen) ∧ Config.freePick t.choice (2 ^ 33 + p.id) 0 % 2 = 0 then
      p.pieces.reverse.foldl (fun u x => undoPart u p.id x) t
    else t) s

/-- R492: a poisoned bank word lies under a local byte range. -/
def lPoison (s : State) (core off n : Nat) : Bool :=
  (List.range n).any (fun k => s.sramPoison.contains (sramKey core (off + k) / 8))

end Sys2Proof.Machine
end

