-- ==== Sys2Proof/Machine/Regs.lean ====
section
/-!
DEFINITION. Registers (R49 to R57, R34, R35, R63) and the chunks that hold them (R58 to R61).
-/

namespace Sys2Proof.Machine

/-- R50: the architectural register of a name under a window base. -/
def archReg (wb name : Nat) : Nat := if name < 112 then wb + name else 1008 + (name - 112)

/-- R34, R177: a former content that a read at a clk may still return. -/
def Stale.live (t : Stale) (clk : Nat) : Bool :=
  match t.due with
  | some d => decide (clk < d)
  | none => true

/-- R34, R35: the contents of a register that a read by one lane may return, the one last written first. -/
def Reg.choices (r : Reg) (clk lane : Nat) : List Word :=
  r.vals.getD lane 0 ::
    (r.stale.filter (fun t => t.mask.testBit lane && t.live clk)).map (fun t => t.vals.getD lane 0)

/-- R34: the word that a lane reads: exact where every content agrees, else a free choice. -/
def Reg.read (r : Reg) (clk n key lane : Nat) : Word :=
  let c := r.choices clk lane
  let v := r.vals.getD lane 0
  if c.all (fun w => w == v) then v else c.getD (Config.freePick n key lane % c.length) v

/-- The words of an architectural register in every lane, as the slot reads it now (R56: a dead register reads 0). -/
def readArch (s : State) (b k a : Nat) : List Word :=
  match mget (slotD s b k).regs a with
  | none => List.replicate 32 0
  | some r => lanes32.map (fun l => r.read s.clk s.choice a l)

/-- The word last written to an architectural register in a lane. -/
def regWord (s : State) (b k a l : Nat) : Word :=
  match mget (slotD s b k).regs a with
  | none => 0
  | some r => r.vals.getD l 0

/-- R35: a younger write or a death drops the results to come for its lanes. -/
def cutLate (t : List Late) (ls : List Nat) : List Late :=
  (t.map (fun p => { p with mask := maskOf (lanes32.filter (fun l => p.mask.testBit l && !ls.contains l)) })).filter
    (fun p => decide (p.mask ≠ 0))

/-- The earlier of two clk, none being never. -/
def sooner (a b : Option Nat) : Option Nat :=
  match a, b with
  | some x, some y => some (min x y)
  | none, d => d
  | d, none => d

/-- R35: an older result in flight where a younger write of some lanes returns at `due`: in those lanes it is dropped by then. -/
def Stale.under (t : Stale) (due : Option Nat) (ls : List Nat) : List Stale :=
  [{ t with mask := maskOf (lanes32.filter (fun l => t.mask.testBit l && !ls.contains l)) },
   { t with mask := maskOf (lanes32.filter (fun l => t.mask.testBit l && ls.contains l)), due := sooner t.due due }].filter
    (fun x => decide (x.mask ≠ 0))

/-- R35, R55, R56, R63: a register after a write of some lanes by a fibre. The result is in flight until clk `due`, or until it
returns where `due` is none; a written word is not poisoned. -/
def Reg.write (o : Option Reg) (fib clk : Nat) (due : Option Nat) (ls : List Nat) (g : Nat → Word) : Reg :=
  let r := o.getD { vals := List.replicate 32 0 }
  { vals := lanes32.map (fun l => if ls.contains l then g l else r.vals.getD l 0)
    poison := maskOf (lanes32.filter (fun l => r.poison.testBit l && !ls.contains l))
    stale := { vals := r.vals, mask := maskOf ls, fib := fib, due := due } ::
      (r.stale.filter (fun t => t.live clk)).flatMap (fun t => t.under due ls)
    late := cutLate r.late ls }

/-! ### Chunks (R58 to R61) -/

/-- The chunks of a slot that hold a physical chunk. -/
def physChunks (x : Slot) : Nat :=
  (x.chunks.filter (fun p => decide (p.2.st = .resident) || decide (p.2.st = .refilling))).length

/-- The slots of a core, as (block, slot), in block order. -/
def coreSlots (s : State) (core : Nat) : List (Nat × Nat) :=
  s.blocks.flatMap (fun p =>
    if p.2.st = .saved then [] else
    ((List.range p.2.slots.length).filter (fun k => coreOf p.2 k == core)).map (fun k => (p.1, k)))

/-- R31: the slot number on its core that a slot of a block has. -/
def coreSpot (x : Block) (k : Nat) : Nat := x.spots.getD k k

/-- R31: the slots that share a slot's issue pipe: slot number `n` of a core is served by its pipe `n` mod 4. -/
def pipeSlots (s : State) (b k : Nat) : List (Nat × Nat) :=
  (coreSlots s (coreOf (blkD s b) k)).filter (fun p => coreSpot (blkD s p.1) p.2 % 4 == coreSpot (blkD s b) k % 4)

/-- R59: no physical chunk is free for a slot: it is at its guarantee of 24 and the 128 shared chunks are taken. -/
def noFreeChunk (s : State) (b k : Nat) : Bool :=
  decide (24 ≤ physChunks (slotD s b k)) &&
  decide (128 ≤ ((coreSlots s (coreOf (blkD s b) k)).map (fun p => physChunks (slotD s p.1 p.2) - 24)).foldl (· + ·) 0)

/-- R58: a chunk that may leave Resident: no result is in flight into it. -/
def mayLeave (x : Slot) (clk c : Nat) : Bool :=
  x.regs.all (fun p => decide (p.1 / 8 ≠ c) ||
    ((p.2.stale.filter (fun t => t.live clk)).isEmpty && p.2.late.isEmpty))

/-- R59: the Resident chunks of a slot. -/
def residentChunks (x : Slot) : Nat := (x.chunks.filter (fun p => decide (p.2.st = .resident))).length

/-- R59: the least recently used chunk of a slot that may leave. Chunks used by one issue are equally recent: the one of the
lowest number is taken, the model's choice (log entry 57). -/
def lruChunk (x : Slot) (clk : Nat) : Option Nat :=
  (x.chunks.filter (fun p => decide (p.2.st = .resident) && mayLeave x clk p.1)).foldl
    (fun a p => match a with
      | none => some p.1
      | some c => if p.2.used < (mgetD x.chunks c { st := .resident, used := 0 }).used then some p.1 else some c) none

/-- R60: the chunks that the SPILL banks of a block hold at most, on one core. -/
def spillRoom (x : Block) : Nat := 16 * (x.kd.plan.filter (fun p => p % 8 == 5)).length

/-- R59: the slot that loses a chunk to an allocation of a slot: that slot itself where it is above its guarantee, else the slot
of the core with the most Resident chunks above its guarantee, of equals the one with the lowest slot number on the core. -/
def victimSlot (s : State) (b k : Nat) : Option (Nat × Nat) :=
  if 24 < physChunks (slotD s b k) then some (b, k) else
  (coreSlots s (coreOf (blkD s b) k)).foldl (fun a p =>
    match a with
    | none => if 24 < residentChunks (slotD s p.1 p.2) then some p else none
    | some q =>
      let m := residentChunks (slotD s q.1 q.2)
      let n := residentChunks (slotD s p.1 p.2)
      if m < n ∨ (m = n ∧ coreSpot (blkD s p.1) p.2 < coreSpot (blkD s q.1) q.2) then some p else some q) none

/-- R59: the chunk that an allocation of a slot takes from a slot; none while every one awaits a result or is refilling. -/
def victimOf (s : State) (b k : Nat) : Option (Nat × Nat × Nat) :=
  match victimSlot s b k with
  | none => none
  | some p => (lruChunk (slotD s p.1 p.2) s.clk).map (fun c => (p.1, p.2, c))

/-- R59, R60: an allocation of a slot takes a victim, to a SPILL bank of its block where there is room, else to its spill area. The banks
are those of the slot's own core, also in a quad-resident block: the model's choice (log entry 63). -/
def takeVictim (s : State) (b0 k0 : Nat) : State :=
  match victimOf s b0 k0 with
  | none => s
  | some (b, k, c) =>
      let core := coreOf (blkD s b) k
      let held := (((coreSlots s core).filter (fun p => p.1 == b)).map (fun p =>
        ((slotD s p.1 p.2).chunks.filter (fun q => decide (q.2.st = .bank))).length)).foldl (· + ·) 0
      if held < spillRoom (blkD s b) then
        updSlot s b k (fun x => { x with
          chunks := mupd x.chunks c (fun y => { y with st := .bank }), spbank := (x.spbank + 1) % 2 ^ 32 })
      else
        updSlot s b k (fun x => { x with
          chunks := mupd x.chunks c (fun y => { y with st := .l2 }), spl2 := (x.spl2 + 1) % 2 ^ 32 })

/-- R58: the chunk of a register that is about to be written holds storage. A write by SRW and a register that a save gives back take it
without a look at the room left: the model's choice (log entry 63). -/
def allocChunk (s : State) (b k c : Nat) : State :=
  match mget (slotD s b k).chunks c with
  | some _ => s
  | none =>
    let s1 := if noFreeChunk s b k then takeVictim s b k else s
    updSlot s1 b k (fun x => { x with chunks := mset x.chunks c { st := .resident, used := x.issues } })

/-- R59: a slot finds no physical chunk: none is free and no victim may leave. -/
def noRoom (s : State) (b k : Nat) : Bool := noFreeChunk s b k && (victimOf s b k).isNone

/-- R61: a refill starts: the chunk takes a physical chunk and its contents return later; it does not while there is none. -/
def startRefill (s : State) (b k c : Nat) : State :=
  if noRoom s b k then s else
  let s1 := if noFreeChunk s b k then takeVictim s b k else s
  updSlot s1 b k (fun x => { x with
    chunks := mupd x.chunks c (fun y => { y with st := .refilling }), refill := (x.refill + 1) % 2 ^ 32 })

/-- R58, R59: some of the chunks of registers that are to be written is unallocated and no physical chunk can be had for it. -/
def lacksRoom (s : State) (b k : Nat) (as : List Nat) : Bool :=
  ((as.foldl (fun (p : State × Bool) a =>
    if p.2 ∨ (mget (slotD p.1 b k).chunks (a / 8)).isSome then p
    else if noRoom p.1 b k then (p.1, true) else (allocChunk p.1 b k (a / 8), false)) (s, false))).2

/-- R59: the chunks of some registers are used by an issue. -/
def useChunks (x : Slot) (as : List Nat) : Slot :=
  { x with chunks := x.chunks.map (fun p => if as.any (fun a => a / 8 == p.1) then (p.1, { p.2 with used := x.issues }) else p) }

/-- R58: chunks all of whose registers are dead hold nothing; a Refilling one only once its contents have returned. -/
def freeChunks (x : Slot) : Slot :=
  { x with chunks := x.chunks.filter (fun p => decide (p.2.st = .refilling) || x.regs.any (fun q => q.1 / 8 == p.1)) }

/-! ### Reads and writes of the state -/

/-- A write of an architectural register by a fibre: nothing where no lane writes. -/
def writeArch (s : State) (b k f a : Nat) (lat : Option Nat) (ls : List Nat) (g : Nat → Word) : State :=
  if ls.isEmpty then s else
  updSlot (allocChunk s b k (a / 8)) b k (fun x => { x with
    regs := mset x.regs a (Reg.write (mget x.regs a) f s.clk (lat.map (fun n => s.clk + n)) ls g) })

/-- R35, R430: lanes of a register await the result of an operation: a younger write than every earlier one. -/
def awaitArch (s : State) (b k f a id : Nat) (ls : List Nat) : State :=
  if ls.isEmpty then s else
  updSlot (allocChunk s b k (a / 8)) b k (fun x =>
    let r := (mget x.regs a).getD { vals := List.replicate 32 0 }
    { x with regs := mset x.regs a { r with late := cutLate r.late ls ++ [{ id := id, fib := f, mask := maskOf ls }] } })

/-- R35: the lanes of a register that still await operation `id`. -/
def awaiting (s : State) (b k a id : Nat) : List Nat :=
  match mget (slotD s b k).regs a with
  | none => []
  | some r => lanes32.filter (fun l => r.late.any (fun t => t.id == id && t.mask.testBit l))

/-- R35: a result of operation `id` returns to the lanes that still await it. -/
def returnArch (s : State) (b k a id : Nat) (g : Nat → Word) : State :=
  let ls := awaiting s b k a id
  if ls.isEmpty then s else
  updSlot s b k (fun x => { x with regs := mupd x.regs a (fun r =>
    { r with
      vals := lanes32.map (fun l => if ls.contains l then g l else r.vals.getD l 0)
      poison := maskOf (lanes32.filter (fun l => r.poison.testBit l && !ls.contains l))
      late := cutLate r.late ls }) })

/-- R34: the results that operation `id` has written are exact. -/
def exactOp (s : State) (b k id : Nat) : State :=
  updSlot s b k (fun x => { x with regs := x.regs.map (fun p =>
    (p.1, { p.2 with stale := p.2.stale.filter (fun t => decide (t.op ≠ some id)) })) })

/-- R34, R135: the newest former content of a register stays readable until operation or access `id` returns its result. -/
def tagStale (s : State) (b k a id : Nat) : State :=
  updSlot s b k (fun x => { x with regs := mupd x.regs a (fun r =>
    match r.stale with
    | [] => r
    | t :: rest => { r with stale := { t with op := some id } :: rest }) })

/-- R63, R492: words of a register become poisoned. Only array errors count in sr.poison, not words loaded from poisoned memory: the model's
choice (log entry 63). -/
def poisonArch (s : State) (b k a : Nat) (ls : List Nat) : State :=
  if ls.isEmpty then s else
  updSlot s b k (fun x => { x with
    regs := mupd x.regs a (fun r => { r with poison := maskOf (lanes32.filter (fun l => r.poison.testBit l || ls.contains l)) }) })

/-- R55 to R58: registers become dead; a result in flight is dropped; a chunk without a live register is freed. -/
def killArch (s : State) (b k : Nat) (as : List Nat) : State :=
  if as.isEmpty then s else
  updSlot s b k (fun x => freeChunks { x with regs := x.regs.filter (fun p => !as.contains p.1) })

/-- R55, R56, R215: a register that dies with results in flight into it: they still return to it and make it live again, until when it
reads 0; none where no result is in flight. -/
def Reg.fades (r : Reg) (clk : Nat) : Option Reg :=
  let st := r.stale.filter (fun t => t.live clk)
  if st.isEmpty ∧ r.late.isEmpty then none else
  let flies (l : Nat) : Bool := st.any (fun t => t.mask.testBit l)
  let last (k l : Nat) : Bool := !((st.drop (k + 1)).any (fun t => t.mask.testBit l))
  some { vals := lanes32.map (fun l => if flies l then r.vals.getD l 0 else 0)
         poison := maskOf (lanes32.filter (fun l => r.poison.testBit l && flies l))
         stale := st.mapIdx (fun k t => { t with vals := lanes32.map (fun l => if last k l then 0 else t.vals.getD l 0) })
         late := r.late }

/-- R55, R215: registers become dead, but for results in flight into them. -/
def fadeArch (s : State) (b k : Nat) (as : List Nat) : State :=
  if as.isEmpty then s else
  updSlot s b k (fun x => freeChunks { x with regs := x.regs.filterMap (fun p =>
    if as.contains p.1 then (p.2.fades s.clk).map (fun r => (p.1, r)) else some p) })

/-- The results to come of some operations are dropped. -/
def dropLate (x : Slot) (ids : List Nat) : Slot :=
  { x with regs := x.regs.map (fun p => (p.1, { p.2 with late := p.2.late.filter (fun t => !ids.contains t.id) })) }

/-- R57, R436: registers that the marks of an instruction have killed are as before it, but for those written since. -/
def revive (x : Slot) (ms : List (Nat × Reg)) : Slot :=
  ms.foldl (fun y p => if (mget y.regs p.1).isSome then y else
    { y with
      regs := mset y.regs p.1 p.2
      chunks := if (mget y.chunks (p.1 / 8)).isSome then y.chunks else mset y.chunks (p.1 / 8) { st := .resident, used := y.issues } }) x

/-- R214, R436: the wait of a fibre in a blocking instruction ends without its effect: its results to come are dropped, its
marks have not acted, and it leaves the waiters of its ring (R288). -/
def unwait (s : State) (b k f : Nat) : State :=
  match (fibD s b k f).wait with
  | none => s
  | some w =>
    if w.kind = .retry then
      updSlot { s with rings := s.rings.map (fun p => (p.1, { p.2 with
          waiters := p.2.waiters.filter (fun v => !(v.1 == b && v.2.1 == 4 * k + f)) })) } b k (fun x => { revive (dropLate x [w.id]) w.marked with
        fibs := x.fibs.modify f (fun y => { y with wait := none }) })
    else updFib s b k f (fun y => { y with wait := none })

/-- R35: every result in flight of a fibre has returned (R32). -/
def returnAll (x : Slot) (f : Nat) : Slot :=
  { x with regs := x.regs.map (fun p => (p.1, { p.2 with stale := p.2.stale.filter (fun t => !(t.fib == f)) })) }

/-- R32: some result of a fibre has not returned: one of variable latency, or a fixed one issued too recently. -/
def inFlight (x : Slot) (clk f : Nat) : Bool :=
  x.regs.any (fun p => p.2.stale.any (fun t => t.fib == f && t.live clk) || p.2.late.any (fun t => t.fib == f))

/-- R34, R177, R231, R253, R298: the latency of an opcode's results in clk; none where it is variable. -/
def latency (op f imm : Nat) : Option Nat :=
  if op = 0x04 ∨ op = 0x25 ∨ op = 0x26 ∨ op = 0x17 ∨ op = 0x1B then none
  else if op ≤ 0x11 ∨ op = 0x22 ∨ op = 0x23 ∨ op = 0x24 then some 4
  else if op = 0x19 ∨ op = 0x1A then some 8
  else if op = 0x1F then (if imm / 16 % 16 = 0 ∨ (f = 0 ∧ imm / 256 % 16 = 0) then some 8 else some 6)
  else if op = 0x20 ∧ f = 4 then none
  else if op ≤ 0x20 then some 6
  else if op = 0x35 ∨ (op = 0x33 ∧ (f = 1 ∨ f = 4)) ∨ op = 0x38 ∨ (op = 0x3B) ∨ (op = 0x3D) ∨ (op = 0x3F ∧ 2 ≤ f) ∨
    (op = 0x63 ∧ f = 2) then some 4
  else none

end Sys2Proof.Machine
end

