-- ==== Sys2Proof/Machine/Ops.lean ====
section
/-!
DEFINITION. The operations that every meaning shares: tickets and traps (R408, R431), taking a trap and returning from one
(R42, R409), reconvergence (R36 to R39, R207), barriers (R210 to R213, R219), and the frame of an issue (R32, R33, R154).
-/

namespace Sys2Proof.Machine

/-! ### Tickets and traps (R408, R431, R432) -/

/-- The words of a trap record from the fields that are set. -/
def recWords (fs : List (Nat × Nat)) : List Word :=
  (List.range 32).map (fun k => BitVec.ofNat 32 (((fs.filter (fun p => p.1 == k)).map (·.2)).foldl (· + ·) 0))

/-- R431: WHERE of a fibre. -/
def whereWord (s : State) (b k f : Nat) : Nat :=
  let x := blkD s b
  k + 16 * f + 64 * (vdOf s x.ctx x.die % 4) + 256 * x.quad + 4096 * (coreOf x k % 4)

/-- R408: the first context of a path that holds a handler and is not Revoking, with the contexts passed before it. -/
def findHolder (s : State) (path : List Nat) (hops : Nat) : Option Nat × Nat :=
  match path with
  | [] => (none, hops)
  | c :: r => if (ctxD s c).htask ≠ 0 ∧ (ctxD s c).st ≠ .revoking then (some c, hops) else findHolder s r (hops + 1)

/-- The bytes of words (R6). -/
def wordBytes (ws : List Word) : List Byte := ws.flatMap (fun w => natLe 4 w.toNat)

/-- The first of some numbers from 1 to 2^32 − 1, taken in turn, that is not in use. -/
def unusedNum (used : List Nat) (n fuel : Nat) : Nat :=
  match fuel with
  | 0 => n
  | k + 1 => if used.contains n then unusedNum used (n % (2 ^ 32 - 1) + 1) k else n

/-- R408: the number of the next ticket: nonzero, 32 bits, that of no outstanding ticket, otherwise free. -/
def ticketNum (s : State) : Nat :=
  unusedNum (s.tickets.map (·.2.num)) (Config.ticketNum s.nextTicket % (2 ^ 32 - 1) + 1) s.tickets.length

/-- R408: the place in issue order of the outstanding ticket with a number; 0 where there is none. -/
def ticketKey (s : State) (n : Nat) : Nat :=
  match s.tickets.find? (fun p => p.2.num == n) with
  | some p => p.1
  | none => 0

/-- R408, R431: a ticket for a trap in context `c`, its record sent along `path`; where none holds it, the owner does and
receives event 0x21. -/
def newTicket (s : State) (c : Nat) (src : TrapSrc) (path : List Nat) (fs : List (Nat × Nat)) : State :=
  let (h, hops) := findHolder s path 0
  let id := s.nextTicket
  let ws := recWords (fs ++ [(1, ticketNum s), (2, ctxName s c), (3, min hops 255)])
  let t : Ticket := { num := ticketNum s, words := ws, ctx := c, holder := h, src := src, push := h.isSome }
  let s1 := { s with tickets := mset s.tickets id t, nextTicket := id + 1 }
  if h.isNone ∧ s.ken.owner.isSome then postEvent s1 0x21 (wordBytes ws) else s1

/-- R313: the open window of a fibre closes. -/
def closeWindow (s : State) (b k f : Nat) : State :=
  match (fibD s b k f).window with
  | none => s
  | some w => updFib { s with windows := mupd s.windows w (fun x => { x with shut := true }) } b k f
      (fun x => { x with window := none, winIdle := 0 })

/-- Taking a trap in a fibre (R42, R408, R431): the fibre freezes as it stands, and a ticket carries the record. `more` holds
the fields of words 12 to 19. -/
def trapAt (s : State) (b k f kind detail : Nat) (ls : List Nat) (rep : Nat) (pc : DWord) (insn ext : Word)
    (more : List (Nat × Nat)) : State :=
  let x := blkD s b
  let s1 := updFib (unwait (closeWindow s b k f) b k f) b k f (fun y => { y with st := .frozen })
  newTicket s1 x.ctx (.fibre b k f) (x.ctx :: ancestors s x.ctx)
    ([(0, kind + 65536 * detail), (4, x.task), (5, whereWord s b k f), (6, maskOf ls), (7, lowest ls + 256 * rep),
      (8, pc.toNat % 2 ^ 32), (9, pc.toNat / 2 ^ 32), (10, insn.toNat), (11, ext.toNat)] ++ more)

/-- Taking a trap at the issuing instruction. -/
def trapFibre (s : State) (i : Issue) (kind detail : Nat) (ls : List Nat) (more : List (Nat × Nat)) : State :=
  trapAt s i.blk i.slot i.fib kind detail ls (laneD (fibIs s i) (lowest ls)).rep i.pc i.insn i.ext more

/-- Words 12 and 13 of a record: a faulting address. -/
def addrField (a : Nat) : List (Nat × Nat) := [(12, a % 2 ^ 32), (13, a / 2 ^ 32)]

/-- Taking a trap in a sequencer (R341): it stops at the instruction. WHERE is that of slot 0 (R431). -/
def trapSeq (s : State) (i : Issue) (kind detail : Nat) (more : List (Nat × Nat)) : State :=
  let x := blkD s i.blk
  let s1 := updSeq s i.blk (fun q => { q with st := .frozen })
  newTicket s1 x.ctx (.seqr i.blk) (x.ctx :: ancestors s x.ctx)
    ([(0, kind + 65536 * detail + 16777216), (4, x.task), (5, whereWord s i.blk 0 0),
      (8, i.pc.toNat % 2 ^ 32), (9, i.pc.toNat / 2 ^ 32), (10, i.insn.toNat), (11, i.ext.toNat)] ++ more)

/-! ### Reconvergence (R38, R39, R201, R207) -/

/-- A lane is live: launched and not exited (R64, m0). -/
def Lane.live (y : Lane) : Bool :=
  match y.st with
  | .notLaunched => false
  | .exited => false
  | _ => true
/-- R64: m0. -/
def m0 (x : Fibre) : List Nat := lanes32.filter (fun l => (laneD x l).live)
/-- R201: the depth of a fibre. -/
def depthOf (x : Fibre) : Nat := (m0 x).foldl (fun a l => max a (laneD x l).depth) 0
/-- Mask m(k) as a set of lanes; m0 is the live lanes. -/
def maskLanes (x : Fibre) (k : Nat) : List Nat := if k = 0 then m0 x else lanesOf (x.masks.getD k 0).toNat
/-- A lane that may be selected: issuable and not held by a call (R36, R201). -/
def issuable (x : Fibre) (l : Nat) : Bool :=
  decide ((laneD x l).st = .issuable) && decide ((laneD x l).depth = depthOf x)

/-- R39: a lane whose program counter becomes `pc`: held there when it reaches its meeting address. -/
def Lane.goto (y : Lane) (pc : DWord) (rep : Nat) : Lane :=
  let z := { y with pc := pc, rep := rep, st := .issuable, right := none }
  if y.meet ≠ 0 ∧ y.meet = pc ∧ rep = 0 then { z with st := .held .meeting pc } else z

/-- R207: the lanes that a WAITM of any mask holds at address `pc`. -/
def heldAt (x : Fibre) (pc : DWord) : List Nat :=
  lanes32.filter (fun l => match (laneD x l).st with
    | .held (.waitm _) _ => decide ((laneD x l).pc = pc)
    | _ => false)

/-- R207: whether every lane of the mask has arrived at the address or left. -/
def waitmDone (x : Fibre) (m : Nat) (pc : DWord) : Bool := (maskLanes x m).all (fun l => (heldAt x pc).contains l)

/-- R39: whether every peer of a lane stands at the meeting address. -/
def meetDone (x : Fibre) (a : DWord) : Bool :=
  (m0 x).all (fun l => decide ((laneD x l).meet ≠ a) || decide ((laneD x l).st = .held .meeting a))

/-- R38, R39, R207: the releases of one fibre: lanes of a complete WAITM go on, lanes of a complete meeting become
issuable. -/
def releaseOnce (x : Fibre) : Fibre :=
  { x with lanes := x.lanes.map (fun y =>
      match y.st with
      | .held (.waitm m) next => if waitmDone x m y.pc then y.goto next 0 else y
      | .held .meeting _ => if meetDone x y.meet then { y with st := .issuable } else y
      | _ => y) }

/-- The releases, repeated: a release of one address may complete another. -/
def releases (x : Fibre) : Fibre := releaseOnce (releaseOnce (releaseOnce x))

/-- R22: a fibre whose m0 is empty has ended. -/
def endIfEmpty (x : Fibre) : Fibre :=
  if x.st = .live ∧ (m0 x).isEmpty then { x with st := .ended, wait := none, wstack := [] } else x

/-- A lane is held at a WAITM or at its meeting address. -/
def Lane.gathers (y : Lane) : Bool :=
  match y.st with
  | .held (.waitm _) _ => true
  | .held .meeting _ => true
  | _ => false

/-- R131: the lanes of a fibre that a WAITM or a meeting has let go. -/
def gathered (x y : Fibre) : List Nat := lanes32.filter (fun l => (laneD x l).gathers && !(laneD y l).gathers)

/-- The releases of a fibre of the state; the lanes that go on have seen what each of them has seen (R131). -/
def settleFib (s : State) (b k f : Nat) : State :=
  let x := fibD s b k f
  let y := releases x
  let ls := gathered x y
  updFib (if ls.isEmpty then s else joinAll s (ls.map (laneAgent b k f))) b k f (fun _ => endIfEmpty y)

/-- R201, R204, R205: the window stack is popped down to the depth of the lanes that are left; where a call closes, the fibre selects among
its lanes again, those left at a CALLX with them (R203). -/
def settleDepth (x : Fibre) : Fibre :=
  let n := x.wstack.length - depthOf x
  match n with
  | 0 => x
  | m + 1 => { x with wb := x.wstack.getD m x.wb, wstack := x.wstack.drop (m + 1), group := [], gcount := 0 }

/-- R205: lanes leave the fibre by EXIT: they are removed from every mask and from every wait. -/
def exitLanes (x : Fibre) (ls : List Nat) : Fibre :=
  let y := updLanes x ls (fun _ z => { z with st := .exited, meet := 0 })
  settleDepth { y with masks := y.masks.map (fun m => BitVec.ofNat 32 (maskOf ((lanesOf m.toNat).filter (fun l => !ls.contains l)))) }

/-- The start of a fibre (R21, R64, R78, R217): the lanes of a mask at an entry address, under a window base, with the
generator seeded. -/
def startFib (entry : DWord) (mask : Word) (wb : Nat) (seed : Word) : Fibre :=
  { st := .live
    lanes := lanes32.map (fun l => if mask.getLsbD l then { st := .issuable, pc := entry } else {})
    wb := wb
    gen := if seed = 0 then 1 else seed
    seed := seed
    nlane := popcount mask.toNat }

/-! ### Barriers (R210 to R213, R219) -/

/-- The participants of a barrier: fibres that are not Empty, Ended or Stopped. -/
def Fibre.takesPart (x : Fibre) : Bool := decide (x.st = .live) || decide (x.st = .frozen)

/-- The barrier at which a lane has issued an arriving instruction. -/
def Lane.arriving (y : Lane) : Option Nat :=
  match y.st with
  | .held (.arrive n _) _ => some n
  | _ => none

/-- R210: the barrier at which every live lane of a fibre has issued an arriving instruction. A lane that has issued it stays so when a
CALL of another group then leaves it below the fibre's depth: the model's choice (log entry 62). -/
def Fibre.arrivedAt (x : Fibre) : Option Nat :=
  if x.st = .live then
    match (m0 x).map (fun l => (laneD x l).arriving) with
    | some n :: r => if r.all (fun o => decide (o = some n)) then some n else none
    | _ => none
  else none

/-- The lanes of an arrival: those of a BARARV go on, those of a BARSYNC go on to its wait. -/
def arriveLanes (x : Fibre) (target : Nat) : Fibre :=
  { x with lanes := x.lanes.map (fun y =>
      match y.st with
      | .held (.arrive n true) next => { y with st := .held (.phase n target) next }
      | .held (.arrive _ false) next => y.goto next 0
      | _ => y) }

/-- R211, R212: a fibre that has arrived at a block barrier or a matrix barrier is counted there. -/
def arriveFib (s : State) (b k f : Nat) : State :=
  let x := fibD s b k f
  match x.arrivedAt with
  | none => s
  | some n =>
    if n < 16 then
      let ph := ((blkD s b).bars.getD n {}).phase
      let open' := match x.pend.getD n none with
        | some p => decide (ph ≤ p)
        | none => false
      if open' then s else
      updBlk (updFib s b k f (fun x => { arriveLanes x ph with pend := x.pend.set n (some ph) })) b
        (fun y => { y with bars := y.bars.modify n (fun z => { z with arrived := z.arrived ++ [4 * k + f] }) })
    else if n < 32 then
      if (seqD s b).st = .ended then updFib s b k f (fun x => arriveLanes x 0) else
      if x.ctrs.getD 1 0 = 63 then s else
      updSeq (updFib s b k f (fun x => { arriveLanes x 0 with ctrs := x.ctrs.modify 1 (· + 1) })) b
        (fun q => { q with queue := q.queue.modify (n - 16) (· ++ [4 * k + f]) })
    else s

/-- The fibre positions of a block. -/
def fibIds (x : Block) : List (Nat × Nat) :=
  (List.range x.slots.length).flatMap (fun k => (List.range 4).map (fun f => (k, f)))

/-- R210: the phase of a block barrier completes when every participant has arrived. -/
def phaseBar (x : Block) (z : Bar) : Bar :=
  if !z.arrived.isEmpty ∧ (fibIds x).all (fun p => !(((x.slots.getD p.1 {}).fibs.getD p.2 {}).takesPart) ||
      z.arrived.contains (4 * p.1 + p.2)) then { phase := z.phase + 1, arrived := [] } else z

/-- R211, R212: the lanes of a fibre whose wait at a barrier has ended go on, unless the fibre is frozen (R486). Lanes that wait at one
matrix barrier at several addresses have made as many BARWAITs, each of which a MARV of its own completes: the model's choice (log entry
62). -/
def passFib (s : State) (b k f : Nat) : State :=
  let x := fibD s b k f
  let held := if x.st = .frozen then [] else lanes32.filter (fun l => match (laneD x l).st with
    | .held (.phase n t) _ =>
      if n < 16 then decide (t < ((blkD s b).bars.getD n {}).phase)
      else decide (x.mwaits.getD (n - 16) 0 < (seqD s b).marv.getD (n - 16) 0)
    | _ => false)
  match held with
  | [] => s
  | l :: _ =>
    match (laneD x l).st with
    | .held (.phase n _) next =>
      let ls := held.filter (fun j => match (laneD x j).st with
        | .held (.phase m _) nx => decide (m = n) && decide (nx = next)
        | _ => false)
      updFib s b k f (fun x =>
        let y := updLanes x ls (fun _ z => z.goto next 0)
        if n < 16 then { y with pend := y.pend.set n none } else { y with mwaits := y.mwaits.modify (n - 16) (· + 1) })
    | _ => s

/-- Every lane that has arrived at barrier `n` goes on. -/
def goOn (x : Fibre) (n : Nat) : Fibre :=
  { x with lanes := x.lanes.map (fun y =>
      match y.st with
      | .held (.arrive m _) next => if m = n then y.goto next 0 else y
      | _ => y) }

/-- R219: FBAR releases a slot when every participant has arrived. -/
def passFbar (x : Slot) : Slot :=
  if x.fibs.any (fun y => decide (y.arrivedAt = some 32)) ∧
      x.fibs.all (fun y => !y.takesPart || decide (y.arrivedAt = some 32)) then
    { x with fibs := x.fibs.map (fun y => goOn y 32) } else x

/-- R22: every fibre of a block has ended or stopped. -/
def allEnded (x : Block) : Bool :=
  x.slots.all (fun k => k.fibs.all (fun f => decide (f.st = .empty) || decide (f.st = .ended) || decide (f.st = .stopped)))

/-- R213: a block has arrived at a launch barrier: each of its fibres that takes part has. -/
def Block.arrivedAt (x : Block) (n : Nat) : Bool :=
  decide (x.st = .retiring) || (decide (x.st = .running) &&
    x.slots.all (fun y => y.fibs.all (fun z => !z.takesPart || decide (z.arrivedAt = some n))))

/-- R29: two blocks of one launch meet at the level of a launch barrier. -/
def sameUnit (n : Nat) (x y : Block) : Bool :=
  decide (x.launch = y.launch) &&
  (if n = 33 then decide (x.die = y.die) && decide (x.quad = y.quad) else if n = 34 then decide (x.die = y.die) else true)

/-- R213: the launch barrier of a block's unit releases when every participant has arrived. -/
def passLaunch (s : State) (b n : Nat) : State :=
  let x := blkD s b
  if s.blocks.all (fun p => !(sameUnit n x p.2) || p.2.arrivedAt n) then
    { s with blocks := s.blocks.map (fun p => if sameUnit n x p.2 then
        (p.1, { p.2 with slots := p.2.slots.map (fun y => { y with fibs := y.fibs.map (fun z => goOn z n) }) }) else p) }
  else s

/-- One round of the barriers of a block. -/
def barRound (s : State) (b : Nat) : State :=
  let s1 := (fibIds (blkD s b)).foldl (fun t p => arriveFib t b p.1 p.2) s
  let s2 := updBlk s1 b (fun x => { x with bars := x.bars.map (phaseBar x) })
  let s3 := (fibIds (blkD s b)).foldl (fun t p => passFib t b p.1 p.2) s2
  let s4 := updBlk s3 b (fun x => { x with slots := x.slots.map passFbar })
  passLaunch (passLaunch (passLaunch s4 b 33) b 34) b 35

/-- A block with a lane at a barrier or an open arrival. -/
def atBarrier (x : Block) : Bool :=
  x.bars.any (fun z => !z.arrived.isEmpty) || x.slots.any (fun y => y.fibs.any (fun z => z.lanes.any (fun l =>
    match l.st with
    | .held (.arrive _ _) _ => true
    | .held (.phase _ _) _ => true
    | _ => false)))

/-- The barriers of a block, to rest: an arrival that a pending phase held back follows its completion. A block at no barrier
may still complete one of its launch by leaving it (R29). -/
def settleBars (s : State) (b : Nat) : State :=
  if s.blocks.any (fun p => decide (p.2.launch = (blkD s b).launch) && atBarrier p.2) then
    barRound (barRound (barRound (barRound s b) b) b) b
  else s

/-! ### Page faults of lanes (R41, R428, R429) -/

/-- The lanes parked for a page fault, with their faults. -/
def faultLanes (x : Fibre) : List (Nat × FaultInfo) :=
  lanes32.filterMap (fun l => match (laneD x l).st with
    | .parked (.fault i) => some (l, i)
    | _ => none)

/-- R203: the lanes parked for a CALLX budget. -/
def budgetLanes (x : Fibre) : List Nat :=
  lanes32.filter (fun l => match (laneD x l).st with
    | .parked (.budget _ _) => true
    | _ => false)

/-- R429, R203: when no lane of a live fibre is issuable, its parked lanes are reported: first those whose entries have
changed become issuable (R446); then the unresolved page faults, once firmware has examined them; then budget faults. -/
def reportParked (s : State) (b k f : Nat) : State :=
  let x := fibD s b k f
  if x.st ≠ .live ∨ (m0 x).any (fun l => decide ((laneD x l).st = .issuable) && decide ((laneD x l).depth = depthOf x)) then s else
  let fl := faultLanes x
  let gone := (fl.filter (fun p => p.2.examined && faultGone s (blkD s b).ctx p.2)).map (·.1)
  if !gone.isEmpty then updFib s b k f (fun y => updLanes y gone (fun _ z => { z with st := .issuable })) else
  if fl.any (fun p => !p.2.examined) then s else
  match fl with
  | (l, i) :: _ =>
    trapAt s b k f 0x0B i.cause (fl.map (·.1)) (laneD x l).rep (i.pc.getD (laneD x l).pc) i.insn i.ext
      (addrField i.addr ++ [(14, i.acc)])
  | [] =>
    match budgetLanes x with
    | [] => s
    | l :: r =>
      match (laneD x l).st with
      | .parked (.budget n e) => trapAt s b k f 0x05 3 (l :: r) (laneD x l).rep (laneD x l).pc n e []
      | _ => s

/-- R41: lanes of the issue park; the instruction has no effect for them. -/
def parkLanes (s : State) (i : Issue) (ls : List Nat) (g : Nat → Park) : State :=
  updIs s i (fun x => updLanes x ls (fun l y => { y with st := .parked (g l) }))

/-! ### Stops, waiting acquires, idle windows -/

/-- R44: a fibre stops: every live lane exits. -/
def stopFib (x : Fibre) : Fibre :=
  { x with st := .stopped, wait := none, wstack := [], stopReq := false,
           lanes := x.lanes.map (fun y => if y.live then { y with st := .exited, meet := 0 } else y) }

/-- R218: a fibre that has been asked to stop does so when it is Ready. -/
def obeyStop (s : State) (b k f : Nat) : State :=
  let x := fibD s b k f
  if x.stopReq ∧ x.st = .live ∧ x.wait.isNone then updFib (closeWindow s b k f) b k f stopFib else s

/-- R313: a window closes when its fibre is Held, Frozen, Stopped or Ended, or has issued 64 instructions after its last
issue. -/
def idleWindow (s : State) (b k f : Nat) : State :=
  let x := fibD s b k f
  if x.window.isSome ∧ (x.st ≠ .live ∨ 64 < x.winIdle ∨ !(lanes32.any (issuable x))) then closeWindow s b k f else s

/-- R130: whether an acquire may take an object word with this HOLD. -/
def objFree (excl : Bool) (hold : Nat) : Bool := if excl then decide (hold = 0) else decide (hold < 0xFFFFFFFE)

/-- R130: HOLD after the acquire. -/
def objTake (excl : Bool) (hold : Nat) : Nat := if excl then 0xFFFFFFFF else hold + 1

/-- The lanes of a waiting acquire that still wait. -/
def acqLanes (s : State) (a : Acq) : List Nat :=
  a.lanes.filter (fun l => match (laneD (fibD s a.blk a.slot a.fib) l).st with
    | .held .object _ => true
    | _ => false)

/-- R486: a waiting acquire belongs to a frozen fibre, whose state is kept. -/
def acqFrozen (s : State) (a : Acq) : Bool := decide ((fibD s a.blk a.slot a.fib).st = .frozen)

/-- R130: an acquire of an object arrived before a moment and still waits: the home serves the acquires of an object in arrival
order, but for those of frozen fibres (log entry 59). -/
def queuedBefore (s : State) (pa id : Nat) : Bool :=
  s.acqs.any (fun a => decide (a.pa = pa) && decide (a.id < id) && !acqFrozen s a)

/-- R130, R268: the newest object word: RCNT, HOLD, and whether it is poisoned (R492). -/
def objWord (s : State) (pa : Nat) : Nat × Nat × Bool :=
  let (bs, bad) := newBytes s pa 8
  (leNat (bs.drop 4), leNat (bs.take 4), bad)

/-- R130: the update of an acquire at the object's home: it raises HOLD, or of a poisoned word it changes nothing (R492). -/
def takeObject (s : State) (c pa : Nat) (excl : Bool) : State :=
  let (t, bs) := gRead s c ((List.range 8).map (pa + ·))
  if anyPoison t [pa] then t
  else gWrite t c ((List.range 4).map (pa + ·)) (natLe 4 (objTake excl (leNat (bs.take 4))))

/-- R130: an acquire of an object by some lanes makes visible to them what its releases have published. -/
def acquireBound (s : State) (b k f scope pa : Nat) (ls : List Nat) : State :=
  ls.foldl (fun t l => acquireAt t [pa] (laneAgent b k f l) scope true) s

/-- R130, R268: a waiting acquire that is the first of a free object takes it at the home; its lanes receive RCNT and go on. One
whose lanes have ended leaves the object unchanged. -/
def grant (s : State) (a : Acq) : State :=
  let ls := acqLanes s a
  let gone : State := { s with acqs := s.acqs.filter (fun x => x.id != a.id) }
  let (rcnt, hold, bad) := objWord s a.pa
  if ls.isEmpty then gone
  else if acqFrozen s a ∨ queuedBefore s a.pa a.id ∨ !(bad || objFree a.excl hold) then s
  else
    let s1 := acquireBound (takeObject gone (blkD s a.blk).ctx a.pa a.excl) a.blk a.slot a.fib a.scope a.pa ls
    let s2 := returnArch s1 a.blk a.slot a.reg a.id (fun _ => BitVec.ofNat 32 rcnt)
    let s3 := if bad then poisonArch s2 a.blk a.slot a.reg ls else s2
    settleFib (updFib s3 a.blk a.slot a.fib (fun x => updLanes x ls (fun _ y => y.goto a.next a.rep))) a.blk a.slot a.fib

/-- R130: the waiting acquires, in arrival order. -/
def grants (s : State) : State := s.acqs.foldl grant s

/-! ### What every change may bring about -/

/-- R32: a fibre whose results have all returned waits for them no longer. -/
def endResultWait (s : State) (b k f : Nat) : State :=
  match (fibD s b k f).wait with
  | some w =>
    if w.kind = .results ∧ !inFlight (slotD s b k) s.clk f then updFib s b k f (fun x => { x with wait := none }) else s
  | none => s

/-- What follows in one fibre: releases, the end of a wait for results, the report of its parked lanes, an asked stop, the close
of an idle window. -/
def settleOne (b : Nat) (s : State) (p : Nat × Nat) : State :=
  idleWindow (obeyStop (reportParked (endResultWait (settleFib s b p.1 p.2) b p.1 p.2) b p.1 p.2) b p.1 p.2) b p.1 p.2

/-- Every open scatter window of a block closes. -/
def closeBlockWindows (s : State) (b : Nat) : State :=
  { s with windows := s.windows.map (fun p => if p.2.blk = b then (p.1, { p.2 with shut := true }) else p) }

/-- R22, R47: a running block whose fibres have all ended or stopped is Retiring. -/
def beginRetire (s : State) (b : Nat) : State :=
  if (blkD s b).st = .running ∧ allEnded (blkD s b) then
    updBlk (closeBlockWindows s b) b (fun y => { y with st := .retiring, rstep := 2 })
  else s

/-- R313: a fibre with an open window that now stands at a barrier is Held, be it the last to arrive; its window closes. -/
def closeHeld (b : Nat) (s : State) (p : Nat × Nat) : State :=
  if (fibD s b p.1 p.2).window.isSome then idleWindow (settleFib s b p.1 p.2) b p.1 p.2 else s

/-- What follows in a running block: its windows close at its barriers (R313), its barriers complete (R210 to R213), then what
follows in its fibres, then the end of the block. -/
def settleBlock (s : State) (b : Nat) : State :=
  if (blkD s b).st = .running then
    let ids := fibIds (blkD s b)
    beginRetire (ids.foldl (settleOne b) (settleBars (ids.foldl (closeHeld b) s) b)) b
  else s

/-- What follows a step: barriers complete, parked lanes are reported (R429), fibres stop (R218), idle windows close (R313), and
waiting acquires are granted (R130). -/
def settle (s : State) : State := grants ((s.blocks.map (·.1)).foldl settleBlock s)

/-! ### The end of an issue (R32, R33, R36, R154) -/

/-- What follows an instruction's effect: the group goes on; it goes on with some lanes parked, whose retry still reads the
marked registers; its lanes have their program counters; they have, with some lanes parked; or nothing issued. -/
inductive After | advance | part | jumped | split | stay
  deriving DecidableEq, Repr

/-- The architectural registers of a field. -/
def useRegs (wb : Nat) (u : Use) (n : Nat) : List Nat :=
  match u with
  | .v offs _ => offs.map (fun o => archReg wb (n + o))
  | _ => []

/-- R152, R57: the architectural registers that the last-use marks of an instruction name. -/
def markedRegs (r : Raw) (wb : Nat) : List Nat :=
  match r.x with
  | none => []
  | some x =>
    let fm := Forms.ofRaw r
    (if x.l.getLsbD 2 then useRegs wb fm.a r.a.toNat else []) ++ (if x.l.getLsbD 1 then useRegs wb fm.b r.b.toNat else []) ++
    (if x.l.getLsbD 0 then useRegs wb fm.c x.c.toNat else [])

/-- R66, R33, R36: the counts of an issue. -/
def countIssue (s : State) (i : Issue) : State :=
  let s1 := updSlot s i.blk i.slot (fun x => { x with issues := x.issues + 1, cur := i.fib, issuedAt := s.clk + 1 })
  updIs s1 i (fun x =>
    let y := updLanes x i.lanes (fun _ z => { z with age := s.clk + 1 })
    { y with icount := x.icount + 1, since := x.since + 1, gcount := x.gcount + 1, winIdle := x.winIdle + 1 })

/-- R32: a fibre at a switch point waits for its results where one is in flight. -/
def waitResults (x : Fibre) (flying : Bool) : Fibre :=
  if x.st = .live then
    { x with since := 0, group := [], gcount := 0, wait := if flying then some { kind := .results } else none } else x

/-- R32: the slot passes issue to the fibre after one, which waits for its results. -/
def passOn (s : State) (b k f : Nat) : State :=
  let w := inFlight (slotD s b k) s.clk f
  updSlot (updFib s b k f (fun x => waitResults x w)) b k (fun x => { x with cur := (f + 1) % 4 })

/-- R32, R313: a switch point: the scatter window closes and the fibre waits for its results. -/
def switchPoint (s : State) (i : Issue) : State :=
  passOn (updSlot (closeWindow s i.blk i.slot i.fib) i.blk i.slot (fun x => { x with switches := x.switches + 1 })) i.blk i.slot i.fib

/-- R32, R46, R313: the instructions at which a fibre may come to wait or to be held: whether it does is a matter of time, so that they
close its scatter window in any case. -/
def mayBlock (op f : Nat) : Bool :=
  match op with
  | 0x30 => decide (f = 1 ∨ f = 2)
  | 0x33 => decide (f = 0)
  | 0x34 => decide (f ≤ 1)
  | 0x35 => decide (f = 0)
  | 0x3B => decide (f ≠ 3)
  | 0x3C => true
  | 0x3D => decide (f = 4)
  | 0x63 => decide (f = 3)
  | 0x64 => decide (f = 2)
  | 0x7C => decide (f = 2 ∨ f = 4 ∨ f = 5)
  | _ => false

/-- A blocking instruction that has completed no longer waits; its fibre resumes, and the count of R33 restarts. -/
def endRetry (x : Fibre) : Fibre := { x with wait := none, since := if x.wait.isSome then 0 else x.since }

/-- The issue is over (R32, R36, R39, R154): lanes that stay issuable go to the next address, the counts rise, releases
follow, and bit S makes a switch point. -/
def finish (r : Raw) (i : Issue) (a : After) (s : State) : State :=
  match a with
  | .stay => { s with choice := s.choice + 1, cur := none }
  | _ =>
    let s1 := updIs s i endRetry
    let s2 := match a with
      | .jumped => s1
      | .split => s1
      | _ => updIs s1 i (fun x => updLanes x i.lanes (fun _ y =>
          if y.st = .issuable then y.goto i.next i.repNext else y))
    let s3 := countIssue s2 i
    let s4 := settleFib s3 i.blk i.slot i.fib
    let s4' := if mayBlock r.op.toNat r.f.toNat then closeWindow s4 i.blk i.slot i.fib else s4
    let s5 := if r.s ∧ i.repNext = 0 then switchPoint s4' i else s4'
    { obeyStop s5 i.blk i.slot i.fib with choice := s.choice + 1, cur := none }

/-! ### Operands (R148 to R152, R175, R252) -/

/-- A word of a field: register offset `k`, lane `l`. -/
def wd (f : List (List Word)) (k l : Nat) : Word := (f.getD k []).getD l 0
/-- R52: the pair at offset `k`. -/
def pr (f : List (List Word)) (k l : Nat) : DWord := wd f (k + 1) l ++ wd f k l

/-- The words of the registers of a field. -/
def fieldWords (s : State) (i : Issue) (wb : Nat) (u : Use) (n : Nat) : List (List Word) :=
  match u with
  | .v offs _ =>
    (List.range ((offs.foldl max 0) + 1)).map (fun o =>
      if offs.contains o then readArch s i.blk i.slot (archReg wb (n + o)) else [])
  | _ => []

/-- R151: the lanes of the issue whose guard is true. -/
def activeLanes (s : State) (i : Issue) (wb : Nat) (r : Raw) : List Nat :=
  match r.x with
  | none => i.lanes
  | some x =>
    if x.ge then
      let g := readArch s i.blk i.slot (archReg wb x.g.toNat)
      i.lanes.filter (fun l => (decide (g.getD l 0 ≠ 0)) != x.gn)
    else i.lanes

/-- IMM13 sign-extended. -/
def simm (r : Raw) : Int :=
  match r.x with
  | some x => x.imm.toInt
  | none => 0

/-- The operands of an issue. -/
def mkEnv (r : Raw) (i : Issue) (s : State) : Env :=
  let wb := (fibIs s i).wb
  let fm := Forms.ofRaw r
  { i := i, wb := wb, act := activeLanes s i wb r
    a := fieldWords s i wb fm.a r.a.toNat
    b := fieldWords s i wb fm.b r.b.toNat
    c := match r.x with
      | some x => fieldWords s i wb fm.c x.c.toNat
      | none => []
    d := if fm.dSrc then fieldWords s i wb fm.d r.d.toNat else []
    lat := latency r.op.toNat r.f.toNat (Forms.immOf r) }

/-- The architectural registers that an instruction reads (R63), the guard first. -/
def sourceRegs (r : Raw) (wb : Nat) : List Nat :=
  let fm := Forms.ofRaw r
  (match r.x with
    | some x => if x.ge then [archReg wb x.g.toNat] else []
    | none => []) ++
  useRegs wb fm.a r.a.toNat ++ useRegs wb fm.b r.b.toNat ++
  (match r.x with
    | some x => useRegs wb fm.c x.c.toNat
    | none => []) ++
  (if fm.dSrc then useRegs wb fm.d r.d.toNat else []) ++
  (if r.op = 0x36 ∧ r.f = 0 then [archReg wb 110, archReg wb 111] else [])

/-- R202, R204: the registers of the link, which CALL, CALLX and RET reach without a field: those named v110 and v111 under
the window base of the callee. -/
def linkRegs (r : Raw) (wb : Nat) : List Nat :=
  if r.op = 0x38 ∧ (r.f = 3 ∨ r.f = 5) then [archReg (wb + 8 * r.d.toNat) 110, archReg (wb + 8 * r.d.toNat) 111]
  else if r.op = 0x36 ∧ r.f = 0 then [archReg wb 110, archReg wb 111]
  else []

/-- R150: the registers of field D that an instruction writes. -/
def destRegs (r : Raw) (wb : Nat) : List Nat :=
  let fm := Forms.ofRaw r
  if fm.dSrc then [] else useRegs wb fm.d r.d.toNat

/-- R58: the registers that an instruction reads or writes. -/
def touched (r : Raw) (wb : Nat) : List Nat := sourceRegs r wb ++ destRegs r wb ++ linkRegs r wb

/-- R58, R61: the chunks of some registers that are spilled or refilling. -/
def spilled (s : State) (b k : Nat) (as : List Nat) : List Nat :=
  nub ((as.map (· / 8)).filter (fun c =>
    match mget (slotD s b k).chunks c with
    | some y => decide (y.st ≠ .resident)
    | none => false))

/-- R61: the refills that a stalled instruction starts. -/
def refillAll (s : State) (b k : Nat) (cs : List Nat) : State :=
  cs.foldl (fun t c =>
    match mget (slotD t b k).chunks c with
    | some y => if y.st = .refilling then t else startRefill t b k c
    | none => t) s

/-- R252: whether an instruction is per issue, so that only its lowest active lane's words are read. -/
def perIssue (op f : Nat) : Bool :=
  match op with
  | 0x30 => decide (4 ≤ f)
  | 0x32 => decide (f ≠ 5)
  | 0x33 => true
  | 0x34 => !(decide (f = 0 ∨ f = 2))
  | 0x35 => true
  | 0x37 => true
  | 0x60 => true
  | _ => decide (0x7C ≤ op)

/-- The fields of an instruction in the order in which they are examined. -/
inductive Field | a | b | c | d
  deriving DecidableEq, Repr

/-- R252: whether only the lowest active lane's words of a field are read: those of a per-issue instruction, the address of a
ring put (R288), the table slot and the pen set (R298), and the operands of MWRITE, FSPAWN and FSTOP (R195, R217, R218). -/
def readsOne (op f : Nat) (x : Field) : Bool :=
  perIssue op f ||
  match x with
  | .a => decide (op = 0x34 ∨ op = 0x63 ∨ op = 0x64 ∨ (op = 0x23 ∧ f = 6) ∨ (op = 0x3D ∧ (f = 2 ∨ f = 3)))
  | .b => decide (op = 0x3D ∧ f = 2)
  | _ => false

/-- R63, R151, R252: the registers that an issue reads, each with the lanes that read it: the guard by every lane of the issue. -/
def reads (r : Raw) (e : Env) : List (Nat × List Nat) :=
  let fm := Forms.ofRaw r
  let by' (x : Field) (as : List Nat) : List (Nat × List Nat) :=
    as.map (fun a => (a, if readsOne r.op.toNat r.f.toNat x then e.act.take 1 else e.act))
  (match r.x with
    | some x => if x.ge then [(archReg e.wb x.g.toNat, e.i.lanes)] else []
    | none => []) ++
  by' .a (useRegs e.wb fm.a r.a.toNat) ++ by' .b (useRegs e.wb fm.b r.b.toNat) ++
  (match r.x with
    | some x => by' .c (useRegs e.wb fm.c x.c.toNat)
    | none => []) ++
  (if fm.dSrc then by' .d (useRegs e.wb fm.d r.d.toNat) else []) ++
  (if r.op = 0x36 ∧ r.f = 0 then by' .d [archReg e.wb 110, archReg e.wb 111] else [])

/-- R63: the first register with a poisoned word in a lane that reads it, with the mask of those lanes. -/
def poisonHit (r : Raw) (e : Env) (s : State) : Option (Nat × Nat) :=
  (reads r e).findSome? (fun p =>
    match mget (slotD s e.i.blk e.i.slot).regs p.1 with
    | none => none
    | some g =>
      let m := maskOf (p.2.filter (fun l => g.poison.testBit l))
      if m = 0 then none else some (p.1, m))

/-- R33, R59: the registers of the instruction were used at this issue; an access in flight whose result it reads early has been performed
(R34). -/
def touchRegs (r : Raw) (e : Env) (s : State) : State :=
  landFlights (updSlot s e.i.blk e.i.slot (fun x => useChunks x (touched r e.wb))) (fun x =>
    x.blk == e.i.blk && x.slot == e.i.slot && (sourceRegs r e.wb).any (fun a => decide (x.reg ≤ a) && decide (a < x.reg + (x.w + 3) / 4)))

/-- The operands of an issue: those read at its first issue where the fibre waits in it (R214), else as they stand now. -/
def issueEnv (r : Raw) (i : Issue) (s : State) : Env :=
  match (fibIs s i).wait with
  | some w => match w.env with
    | some e => { e with i := i }
    | none => mkEnv r i s
  | none => mkEnv r i s

/-- R478, R482: the lanes that issued last in a slot, the active ones where there are any, and whether there were any. -/
def noteLanes (e : Env) (s : State) : State :=
  updSlot s e.i.blk e.i.slot (fun x => { x with
    last := (if e.act.isEmpty then e.i.lanes else e.act).map (fun l => 32 * e.i.fib + l), acted := !e.act.isEmpty })

/-- R32: the issuing fibre waits in a blocking instruction, which is examined again. -/
def inWait (s : State) (i : Issue) : Bool :=
  match (fibIs s i).wait with
  | some w => decide (w.kind = .retry)
  | none => false

/-- R35, R57: a blocking instruction has read its operands and waits: the registers that it writes await it, and its marked
registers die, unless a lane of the issue has parked, whose retry reads them (log entry 25). -/
def beginWait (r : Raw) (e : Env) (s : State) : State :=
  match (fibIs s e.i).wait with
  | none => s
  | some w =>
    match w.env with
    | none => s
    | some v =>
      let as := if v.i.lanes = e.i.lanes then markedRegs r e.wb else []
      let ms := as.filterMap (fun a => (mget (slotD s e.i.blk e.i.slot).regs a).map (fun g => (a, g)))
      let t := updIs { s with nextId := s.nextId + 1 } e.i (fun y => { y with wait := some { w with id := s.nextId, marked := ms } })
      (destRegs r e.wb).foldl (fun u a => awaitArch u e.i.blk e.i.slot e.i.fib a s.nextId v.act) (killArch t e.i.blk e.i.slot as)

/-- The frame of every lane instruction: it stalls while a register of it is spilled (R61) or finds no physical chunk (R59), the
operands are read, a poisoned one traps before any effect (R63), the marked registers die once read (R57), the effect is made,
and the issue ends. Marks wait while a lane parks or nothing issues: the retry of the instruction reads its operands again (R41,
R429). A blocking instruction that waits has read its operands, and only its effect is examined again (R214). -/
def laneRun (r : Raw) (i : Issue) (s : State) (body : Env → State → State × After) : State :=
  let e := issueEnv r i s
  let w := inWait s i
  let cs := spilled s i.blk i.slot (if w then destRegs r e.wb else touched r e.wb)
  if !cs.isEmpty then finish r i .stay (refillAll s i.blk i.slot cs) else
  if w then
    let p := body e s
    match p.2 with
    | .stay => finish r i .stay p.1
    | a => finish r i a (noteLanes e p.1)
  else
  if lacksRoom s i.blk i.slot (destRegs r e.wb ++ linkRegs r e.wb) then finish r i .stay s else
  match poisonHit r e s with
  | some (a, m) => finish r i .stay (trapFibre s i 0x07 0 (lanesOf m) [(16, a)])
  | none =>
    let t := touchRegs r e s
    let p := body e (killArch t i.blk i.slot (markedRegs r e.wb))
    match p.2 with
    | .advance => finish r i .advance (noteLanes e p.1)
    | .jumped => finish r i .jumped (noteLanes e p.1)
    | _ =>
      let q := body e t
      match q.2 with
      | .stay => finish r i .stay (beginWait r e q.1)
      | a => finish r i a (noteLanes e q.1)

/-- Every lane instruction: it stops only where no group issues. -/
def laneInsn (r : Raw) (s : State) (body : Env → State → State × After) : Out :=
  match s.cur with
  | none => .fault .noIssuer
  | some i => .next (laneRun r i s body)

/-- R35: the number under which the registers of the issuing fibre's blocking instruction await its results. -/
def waitId (s : State) (i : Issue) : Option Nat :=
  match (fibIs s i).wait with
  | some w => if w.kind = .retry then some w.id else none
  | none => none

/-- R35: the lanes of a register that a result of the issue reaches: of a wait, those that no younger write or death has taken. -/
def reached (e : Env) (s : State) (a : Nat) (ls : List Nat) : List Nat :=
  match waitId s e.i with
  | some n => (awaiting s e.i.blk e.i.slot a n).filter ls.contains
  | none => ls

/-- A write of the destination register at offset `k` of field D in some lanes. -/
def wrDs (r : Raw) (e : Env) (k : Nat) (ls : List Nat) (g : Nat → Word) (s : State) : State :=
  match waitId s e.i with
  | some n => returnArch s e.i.blk e.i.slot (archReg e.wb (r.d.toNat + k)) n g
  | none => writeArch s e.i.blk e.i.slot e.i.fib (archReg e.wb (r.d.toNat + k)) e.lat ls g

/-- A write of the destination register at offset `k` of field D in the active lanes. -/
def wrD (r : Raw) (e : Env) (k : Nat) (g : Nat → Word) (s : State) : State := wrDs r e k e.act g s

/-- A write of the destination pair in the active lanes, the low word in the first register (R52). -/
def wrD2 (r : Raw) (e : Env) (g : Nat → DWord) (s : State) : State :=
  wrD r e 1 (fun l => (g l).extractLsb' 32 32) (wrD r e 0 (fun l => (g l).extractLsb' 0 32) s)

/-- An instruction whose only effect is one result word per active lane. -/
def aluOp (r : Raw) (s : State) (g : Env → Nat → Word) : Out :=
  laneInsn r s (fun e t => (wrD r e 0 (g e) t, .advance))

/-- An instruction whose only effect is one result pair per active lane. -/
def aluOp2 (r : Raw) (s : State) (g : Env → Nat → DWord) : Out :=
  laneInsn r s (fun e t => (wrD2 r e (g e) t, .advance))

/-- A blocking instruction whose condition does not hold: the fibre waits, its scatter window closes, and the instruction is
examined again with the operands of its issue (R214). -/
def waitWith (e : Env) (s : State) (done : List Nat) (last : List Word) : State × After :=
  (updIs (closeWindow s e.i.blk e.i.slot e.i.fib) e.i (fun x => { x with
    wait := some { x.wait.getD { kind := .retry, start := s.clk } with
      kind := .retry, lanes := e.i.lanes, env := some e, done := done, last := last } }), .stay)

/-- A blocking instruction that waits for one condition. -/
def waitRetry (e : Env) (s : State) : State × After := waitWith e s [] []

/-- A write of a status word to every active lane of a per-issue instruction (R252). -/
def wrAll (r : Raw) (e : Env) (w : Word) (s : State) : State := wrD r e 0 (fun _ => w) s

end Sys2Proof.Machine
end

