-- ==== Sys2Proof/Machine/Operands.lean ====
section
/-!
DEFINITION. Operand forms that several families share: effective addresses (R256), field specifications (R190), words as
bytes (R257).
-/

namespace Sys2Proof.Machine

/-- R256: the effective global address of a lane. -/
def globalEa (e : Env) (o : Int) (l : Nat) : Nat := addAddr (pr e.a 0 l).toNat o

/-- R256: the effective local address of a lane. -/
def localEa (e : Env) (o : Int) (l : Nat) : Nat := ((Int.ofNat (wd e.a 0 l).toNat + o) % (2 ^ 32 : Int)).toNat

/-- R190: the field specification of a lane: from IMM13, or from its word of register C. -/
def fieldSpec (r : Raw) (e : Env) (l : Nat) : Nat :=
  if (Forms.immOf r).testBit 12 then (wd e.c 0 l).toNat % 1024 else Forms.immOf r % 1024

/-- R190: the lowest bit of a field. -/
def specPos (spec : Nat) : Nat := spec % 32
/-- R190: the length of a field. -/
def specLen (spec : Nat) : Nat := spec / 32 % 32 + 1

/-- Clamps an integer to a range. -/
def clampInt (lo hi x : Int) : Int := if x < lo then lo else if hi < x then hi else x

/-- An integer modulo 2^32. -/
def wordOfInt (x : Int) : Word := BitVec.ofInt 32 x
/-- An integer modulo 2^64. -/
def dwordOfInt (x : Int) : DWord := BitVec.ofInt 64 x

/-- R257: the bytes of a lane's store data in registers from offset 0 of field D. -/
def storeBytes (e : Env) (w l : Nat) : List Byte :=
  natLe w ((wd e.d 0 l).toNat + 2 ^ 32 * (wd e.d 1 l).toNat + 2 ^ 64 * (wd e.d 2 l).toNat + 2 ^ 96 * (wd e.d 3 l).toNat)

/-- R257: word `j` of the destination of a load of function `f` from its bytes. -/
def loadWord (f : Nat) (bs : List Byte) (j : Nat) : Word :=
  match f with
  | 0 => BitVec.signExtend 32 (BitVec.ofNat 8 (leNat bs))
  | 2 => BitVec.signExtend 32 (BitVec.ofNat 16 (leNat bs))
  | _ => BitVec.ofNat 32 (leNat bs / 2 ^ (32 * j))

/-- R257: the registers that a load of a width writes. -/
def widthRegs (w : Nat) : Nat := (w + 3) / 4

end Sys2Proof.Machine
end

