-- ==== Sys2Proof/Machine/Access.lean ====
section
/-!
DEFINITION. Lane accesses to memory (R41, R88, R93, R252 to R259): which lanes trap, park or perform, and the reads and writes
of those that perform.
-/

namespace Sys2Proof.Machine

/-- A lane that performs, with the physical addresses of its bytes. -/
abbrev GLane := Nat × List Nat

/-! ### Requests that leave the core (R422, R465) -/

/-- The fibre or sequencer of an issue within its block: slot × 4 + position, or 64. -/
def Issue.who (i : Issue) : Nat := if i.seq then 64 else 4 * i.slot + i.fib

/-- R465, R477: a request of an issue is stalled by the miss cap; it counts as it begins to stall. -/
def capHold (s : State) (i : Issue) : State :=
  if s.capped.contains (i.blk, i.who) then s else { addTally s (ctxIs s i) 0x0042 1 with capped := (i.blk, i.who) :: s.capped }

/-- R465: an issue is no longer stalled by the miss cap. -/
def capFree (s : State) (i : Issue) : State := { s with capped := s.capped.filter (fun p => p ≠ (i.blk, i.who)) }

/-- R465, R463: the requests of an issue for some bytes have gone to L2; `lo` is where its numbers in the issue order begin. -/
def sendAll (q : Retain) (i : Issue) (core : Nat) (k : AccKind) (lo : Nat) (s : State) (pas : List Nat) : State :=
  capFree ((nub (pas.map (· / 64))).foldl
    (sendLine q (ctxIs s i) core (decide (k = .atomic)) (decide (k ≠ .read)) lo (max s.nextId (lo + 1))) s) i

/-- R422, R465: an access of an issue has been translated and goes out. -/
def asked (s : State) (i : Issue) (k : AccKind) (vas pas : List Nat) : State :=
  sendAll .usual i (coreIs s i) k s.nextId (seekTlb s (ctxIs s i) (coreIs s i) k vas) pas

/-- R465: some bytes of an issue's request stall at the miss cap. -/
def capStalls (s : State) (i : Issue) (core : Nat) (k : AccKind) (pas : List Nat) : Bool :=
  missStall s (ctxIs s i) core (decide (k = .atomic)) (nub (pas.map (· / 64)))

/-- What the active lanes of a global access meet (R254): a migration lock (R424) or the miss cap (R465), then the state with what is
counted of it; the lanes that perform; the lanes that park with their faults. -/
structure Met where
  s : State
  stall : Bool
  ok : List GLane
  bad : List (Nat × FaultInfo)
  deriving DecidableEq, Repr

/-- A page fault of the issuing instruction. -/
def faultInfo (s : State) (i : Issue) (k : AccKind) (what va cause stage level : Nat) : FaultInfo :=
  { mkFault s (ctxIs s i) k what va cause stage level with insn := i.insn, ext := i.ext }

/-- The translations of the bytes of each active lane's access. -/
def gMeet (s : State) (i : Issue) (k : AccKind) (w : Nat) (ea : Nat → Nat) (ls : List Nat) : Met :=
  let m : Met := ls.foldl (fun m l =>
    match xlateAll (fun a => xlate s (ctxIs s i) (coreIs s i) a k) (spanOf (ea l) w) with
    | .ok pas => { m with ok := m.ok ++ [(l, pas)] }
    | .error (va, .fault c st lv) => { m with bad := m.bad ++ [(l, faultInfo s i k (accCode k) va c st lv)] }
    | .error _ => { m with stall := true }) { s := s, stall := false, ok := [], bad := [] }
  if m.stall then m
  else if capStalls s i (coreIs s i) k (m.ok.flatMap (·.2)) then { m with s := capHold s i, stall := true }
  else { m with s := seekTlb s (ctxIs s i) (coreIs s i) k (ls.flatMap (fun l => spanOf (ea l) w)) }

/-- Lanes park at their faults (R41). -/
def parkBad (s : State) (i : Issue) (bad : List (Nat × FaultInfo)) : State :=
  bad.foldl (fun t p => parkLanes t i [p.1] (fun _ => .fault p.2)) s

/-- R88: an address range that raises the address trap. -/
def badGlobal (al w a : Nat) : Bool := decide (a % al ≠ 0) || !(spanOf a w).all canonical

/-- The frame of a per-lane global access (R254): the trap of the lowest lane with a bad address, else the lanes with a page
fault park and the others perform. `q`: how its lines are kept (R258). -/
def globalAccess (q : Retain) (e : Env) (t : State) (k : AccKind) (al w : Nat) (ea : Nat → Nat) (eff : State → List GLane → State) :
    State × After :=
  match e.act.find? (fun l => badGlobal al w (ea l)) with
  | some l => (trapFibre t e.i 0x02 0 [l] (addrField (ea l)), .stay)
  | none =>
    let m := gMeet t e.i k w ea e.act
    if m.stall then (m.s, .stay) else
    let u := sendAll q e.i (coreIs t e.i) k t.nextId (eff m.s m.ok) (m.ok.flatMap (·.2))
    if m.bad.isEmpty then (u, .advance) else (parkBad u e.i m.bad, .part)

/-- A lane that has read: its bytes, and which of them were poisoned (R492). -/
structure Got where
  lane : Nat
  bytes : List Byte
  bad : List Bool
  deriving DecidableEq, Repr

/-- A plain read of physical bytes by an agent, after its accesses in flight to them (R120). -/
def gReadBy (q : Retain) (s : State) (c a : Nat) (pas : List Nat) : State × List Byte := gLook q (landAt s a pas) c { agent := a } pas

/-- The plain global reads of lanes of an issue, in ascending order, which allocate as a policy asks (R258). -/
def gReadLanesBy (q : Retain) (s : State) (i : Issue) (ls : List GLane) : State × List Got :=
  ls.foldl (fun p l =>
    let (t, bs) := gReadBy q p.1 (ctxIs s i) (agentOf i l.1) l.2
    (t, p.2 ++ [{ lane := l.1, bytes := bs, bad := l.2.map (poisoned t) }])) (s, [])

/-- The global reads of lanes that allocate as usual. -/
def gReadLanes (s : State) (i : Issue) (ls : List GLane) : State × List Got := gReadLanesBy .usual s i ls

/-- The bytes that a lane has read. -/
def gotBytes (gs : List Got) (l : Nat) : List Byte := ((gs.find? (fun g => g.lane == l)).map (·.bytes)).getD []

/-- R492: word `j` of a lane's result receives a poisoned byte. -/
def gotBad (gs : List Got) (l j : Nat) : Bool :=
  ((gs.find? (fun g => g.lane == l)).map (fun g => ((g.bad.drop (4 * j)).take 4).any id)).getD false

/-- R257, R492: the destination registers of a load take the words read; words with a poisoned byte are poisoned. -/
def writeLoad (r : Raw) (e : Env) (f w : Nat) (gs : List Got) (s : State) : State :=
  let ls := gs.map (·.lane)
  (List.range (widthRegs w)).foldl (fun t j =>
    poisonArch (wrDs r e j ls (fun l => loadWord f (gotBytes gs l) j) t) e.i.blk e.i.slot (archReg e.wb (r.d.toNat + j))
      (ls.filter (fun l => gotBad gs l j))) s

/-! ### Local accesses -/

/-- What a lane of a local access does: performs at a core's byte, or parks. -/
structure LMet where
  stall : Bool := false
  cap : Bool := false
  ok : List (Nat × Nat × Nat) := []
  park : List (Nat × Park) := []
  deriving DecidableEq, Repr

/-- R104: the active lanes meet their stash lines, in ascending order. -/
def lMeet (s : State) (i : Issue) (store : Bool) (w : Nat) (la : Nat → Nat) (ls : List Nat) : State × LMet :=
  ls.foldl (fun p l =>
    match localOk p.1 (ctxIs s i) (coreIs s i) (la l) w store with
    | none => p
    | some (core, off) =>
      match meetLines p.1 (laneD (fibIs s i) l).right store (stashLines p.1 core off w) with
      | (t, .ok) => (t, { p.2 with ok := p.2.ok ++ [(l, core, off)] })
      | (t, .line c n own) => (t, { p.2 with park := p.2.park ++ [(l, .line c n own)] })
      | (t, .behind c n) => (t, { p.2 with park := p.2.park ++ [(l, .unmap c n)] })
      | (t, .fault va c st lv) =>
        (t, { p.2 with park := p.2.park ++ [(l, .fault (faultInfo t i (if store then .atomic else .read) 4 va c st lv))] })
      | (t, .capped) => (t, { p.2 with stall := true, cap := true })
      | (t, .locked) => (t, { p.2 with stall := true })) (s, {})

/-- Lanes park at their lines or faults (R41). -/
def parkLocal (s : State) (i : Issue) (ps : List (Nat × Park)) : State :=
  ps.foldl (fun t p => parkLanes t i [p.1] (fun _ => p.2)) s

/-- R465: a local access that stalls: the fills that it has begun go on. -/
def stallLocal (s : State) (i : Issue) (m : LMet) : State := if m.cap then capHold s i else s

/-- The frame of a per-lane local access (R93, R254). -/
def localAccess (e : Env) (t : State) (store : Bool) (al w : Nat) (la : Nat → Nat)
    (eff : State → List (Nat × Nat × Nat) → State) : State × After :=
  match e.act.find? (fun l => decide (la l % al ≠ 0) || (localOk t (ctxIs t e.i) (coreIs t e.i) (la l) w store).isNone) with
  | some l => (trapFibre t e.i 0x03 0 [l] (addrField (la l)), .stay)
  | none =>
    let (t1, m) := lMeet t e.i store w la e.act
    if m.stall then (stallLocal t1 e.i m, .stay) else
    let u := eff (capFree t1 e.i) m.ok
    if m.park.isEmpty then (u, .advance) else (parkLocal u e.i m.park, .part)

/-- A plain read of bytes of a core's SRAM by an agent at a local address, after its accesses in flight to them (R120). -/
def lReadBy (s : State) (a la core off w : Nat) : State × List Byte :=
  lLook (landAt s a (localLocs s core off w)) { agent := a, quad := quadView la } core off w

/-- The plain local reads of lanes of an issue, in ascending order. -/
def lReadLanes (s : State) (i : Issue) (w : Nat) (la : Nat → Nat) (ls : List (Nat × Nat × Nat)) : State × List Got :=
  ls.foldl (fun p l =>
    let (t, bs) := lReadBy p.1 (agentOf i l.1) (la l.1) l.2.1 l.2.2 w
    (t, p.2 ++ [{ lane := l.1, bytes := bs, bad := (List.range w).map (fun k => lPoison t l.2.1 (l.2.2 + k) 1) }])) (s, [])

/-! ### Accesses in flight (R34, R121, R436) -/

/-- R34: the access of a lane of an issue whose result words have not returned; `f` is the load function of the result (R257). -/
def flightOf (r : Raw) (e : Env) (f w : Nat) (s : State) (loc : Bool) (l va : Nat) (locs : List Nat) (b c : Nat) : Flight :=
  { id := s.nextId, blk := e.i.blk, slot := e.i.slot, fib := e.i.fib, lane := l, op := r.op.toNat, f := f, w := w, loc := loc, va := va
    locs := locs, b := b, c := c, reg := archReg e.wb r.d.toNat, pc := e.i.pc, insn := e.i.insn, ext := e.i.ext
    rep := (laneD (fibIs s e.i) l).rep }

/-- R34: the results of some accesses of an issue, just written, are in flight until they return. -/
def fly (s : State) (fs : List Flight) : State :=
  match fs with
  | [] => s
  | x :: _ =>
    let t := (List.range (widthRegs x.w)).foldl (fun u j => tagStale u x.blk x.slot (x.reg + j) x.id) s
    let u := landFlights t (fun x => !x.stands t)
    { u with flights := u.flights ++ fs, nextId := s.nextId + 1 }

/-! ### Per-issue accesses -/

/-- R252: the lanes that a per-issue instruction acts for, the lowest first. -/
def Env.low (e : Env) : Nat := lowest e.act

/-- The frame of a per-issue instruction: without an active lane it does nothing (R154). -/
def perIssueOp (r : Raw) (s : State) (body : Env → State → State × After) : Out :=
  laneInsn r s (fun e t => if e.act.isEmpty then (t, .advance) else body e t)

/-- A per-issue trap: its lanes are the active ones. -/
def trapAll (t : State) (e : Env) (kind detail : Nat) (more : List (Nat × Nat)) : State × After :=
  (trapFibre t e.i kind detail e.act more, .stay)

/-- A page fault of a per-issue instruction parks every active lane (R254); a migration lock or the miss cap, which holds an address that
does translate, stalls it. -/
def parkAll (t : State) (e : Env) (k : AccKind) (what : Nat) (f : Nat × Xl) : State × After :=
  match f.2 with
  | .fault c st lv =>
    (parkLanes t e.i e.act (fun _ => .fault (faultInfo t e.i k what f.1 c st lv)), .part)
  | .ok _ => (capHold t e.i, .stay)
  | _ => (t, .stay)

/-- The translation of global bytes for the issue; where the miss cap holds them back (R465), the address whose translation it does not
use. -/
def xlBytes (s : State) (i : Issue) (k : AccKind) (vas : List Nat) : Except (Nat × Xl) (List Nat) :=
  match xlateAll (fun x => xlate s (ctxIs s i) (coreIs s i) x k) vas with
  | .ok pas => if capStalls s i (coreIs s i) k pas then .error (vas.headD 0, .ok (pas.headD 0)) else .ok pas
  | e => e

/-- The translation of a span of global bytes for the issue. -/
def xlSpan (s : State) (i : Issue) (k : AccKind) (a w : Nat) : Except (Nat × Xl) (List Nat) := xlBytes s i k (spanOf a w)

end Sys2Proof.Machine
end

