-- ==== Sys2Proof/Machine/Formats.lean ====
section
/-!
DEFINITION. The number formats (R67 to R70), exact values, and the one rounding of every floating-point result (R74 to R86).
-/

namespace Sys2Proof.Machine

/-- How a format spends its top exponent field (R67): infinities and NaNs, one NaN code, or numbers only. -/
inductive Top | ieee | nanOnly | none
  deriving DecidableEq, Repr

/-- A binary format (R67): exponent bits, fraction bits, bias. -/
structure Fmt where
  eb : Nat
  mb : Nat
  bias : Nat
  top : Top
  deriving DecidableEq, Repr

/-- R67: FP64. -/
def f64 : Fmt := ⟨11, 52, 1023, .ieee⟩
/-- R67: FP32. -/
def f32 : Fmt := ⟨8, 23, 127, .ieee⟩
/-- R67: FP16. -/
def f16 : Fmt := ⟨5, 10, 15, .ieee⟩
/-- R67: BF16. -/
def bf16 : Fmt := ⟨8, 7, 127, .ieee⟩
/-- R67: E5M2. -/
def e5m2 : Fmt := ⟨5, 2, 15, .ieee⟩
/-- R67: E4M3. -/
def e4m3 : Fmt := ⟨4, 3, 7, .nanOnly⟩
/-- R67: E2M1. -/
def e2m1 : Fmt := ⟨2, 1, 1, .none⟩

/-- An exact value: not a number, an infinity, or (−1)^neg × m × 2^e, a zero keeping its sign. -/
inductive Val
  | nan
  | inf (neg : Bool)
  | fin (neg : Bool) (m : Nat) (e : Int)
  deriving DecidableEq, Repr

/-- The width of a format. -/
def Fmt.width (f : Fmt) : Nat := f.eb + f.mb + 1
/-- The sign bit's weight. -/
def Fmt.signBit (f : Fmt) : Nat := 2 ^ (f.eb + f.mb)
/-- R68: the largest finite magnitude as an encoding. -/
def Fmt.maxCode (f : Fmt) : Nat :=
  match f.top with
  | .ieee => (2 ^ f.eb - 1) * 2 ^ f.mb - 1
  | .nanOnly => 2 ^ (f.eb + f.mb) - 2
  | .none => 2 ^ (f.eb + f.mb) - 1
/-- R68: the encoding of infinity. -/
def Fmt.infCode (f : Fmt) : Nat := (2 ^ f.eb - 1) * 2 ^ f.mb
/-- R68: the canonical NaN. -/
def Fmt.nanCode (f : Fmt) : Nat :=
  match f.top with
  | .ieee => (2 ^ f.eb - 1) * 2 ^ f.mb + 2 ^ (f.mb - 1)
  | .nanOnly => 2 ^ (f.eb + f.mb) - 1
  | .none => 0
/-- R67: the exponent of the least significant bit of subnormals. -/
def Fmt.lsb (f : Fmt) : Int := 1 - (f.bias : Int) - f.mb

/-- R67: the value of an encoding. -/
def Fmt.decode (f : Fmt) (x : Nat) : Val :=
  let neg := x.testBit (f.eb + f.mb)
  let c := x % f.signBit
  let e := c / 2 ^ f.mb
  let m := c % 2 ^ f.mb
  if c ≤ f.maxCode then
    if e = 0 then .fin neg m f.lsb else .fin neg (2 ^ f.mb + m) (f.lsb + (e - 1 : Nat))
  else match f.top with
    | .ieee => if m = 0 then .inf neg else .nan
    | _ => .nan

/-- R75: the rounding modes. -/
inductive Rm | rn | rz | ru | rd | rs
  deriving DecidableEq, Repr

/-- R75: the mode of a code. -/
def rmOf (k : Nat) : Rm :=
  match k with
  | 0 => .rn
  | 1 => .rz
  | 2 => .ru
  | 3 => .rd
  | _ => .rs

/-- floor(log2 of m × 2^e) for a nonzero m. -/
def ilog (m : Nat) (e : Int) : Int := (Nat.log2 m : Int) + e

/-- R75, R77: m × 2^e rounded to a multiple of 2^q: the multiple, and whether it lies farther from zero. `u` is the random
word of mode .rs. -/
def roundAt (rm : Rm) (u : Nat) (neg : Bool) (m : Nat) (e q : Int) : Nat × Bool :=
  if q ≤ e then (m * 2 ^ (e - q).toNat, false) else
  let sh := (q - e).toNat
  let lo := m / 2 ^ sh
  let rem := m % 2 ^ sh
  let away : Bool := match rm with
    | .rn => decide (2 ^ sh < 2 * rem) || (decide (2 ^ sh = 2 * rem) && decide (lo % 2 = 1))
    | .rz => false
    | .ru => !neg && decide (rem ≠ 0)
    | .rd => neg && decide (rem ≠ 0)
    | .rs => decide (rem ≠ 0) && decide (2 ^ 32 ≤ (if 32 ≤ sh then rem / 2 ^ (sh - 32) else rem * 2 ^ (32 - sh)) + u)
  (if away then lo + 1 else lo, away)

/-- The unbounded encoding of k × 2^q on a format's grid, without sign. -/
def Fmt.pack (f : Fmt) (k : Nat) (q : Int) : Nat :=
  let j := (q - f.lsb).toNat
  if k < 2 ^ f.mb then k else j * 2 ^ f.mb + k

/-- R84: how an overflow is answered: by R76, by the largest finite value, or by the NaN of E4M3. -/
inductive Sat | r76 | sat
  deriving DecidableEq, Repr

/-- R76, R84: the code of an overflow. -/
def Fmt.overflow (f : Fmt) (rm : Rm) (sf : Sat) (neg away : Bool) : Nat :=
  match sf, f.top with
  | .sat, _ => f.maxCode
  | .r76, .nanOnly => f.nanCode
  | .r76, _ =>
    let toInf : Bool := match rm with
      | .rn => true
      | .rz => false
      | .ru => !neg
      | .rd => neg
      | .rs => away
    if toInf then f.infCode else f.maxCode

/-- A code with its sign. -/
def Fmt.signed (f : Fmt) (neg : Bool) (c : Nat) : Nat := if neg then f.signBit + c else c

/-- R74 to R77, R84: a value rounded once to a format. -/
def Fmt.round (f : Fmt) (rm : Rm) (sf : Sat) (u : Nat) (v : Val) : Nat :=
  match v with
  | .nan => f.nanCode
  | .inf neg =>
    match sf, f.top with
    | .sat, _ => f.signed neg f.maxCode
    | .r76, .nanOnly => f.nanCode
    | .r76, _ => f.signed neg f.infCode
  | .fin neg m e =>
    if m = 0 then f.signed neg 0 else
    let q := max (ilog m e - f.mb) f.lsb
    let (k, away) := roundAt rm u neg m e q
    let c := f.pack k q
    if c ≤ f.maxCode then f.signed neg c
    else match f.top, sf with
      | .nanOnly, .r76 => f.nanCode
      | _, _ => f.signed neg (f.overflow rm sf neg away)

/-- R74, R81: rounding to an IEEE format. -/
def Fmt.rnd (f : Fmt) (rm : Rm) (u : Nat) (v : Val) : Nat := f.round rm .r76 u v

/-! ### Exact arithmetic -/

/-- The negative of a value. -/
def Val.neg (v : Val) : Val :=
  match v with
  | .nan => .nan
  | .inf n => .inf (!n)
  | .fin n m e => .fin (!n) m e

/-- R81: the exact product. -/
def Val.mul (a b : Val) : Val :=
  match a, b with
  | .nan, _ => .nan
  | _, .nan => .nan
  | .inf n, .inf k => .inf (n != k)
  | .inf n, .fin k m _ => if m = 0 then .nan else .inf (n != k)
  | .fin n m _, .inf k => if m = 0 then .nan else .inf (n != k)
  | .fin n m e, .fin k p x => .fin (n != k) (m * p) (e + x)

/-- The sign of a value that is not NaN. -/
def Val.isNeg (v : Val) : Bool :=
  match v with
  | .nan => false
  | .inf n => n
  | .fin n _ _ => n

/-- A value is NaN. -/
def Val.isNan (v : Val) : Bool := decide (v = .nan)

/-- A value is an infinity of a sign. -/
def Val.isInf (v : Val) (neg : Bool) : Bool := decide (v = .inf neg)

/-- The exponent of a finite value. -/
def Val.exp (v : Val) : Int :=
  match v with
  | .fin _ _ e => e
  | _ => 0

/-- A finite value as an integer multiple of 2^q, for q at most its exponent. -/
def Val.scaled (v : Val) (q : Int) : Int :=
  match v with
  | .fin n m e => if n then -(Int.ofNat (m * 2 ^ (e - q).toNat)) else Int.ofNat (m * 2 ^ (e - q).toNat)
  | _ => 0

/-- R81, R83, R85: the exact sum of some values; an exact zero is −0 where every addend is negative, or in mode .rd where
the addends differ in sign. For three addends, and for +0 plus +0 in mode .rd, it is a reading of R83 (log entry 65). -/
def Val.sum (rd : Bool) (vs : List Val) : Val :=
  if vs.any Val.isNan ∨ (vs.any (Val.isInf · true) ∧ vs.any (Val.isInf · false)) then .nan
  else if vs.any (Val.isInf · true) then .inf true
  else if vs.any (Val.isInf · false) then .inf false
  else
    let q := (vs.map Val.exp).foldl min 0
    let t := (vs.map (Val.scaled · q)).foldl (· + ·) 0
    if t = 0 then .fin (if vs.all Val.isNeg && !vs.isEmpty then true else rd && vs.any Val.isNeg) 0 0
    else .fin (decide (t < 0)) t.natAbs q

/-- A mode's choice of the sign of an exact zero sum. -/
def Rm.isRd (rm : Rm) : Bool := decide (rm = .rd)

/-- A value times a power of two. -/
def Val.scale (v : Val) (k : Int) : Val :=
  match v with
  | .fin n m e => .fin n m (e + k)
  | w => w

/-- A value is below another; neither is NaN. −0 and +0 are equal. -/
def Val.lt (a b : Val) : Bool :=
  match a, b with
  | .nan, _ => false
  | _, .nan => false
  | .inf n, .inf k => n && !k
  | .inf n, .fin _ _ _ => n
  | .fin _ _ _, .inf k => !k
  | .fin _ _ e, .fin _ _ x => decide (a.scaled (min e x) < b.scaled (min e x))

/-- R82: whether the first operand is chosen as the lesser: −0 is less than +0. -/
def Val.lesser (a b : Val) : Bool := a.lt b || (!b.lt a && (a.isNeg || !b.isNeg))

/-- R82: minimumNumber and maximumNumber as words of a format; `p` gives the forms that return NaN for a NaN operand. -/
def Fmt.pickMin (f : Fmt) (p mx : Bool) (a b : Nat) : Nat :=
  let x := f.decode a
  let y := f.decode b
  if x.isNan ∧ y.isNan then f.nanCode
  else if x.isNan then (if p then f.nanCode else b)
  else if y.isNan then (if p then f.nanCode else a)
  else if mx then (if Val.lesser x y then b else a) else (if Val.lesser x y then a else b)

/-! ### Integers (R69, R84) -/

/-- R84: a value converted to an integer type with limits, rounded first and then saturated. -/
def toIntSat (lo hi : Int) (rm : Rm) (u : Nat) (v : Val) : Int :=
  match v with
  | .nan => 0
  | .inf n => if n then lo else hi
  | .fin n m e =>
    let k := (roundAt rm u n m e 0).1
    let x : Int := if n then -(Int.ofNat k) else Int.ofNat k
    if x < lo then lo else if hi < x then hi else x

/-- An integer as an exact value; zero is +0. -/
def ofInteger (x : Int) : Val := .fin (decide (x < 0)) x.natAbs 0

/-- R84: a value rounded to an integral value: ±0, infinities and NaN are kept. -/
def integral (rm : Rm) (u : Nat) (v : Val) : Val :=
  match v with
  | .fin n m e => if 0 ≤ e then v else .fin n (roundAt rm u n m e 0).1 0
  | w => w

/-! ### Stochastic rounding (R78) -/

/-- R78: one step of the generator. -/
def stepGen (g : Word) : Word :=
  let a := g ^^^ (g <<< 13)
  let b := a ^^^ (a >>> 17)
  b ^^^ (b <<< 5)

/-- R78: the random word of element `e` of lane `l`. -/
def laneWord (g : Word) (l e : Nat) : Word :=
  let a := g + BitVec.ofNat 32 (32 * e + l) * 0x9E3779B9#32
  let b := (a ^^^ (a >>> 16)) * 0x7FEB352D#32
  let c := (b ^^^ (b >>> 15)) * 0x846CA68B#32
  c ^^^ (c >>> 16)

/-! ### MX blocks (R71 to R73) -/

/-- R71: the value of an element under a block scale. -/
def mxValue (f : Fmt) (x s : Nat) : Val :=
  if s = 0xFF then .nan else (f.decode x).scale ((s : Int) - 127)

/-- R73: emax of an element format. -/
def mxEmax (f : Fmt) : Int := if f = e4m3 then 8 else if f = e5m2 then 15 else 2

/-- R73: the block scale of some values. -/
def blockScale (f : Fmt) (vs : List Val) : Nat :=
  if vs.any (fun v => v.isNan || v.isInf true || v.isInf false) then 0xFF else
  let logs := vs.filterMap (fun v => match v with
    | .fin _ m e => if m = 0 then none else some (ilog m e)
    | _ => none)
  match logs with
  | [] => 0x7F
  | a :: r => (max 0 (min 254 (r.foldl max a - mxEmax f + 127))).toNat

end Sys2Proof.Machine
end

