-- ==== Sys2Proof/Machine/Mem.lean ====
section
/-!
DEFINITION. Meanings of loads, stores, atomics, reductions, fences and prefetches (R256 to R267, R272, R223), and the
asynchronous operations that they start (R65, R132, R133).
-/

namespace Sys2Proof.Machine

/-! ### Loads and stores (R256 to R259) -/

/-- R259: LD. -/
def execLd (r : RXF) (s : State) : Out :=
  let w := r.raw 0x28#7
  let n := Forms.loadWidth r.f.toNat
  laneInsn w s (fun e t => globalAccess (retainOf w.b.toNat) e t .read 1 n (globalEa e (simm w)) (fun u ls =>
    let (u1, gs) := gReadLanesBy (retainOf w.b.toNat) u e.i ls
    fly (writeLoad w e r.f.toNat n gs u1) (ls.map (fun l =>
      { flightOf w e r.f.toNat n u1 false l.1 (globalEa e (simm w) l.1) l.2 0 0 with pol := w.b.toNat }))))

/-- R259, R122: ST. -/
def execSt (r : RXF) (s : State) : Out :=
  let w := r.raw 0x29#7
  let n := Forms.storeWidth r.f.toNat
  laneInsn w s (fun e t => globalAccess (retainOf w.b.toNat) e t .write 1 n (globalEa e (simm w)) (fun u ls =>
    ls.foldl (fun v l => gStore (retainOf w.b.toNat) v e.i u.nextId l.1 (globalEa e (simm w) l.1) l.2 (storeBytes e n l.1))
      (addStore u e.i 3 .plain)))

/-- R259: LDL. -/
def execLdl (r : RXF) (s : State) : Out :=
  let w := r.raw 0x2A#7
  let n := Forms.loadWidth r.f.toNat
  laneInsn w s (fun e t => localAccess e t false 1 n (localEa e (simm w)) (fun u ls =>
    let (u1, gs) := lReadLanes u e.i n (localEa e (simm w)) ls
    fly (writeLoad w e r.f.toNat n gs u1) (ls.map (fun l =>
      flightOf w e r.f.toNat n u1 true l.1 (localEa e (simm w) l.1) (localLocs u l.2.1 l.2.2 n) 0 0))))

/-- R259, R122: STL. -/
def execStl (r : RXF) (s : State) : Out :=
  let w := r.raw 0x2B#7
  let n := Forms.storeWidth r.f.toNat
  laneInsn w s (fun e t => localAccess e t true 1 n (localEa e (simm w)) (fun u ls =>
    ls.foldl (fun v l => lStore v e.i u.nextId l.1 (localEa e (simm w) l.1) l.2.1 l.2.2 (storeBytes e n l.1)) (addStore u e.i 3 .plain)))

/-! ### Asynchronous operations (R65, R132, R133) -/

/-- R65, R31: a counter of the fibre cannot rise. RED and an atomic without a result stall on it before their addresses are examined; the
stash operations raise their traps first: R65 and R254 give no order, and this is the model's choice (log entry 62). -/
def ctrFull (s : State) (i : Issue) (cls : Nat) : Bool := decide (63 ≤ (fibIs s i).ctrs.getD cls 0)

/-- R65: an operation of a class starts: its counter rises. The accesses of its lanes in flight come before its own (R132). -/
def startOp (s0 : State) (i : Issue) (cls : Nat) (kind : OpKind) (g : Op → Op) : State :=
  let s := landLanes s0 i i.lanes
  let o : Op := g { cls := cls, blk := i.blk, slot := i.slot, fib := i.fib, core := coreIs s i, ctx := ctxIs s i, scope := 3,
                    kind := kind, pc := i.pc, insn := i.insn, ext := i.ext, rep := (laneD (fibIs s i) (lowest i.lanes)).rep }
  updIs { s with ops := mset s.ops s.nextId o, nextId := s.nextId + 1 } i
    (fun x => { x with ctrs := x.ctrs.modify cls (· + 1) })

/-- R438: an older replay entry of the fibre of an operation may still be performed: its lane is not parked. -/
def replayBefore (s : State) (id : Nat) (o : Op) : Bool :=
  s.replays.any (fun r => r.blk == o.blk && !r.tile && r.slot == o.slot && r.fib == o.fib && decide (r.seq < id) &&
    decide ((fibD s o.blk o.slot o.fib).st = .live) && decide ((laneD (fibD s o.blk o.slot o.fib) r.lane).st = .issuable))

/-- R133, R438: the turn of an operation: the oldest of its class from its fibre; among the replay entries of a block that is
loading, the oldest of its fibre that no fault holds, a collective apart; none while its block is saved. -/
def isOldest (s : State) (id : Nat) (o : Op) : Bool :=
  let st := (blkD s o.blk).st
  decide (st ≠ .saved) && !(decide (st = .loading) && replayBefore s id o) &&
  s.ops.all (fun p => decide (id ≤ p.1) || !(p.2.blk == o.blk && p.2.slot == o.slot && p.2.fib == o.fib &&
    (p.2.cls == o.cls || (decide (st = .loading) && p.2.fault.isNone && decide (p.2.cls ≠ 4)))))

/-- R133: an operation completes: its counter falls. -/
def finishOp (s : State) (id : Nat) : State :=
  match mget s.ops id with
  | none => s
  | some o => updFib { s with ops := mdel s.ops id } o.blk o.slot o.fib (fun x => { x with ctrs := x.ctrs.modify o.cls (· - 1) })

/-- R430: an engine operation is held by a fault. -/
def holdOp (s : State) (id : Nat) (o : Op) (k : AccKind) (f : Nat × Xl) : State :=
  match f.2 with
  | .fault c st lv =>
    let i := { mkFault s o.ctx k (accCode k) f.1 c st lv with insn := o.insn, ext := o.ext }
    { s with ops := mset s.ops id { o with fault := some i } }
  | _ => s

/-- R438: the elements of a replay entry with their translations afresh, or the first failure; a dropped one has none. -/
def refreshElems (s : State) (o : Op) (k : AccKind) (els : List Elem) : Except (Nat × Xl) (List Elem) :=
  match els with
  | [] => .ok []
  | x :: r =>
    match (if x.ok then xlate s o.ctx o.core x.va k else .ok x.pa) with
    | .ok pa =>
      match refreshElems s o k r with
      | .ok l => .ok ({ x with pa := pa } :: l)
      | .error e => .error e
    | f => .error (x.va, f)

/-- R438: an operation with its translations in order; a replay entry takes fresh ones, or its fault. -/
def refreshOp (s : State) (id : Nat) (o : Op) (k : AccKind) : State × Op :=
  if o.ready then (s, o) else
  match refreshElems s o k o.elems with
  | .ok els => let p := { o with elems := els, ready := true }; ({ s with ops := mset s.ops id p }, p)
  | .error f => (holdOp s id o k f, o)

/-! ### Atomics (R260 to R265) -/

/-- A number of `n` bits as a signed integer. -/
def signedOf (n x : Nat) : Int := if x.testBit (n - 1) then (x : Int) - 2 ^ n else x

/-- R262: ATOM and ATOML; none where nothing is written. -/
def atomNew (f old b c : Nat) : Option Nat :=
  match f with
  | 0 => some ((old + b) % 2 ^ 32)
  | 1 => some (if signedOf 32 b < signedOf 32 old then b else old)
  | 2 => some (if signedOf 32 old < signedOf 32 b then b else old)
  | 3 => some (min old b)
  | 4 => some (max old b)
  | 5 => some b
  | 6 => if old = c then some b else none
  | _ => some (if b ≤ old then 0 else (old + 1) % 2 ^ 32)

/-- R262: the sum of two FP32 words, rounded to nearest. -/
def faddWord (a b : Nat) : Nat := f32.rnd .rn 0 (Val.sum false [f32.decode a, f32.decode b])

/-- R262: ATOMB. -/
def atombNew (f old b c : Nat) : Option Nat :=
  match f with
  | 0 => some (old &&& b)
  | 1 => some (old ||| b)
  | 2 => some (old ^^^ b)
  | 3 => some (faddWord old b)
  | 4 => some (f32.pickMin false false old b)
  | 5 => some (f32.pickMin false true old b)
  | 6 => some ((old + b) % 2 ^ 64)
  | _ => if old = c then some b else none

/-- R262: RED. -/
def redNew (f old b : Nat) : Nat :=
  match f with
  | 0 => (old + b) % 2 ^ 32
  | 1 => faddWord old b
  | 2 => if signedOf 32 b < signedOf 32 old then b else old
  | 3 => if signedOf 32 old < signedOf 32 b then b else old
  | 4 => min old b
  | 5 => old &&& b
  | 6 => old ||| b
  | _ => old ^^^ b

/-- R262, R223: the new value of an opcode's update. -/
def updateNew (op f old b c : Nat) : Option Nat :=
  match op with
  | 0x3F => some ((old + b) % 2 ^ 32)
  | 0x2D => atombNew f old b c
  | 0x2F => some (redNew f old b)
  | _ => atomNew f old b c

/-- R264, R492: one indivisible update at a home by an agent that is not tracked: the old value, or that the line is poisoned and
nothing was done. Every agent sees it at once. -/
def rmwAt (s : State) (c : Nat) (pas : List Nat) (g : Nat → Option Nat) : State × Nat × Bool :=
  let (s1, bs) := gRead s c pas
  if anyPoison s1 pas then (s1, leNat bs, true) else
  match g (leNat bs) with
  | none => (s1, leNat bs, false)
  | some v => (dropPieces (gPut .usual s1 c pas (natLe pas.length v)) pas, leNat bs, false)

/-- R263: where an update runs: the home of physical bytes, or the bank of a core's byte. -/
inductive Home | glob (pas : List Nat) | loc (core off : Nat)
  deriving DecidableEq, Repr

/-- The locations of `w` bytes at a home. -/
def Home.locs (h : Home) (s : State) (w : Nat) : List Nat :=
  match h with
  | .glob pas => pas
  | .loc core off => localLocs s core off w

/-- R104, R105: the newest bytes at a home, once every other copy has been recalled, and whether one is poisoned (R492). -/
def Home.newest (h : Home) (s : State) (c w : Nat) : State × List Byte × Bool :=
  match h with
  | .glob pas =>
    let t := touchMsc (recalls s none false pas) c false pas
    (t, pas.map (Memory.rd t.mem), anyPoison t pas)
  | .loc core off => (s, lRead s core off w, lPoison s core off w)

/-- Bytes are written at a home. -/
def Home.put (h : Home) (s : State) (c : Nat) (bs : List Byte) : State :=
  match h with
  | .glob pas => gPut .usual s c pas bs
  | .loc core off => lPut s core off bs

/-- The writer of what an update of an agent leaves at a home. -/
def Home.writer (h : Home) (s : State) (agent lane va : Nat) : Writer :=
  match h with
  | .glob _ => .global agent lane va
  | .loc core off => localWriter s agent lane va core off

/-- The update of an agent: its context, the agent, its pending store, its lane, its scope and order, the address it names, and whether an
MSTADD or MSTATOM makes it. -/
structure Updater where
  ctx : Nat
  agent : Nat
  id : Nat
  lane : Nat := 0
  scope : Nat
  ord : Nat := 0
  va : Nat
  kind : PendKind := .atom
  deriving DecidableEq, Repr

/-- R123, R125: an update that has been made is a release: what its agent has seen until now, and all of it an acquire may meet there. -/
def releaseHere (s : State) (u : Updater) (locs : List Nat) : State :=
  if u.ord / 2 % 2 = 0 then s else
  let v := releaseView (32 * u.id + u.lane)
  publish (joinView s u.agent v) locs u.agent u.scope v false

/-- R123, R125: an update is an acquire at its location. -/
def acquireHere (s : State) (u : Updater) (locs : List Nat) : State :=
  if u.ord % 2 = 0 then s else acquireAt s locs u.agent u.scope false

/-- R263 to R265, R119, R137: one indivisible update of `w` bytes at a home: the old value, or that it is poisoned and nothing was done
(R492). A failing compare is a read. Against an MSTADD whose scope does not meet, one of the two may be lost, a free choice. Plain loads of
other agents may see the update later (R121). -/
def updateAt (s : State) (u : Updater) (h : Home) (w : Nat) (g : Nat → Option Nat) : State × Nat × Bool :=
  let locs := h.locs s w
  let (s1, bs, bad) := h.newest (landAt s u.agent locs) u.ctx w
  if bad then (seeLocs s1 u.agent locs, leNat bs, true) else
  let lost := rival s1 u.kind u.scope u.agent locs
  let k := if lost.isSome then Config.freePick s1.choice (2 ^ 35 + u.id) (32 * locs.headD 0 + u.lane) % 3 else 0
  let old := leNat (if k = 0 then bs else (lost.map (·.old)).getD bs)
  let t := acquireHere (if k = 0 then seeLocs s1 u.agent locs else s1) u locs
  match g old with
  | none => (t, old, false)
  | some v =>
    if k = 2 then (t, old, false) else
    let new := natLe w v
    (releaseHere (addPieces (h.put t u.ctx new) u.id u.agent (piecesOf (h.writer s u.agent u.lane u.va) [w] locs bs new)) u locs, old, false)

/-- R261: the width of an atomic. -/
def atomWidth (op f : Nat) : Nat := if op = 0x2D ∧ 6 ≤ f then 8 else 4

/-- A field's value at a width. -/
def fieldVal (x : List (List Word)) (w l : Nat) : Nat := if w = 8 then (pr x 0 l).toNat else (wd x 0 l).toNat

/-- R263: the updates of an issue with a result, in ascending lane order, with what each lane reads; the results are in flight (R34). A
release comes after the accesses of its lanes in flight (R125). -/
def updateLanes (r : Raw) (e : Env) (w scope ord : Nat) (s : State) (ls : List (Nat × Home)) (ea : Nat → Nat)
    (b c : Nat → Nat) : State :=
  let s0 := addStore (if ord / 2 % 2 = 1 then landLanes s e.i e.act else s) e.i scope .atom
  let (s1, gs) := ls.foldl (fun p l =>
    let (t, old, bad) := updateAt p.1 { ctx := ctxIs s e.i, agent := agentOf e.i l.1, id := s.nextId, lane := l.1, scope := scope,
                                        ord := ord, va := ea l.1 } l.2 w (fun o => updateNew r.op.toNat r.f.toNat o (b l.1) (c l.1))
    (t, p.2 ++ [{ lane := l.1, bytes := natLe w old, bad := List.replicate w bad : Got }])) (s0, [])
  fly (writeLoad r e (if w = 8 then 5 else 4) w gs s1) (ls.map (fun l =>
    { flightOf r e (if w = 8 then 5 else 4) w s1 (decide (r.op = 0x2E)) l.1 (ea l.1) (l.2.locs s w) (b l.1) (c l.1) with
      scope := scope, ord := ord
      pend := if s1.stores.any (fun p => p.id == s.nextId && p.pieces.any (fun x => x.lane == l.1)) then some s.nextId else none }))

/-- The words of an access in flight become what it has read now, with their poison (R492). -/
def landWords (s : State) (x : Flight) (bs : List Byte) (bad : List Bool) : State :=
  (List.range (widthRegs x.w)).foldl (fun t j =>
    updSlot t x.blk x.slot (fun y => { y with regs := mupd y.regs (x.reg + j) (fun g =>
      let rest := maskOf (lanes32.filter (fun l => g.poison.testBit l && l != x.lane))
      { g with vals := g.vals.set x.lane (loadWord x.f bs j)
               poison := if ((bad.drop (4 * j)).take 4).any id then rest ||| 2 ^ x.lane else rest }) })) s

/-- R121: a load in flight is performed only as its result returns, a free choice, while it reaches the same bytes. -/
def relook (s : State) (x : Flight) : State :=
  let c := (blkD s x.blk).ctx
  let core := coreOf (blkD s x.blk) x.slot
  if Config.freePick s.choice (2 ^ 36 + x.id) x.lane % 2 = 0 ∨ (fibD s x.blk x.slot x.fib).st ≠ .live then s
  else if x.op = 0x28 then
    match xlateAll (fun a => xlate s c core a .read) (spanOf x.va x.w) with
    | .ok pas =>
      if pas ≠ x.locs then s else
      let (t, bs) := gReadBy (retainOf x.pol) s c x.agent pas
      landWords t x bs (pas.map (poisoned t))
    | .error _ => s
  else if x.op = 0x2A then
    match localOk s c core x.va x.w false with
    | none => s
    | some (k, off) =>
      if localLocs s k off x.w ≠ x.locs ∨ (stashLines s k off x.w).any (fun p => (lineD s p.1 p.2).pas.isEmpty) then s else
      let (t, bs) := lReadBy s x.agent x.va k off x.w
      landWords t x bs ((List.range x.w).map (fun j => lPoison t k (off + j) 1))
  else s

/-- The elements of an asynchronous update. -/
def updateElems (e : Env) (w : Nat) (ls : List GLane) : List Elem :=
  ls.map (fun l => { lane := l.1, va := (pr e.a 0 l.1).toNat, pa := l.2.headD 0, val := fieldVal e.b w l.1, val2 := fieldVal e.c w l.1 })

/-- R133, R263, R265: updates without a return value are an operation of class A, whose issue comes after the earlier accesses of its
lanes (R132); one with order .rel holds what each lane has seen until now. -/
def postUpdate (r : Raw) (e : Env) (w : Nat) (s : State) (ls : List GLane) : State :=
  let ord := Forms.immOf r % 4
  let t := if ord = 2 then ls.foldl (fun u l => joinView u (agentOf e.i l.1) (releaseView (32 * s.nextId + l.1))) s else s
  startOp t e.i 2 .atomic (fun o => { o with
    code := 8 * r.op.toNat + r.f.toNat, w := w, x := ord, scope := Forms.immOf r / 4 % 8, elems := updateElems e w ls })

/-- R260, R263: ATOM and ATOMB, and RED. Without a return value the updates are an operation of class A. -/
def atomicOp (r : Raw) (s : State) : Out :=
  let w := atomWidth r.op.toNat r.f.toNat
  let nr := (Forms.immOf r).testBit 5 || decide (r.op = 0x2F)
  laneInsn r s (fun e t =>
    if nr && ctrFull t e.i 2 then (t, .stay) else
    globalAccess .usual e t .atomic w w (fun l => (pr e.a 0 l).toNat) (fun u ls =>
      if nr then
        if ls.isEmpty ∧ !e.act.isEmpty then u else
        postUpdate r e w u ls
      else
        updateLanes r e w (Forms.immOf r / 4 % 8) (Forms.immOf r % 4) u (ls.map (fun l => (l.1, .glob l.2)))
          (fun l => (pr e.a 0 l).toNat) (fieldVal e.b w) (fieldVal e.c w)))

/-- R261: ATOM. -/
def execAtom (r : RXF) (s : State) : Out := atomicOp (r.raw 0x2C#7) s
/-- R261: ATOMB. -/
def execAtomb (r : RXF) (s : State) : Out := atomicOp (r.raw 0x2D#7) s
/-- R261: RED. -/
def execRed (r : RXF) (s : State) : Out := atomicOp (r.raw 0x2F#7) s

/-- R107: one update at a bank's ALU by an agent that is not tracked; nothing where the bank word is poisoned (R492). -/
def rmwLocal (s : State) (core off : Nat) (g : Nat → Option Nat) : State × Nat × Bool :=
  let old := leNat (lRead s core off 4)
  if lPoison s core off 4 then (s, old, true) else
  match g old with
  | none => (s, old, false)
  | some v => (lWrite s core off (natLe 4 v), old, false)

/-- R261, R107: ATOML. -/
def execAtoml (r : RXF) (s : State) : Out :=
  let w := r.raw 0x2E#7
  laneInsn w s (fun e t => localAccess e t true 4 4 (fun l => (wd e.a 0 l).toNat) (fun u ls =>
    updateLanes w e 4 (Forms.immOf w / 4 % 8) (Forms.immOf w % 4) u (ls.map (fun l => (l.1, .loc l.2.1 l.2.2)))
      (fun l => (wd e.a 0 l).toNat) (fieldVal e.b 4) (fieldVal e.c 4)))

/-- R492: a deferred record of a memory line. -/
def deferredRec (s : State) (c unit pa : Nat) : State :=
  noteError s { cls := 2, unit := unit, action := 0, loc := locHbm pa, ctx := ctxName s c, addr := pa / 64 * 64 }

/-- R133, R263: the updates of operation `id` of class A at their homes, in lane order; a poisoned location discards its update
(R492). Each is performed at its scope; with order .rel it is a release of what its lane had seen at the issue (R265). -/
def applyAtomics (s : State) (id : Nat) (o : Op) : State :=
  o.elems.foldl (fun t x =>
    let pas := (List.range o.w).map (x.pa + ·)
    let a := laneAgent o.blk o.slot o.fib x.lane
    let (t1, _, bad) := updateAt t { ctx := o.ctx, agent := a, id := id, lane := x.lane, scope := o.scope, va := x.va } (.glob pas) o.w
      (fun old => updateNew (o.code / 8) (o.code % 8) old x.val x.val2)
    if bad then deferredRec t1 o.ctx 8 x.pa
    else if o.x = 2 then publish (dropPieces t1 pas) pas a o.scope (releaseView (32 * id + x.lane)) false
    else dropPieces t1 pas) s

/-- R223: JOINC: per lane an atomic addition with order .rel at .pkg. -/
def execJoinc (r : R3) (s : State) : Out :=
  let w := r.raw 0x3F#7 1#3
  laneInsn w s (fun e t => globalAccess .usual e t .atomic 4 4 (fun l => (pr e.a 0 l).toNat) (fun u ls =>
    updateLanes w e 4 3 2 u (ls.map (fun l => (l.1, .glob l.2))) (fun l => (pr e.a 0 l).toNat) (fieldVal e.b 4) (fun _ => 0)))

/-! ### Fences and prefetches -/

/-- R124, R267: FENCE: each active lane's accesses before it come before those after it, at its scope; the fences of one instance come one
after another, of one issue in lane order. -/
def execFence (r : R3) (s : State) : Out :=
  laneInsn (r.raw 0x30#7 0#3) s (fun e t =>
    (e.act.foldl (fun u l => fenceBy u r.b.toNat (agentOf e.i l)) (landLanes t e.i e.act), .advance))

/-- R272, R114: the line of each active lane with a valid address is fetched, into the L2 of the lane's die or the memory-side cache; any
other request is dropped, but a malformed entry that its walk meets is reported (R420). -/
def prefOp (r : Raw) (msc : Bool) (s : State) : Out :=
  laneInsn r s (fun e t =>
    (e.act.foldl (fun u l =>
      let a := globalEa e (simm r) l
      if !canonical a then u else
      match xlate u (ctxIs u e.i) (coreIs u e.i) a .read with
      | .ok pa => if msc then touchMsc u (ctxIs u e.i) false [pa] else touchL2 .usual u (coreIs u e.i / 64) false (pa / 64)
      | _ => noteBadLeaf u (ctxIs u e.i) a .read) t, .advance))

/-- R272: PREF. -/
def execPref (r : RXF) (s : State) : Out := prefOp (r.raw 0x31#7) (decide (r.f = 1)) s

end Sys2Proof.Machine
end

