-- ==== Sys2Proof/Machine/Stash.lean ====
section
/-!
DEFINITION. Meanings of the stash instructions (R100 to R109, R273 to R280) and of the directory's events (R104).
-/

namespace Sys2Proof.Machine

/-! ### Mappings (R100 to R103, R108) -/

/-- The frame of the timing and outside events: the free choices move on. -/
def event (s : State) (f : State → State) : Out := .next { f s with choice := s.choice + 1 }

/-- R500: an event of a context, of which there is none in a stopped hard partition. -/
def ctxEvent (c : Nat) (s : State) (f : State → State) : Out := event s (fun t => if halted t c then t else f t)

/-- R500: an event of a block. -/
def blkEvent (b : Nat) (s : State) (f : State → State) : Out := ctxEvent (blkD s b).ctx s f

/-- A mapping is deleted, with write-back or without; lanes parked on its lines are woken (R104). -/
def deleteMapping (s : State) (m : Nat) (wb : Bool) : State :=
  match mget s.mappings m with
  | none => s
  | some x =>
    let s1 := if wb then (List.range x.lines.length).foldl (fun t j => writeBack t m j) s else s
    wakeLines { s1 with mappings := mdel s1.mappings m } x.core (x.lbase / 64) x.lines.length

/-- Two ranges of stash lines meet. -/
def Mapping.meets (m : Mapping) (lo n : Nat) : Bool :=
  decide (m.lbase < lo + n) && decide (lo < m.lbase + 64 * m.lines.length)

/-- R100: the descriptor as it stands in the registers of a lane. -/
structure Desc where
  gbase : DWord
  stride : Nat
  foff : Nat
  fwid : Nat
  count : Nat
  lbase : Nat
  deriving DecidableEq, Repr

/-- R100: a descriptor from six words. -/
def descOf (e : Env) : Desc :=
  let l := e.low
  { gbase := pr e.d 0 l, stride := (wd e.d 2 l).toNat, foff := (wd e.d 3 l).toNat % 65536,
    fwid := (wd e.d 3 l).toNat / 65536, count := (wd e.d 4 l).toNat, lbase := (wd e.d 5 l).toNat }

/-- R100: the stash lines of a descriptor. -/
def Desc.lines (d : Desc) : Nat := (d.count * d.fwid + 63) / 64

/-- R102: the last global byte lies beyond the range or wraps. -/
def Desc.beyond (d : Desc) : Bool :=
  let last := d.gbase.toNat + (d.count - 1) * d.stride + d.foff + d.fwid - 1
  if d.gbase.toNat < 2 ^ 63 then decide (2 ^ 56 ≤ last) else decide (2 ^ 64 ≤ last)

/-- R102: every bank of the lines is held by the block in STASH mode. -/
def banksStash (x : Block) (lo n : Nat) : Bool :=
  decide (lo + n ≤ 0x100000) && (List.range 64).all (fun b =>
    !(decide (b * 0x4000 < lo + n) && decide (lo < b * 0x4000 + 0x4000)) || planMode x b == 2)

/-- R102: a range meets a handle buffer of the block that is not Free, on the core that holds them. -/
def meetsHandle (x : Block) (core lo n : Nat) : Bool :=
  decide (handleCore x = core) && x.handles.any (fun h => decide (h.2.st ≠ .free) &&
    decide (h.2.decl.lbase < lo + n) && decide (lo < h.2.decl.lbase + h.2.decl.size))

/-- The mappings of a core. -/
def coreMaps (s : State) (core : Nat) : List (Nat × Mapping) := s.mappings.filter (fun p => decide (p.2.core = core))

/-- R102: the cases that raise the local-access trap. -/
def smapTrap (s : State) (b core : Nat) (d : Desc) : Bool :=
  let n := 64 * d.lines
  (decide (1 < d.count) && decide (d.stride < d.foff + d.fwid)) || decide (d.fwid = 0) || decide (d.count = 0) ||
  decide (d.lbase % 64 ≠ 0) || decide (0x100000 ≤ d.lbase) || d.beyond || !banksStash (blkD s b) d.lbase n ||
  (coreMaps s core).any (fun p => p.2.blk.isSome && p.2.meets d.lbase n) || meetsHandle (blkD s b) core d.lbase n ||
  (decide (128 ≤ (coreMaps s core).length) && (coreMaps s core).all (fun p => p.2.blk.isSome))

/-- R108: the oldest orphan of a core. -/
def oldestOrphan (s : State) (core : Nat) : Option Nat :=
  (((coreMaps s core).filter (fun p => p.2.blk.isNone)).foldl (fun a p => match a with
    | none => some (p.1, p.2.orphan)
    | some q => if p.2.orphan < q.2 then some (p.1, p.2.orphan) else some q) none).map (·.1)

/-- R102: the reclaims of an SMAP: the oldest orphan where the table is full, and every orphan that overlaps. The bytes of a
reclaimed orphan that lie outside the new mapping stay in their bank as they stand (log entry 12). -/
def smapReclaim (s : State) (core lo n : Nat) : State :=
  let s1 := if 128 ≤ (coreMaps s core).length then
      match oldestOrphan s core with
      | some m => deleteMapping s m true
      | none => s
    else s
  ((coreMaps s1 core).filter (fun p => p.2.blk.isNone && p.2.meets lo n)).foldl (fun t p => deleteMapping t p.1 true) s1

/-- R103: a mapping is created with every line Absent; its local range reads 0 beyond the packed bytes. -/
def createMapping (s : State) (b core ctx : Nat) (tag : Word) (d : Desc) (ready : Bool) : State :=
  let m : Mapping := { core := core, blk := some b, ctx := ctx, tag := tag, gbase := d.gbase, stride := d.stride, foff := d.foff,
                       fwid := d.fwid, count := d.count, lbase := d.lbase, lines := List.replicate d.lines {}, ready := ready }
  let t := sramZero s core d.lbase (64 * d.lines)
  { t with mappings := mset t.mappings s.nextId m, nextId := s.nextId + 1 }

/-- R275: SMAP. -/
def execSmap (r : R3) (s : State) : Out :=
  perIssueOp (r.raw 0x32#7 0#3) s (fun e t =>
    let d := descOf e
    let core := coreIs t e.i
    if !canonical d.gbase.toNat then trapAll t e 0x02 0 (addrField d.gbase.toNat)
    else if smapTrap t e.i.blk core d then trapAll t e 0x03 0 (addrField d.lbase)
    else if ctrFull t e.i 3 then (t, .stay)
    else
      let t1 := smapReclaim t core d.lbase (64 * d.lines)
      let m := t1.nextId
      (startOp (createMapping t1 e.i.blk core (ctxIs t e.i) (wd e.a 0 e.low) d false) e.i 3 .smap (fun o => { o with x := m }),
        .advance))

/-- The mapping of a block on a core that begins at a local address. -/
def mappingAt (s : State) (b core a : Nat) : Option Nat :=
  (s.mappings.find? (fun p => decide (p.2.blk = some b) && decide (p.2.core = core) && decide (p.2.lbase = a))).map (·.1)

/-- R276: SUNMAP. -/
def execSunmap (r : R3) (s : State) : Out :=
  perIssueOp (r.raw 0x32#7 1#3) s (fun e t =>
    let a := (wd e.a 0 e.low).toNat
    match mappingAt t e.i.blk (coreIs t e.i) a with
    | none => trapAll t e 0x03 0 (addrField a)
    | some m =>
      if ctrFull t e.i 3 then (t, .stay) else
      (startOp { t with mappings := mupd t.mappings m (fun x => { x with unmapping := true }) } e.i 3 .sunmap
        (fun o => { o with x := m }), .advance))

/-! ### Ranges (R274, R277) -/

/-- R274: the stash lines with a byte in a range. -/
def rangeLines (a n : Nat) : List Nat := if n = 0 then [] else (List.range ((a + n - 1) / 64 + 1 - a / 64)).map (a / 64 + ·)

/-- R274: a range that raises the local-access trap. -/
def rangeTrap (s : State) (b core a n : Nat) : Bool :=
  decide (0x100000 < a + n) || (rangeLines a n).any (fun ln => match stashAt s core (64 * ln) with
    | none => true
    | some (m, _) => match mget s.mappings m with
      | none => true
      | some x => decide (x.blk ≠ some b))

/-- A line of a core by its number. -/
def lineAt (s : State) (core ln : Nat) : Option (Nat × Nat) := stashAt s core (64 * ln)

/-- R277: the state of a line by its number. -/
def lineSt (s : State) (core ln : Nat) : LineSt :=
  match lineAt s core ln with
  | some (m, j) => (lineD s m j).st
  | none => .absent

/-- R277: a line that holds data. -/
def isPresent (x : LineSt) : Bool := decide (x = .shared) || decide (x = .upgrading) || decide (x = .exclusive)

/-- R277: the fills of an SFILL: each Absent line becomes Filling; the first line without a translation is a page fault. At the miss cap
(R465) the others remain, and so it answers. -/
def fillLines (s : State) (core : Nat) (lns : List Nat) : Except (Nat × Xl) (State × Bool) :=
  match lns with
  | [] => .ok (s, false)
  | ln :: r =>
    match lineAt s core ln with
    | none => fillLines s core r
    | some (m, j) =>
      match mget s.mappings m, (lineD s m j).st with
      | some x, .absent =>
        match askLine s x (m, j) .read .ok (fun pas y => { y with st := .filling, own := false, pas := pas }) with
        | (t, .ok) => fillLines t core r
        | (t, .capped) => .ok (t, true)
        | (_, .fault va c st lv) => .error (va, .fault c st lv)
        | _ => .error (0, .locked)
      | _, _ => fillLines s core r

/-- The frame of SFILL, SCLEAN and SDROP (R274): each is an operation of class S over the covered lines. -/
def rangeOp (r : Raw) (kind : OpKind) (s : State) : Out :=
  perIssueOp r s (fun e t =>
    let a := (wd e.a 0 e.low).toNat
    let n := (wd e.b 0 e.low).toNat
    let core := coreIs t e.i
    if rangeTrap t e.i.blk core a n then trapAll t e 0x03 0 (addrField a)
    else if ctrFull t e.i 3 then (t, .stay)
    else
      let lns := rangeLines a n
      match (if kind = .sfill then fillLines t core lns else .ok (t, false)) with
      | .error f => parkAll t e .read 4 f
      | .ok (t1, cap) =>
        if cap && t1.misses == t.misses then (capHold t e.i, .stay) else
        (startOp (capFree t1 e.i) e.i 3 kind (fun o => { o with elems := lns.map (fun ln =>
          { lane := 0, ok := kind = .sfill && isPresent (lineSt t1 core ln), loc := ln }) }), .advance))

/-- R277: SFILL. -/
def execSfill (r : R3) (s : State) : Out := rangeOp (r.raw 0x32#7 2#3) .sfill s
/-- R277: SCLEAN. -/
def execSclean (r : R3) (s : State) : Out := rangeOp (r.raw 0x32#7 3#3) .sclean s
/-- R277: SDROP. -/
def execSdrop (r : R3) (s : State) : Out := rangeOp (r.raw 0x32#7 4#3) .sdrop s

/-- R278: the word of SQUERY. -/
def squeryWord (s : State) (b core a : Nat) : Word :=
  if 0x100000 ≤ a then 0 else
  match stashAt s core a with
  | none => 0
  | some (m, j) =>
    match mget s.mappings m with
    | none => 0
    | some x =>
      if x.blk ≠ some b then 0 else
      let l := lineD s m j
      BitVec.ofNat 32 ((if l.dirty = 0 then 0 else 8) + (match l.st with
        | .absent => 1
        | .filling => 2
        | .shared => 3
        | .upgrading => 4
        | .exclusive => 5))

/-- R278: SQUERY. -/
def execSquery (r : R3) (s : State) : Out :=
  aluOp (r.raw 0x32#7 5#3) s (fun e l => squeryWord s e.i.blk (coreIs s e.i) (wd e.a 0 l).toNat)

/-- R109: the orphan that a block adopts by a tag: the one orphaned most recently. -/
def adoptable (s : State) (b core : Nat) (tag : Word) : Option Nat :=
  (((coreMaps s core).filter (fun p => p.2.blk.isNone && decide (p.2.tag = tag) && decide (tag ≠ 0) &&
      decide (p.2.ctx = (blkD s b).ctx) && banksStash (blkD s b) p.2.lbase (64 * p.2.lines.length))).foldl (fun a p => match a with
    | none => some (p.1, p.2.orphan)
    | some q => if q.2 < p.2.orphan then some (p.1, p.2.orphan) else some q) none).map (·.1)

/-- R279: SADOPT. -/
def execSadopt (r : R3) (s : State) : Out :=
  let w := r.raw 0x32#7 6#3
  perIssueOp w s (fun e t =>
    match adoptable t e.i.blk (coreIs t e.i) (wd e.a 0 e.low) with
    | none => (wrAll w e 0xFFFFFFFF t, .advance)
    | some m =>
      let lb := ((mget t.mappings m).map (·.lbase)).getD 0
      (wrAll w e (BitVec.ofNat 32 lb) { t with mappings := mupd t.mappings m (fun x => { x with blk := some e.i.blk }) }, .advance))

/-! ### Events of stash lines (R104) -/

/-- R104, R491: the bytes of a fill, with their poison; bytes that map nothing read 0 (R101). -/
def fillBytes (s : State) (m j : Nat) (x : Mapping) (l : SLine) : State :=
  let s1 := recalls s (some (m, j)) l.own (l.pas.filter (fun pa => decide (pa < 2 ^ 52)))
  let off := x.lbase + 64 * j
  let s2 := seeLocs (touchMsc s1 x.ctx false (l.pas.filter (fun pa => decide (pa < 2 ^ 52)))) fillView l.pas
  let s3 := sramPut s2 x.core off (l.pas.map (fun pa => if pa < 2 ^ 52 then Memory.rd s2.mem pa else 0))
  let bad := (List.range 64).filter (fun k => decide (l.pas.getD k (2 ^ 52) < 2 ^ 52) && poisoned s3 (l.pas.getD k 0))
  addSramPoison (sramClears s3 x.core off 64) (bad.map (fun k => sramKey x.core (off + k) / 8))

/-- R277: an SFILL that covers a line has seen it present. -/
def markFilled (s : State) (core ln : Nat) : State :=
  { s with ops := s.ops.map (fun p => if p.2.kind = .sfill ∧ p.2.core = core then
      (p.1, { p.2 with elems := p.2.elems.map (fun x => if x.loc = ln then { x with ok := true } else x) }) else p) }

/-- R104: a fill that returns with its translation: Shared, or Exclusive where a requester stores; parked lanes become issuable. -/
def fillLine (s : State) (m j : Nat) (x : Mapping) (pas : List Nat) : State :=
  let ln := x.lbase / 64 + j
  let l := { lineD s m j with pas := pas }
  let s1 := updLine (fillBytes s m j x l) m j (fun y => { y with st := if l.own then .exclusive else .shared, own := false, pas := pas })
  wakeLine (markFilled s1 x.core ln) x.core ln

/-- R104: a fill returns. R423: the translation that counts is that of its performance; where there is none any more the line is
Absent and its lanes ask again, and a migration that holds the page holds the fill. -/
def fillReturn (s : State) (core ln : Nat) : State :=
  match lineAt s core ln with
  | none => s
  | some (m, j) =>
    match mget s.mappings m with
    | none => s
    | some x =>
      let l := lineD s m j
      if l.st ≠ .filling then s else
      match linePas s x j (if l.own then .atomic else .read) with
      | .ok pas => fillLine s m j x pas
      | .error (_, .locked) => s
      | .error _ => wakeLine (updLine s m j (fun y => { y with st := .absent, own := false, pas := [] })) core ln

/-- R104: STASH_FILL_RETURN. -/
def execStashFillReturn (core ln : Nat) (s : State) : Out := event s (fun t => fillReturn t core ln)

/-- R104: ownership is granted: every other copy of the touched lines is invalidated; parked stores perform. -/
def grantOwnership (s : State) (core ln : Nat) : State :=
  match lineAt s core ln with
  | none => s
  | some (m, j) =>
    let l := lineD s m j
    if l.st ≠ .upgrading then s else
    let s1 := recalls s (some (m, j)) true (l.pas.filter (fun pa => decide (pa < 2 ^ 52)))
    wakeLine (updLine s1 m j (fun y => { y with st := .exclusive })) core ln

/-- R104: STASH_OWNERSHIP_GRANT. -/
def execStashOwnershipGrant (core ln : Nat) (s : State) : Out := event s (fun t => grantOwnership t core ln)

/-- An effect on the line of a core by its number. -/
def onLine (s : State) (core ln : Nat) (g : State → Nat → Nat → State) : State :=
  match lineAt s core ln with
  | some (m, j) => g s m j
  | none => s

/-- R104: STASH_INVALIDATE. -/
def execStashInvalidate (core ln : Nat) (s : State) : Out := event s (fun t => onLine t core ln invalidateLine)

/-- R104: STASH_RECALL. -/
def execStashRecall (core ln : Nat) (s : State) : Out := event s (fun t => onLine t core ln recallLine)

/-- R104: a capacity eviction makes a Shared or an Exclusive line Absent. -/
def evictLine (s : State) (m j : Nat) : State :=
  match (lineD s m j).st with
  | .shared => invalidateLine s m j
  | .exclusive => invalidateLine s m j
  | _ => s

/-- R104: STASH_CAPACITY_EVICTION. -/
def execStashCapacityEviction (core ln : Nat) (s : State) : Out := event s (fun t => onLine t core ln evictLine)

/-- R276, R277: a lane that may still run holds the right to use one of some lines of a core; a block that has been saved has
given its rights back with its lines (R441). -/
def rightHeld (s : State) (core : Nat) (lns : List Nat) : Bool :=
  s.blocks.any (fun p => decide (p.2.st = .running) && p.2.slots.any (fun k => k.fibs.any (fun f => decide (f.st = .live) &&
    f.lanes.any (fun y => match y.right with
      | some n => lns.any (fun ln => decide (n = lineKey core ln))
      | none => false))))

/-- R276, R277: no fill or upgrade is in flight on the lines, and the lanes parked on them have been served. -/
def linesQuiet (s : State) (core : Nat) (lns : List Nat) : Bool :=
  lns.all (fun ln => decide (lineSt s core ln ≠ .filling) && decide (lineSt s core ln ≠ .upgrading)) && !rightHeld s core lns

/-- R277: SDROP on one line. -/
def dropLine (s : State) (m j : Nat) : State := updLine s m j (fun y => { y with st := .absent, dirty := 0, pas := [] })

/-- R277: SCLEAN on one line. -/
def cleanLine (s : State) (m j : Nat) : State := if (lineD s m j).st = .exclusive then writeBack s m j else s

/-- The numbers of a mapping's lines. -/
def Mapping.lineNums (x : Mapping) : List Nat := (List.range x.lines.length).map (x.lbase / 64 + ·)

/-- R275 to R277: a stash operation that may now be performed, with its effect; none where it waits. -/
def stashOpEffect (s : State) (o : Op) : Option State :=
  let lns := o.elems.map (·.loc)
  match o.kind with
  | .smap =>
    match mget s.mappings o.x with
    | none => some s
    | some x => some (wakeLines { s with mappings := mupd s.mappings o.x (fun y => { y with ready := true }) } x.core
        (x.lbase / 64) x.lines.length)
  | .sunmap =>
    match mget s.mappings o.x with
    | none => some s
    | some x =>
      if linesQuiet s x.core x.lineNums then
        some (sramZero (deleteMapping s o.x true) x.core x.lbase (64 * x.lines.length))
      else none
  | .sfill => if o.elems.all (·.ok) then some s else none
  | .sclean => some (lns.foldl (fun t ln => onLine t o.core ln cleanLine) s)
  | _ => if linesQuiet s o.core lns then some (lns.foldl (fun t ln => onLine t o.core ln dropLine) s) else none

/-- R277, R438: the lines that an SFILL still waits for and that nothing fills are filled again. -/
def fillAgain (s : State) (id : Nat) (o : Op) : State :=
  if o.kind ≠ .sfill then s else
  match fillLines s o.core ((o.elems.filter (fun x => !x.ok)).map (·.loc)) with
  | .ok p => p.1
  | .error f => holdOp s id o .read f

/-- R133: a stash operation completes in issue order. -/
def stashComplete (s : State) (id : Nat) : State :=
  match mget s.ops id with
  | none => s
  | some o =>
    if o.cls ≠ 3 ∨ !isOldest s id o ∨ o.fault.isSome then s else
    match stashOpEffect s o with
    | none => fillAgain s id o
    | some t => finishOp t id

/-- R133: STASH_OP_COMPLETE. -/
def execStashOpComplete (op : Nat) (s : State) : Out := event s (fun t => stashComplete t op)

/-- R438: the lanes of the elements of a replayed update that do not translate. -/
def deadLanes (s : State) (o : Op) : List (Nat × FaultInfo) :=
  o.elems.filterMap (fun x => match xlate s o.ctx o.core x.va .atomic with
    | .fault c st lv => some (x.lane, { mkFault s o.ctx .atomic 2 x.va c st lv with insn := o.insn, ext := o.ext, pc := some o.pc })
    | _ => none)

/-- R429, R438: a replayed update that meets a fault parks its lanes where they may issue; else it is held as an engine's. -/
def parkAtomic (s : State) (id : Nat) (o : Op) : State :=
  let ls := deadLanes s o
  let x := fibD s o.blk o.slot o.fib
  if o.elems.any (fun y => (faultLanes x).any (fun p => p.1 == y.lane)) then s
  else if ls.all (fun p => decide ((laneD x p.1).st = .issuable)) then
    updFib s o.blk o.slot o.fib (fun x => ls.foldl (fun y p => updLanes y [p.1] (fun _ z => { z with st := .parked (.fault p.2) })) x)
  else
    match ls with
    | [] => s
    | p :: _ => { s with ops := mset s.ops id { o with fault := some { p.2 with pc := none } } }

/-- R133: an operation of class A is performed and completes, in issue order. -/
def atomicComplete (s : State) (id : Nat) : State :=
  match mget s.ops id with
  | none => s
  | some o =>
    if o.cls ≠ 2 ∨ !isOldest s id o ∨ o.fault.isSome then s else
    let (t, p) := refreshOp s id o .atomic
    if p.ready then finishOp (applyAtomics t id p) id else (if o.ready then t else parkAtomic s id o)

/-- R429, R438: the replayed updates of a block whose lanes are no longer parked are tried again before those lanes issue. -/
def retryAtomics (s : State) (b : Nat) : State :=
  (s.ops.filter (fun p => p.2.blk == b && decide (p.2.kind = .atomic) && !p.2.ready)).foldl (fun t p => atomicComplete t p.1) s

/-- R133: ATOMIC_UPDATE_COMPLETE. -/
def execAtomicUpdateComplete (op : Nat) (s : State) : Out := event s (fun t => atomicComplete t op)

/-- R117: ACCESS_PERFORMED. -/
def execAccessPerformed (id : Nat) (s : State) : Out :=
  event s (fun t => performStore t id)

end Sys2Proof.Machine
end

