-- ==== Sys2Proof/Machine/Retriever.lean ====
section
/-!
DEFINITION. Meanings of gathers and scatters (R300 to R303, R310 to R315), the scatter windows, and the completion of
operations of class G.
-/

namespace Sys2Proof.Machine

/-! ### What engine accesses share (R300 to R302) -/

/-- R300: an index is dropped under a bound. -/
def dropped (k bound : Nat) : Bool := decide (k = 0xFFFFFFFF) || decide (bound ≤ k)

/-- A range of addresses cut at 64 KiB pages. -/
def spanPieces (va n : Nat) : List (Nat × Nat) :=
  let k := 65536 - va % 65536
  if n ≤ k then [(va, n)] else [(va, k), ((va + k) % 2 ^ 64, n - k)]

/-- The translations of a range of at most 64 KiB, page by page, or the first failure. -/
def xlRange (f : Nat → Xl) (va n : Nat) : Except (Nat × Xl) (List Nat) :=
  match xlateAll f ((spanPieces va n).map (·.1)) with
  | .error e => .error e
  | .ok ps => .ok (((spanPieces va n).zip ps).flatMap (fun p => (List.range p.1.2).map (p.2 + ·)))

/-- R302: what the surviving lanes of an engine operation meet. The L2 of the lanes' die serves those of its elements that lie in host
memory or a fabric window. -/
def engineMeet (s : State) (i : Issue) (k : AccKind) (w : Nat) (ea : Nat → Nat) (ls : List Nat) : Met :=
  let m : Met := ls.foldl (fun m l =>
    match xlRange (fun a => xlate s (ctxIs s i) (coreIs s i) a k) (ea l) w with
    | .ok pas => { m with ok := m.ok ++ [(l, pas)] }
    | .error (va, .fault c st lv) => { m with bad := m.bad ++ [(l, faultInfo s i k (accCode k) va c st lv)] }
    | .error _ => { m with stall := true }) { s := s, stall := false, ok := [], bad := [] }
  if m.stall then m else
  let t := seekTlb s (ctxIs s i) (coreIs s i) k (ls.flatMap (fun l => (spanPieces (ea l) w).map (fun p => p.1)))
  let far := nub ((m.ok.flatMap (fun p => p.2.filter (fun a => !isHbm a))).map (fun a => a / 64))
  { m with s := far.foldl (fun u ln => touchL2 .usual u (coreIs s i / 64) (decide (k ≠ .read)) ln) t }

/-- A range of local addresses cut at the 16 KiB banks. -/
def bankPieces (a n : Nat) : List (Nat × Nat) :=
  ((List.range (n / 0x4000 + 2)).map (fun k =>
    let b := (a / 0x4000 + k) * 0x4000
    (max a b, min (a + n) (b + 0x4000) - max a b))).filter (fun p => decide (0 < p.2))

/-- R310: a local row of `n` bytes that raises the local-access trap: a byte of it is not writable by STL, or lies in a stash
mapping. -/
def rowTrap (s : State) (c core a n : Nat) : Bool :=
  decide (a % 4 ≠ 0) || (bankPieces a n).any (fun p => match localOk s c core p.1 p.2 true with
    | none => true
    | some (k, off) => !(stashLines s k off p.2).isEmpty)

/-- The key of a local byte of a core. -/
def localKey (core a : Nat) : Nat :=
  match localAt core a with
  | some (k, off) => sramKey k off
  | none => 0

/-- R301, R477: an operation's drops join the fibre's drop count, which saturates. -/
def addDrops (s : State) (b k f n : Nat) : State :=
  updFib (updSlot s b k (fun x => { x with dropped := x.dropped + n })) b k f
    (fun x => { x with drops := BitVec.ofNat 32 (min 0xFFFFFFFF (x.drops.toNat + n)) })

/-- Bytes with their poison enter local memory at a key; poison goes to the bank words they fall in (R491). -/
def putLocal (s : State) (key : Nat) (bs : List Byte) (bad : List Bool) : State :=
  let s1 := sramClears (sramPut s 0 key bs) 0 key bs.length
  addSramPoison s1 (((List.range bs.length).filter (fun k => bad.getD k false)).map (fun k => (key + k) / 8))

/-- A row of bytes with their poison enters local memory at a local address of a core. -/
def putRow (s : State) (core a : Nat) (bs : List Byte) (bad : List Bool) : State :=
  (bankPieces a bs.length).foldl (fun t p =>
    putLocal t (localKey core p.1) ((bs.drop (p.1 - a)).take p.2) ((bad.drop (p.1 - a)).take p.2)) s

/-! ### Gathers (R310, R311) -/

/-- R310: the row size of an IMM13. -/
def rowBytes (m : Nat) : Nat := 4 * (m + 1)

/-- R310: the bytes that an element of GATH has. -/
def gathWidth (f imm : Nat) : Nat := if f = 4 then rowBytes (imm % 1024) else 2 ^ f

/-- The first active lane that traps: its kind and address. -/
def laneTrap (ls : List Nat) (p : Nat → Option (Nat × Nat)) : Option (Nat × Nat × Nat) :=
  ls.findSome? (fun l => (p l).map (fun q => (l, q.1, q.2)))

/-- The element address of an indexed access. -/
def elemAddr (e : Env) (w l : Nat) : Nat := ((pr e.a 0 l).toNat + (wd e.b 0 l).toNat * w) % 2 ^ 64

/-- R302, R310: the trap of a lane of GATH. -/
def gathTrap (s : State) (e : Env) (f w l : Nat) : Option (Nat × Nat) :=
  let base := (pr e.a 0 l).toNat
  let live := !dropped (wd e.b 0 l).toNat (wd e.c 0 l).toNat
  if base % min w 8 ≠ 0 ∨ !canonical base then some (0x02, base)
  else if live ∧ !(spanOf (elemAddr e w l) w).all canonical then some (0x02, elemAddr e w l)
  else if f = 4 ∧ rowTrap s (ctxIs s e.i) (coreIs s e.i) (wd e.d 0 l).toNat w then some (0x03, (wd e.d 0 l).toNat)
  else none

/-- R303: a window of a fibre that is not applied yet may update some bytes. -/
def windowOver (s : State) (i : Issue) (pas : List Nat) : Bool :=
  s.windows.any (fun p => p.2.blk == i.blk && p.2.slot == i.slot && p.2.fib == i.fib &&
    (decide (p.2.fn = 8) || p.2.elems.any (fun x => pas.any (fun a => decide (x.pa ≤ a) && decide (a < x.pa + 4)))))

/-- R311, R303: a gather into registers: each surviving element that no earlier window may still update is read now, with the old
word readable until the completion, or at the completion, a free choice (R34, R132, R135). -/
def gatherRegs (r : Raw) (e : Env) (w : Nat) (s : State) (ok : List GLane) (gone : List Nat) : State :=
  let id := s.nextId
  let now (p : GLane) : Bool := decide (pick s id p.1 2 = 0) && !windowOver s e.i p.2
  let early := ok.filter now
  let late := ok.filter (fun p => !now p)
  let (s1, gs) := gReadLanes s e.i early
  let zs := gs ++ gone.map (fun l => { lane := l, bytes := List.replicate w 0, bad := [] })
  let s2 := writeLoad r e 4 w zs s1
  let regs := (List.range (widthRegs w)).map (fun j => archReg e.wb (r.d.toNat + j))
  let s3 := if zs.isEmpty then s2 else regs.foldl (fun t a => tagStale t e.i.blk e.i.slot a id) s2
  let s4 := regs.foldl (fun t a => awaitArch t e.i.blk e.i.slot e.i.fib a id (late.map (·.1))) s3
  let els := late.map (fun p : GLane => ({ lane := p.1, va := elemAddr e w p.1, pa := p.2.headD 0 } : Elem))
  startOp s4 e.i 0 .gather (fun o => { o with w := w, reg := regs.headD 0, drops := gone.length, elems := els })

/-- The pieces of a row as elements: each run of physical bytes and the local address where it goes; `val` is its length. -/
def rowPieces (l va n : Nat) (pas : List Nat) (a : Nat) : List Elem :=
  let k := min n (65536 - va % 65536)
  { lane := l, va := va, pa := pas.headD 0, loc := a, val := k } ::
    (if k < n then [{ lane := l, va := (va + k) % 2 ^ 64, pa := pas.getD k 0, loc := a + k, val := n - k }] else [])

/-- R311: a gather of rows into local bytes. -/
def gatherRows (e : Env) (w : Nat) (s : State) (ok : List GLane) (gone : List Nat) : State :=
  let els := e.act.flatMap (fun l =>
    match ok.find? (fun p => p.1 == l) with
    | some p => rowPieces l (elemAddr e w l) w p.2 (wd e.d 0 l).toNat
    | none => if gone.contains l then [{ lane := l, ok := false, loc := (wd e.d 0 l).toNat, val := w }] else [])
  startOp s e.i 0 .gather (fun o => { o with code := 4, w := w, drops := gone.length, elems := els })

/-- R310, R311: GATH. -/
def execGath (r : RXF) (s : State) : Out :=
  let w := r.raw 0x61#7
  let f := r.f.toNat
  let n := gathWidth f (Forms.immOf w)
  laneInsn w s (fun e t =>
    match laneTrap e.act (gathTrap t e f n) with
    | some (l, kind, a) => (trapFibre t e.i kind 0 [l] (addrField a), .stay)
    | none =>
      if ctrFull t e.i 0 then (t, .stay) else
      let gone := e.act.filter (fun l => dropped (wd e.b 0 l).toNat (wd e.c 0 l).toNat)
      let m := engineMeet t e.i .read n (elemAddr e n) (e.act.filter (fun l => !gone.contains l))
      if m.stall then (t, .stay) else
      let t1 := closeWindow m.s e.i.blk e.i.slot e.i.fib
      let t2 := if m.ok.isEmpty ∧ gone.isEmpty ∧ !e.act.isEmpty then t1
        else if f = 4 then gatherRows e n t1 m.ok gone else gatherRegs w e n t1 m.ok gone
      if m.bad.isEmpty then (t2, .advance) else (parkBad t2 e.i m.bad, .part))

/-- R133, R311: the late elements of a gather into registers. -/
def gatherLate (s : State) (id : Nat) (o : Op) : State :=
  let s1 := o.elems.foldl (fun t x =>
    let (t1, bs) := gReadBy .usual t o.ctx (laneAgent o.blk o.slot o.fib x.lane) ((List.range o.w).map (x.pa + ·))
    (List.range (widthRegs o.w)).foldl (fun u j =>
      let ls := (awaiting u o.blk o.slot (o.reg + j) id).filter (fun l => l == x.lane)
      let bad := (List.range 4).any (fun k => decide (4 * j + k < o.w) && poisoned t1 (x.pa + 4 * j + k))
      if ls.isEmpty then u else
      poisonArch (updSlot u o.blk o.slot (fun y => { y with regs := mupd y.regs (o.reg + j) (fun g =>
        { g with vals := g.vals.set x.lane (loadWord 4 bs j)
                 poison := maskOf (lanes32.filter (fun l => g.poison.testBit l && l != x.lane))
                 late := cutLate g.late [x.lane] }) })) o.blk o.slot (o.reg + j) (if bad then ls else [])) t1) s
  exactOp s1 o.blk o.slot id

/-- R133, R311: the rows of a gather reach local memory; a dropped row is zeros. -/
def gatherMove (s : State) (o : Op) : State :=
  o.elems.foldl (fun t x =>
    if x.ok then
      let pas := (List.range x.val).map (x.pa + ·)
      let (t1, bs) := gLookRow t o.ctx { agent := laneAgent o.blk o.slot o.fib x.lane } pas
      putRow t1 o.core x.loc bs (pas.map (poisoned t1))
    else putRow t o.core x.loc (List.replicate x.val 0) []) s

/-! ### Scatters (R312 to R314) -/

/-- R312: the word that SCATAI and SCATALI add. -/
def scatOne (ty : Nat) : Nat := if ty = 2 then 0x3F800000 else 1

/-- R314: the new value of a location from its old one and the values of a window, in order. -/
def scatNew (fn ty old : Nat) (vals : List Nat) : Nat :=
  match fn with
  | 5 => vals.getLastD old
  | 6 => vals.foldl (fun a v => match ty with
      | 0 => if signedOf 32 v < signedOf 32 a then v else a
      | 1 => min a v
      | _ => f32.pickMin false false a v) old
  | _ =>
    if ty = 2 then f32.rnd .rn 0 (Val.sum false [f32.decode old, Val.sum false (vals.map f32.decode)])
    else (old + vals.foldl (· + ·) 0) % 2 ^ 32

/-- R313: an issue fits the open window: function, type, row width and, where a lane is active, base and bound. -/
def Window.fits (w : Window) (fn ty rw : Nat) (bb : Option (Nat × Nat)) : Bool :=
  decide (w.fn = fn) && decide (w.ty = ty) && decide (w.rw = rw) && (match bb with
    | none => true
    | some p => decide (w.base = p.1) && decide (w.bound = p.2))

/-- R313: a new window of the issuing fibre. -/
def openWindow (s : State) (i : Issue) (fn ty rw : Nat) (p : Nat × Nat) : State × Option Nat :=
  let k := s.nextId
  let w : Window := { blk := i.blk, slot := i.slot, fib := i.fib, fn := fn, ty := ty, rw := rw, base := p.1, bound := p.2 }
  (updIs { s with windows := mset s.windows k w, nextId := k + 1 } i (fun x => { x with window := some k }), some k)

/-- R313: the open window of the issuing fibre, where an issue fits it. -/
def fitting (s : State) (i : Issue) (fn ty rw : Nat) (bb : Option (Nat × Nat)) : Option Nat :=
  ((fibIs s i).window).filter (fun k => ((mget s.windows k).map (fun w => w.fits fn ty rw bb)).getD false)

/-- R313: the open window closes at an issue that does not fit it. -/
def closeUnfit (s : State) (i : Issue) (fn ty rw : Nat) (bb : Option (Nat × Nat)) : State :=
  if (fitting s i fn ty rw bb).isSome then s else closeWindow s i.blk i.slot i.fib

/-- R313: the window that an issue joins: the open one where it fits, else a new one; none for an issue without a lane that
fits no window. -/
def joinWindow (s : State) (i : Issue) (fn ty rw : Nat) (bb : Option (Nat × Nat)) : State × Option Nat :=
  match fitting s i fn ty rw bb with
  | some k => (s, some k)
  | none =>
    let s1 := closeUnfit s i fn ty rw bb
    match bb with
    | none => (s1, none)
    | some p => openWindow s1 i fn ty rw p

/-- R313: a scatter issue starts its operation and adds its elements to its window; the 128th issue closes it. Without an active
lane the operation makes no access (R154). -/
def startScatter (s : State) (e : Env) (kind : OpKind) (fn ty rw base bound drops : Nat) (els : List Elem) : State :=
  let (s1, win) := joinWindow s e.i fn ty rw (if e.act.isEmpty then none else some (base, bound))
  let id := s1.nextId
  let s2 := startOp s1 e.i 0 (if e.act.isEmpty then .idle else kind) (fun o =>
    { o with code := 4 * fn + ty, w := rw, x := base, drops := drops, win := win })
  match win with
  | none => s2
  | some k =>
    let s3 := updIs { s2 with windows := mupd s2.windows k (fun w =>
      { w with issues := w.issues + 1, ops := w.ops ++ [id], elems := w.elems ++ els.map (fun x => { x with op := id }) }) } e.i
      (fun x => { x with winIdle := 0 })
    if 128 ≤ ((mget s3.windows k).map (·.issues)).getD 0 then closeWindow s3 e.i.blk e.i.slot e.i.fib else s3

/-- R302, R312: the trap of a lane of a global scatter of `w` bytes per element. -/
def scatTrap (s : State) (e : Env) (fn w l : Nat) : Option (Nat × Nat) :=
  let base := (pr e.a 0 l).toNat
  let live := !dropped (wd e.b 0 l).toNat (wd e.c 0 l).toNat
  if base % 4 ≠ 0 ∨ !canonical base then some (0x02, base)
  else if live ∧ !(spanOf (elemAddr e w l) w).all canonical then some (0x02, elemAddr e w l)
  else if fn = 2 ∧ live ∧ rowTrap s (ctxIs s e.i) (coreIs s e.i) (wd e.d 0 l).toNat w then some (0x03, (wd e.d 0 l).toNat)
  else none

/-- R303: an older operation of a fibre, not yet performed, writes a row of local memory that holds a word. -/
def rowComing (s : State) (b k f a : Nat) : Bool :=
  s.ops.any (fun p => p.2.blk == b && p.2.slot == k && p.2.fib == f && (match p.2.kind with
    | .gather => decide (p.2.code = 4) && p.2.elems.any (fun x => decide (x.loc < a + 4) && decide (a < x.loc + x.val))
    | .embLoad => true
    | _ => false))

/-- The elements of a scatter issue: one word each; a word of an SCATAB row is read at the issue or when the window is applied, a free
choice (R132), but behind an older write of it by the fibre's engines only then (R303); `loc` is its local address, and `val2` is 1 for
a later read and 2 for a poisoned word read at the issue. -/
def scatElems (s : State) (e : Env) (fn ty w : Nat) (ok : List GLane) : List Elem :=
  ok.flatMap (fun p =>
    if fn = 2 then
      (List.range (w / 4)).map (fun j =>
        let a := (wd e.d 0 p.1).toNat + 4 * j
        let key := localKey (coreIs s e.i) a
        let how := if rowComing s e.i.blk e.i.slot e.i.fib a ∨ pick s key p.1 2 = 0 then 1 else if lPoison s 0 key 4 then 2 else 0
        { lane := p.1, va := elemAddr e w p.1 + 4 * j, pa := p.2.getD (4 * j) 0, loc := a,
          val := leNat (lRead s 0 key 4), val2 := how })
    else [{ lane := p.1, va := elemAddr e w p.1, pa := p.2.headD 0, val := if fn = 1 then scatOne ty else (wd e.d 0 p.1).toNat }])

/-- R312: the global scatters. -/
def scatterOp (r : Raw) (fn : Nat) (s : State) : Out :=
  let ty := Forms.immOf r / 512 % 4
  let w := if fn = 2 then rowBytes (Forms.immOf r % 512) else 4
  laneInsn r s (fun e t =>
    match laneTrap e.act (scatTrap t e fn w) with
    | some (l, kind, a) => (trapFibre t e.i kind 0 [l] (addrField a), .stay)
    | none =>
      if ctrFull t e.i 0 then (t, .stay) else
      let gone := e.act.filter (fun l => dropped (wd e.b 0 l).toNat (wd e.c 0 l).toNat)
      let m := engineMeet t e.i .atomic w (elemAddr e w) (e.act.filter (fun l => !gone.contains l))
      if m.stall then (t, .stay) else
      let t1 := if m.ok.isEmpty ∧ gone.isEmpty ∧ !e.act.isEmpty then
          closeUnfit m.s e.i fn ty (Forms.immOf r % 512) (some ((pr e.a 0 e.low).toNat, (wd e.c 0 e.low).toNat))
        else startScatter m.s e .scatter fn ty (Forms.immOf r % 512) (pr e.a 0 e.low).toNat (wd e.c 0 e.low).toNat gone.length
          (scatElems m.s e fn ty w m.ok)
      if m.bad.isEmpty then (t1, .advance) else (parkBad t1 e.i m.bad, .part))

/-- R312: SCATA. -/
def execScata (r : RX) (s : State) : Out := scatterOp (r.raw 0x62#7 0#3) 0 s
/-- R312: SCATAI. -/
def execScatai (r : RX) (s : State) : Out := scatterOp (r.raw 0x62#7 1#3) 1 s
/-- R312: SCATAB. -/
def execScatab (r : RX) (s : State) : Out := scatterOp (r.raw 0x62#7 2#3) 2 s
/-- R312: SCAT. -/
def execScat (r : RX) (s : State) : Out := scatterOp (r.raw 0x62#7 5#3) 5 s
/-- R312: SCATMIN. -/
def execScatmin (r : RX) (s : State) : Out := scatterOp (r.raw 0x62#7 6#3) 6 s

/-! ### Local scatters (R315) -/

/-- R256, R315: the local element address. -/
def localElem (e : Env) (l : Nat) : Nat := ((wd e.a 0 l).toNat + 4 * (wd e.b 0 l).toNat) % 2 ^ 32

/-- R315: the updates of one issue, one per location, the values in ascending lane order. -/
def scatterLocal (fn ty : Nat) (e : Env) (s : State) (ls : List (Nat × Nat × Nat)) : State :=
  (nub (ls.map (fun p => sramKey p.2.1 p.2.2))).foldl (fun t key =>
    let vals := (ls.filter (fun p => sramKey p.2.1 p.2.2 == key)).map (fun p =>
      if fn = 4 then scatOne ty else (wd e.d 0 p.1).toNat)
    let (t1, _, bad) := rmwLocal t (key / 2 ^ 20) (key % 2 ^ 20) (fun old => some (scatNew fn ty old vals))
    if bad then noteError t1 { cls := 2, unit := 2, action := 0, loc := locCore (key / 2 ^ 20) (key % 2 ^ 20 / 0x4000),
                               ctx := ctxName t (ctxIs t e.i), addr := 0 } else t1) s

/-- R312, R315: SCATAL and SCATALI. -/
def scatterLocalOp (r : Raw) (fn : Nat) (s : State) : Out :=
  let ty := Forms.immOf r / 512 % 4
  laneInsn r s (fun e t =>
    let gone := e.act.filter (fun l => dropped (wd e.b 0 l).toNat (wd e.c 0 l).toNat)
    match e.act.find? (fun l => decide ((wd e.a 0 l).toNat % 4 ≠ 0) || (!gone.contains l &&
        (localOk t (ctxIs t e.i) (coreIs t e.i) (localElem e l) 4 true).isNone)) with
    | some l => (trapFibre t e.i 0x03 0 [l] (addrField (localElem e l)), .stay)
    | none => localAccess { e with act := e.act.filter (fun l => !gone.contains l) } t true 4 4 (localElem e)
        (fun u ls => addDrops (scatterLocal fn ty e u ls) e.i.blk e.i.slot e.i.fib gone.length))

/-- R315: SCATAL. -/
def execScatal (r : RX) (s : State) : Out := scatterLocalOp (r.raw 0x62#7 3#3) 3 s
/-- R315: SCATALI. -/
def execScatali (r : RX) (s : State) : Out := scatterLocalOp (r.raw 0x62#7 4#3) 4 s

/-! ### Embedding tables (R316 to R322) -/

/-- A table descriptor (R316). -/
structure Table where
  bases : List Nat
  popmap : Nat
  rows : Nat
  dim : Nat
  bad : Bool
  deriving DecidableEq, Repr

/-- R316: a descriptor from its 64 bytes. -/
def tableOf (bs : List Byte) : Table :=
  let x := leNat bs
  { bases := [bits x 127 64, bits x 191 128, bits x 255 192, bits x 319 256], popmap := bits x 63 0, rows := bits x 351 320,
    dim := 8 * (bits x 358 352 + 1), bad := decide (bits x 511 359 ≠ 0) }

/-- R317: the bytes from one row of a class to the next. -/
def rowPitch (cls dim : Nat) : Nat :=
  match cls with
  | 0 => 4 * dim
  | 1 => 2 * dim
  | 2 => dim + 4
  | _ => dim / 2 + 4

/-- R302: a read that an engine makes after issue: its bytes with their poison, or the fault that holds the operation. -/
def engineRead (s : State) (c core va n : Nat) (k : AccKind) : Except (Nat × Xl) (State × List Nat × List Byte) :=
  match xlRange (fun a => xlateShape s c core a k) va n with
  | .error e => .error e
  | .ok pas =>
    let (t, bs) := gRead s c pas
    .ok (t, pas, bs)

/-- R319: the descriptor of an operation's version. -/
def readTable (s : State) (c core va : Nat) : Except (Nat × Xl) (State × Table) :=
  match engineRead s c core va 64 .read with
  | .error e => .error e
  | .ok (t, _, bs) => .ok (t, tableOf bs)

/-- A row of a table: its class, its physical bytes, the bytes. -/
structure Row where
  cls : Nat
  pas : List Nat
  bytes : List Byte
  deriving DecidableEq, Repr

/-- R317, R319: row `k` of a table; none where its place lies beyond the address space, or beyond its class array as the system maps
it. -/
def readRow (s : State) (c core : Nat) (tb : Table) (k : Nat) (acc : AccKind) : Except (Nat × Xl) (State × Option Row) :=
  let ea := tb.popmap + 4 * k
  if badGlobal 1 4 (ea % 2 ^ 64) then .ok (s, none) else
  match engineRead s c core (ea % 2 ^ 64) 4 .read with
  | .error e => .error e
  | .ok (t, _, bs) =>
    let w := leNat bs
    let cls := w / 2 ^ 30
    let va := tb.bases.getD cls 0 + w % 2 ^ 30 * rowPitch cls tb.dim
    if 2 ^ 64 ≤ va ∨ badGlobal 1 (rowPitch cls tb.dim) va then .ok (t, none) else
    match engineRead t c core va (rowPitch cls tb.dim) acc with
    | .error e => if unmappedAt t c e.1 then .ok (t, none) else .error e
    | .ok (u, pas, row) => .ok (u, some { cls := cls, pas := pas, bytes := row })

/-- R317: the bytes of a row that its element `j` comes from. -/
def elemBytes (cls j : Nat) : List Nat :=
  match cls with
  | 0 => [4 * j, 4 * j + 1, 4 * j + 2, 4 * j + 3]
  | 1 => [2 * j, 2 * j + 1]
  | 2 => [0, 4 + j]
  | _ => [0, 4 + j / 2]

/-- R317: element `j` of a row as an FP32 word. -/
def decodeElem (cls j : Nat) (bs : List Byte) : Nat :=
  let by' (k : Nat) : Nat := (bs.getD k 0).toNat
  match cls with
  | 0 => leNat ((bs.drop (4 * j)).take 4)
  | 1 => leNat ((bs.drop (2 * j)).take 2) * 65536
  | 2 => f32.rnd .rn 0 (mxValue e4m3 (by' (4 + j)) (by' 0))
  | _ => f32.rnd .rn 0 (mxValue e2m1 (by' (4 + j / 2) / 16 ^ (j % 2) % 16) (by' 0))

/-- R318, R319: EMBL and EMBU up to their table slot: an acquire of its value. Without an active lane they make no access (R154). A group
that parks has issued, which closes a window (`shut`, R313). -/
def embOp (r : Raw) (s : State) (shut : State → Issue → State) (eff : Env → State → Nat → State) : Out :=
  laneInsn r s (fun e t =>
    if e.act.isEmpty then
      (if ctrFull t e.i 0 then (t, .stay) else (eff e t 0, .advance)) else
    let a := (pr e.a 0 e.low).toNat
    if badGlobal 8 8 a then trapAll t e 0x02 0 (addrField a) else
    if ctrFull t e.i 0 then (t, .stay) else
    match xlSpan t e.i .read a 8 with
    | .error (va, .fault c st lv) => parkAll (shut t e.i) e .read 0 (va, .fault c st lv)
    | .error f => parkAll t e .read 0 f
    | .ok pas =>
      let (t1, bs) := gRead (asked t e.i .read (spanOf a 8) pas) (ctxIs t e.i) pas
      if badGlobal 64 1 (leNat bs) then trapAll t e 0x02 0 (addrField (leNat bs))
      else (eff e t1 (leNat bs), .advance))

/-- R313, R321: a window of another function closes at an EMBU. -/
def closeForEmbu (s : State) (i : Issue) : State :=
  match (fibIs s i).window.bind (mget s.windows) with
  | some w => if w.fn = 8 then s else closeWindow s i.blk i.slot i.fib
  | none => s

/-- The rows of an embedding issue: lane, local address, index. -/
def embElems (e : Env) : List Elem :=
  e.act.map (fun l => { lane := l, loc := (wd e.d 0 l).toNat, val := (wd e.b 0 l).toNat })

/-- R320: EMBL. -/
def execEmbl (r : RX) (s : State) : Out :=
  embOp (r.raw 0x63#7 0#3) s (fun t i => closeWindow t i.blk i.slot i.fib) (fun e t v =>
    let t1 := closeWindow t e.i.blk e.i.slot e.i.fib
    startOp t1 e.i 0 (if e.act.isEmpty then .idle else .embLoad) (fun o => { o with x := v, elems := embElems e }))

/-- R321: EMBU; its window has the slot value as the base. -/
def execEmbu (r : RX) (s : State) : Out :=
  embOp (r.raw 0x63#7 1#3) s (fun t i => closeForEmbu t i) (fun e t v => startScatter t e .embUpdate 8 0 0 v 0 0 (embElems e))

/-- R301, R322: EMBQ. -/
def execEmbq (r : RX) (s : State) : Out :=
  let w := r.raw 0x63#7 2#3
  perIssueOp w s (fun e t =>
    (updIs (wrAll w e (fibIs t e.i).drops t) e.i (fun x => if (Forms.immOf w).testBit 0 then { x with drops := 0 } else x), .advance))

/-- R322: the operations that have bound a version. -/
def boundOps (s : State) (c v : Nat) : List Nat :=
  (s.ops.filter (fun p => decide (p.2.ctx = c) && decide (p.2.x = v) &&
    (decide (p.2.kind = .embLoad) || decide (p.2.kind = .embUpdate)))).map (·.1)

/-- R322: EMBV: the count at issue, then a wait for those operations. -/
def execEmbv (r : RX) (s : State) : Out :=
  let w := r.raw 0x63#7 3#3
  perIssueOp w s (fun e t =>
    let (ids, n) := match (fibIs t e.i).wait with
      | some k => (k.done, k.last.headD 0)
      | none =>
        let b := boundOps t (ctxIs t e.i) (pr e.a 0 e.low).toNat
        (b, BitVec.ofNat 32 b.length)
    if ids.all (fun k => (mget t.ops k).isNone) then (wrAll w e n t, .advance) else waitWith e t ids [n])

/-- R319: an index of an embedding operation that is dropped: by its bound, or by its local row. -/
def embGone (s : State) (o : Op) (tb : Table) (x : Elem) : Bool :=
  tb.bad || dropped x.val tb.rows || rowTrap s o.ctx o.core x.loc (4 * tb.dim)

/-- R319: the rows of the surviving indices; none in place of all where one lies beyond its array. -/
def embRows (s : State) (o : Op) (tb : Table) (acc : AccKind) (els : List Elem) :
    Except (Nat × Xl) (State × Option (List (Elem × Row))) :=
  match els with
  | [] => .ok (s, some [])
  | x :: r =>
    if embGone s o tb x then embRows s o tb acc r else
    match readRow s o.ctx o.core tb x.val acc with
    | .error e => .error e
    | .ok (t, none) => .ok (t, none)
    | .ok (t, some row) =>
      match embRows t o tb acc r with
      | .error e => .error e
      | .ok (u, none) => .ok (u, none)
      | .ok (u, some l) => .ok (u, some ((x, row) :: l))

/-- R320: the output row of one lane of EMBL: the decoded row, zeros for a dropped index, nothing for a bad local row. -/
def emblRow (s : State) (o : Op) (tb : Table) (rows : List (Elem × Row)) (x : Elem) : State :=
  if rowTrap s o.ctx o.core x.loc (4 * tb.dim) then s else
  match rows.find? (fun p => p.1.lane == x.lane) with
  | none => putRow s o.core x.loc (List.replicate (4 * tb.dim) 0) []
  | some (_, row) =>
    let js := List.range tb.dim
    putRow s o.core x.loc (js.flatMap (fun j => natLe 4 (decodeElem row.cls j row.bytes)))
      (js.flatMap (fun j => List.replicate 4 ((elemBytes row.cls j).any (fun k => poisoned s (row.pas.getD k 0)))))

/-- R320: EMBL is performed: every output row in lane order, and its drops. -/
def emblPerform (s : State) (id : Nat) (o : Op) : State :=
  match readTable s o.ctx o.core o.x with
  | .error f => holdOp s id o .read f
  | .ok (t, tb) =>
    match embRows t o tb .read o.elems with
    | .error f => holdOp s id o .read f
    | .ok (u, rows) =>
      let rs := rows.getD []
      let n := o.elems.length - rs.length
      finishOp (addDrops (o.elems.foldl (fun v x => emblRow v o tb rs x) u) o.blk o.slot o.fib n) id

/-- R321: a row after the exact gradient sums of its elements. -/
def updatedRow (row : Row) (dim : Nat) (sums : List Val) : List Byte :=
  let v (j : Nat) : Val := Val.sum false [f32.decode (decodeElem row.cls j row.bytes), sums.getD j .nan]
  let js := List.range dim
  match row.cls with
  | 0 => js.flatMap (fun j => natLe 4 (f32.rnd .rn 0 (v j)))
  | 1 => js.flatMap (fun j => natLe 2 (bf16.rnd .rn 0 (v j)))
  | cls =>
    let fm := if cls = 2 then e4m3 else e2m1
    let sc := blockScale fm (js.map v)
    let c (j : Nat) : Nat := if sc = 0xFF then 0 else fm.round .rn .sat 0 ((v j).scale (127 - (sc : Int)))
    BitVec.ofNat 8 sc :: (row.bytes.drop 1).take 3 ++
      (if cls = 2 then js.map (fun j => BitVec.ofNat 8 (c j))
       else (List.range (dim / 2)).map (fun j => BitVec.ofNat 8 (c (2 * j) + 16 * c (2 * j + 1))))

/-- R321: the gradient row of a lane as FP32 words. -/
def gradRow (s : State) (o : Op) (dim : Nat) (x : Elem) : List Nat :=
  (List.range dim).map (fun j => leNat (lRead s 0 (localKey o.core (x.loc + 4 * j)) 4))

/-- R321, R492: one row of a window is updated once; a poisoned row, or a poisoned gradient, discards the update. -/
def embuRow (s : State) (o : Op) (tb : Table) (rows : List (Elem × Row)) (first : Nat) : State :=
  let mine := rows.filter (fun p => p.2.pas.headD 0 == first)
  match mine with
  | [] => s
  | (_, row) :: _ =>
    let bad := mine.any (fun p => (List.range tb.dim).any (fun j => lPoison s 0 (localKey o.core (p.1.loc + 4 * j)) 4))
    let gs := mine.map (fun p => gradRow s o tb.dim p.1)
    let sums := (List.range tb.dim).map (fun j => Val.sum false (gs.map (fun g => f32.decode (g.getD j 0))))
    if anyPoison s row.pas ∨ bad then deferredRec s o.ctx 8 first
    else gWrite s o.ctx row.pas (updatedRow row tb.dim sums)

/-! ### Windows applied (R314, R321) -/

/-- R314: one location of a window, with the values in issue order and lane order; a poisoned location or source word
discards the update (R492). -/
def scatterAt (w : Window) (c : Nat) (s : State) (pa : Nat) : State :=
  let mine := w.elems.filter (fun x => x.pa == pa)
  let key (x : Elem) : Nat := localKey (coreOf (blkD s w.blk) w.slot) x.loc
  let bad := mine.any (fun x => decide (x.val2 = 2) || (decide (x.val2 = 1) && lPoison s 0 (key x) 4))
  let vals := mine.map (fun x => if x.val2 = 1 then leNat (lRead s 0 (key x) 4) else x.val)
  let (s1, _, hit) := rmwAt s c ((List.range 4).map (pa + ·)) (fun old => if bad then none else some (scatNew w.fn w.ty old vals))
  if hit ∨ bad then deferredRec s1 c 8 pa else s1

/-- Elements of a window are still to be applied: a replay (R437); without any its operations wait for it no longer. -/
def windowLeft (s : State) (k : Nat) (rest : List Elem) : State :=
  if rest.isEmpty then
    { s with windows := mdel s.windows k,
             ops := s.ops.map (fun p => if p.2.win = some k then (p.1, { p.2 with win := none }) else p) }
  else { s with windows := mupd s.windows k (fun w => { w with elems := rest, ready := false }) }

/-- R321: elements of an embedding window: the surviving indices of each operation, the rows once each, and the drops; `rest` are
left. -/
def applyEmbu (s : State) (k : Nat) (w : Window) (els rest : List Elem) : State :=
  match w.ops.findSome? (fun id => (mget s.ops id).map (fun o => (id, o))) with
  | none => windowLeft s k []
  | some (id, o) =>
    match readTable s o.ctx o.core w.base with
    | .error f => holdOp s id o .read f
    | .ok (t, tb) =>
      let per := w.ops.map (fun n => (n, embRows t o tb .atomic (els.filter (fun x => x.op == n))))
      match per.findSome? (fun p => match p.2, mget s.ops p.1 with
          | .error f, some q => some (p.1, q, f)
          | _, _ => none) with
      | some (n, q, f) => holdOp s n q .atomic f
      | none =>
        let got := per.map (fun p => (p.1, match p.2 with
          | .ok (_, some l) => l
          | _ => []))
        let rows := got.flatMap (·.2)
        let u := (nub (rows.map (fun p => p.2.pas.headD 0))).foldl (fun v a => embuRow v o tb rows a) t
        let v := { u with ops := u.ops.map (fun p => if p.2.win = some k then
          (p.1, { p.2 with drops := p.2.drops + (els.filter (fun x => x.op == p.1)).length -
            (((got.find? (fun q => q.1 == p.1)).map (·.2.length)).getD 0) }) else p) }
        windowLeft v k rest

/-- R314: elements of a window: one indivisible update of each location. -/
def applyElems (s : State) (w : Window) (els : List Elem) : State :=
  (nub (els.map (·.pa))).foldl (scatterAt { w with elems := els } (blkD s w.blk).ctx) s

/-- R314, R321: elements of a translated window are applied; `rest` are left. -/
def windowPart (s : State) (k : Nat) (w : Window) (els rest : List Elem) : State :=
  if w.fn = 8 then applyEmbu s k w els rest else windowLeft (applyElems s w els) k rest

/-- R314: where an element of a window applies: at its location, or in its row of the table. -/
def Window.spot (w : Window) (x : Elem) : Nat := if w.fn = 8 then x.val else x.pa

/-- R436, R445: the elements of a window whose locations have had their update at an interruption, any of them by a free choice,
and the others; none of a held one. -/
def someSpots (s : State) (k : Nat) (w : Window) : List Elem × List Elem :=
  let ps := nub (w.elems.map w.spot)
  let hit := ((List.range ps.length).filter (fun j => decide (pick s k (1 + j) 2 = 0))).map (fun j => ps.getD j 0)
  (w.elems.filter (fun x => hit.contains (w.spot x)), w.elems.filter (fun x => !hit.contains (w.spot x)))

/-- R303: an element of a gather and a location of a window meet; an embedding window may update any row. -/
def Window.over (w : Window) (x : Elem) (n : Nat) : Bool :=
  decide (w.fn = 8) || w.elems.any (fun y => decide (y.pa < x.pa + n) && decide (x.pa < y.pa + 4))

/-- R303: a row that a gather writes to local memory meets one that a window reads there. -/
def Window.sources (w : Window) (x : Elem) : Bool :=
  decide (w.fn = 2) && w.elems.any (fun y => decide (y.loc < x.loc + x.val) && decide (x.loc < y.loc + 4))

/-- R303: an older operation of class G of a window's fibre that may name a location of it is still to be performed. -/
def windowBehind (s : State) (k : Nat) (w : Window) : Bool :=
  let mine (b q f : Nat) : Bool := b == w.blk && q == w.slot && f == w.fib
  s.ops.any (fun p => mine p.2.blk p.2.slot p.2.fib && w.ops.all (fun id => decide (p.1 < id)) && (match p.2.kind with
    | .gather => p.2.elems.any (fun x => w.over x (if p.2.code = 4 then x.val else p.2.w) || (decide (p.2.code = 4) && w.sources x))
    | .embLoad => true
    | _ => false)) ||
  s.windows.any (fun p => decide (p.1 < k) && mine p.2.blk p.2.slot p.2.fib &&
    (decide (p.2.fn = 8) || p.2.elems.any (fun x => w.over x 4)))

/-- R303, R430, R438: a window that is not applied yet: a fault holds an operation of it, an older operation names a location of it,
or it is a replayed one with an older operation of its fibre before it. -/
def windowHeld (s : State) (k : Nat) (w : Window) : Bool :=
  windowBehind s k w || w.ops.any (fun id => ((mget s.ops id).map (·.fault.isSome)).getD false) ||
  (decide ((blkD s w.blk).st = .loading) && s.ops.any (fun p => p.2.blk == w.blk && p.2.slot == w.slot && p.2.fib == w.fib &&
    p.2.fault.isNone && decide (p.2.cls ≠ 4) && w.ops.all (fun id => decide (p.1 < id))))

/-- R314: a closed window is applied, one of a replay with fresh translations (R438). -/
def windowApply (s : State) (k : Nat) : State :=
  match mget s.windows k with
  | none => s
  | some w =>
    if !w.shut ∨ (blkD s w.blk).st = .saved ∨ windowHeld s k w then s
    else if w.fn = 8 ∨ w.ready then windowPart s k w w.elems []
    else
      match w.ops.findSome? (fun id => (mget s.ops id).map (fun o => (id, o))) with
      | none => windowLeft s k []
      | some (id, o) =>
        match refreshElems s o .atomic w.elems with
        | .error f =>
          -- R431: the operation of the element that faults holds the fault.
          let n := ((w.elems.find? (fun x => x.va == f.1)).map (·.op)).getD id
          holdOp s n ((mget s.ops n).getD o) .atomic f
        | .ok els => windowPart s k w els []

/-- R314: SCATTER_WINDOW_APPLY. -/
def execScatterWindowApply (win : Nat) (s : State) : Out := event s (fun t => windowApply t win)

/-- R313: SCATTER_WINDOW_CLOSE. -/
def execScatterWindowClose (blk slot fib : Nat) (s : State) : Out := event s (fun t => idleWindow t blk slot fib)

/-! ### Completion (R133) -/

/-- R133, R301: an operation of class G is performed and completes, in issue order; one held by a fault, or with a window not
yet applied, does not. -/
def retrieverComplete (s : State) (id : Nat) : State :=
  match mget s.ops id with
  | none => s
  | some o =>
    if o.cls ≠ 0 ∨ !isOldest s id o ∨ o.fault.isSome ∨ o.win.isSome then s else
    match o.kind with
    | .embLoad => emblPerform s id o
    | .gather =>
      let (t, p) := refreshOp s id o .read
      if !p.ready then t
      else finishOp (addDrops (if o.code = 4 then gatherMove t p else gatherLate t id p) o.blk o.slot o.fib o.drops) id
    | _ => finishOp (addDrops s o.blk o.slot o.fib o.drops) id

/-- R133: RETRIEVER_OP_COMPLETE. -/
def execRetrieverOpComplete (op : Nat) (s : State) : Out := event s (fun t => retrieverComplete t op)

end Sys2Proof.Machine
end

