-- ==== Sys2Proof/Machine/Tree.lean ====
section
/-!
DEFINITION. The start of a revocation (R397 step 1, R495) and the counts of scheduling errors (R466), shared by the
instructions and events that end a context.
-/

namespace Sys2Proof.Machine

/-- R466: SCHEDERR of a context rises by 1, saturating. -/
def schedErr (s : State) (c : Nat) : State := updCtx s c (fun x => { x with schederr := min 0xFFFFFFFF (x.schederr + 1) })

/-- R397 step 1: every context of a subtree becomes Revoking. -/
def startRevoke (s : State) (c : Nat) : State :=
  (subtree s c).foldl (fun t d => updCtx t d (fun x => if x.st = .free then x else { x with st := .revoking })) s

/-- R495: the kennel die acts on the bearer of a loss, or on the context that has consumed a poisoned operand (R492): a
partition root keeps running with a record of class 2; any other context is ended by error revocation, with a record of class 3. The
revocation of a Revoking context absorbs it, whose record has class 3 too, and a stopped hard partition (R500) keeps its contexts as they
are, with class 2: the model's choice (log entry 34). -/
def bearLoss (s : State) (c : Nat) (r : ErrRec) : State :=
  let x := ctxD s c
  if x.root then noteError s { r with cls := 2, ctx := ctxName s c }
  else match x.st with
    | .revoking => noteError s { r with cls := 3, ctx := ctxName s c, action := r.action ||| 2 }
    | .free => noteError s { r with cls := 2, ctx := 0 }
    | _ =>
      if halted s c then noteError s { r with cls := 2, ctx := ctxName s c }
      else noteError (startRevoke s c) { r with cls := 3, ctx := ctxName s c, action := r.action ||| 2 }

/-- R492: a poisoned word is read where no register can hold it: the context of the block bears it. -/
def consumePoison (s : State) (b unit addr : Nat) : State :=
  let core := coreOf (blkD s b) 0
  bearLoss s (blkD s b).ctx (match unit with
    | 8 => { cls := 3, unit := unit, action := 0, loc := locHbm addr, ctx := 0, addr := addr / 64 * 64 }
    | 2 => { cls := 3, unit := unit, action := 0, loc := locCore core (addr / 0x4000 % 64), ctx := 0, addr := 0 }
    | _ => { cls := 3, unit := unit, action := 0, loc := locCore core 0, ctx := 0, addr := 0 })

/-- R493: a lost value of a block's matrix unit is found; its owner's record names the unit's place. -/
def matrixLoss (s : State) (b : Nat) : State :=
  bearLoss s (blkD s b).ctx { cls := 3, unit := 9, action := 0, loc := locCore (coreOf (blkD s b) 0) 0, ctx := 0, addr := 0 }

/-- R492: a context that a consumed poison ends; a partition root goes on. -/
def endsByPoison (s : State) (b : Nat) : Bool := !(ctxD s (blkD s b).ctx).root

end Sys2Proof.Machine
end

