-- ==== Sys2Proof/Machine/Shapes.lean ====
section
/-!
DEFINITION. Shape records and their walk (R338, R339), and the bricks of the canonical blocked layout (R333 to R335).
-/

namespace Sys2Proof.Machine

/-- R244, R70: the size of an element type in half bytes. -/
def nibbles (ty : Nat) : Nat :=
  match ty with
  | 0 => 16
  | 1 => 8
  | 2 => 4
  | 3 => 4
  | 4 => 2
  | 5 => 2
  | 6 => 1
  | 7 => 8
  | 8 => 8
  | 9 => 2
  | 10 => 2
  | _ => 1

/-- R244: the format of a floating-point type code. -/
def fmtOf (ty : Nat) : Fmt :=
  match ty with
  | 0 => f64
  | 1 => f32
  | 2 => f16
  | 3 => bf16
  | 4 => e5m2
  | 5 => e4m3
  | _ => e2m1

/-! ### Shape records (R338) -/

/-- R338: a shape record from its 128 bytes. -/
def shapeOf (bs : List Byte) : Shape :=
  let x := leNat bs
  { dims := (List.range (bits x 294 292 + 1)).map (fun d =>
      (bits x (512 + 64 * d + 63) (512 + 64 * d + 32), signedOf 32 (bits x (512 + 64 * d + 31) (512 + 64 * d))))
    typ := bits x 291 288, mrows := bits x 287 256, ver := bits x 255 192, scl := bits x 191 128, map := bits x 127 64,
    base := bits x 63 0 }

/-- R338: the reserved bits of a record are 0. -/
def shapeRsvd (bs : List Byte) : Bool := decide (bits (leNat bs) 511 295 = 0)

/-- The extent of a dimension; 1 beyond the last. -/
def Shape.ext (h : Shape) (d : Nat) : Nat := (h.dims.getD d (1, 0)).1
/-- The stride of a dimension. -/
def Shape.str (h : Shape) (d : Nat) : Int := (h.dims.getD d (1, 0)).2
/-- The elements of a shape. -/
def Shape.count (h : Shape) : Nat := h.dims.foldl (fun a d => a * d.1) 1

/-- R339: the extents that the addresses run over, MROWS in place of dimension 1 under a row map. -/
def Shape.reach (h : Shape) : List (Nat × Int) :=
  h.dims.mapIdx (fun k d => if k = 1 ∧ h.map ≠ 0 then (h.mrows, d.2) else d)

/-- R339: the byte of an element offset, and whether it is the high half of that byte. -/
def Shape.byteOf (h : Shape) (e : Int) : Int × Bool :=
  if nibbles h.typ = 1 then (Int.ofNat h.base + e / 2, decide (e % 2 = 1))
  else (Int.ofNat h.base + e * (nibbles h.typ / 2 : Nat), false)

/-- R339: the bytes of an element. -/
def Shape.bytesPer (h : Shape) : Nat := (nibbles h.typ + 1) / 2

/-- A span of addresses that wraps or leaves the canonical ranges. -/
def spanBad (lo hi : Int) : Bool :=
  decide (lo < 0) || decide ((2 ^ 64 : Int) ≤ hi) || !canonical lo.toNat || !canonical hi.toNat ||
  (decide (lo < 2 ^ 63) && decide ((2 ^ 63 : Int) ≤ hi))

/-- R338: the element addresses leave the canonical ranges. -/
def Shape.beyond (h : Shape) : Bool :=
  if h.reach.any (fun d => decide (d.1 = 0)) then false else
  let far (p : Int → Bool) : Int := (h.reach.map (fun d => if p d.2 then Int.ofNat (d.1 - 1) * d.2 else 0)).foldl (· + ·) 0
  spanBad (h.byteOf (far (fun x => decide (x < 0)))).1 ((h.byteOf (far (fun x => decide (0 < x)))).1 + Int.ofNat (h.bytesPer - 1))

/-- R339: the scale bytes of a shape. -/
def Shape.scales (h : Shape) : Nat := (h.ext 0 + 31) / 32 * (h.dims.drop 1).foldl (fun a d => a * d.1) 1

/-- R338: a malformed record. -/
def Shape.bad (h : Shape) : Bool :=
  decide (12 ≤ h.typ) || h.dims.any (fun d => decide (d.1 = 0)) || !canonical h.base || !canonical h.map || !canonical h.scl ||
  !canonical h.ver || decide (h.map % 4 ≠ 0) || decide (h.ver % 4 ≠ 0) || (decide (h.map ≠ 0) && decide (h.dims.length = 1)) ||
  (decide (h.scl ≠ 0) && !(decide (4 ≤ h.typ ∧ h.typ ≤ 6) && decide (h.map = 0) && decide (2 ≤ h.dims.length))) ||
  h.beyond || (decide (h.scl ≠ 0) && spanBad h.scl (h.scl + h.scales - 1))

/-! ### The walk (R339) -/

/-- R339: the indexes of a linear index. -/
def Shape.indexes (h : Shape) (n : Nat) : List Nat :=
  (h.dims.foldl (fun p d => (p.1 ++ [p.2 % d.1], p.2 / d.1)) (([] : List Nat), n)).1

/-- Where an element stands: absent, or an address with the half of its byte. -/
inductive Spot | absent | at (va : Nat) (high : Bool)
  deriving DecidableEq, Repr

/-- R339: the place of the element with given indexes, the row map's word once read. -/
def Shape.spot (h : Shape) (is : List Nat) : Spot :=
  let e := (is.mapIdx (fun d i => Int.ofNat i * h.str d)).foldl (· + ·) 0
  let (a, hi) := h.byteOf e
  .at (a % 2 ^ 64).toNat hi

/-- A translation by the shape-walk engine (R425) for a context from a core's die. -/
def shapeXl (s : State) (c core : Nat) (k : AccKind) (va n : Nat) : Except (Nat × Xl) (List Nat) :=
  if (spanOf va n).all canonical then xlateAll (fun a => xlateShape s c core a k) (spanOf va n) else .error (va, .fault 0x01 1 4)

/-- R339, R425: the place of an element, reading the row map through the engine, and whether its word there is poisoned (R491). -/
def shapeSpot (s : State) (c core : Nat) (h : Shape) (is : List Nat) : Except (Nat × Xl) (State × Spot × Bool) :=
  if h.map = 0 then .ok (s, h.spot is, false) else
  match shapeXl s c core .read ((h.map + 4 * is.getD 1 0) % 2 ^ 64) 4 with
  | .error e => .error e
  | .ok pas =>
    let (t, bs) := gRead s c pas
    let k := leNat bs
    .ok (t, if dropped k h.mrows then .absent else h.spot (is.set 1 k), anyPoison t pas)

/-- The number of an element in its bytes. -/
def elemOfBytes (high : Bool) (typ : Nat) (bs : List Byte) : Nat :=
  let x := leNat bs
  if nibbles typ = 1 then (if high then x / 16 else x % 16) else x

/-- The bytes after an element is written. -/
def bytesOfElem (high : Bool) (typ : Nat) (old : List Byte) (v : Nat) : List Byte :=
  if nibbles typ = 1 then
    (if high then natLe 1 (leNat old % 16 + 16 * (v % 16)) else natLe 1 (leNat old / 16 * 16 + v % 16))
  else natLe ((nibbles typ + 1) / 2) v

/-- R339: an element read, with its poison; an absent one is 0. -/
def readElem (s : State) (c core : Nat) (h : Shape) (is : List Nat) : Except (Nat × Xl) (State × Nat × Bool) :=
  match shapeSpot s c core h is with
  | .error e => .error e
  | .ok (t, .absent, odd) => .ok (t, 0, odd)
  | .ok (t, .at va hi, odd) =>
    match shapeXl t c core .read va h.bytesPer with
    | .error e => .error e
    | .ok pas =>
      let (u, bs) := gRead t c pas
      .ok (u, elemOfBytes hi h.typ bs, odd || anyPoison u pas)

/-- R339: an element written, with poison carried where the source has it (R491); an absent one is discarded. -/
def writeElem (s : State) (c core : Nat) (h : Shape) (is : List Nat) (v : Nat) (bad : Bool) : Except (Nat × Xl) State :=
  match shapeSpot s c core h is with
  | .error e => .error e
  | .ok (t, .absent, _) => .ok t
  | .ok (t, .at va hi, odd) =>
    match shapeXl t c core .write va h.bytesPer with
    | .error e => .error e
    | .ok pas =>
      let old := pas.map (Memory.rd (recalls t none false pas).mem)
      let u := gWrite t c pas (bytesOfElem hi h.typ old v)
      .ok (if bad || odd then addPoison u (pas.map (· / 64)) else u)

/-! ### Bricks (R333, R334) -/

/-- R333, R334: the bytes of the elements of a brick that keeps `n` of 8 elements. -/
def brickElems (ty n : Nat) : Nat := 64 * 4 * n * nibbles ty / 2
/-- R334: the bytes of the masks. -/
def brickMasks (n : Nat) : Nat := if n < 8 then 256 else 0
/-- R333, R334: the bytes of a brick. -/
def brickSize (ty n : Nat) (scaled : Bool) : Nat := brickElems ty n + brickMasks n + (if scaled then 64 else 0)

/-- Element `j` of packed elements of a type. -/
def packedElem (ty : Nat) (bs : List Byte) (j : Nat) : Nat :=
  match nibbles ty with
  | 1 => (bs.getD (j / 2) 0).toNat / 16 ^ (j % 2) % 16
  | 2 => (bs.getD j 0).toNat
  | z => leNat ((bs.drop (j * (z / 2))).take (z / 2))

/-- R333, R71: the value of an element of a brick row, with the row's scale. -/
def brickVal (ty n : Nat) (scaled : Bool) (bs : List Byte) (row j : Nat) : Val :=
  let x := packedElem ty bs j
  if scaled then mxValue (fmtOf ty) x (bs.getD (brickElems ty n + brickMasks n + row) 0).toNat else (fmtOf ty).decode x

/-- R333, R334: the term of a row of a brick at `k` of its run; none where it is pruned. -/
def brickTerm (ty n : Nat) (scaled : Bool) (bs : List Byte) (row k : Nat) : Option Val :=
  if n = 8 then some (brickVal ty 8 scaled bs row (32 * row + k)) else
  let g := k / 8
  let m := (bs.getD (brickElems ty n + 4 * row + g) 0).toNat
  let p := ((List.range (k % 8)).filter (fun b => m.testBit b)).length
  if m.testBit (k % 8) ∧ p < n then some (brickVal ty n scaled bs row (4 * n * row + n * g + p)) else none

end Sys2Proof.Machine
end

