-- ==== Sys2Proof/Machine/Sync.lean ====
section
/-!
DEFINITION. Meanings of the entry-consistency, handle, ring, engine-counter and waiting instructions (R126 to R130, R214,
R266 to R271, R281 to R292).
-/

namespace Sys2Proof.Machine

/-! ### Entry consistency (R126 to R130, R268 to R270) -/

/-- R128: the acting sets of an issue: the distinct object addresses in ascending order of their lowest lane. -/
def actingSets (e : Env) : List (Nat × List Nat) :=
  (nub (e.act.map (fun l => (pr e.a 0 l).toNat))).map (fun a => (a, e.act.filter (fun l => decide ((pr e.a 0 l).toNat = a))))

/-- The frame of the object instructions (R266, R268): the address trap of the lowest lane; a set whose object faults parks;
the others act in order. -/
def objectOp (r : Raw) (s : State) (act : Env → State → List Nat → List Nat → State) : Out :=
  laneInsn r s (fun e t =>
    match e.act.find? (fun l => badGlobal 8 8 (pr e.a 0 l).toNat) with
    | some l => (trapFibre t e.i 0x02 0 [l] (addrField (pr e.a 0 l).toNat), .stay)
    | none =>
      let sets := (actingSets e).map (fun p => (p.2, xlSpan t e.i .atomic p.1 8))
      match sets.filterMap (fun p => match p.2 with
          | .error (_, .locked) => some t
          | .error (_, .ok _) => some (capHold t e.i)
          | _ => none) with
      | u :: _ => (u, .stay)
      | [] =>
      (sets.foldl (fun u p => match p.2 with
        | .ok pas => act e (asked u e.i .atomic (spanOf (pr e.a 0 (lowest p.1)).toNat 8) pas) p.1 pas
        | .error (va, .fault c st lv) => parkLanes u e.i p.1 (fun _ => .fault (faultInfo u e.i .atomic 2 va c st lv))
        | .error _ => u) t, if sets.all (fun p => p.2.toOption.isSome) then .advance else .part))

/-- R130, R268: an acquire of one acting set: it takes a free object for which none waits, else its lanes wait at the object's
home. -/
def acquireSet (r : Raw) (excl : Bool) (e : Env) (s : State) (ls pas : List Nat) : State :=
  let pa := pas.headD 0
  let (rcnt, hold, bad) := objWord s pa
  let reg := archReg e.wb r.d.toNat
  if bad ∨ (objFree excl hold ∧ !queuedBefore s pa s.nextId) then
    let t := wrDs r e 0 ls (fun _ => BitVec.ofNat 32 rcnt)
      (acquireBound (takeObject s (ctxIs s e.i) pa excl) e.i.blk e.i.slot e.i.fib r.b.toNat pa ls)
    if bad then poisonArch t e.i.blk e.i.slot reg ls else t
  else
    let id := s.nextId
    let a : Acq := { id := id, blk := e.i.blk, slot := e.i.slot, fib := e.i.fib, lanes := ls, va := (pr e.a 0 (lowest ls)).toNat,
                     pa := pa, excl := excl, reg := reg, scope := r.b.toNat, next := e.i.next, rep := e.i.repNext }
    let s2 := awaitArch { s with acqs := s.acqs ++ [a], nextId := id + 1 } e.i.blk e.i.slot e.i.fib reg id ls
    updIs s2 e.i (fun x => updLanes x ls (fun _ y => { y with st := .held .object e.i.next }))

/-- R130: ACQX. -/
def execAcqx (r : R3) (s : State) : Out := objectOp (r.raw 0x30#7 1#3) s (acquireSet (r.raw 0x30#7 1#3) true)
/-- R130: ACQS. -/
def execAcqs (r : R3) (s : State) : Out := objectOp (r.raw 0x30#7 2#3) s (acquireSet (r.raw 0x30#7 2#3) false)

/-- R129: the object word after a release. -/
def releaseWord (w : Nat) : Nat :=
  let hold := w % 2 ^ 32
  let h := if hold = 0xFFFFFFFF then 0 else if hold = 0 then 0 else hold - 1
  (w / 2 ^ 32 + 1) % 2 ^ 32 * 2 ^ 32 + h

/-- R127, R129: a global byte lies in a region that a block has bound to an object. -/
def boundTo (x : Block) (obj a : Nat) : Bool :=
  x.binds.any (fun b => decide (b.obj = obj) && decide (b.base ≤ a) && decide (a < b.base + b.len))

/-- R129: the writes to the regions bound to an object that some lane of an acting set has seen are published there at a scope. -/
def publishBound (s : State) (i : Issue) (scope obj pa : Nat) (ls : List Nat) : State :=
  let as := ls.map (agentOf i)
  let v := releaseView (32 * s.nextId)
  let t := mapParts s (fun _ x =>
    if (x.glob.map (boundTo (blkD s i.blk) obj)).getD false ∧ x.seen.any as.contains then x.see v else x)
  publish { t with nextId := s.nextId + 1 } [pa] (agentOf i (lowest ls)) scope v true

/-- R129, R269: a release of one acting set: the writes to the regions bound to the object are published first. -/
def releaseSet (scope : Nat) (e : Env) (s : State) (ls pas : List Nat) : State :=
  let obj := (pr e.a 0 (lowest ls)).toNat
  let (s1, _, bad) := rmwAt s (ctxIs s e.i) pas (fun w => some (releaseWord w))
  if bad then deferredRec s1 (ctxIs s e.i) 8 (pas.headD 0) else publishBound s1 e.i scope obj (pas.headD 0) ls

/-- R129: REL. -/
def execRel (r : R3) (s : State) : Out := objectOp (r.raw 0x30#7 3#3) s (releaseSet r.b.toNat)

/-- R270: a BIND that is refused. A region that ends exactly at 2^64, or at the end of the lower canonical half, is not: it neither
wraps nor leaves the range, the model's reading (log entry 62). -/
def bindRefused (b : Block) (base len : Nat) : Bool :=
  decide (32 ≤ b.binds.length) || decide (base % 64 ≠ 0) || decide (len % 64 ≠ 0) || decide (len = 0) || decide (2 ^ 30 < len) ||
  decide (2 ^ 64 < base + len) || (decide (base < 2 ^ 63) && decide (2 ^ 56 < base + len))

/-- R270: BIND. -/
def execBind (r : R3) (s : State) : Out :=
  let w := r.raw 0x30#7 4#3
  perIssueOp w s (fun e t =>
    let o := (pr e.a 0 e.low).toNat
    let base := (pr e.b 0 e.low).toNat
    let len := (wd e.b 2 e.low).toNat
    if badGlobal 8 1 o then trapAll t e 0x02 0 (addrField o)
    else if !canonical base then trapAll t e 0x02 0 (addrField base)
    else if bindRefused (blkD t e.i.blk) base len then (wrAll w e 1 t, .advance)
    else (wrAll w e 0 (updBlk t e.i.blk (fun b => { b with binds := b.binds ++ [{ obj := o, base := base, len := len }] })), .advance))

/-- R270: UNBIND. -/
def execUnbind (r : R3) (s : State) : Out :=
  let w := r.raw 0x30#7 5#3
  perIssueOp w s (fun e t =>
    let o := (pr e.a 0 e.low).toNat
    if badGlobal 8 1 o then trapAll t e 0x02 0 (addrField o) else
    let n := ((blkD t e.i.blk).binds.filter (fun x => decide (x.obj = o))).length
    (wrAll w e (BitVec.ofNat 32 n)
      (updBlk t e.i.blk (fun b => { b with binds := b.binds.filter (fun x => decide (x.obj ≠ o)) })), .advance))

/-! ### Handles (R281 to R284) -/

/-- R111: the state of a handle; an undeclared one is Free. -/
def handleSt (s : State) (b h : Nat) : HandleSt :=
  match mget (blkD s b).handles h with
  | some x => x.st
  | none => .free

/-- The state with a handle's state set. -/
def setHandle (s : State) (b h : Nat) (st : HandleSt) : State :=
  updBlk s b (fun x => { x with handles := mupd x.handles h (fun y => { y with st := st, copied := 0 }) })

/-- R284: whether HWAIT completes at once. -/
def handleReady (s : State) (b h : Nat) : Bool :=
  match handleSt s b h with
  | .filling => false
  | .draining => false
  | _ => true

/-- R284: HWAIT. -/
def execHwait (r : R3) (s : State) : Out :=
  perIssueOp (r.raw 0x33#7 0#3) s (fun e t =>
    if handleReady t e.i.blk r.a.toNat then (t, .advance) else waitRetry e t)

/-- R281: the code of a handle state. -/
def handleCode (h : HandleSt) : Word :=
  match h with
  | .free => 0
  | .filling => 1
  | .full => 2
  | .draining => 3

/-- R281: HSTATE. -/
def execHstate (r : R3) (s : State) : Out :=
  aluOp (r.raw 0x33#7 1#3) s (fun e _ => handleCode (handleSt s e.i.blk r.a.toNat))

/-- R282: HDRAIN. -/
def execHdrain (r : R3) (s : State) : Out :=
  let w := r.raw 0x33#7 2#3
  perIssueOp w s (fun e t =>
    match mget (blkD t e.i.blk).handles r.a.toNat with
    | none => (wrAll w e 1 t, .advance)
    | some h =>
      if !h.decl.out then (wrAll w e 1 t, .advance)
      else if h.st ≠ .full then (wrAll w e 2 t, .advance)
      else (wrAll w e 0 (setHandle t e.i.blk r.a.toNat .draining), .advance))

/-- R283: HFREE. -/
def execHfree (r : R3) (s : State) : Out :=
  let w := r.raw 0x33#7 3#3
  perIssueOp w s (fun e t =>
    if handleSt t e.i.blk r.a.toNat = .full then (wrAll w e 0 (setHandle t e.i.blk r.a.toNat .free), .advance)
    else (wrAll w e 1 t, .advance))

/-- R281: HTRY. -/
def execHtry (r : R3) (s : State) : Out :=
  aluOp (r.raw 0x33#7 4#3) s (fun e _ => flag (handleReady s e.i.blk r.a.toNat))

/-! ### Rings (R286 to R290) -/

/-- R95: the entries of a ring of a FIFO bank under a plan. -/
def ringCap (x : Block) (bank : Nat) : Nat := 2 ^ (x.kd.plan.getD bank 0 / 8 % 8 + 1)

/-- R287: the ring that a local address names for a context on a core: its key and its entry count. -/
def ringAt (s : State) (c core a : Nat) : Option (Nat × Nat) :=
  match localAt core a with
  | none => none
  | some (k, off) =>
    match s.blocks.find? (fun p => decide (p.2.ctx = c) && holdsCore p.2 k && planMode p.2 (off / 0x4000) == 4) with
    | none => none
    | some p =>
      let n := ringCap p.2 (off / 0x4000)
      if coreEnabled s k ∧ off % 0x4000 % (128 * n) = 0 then some (sramKey k off, n) else none

/-- A ring; empty and open where nothing has changed it (R99). -/
def ringD (s : State) (key n : Nat) : Ring := mgetD s.rings key { cap := n }

/-- The entries held. -/
def Ring.count (q : Ring) : Nat := q.tail - q.head

/-- R288: an entry is put: one word for each lane. -/
def putEntry (s : State) (key : Nat) (q : Ring) (g : Nat → Word) : State :=
  let at' := key + q.tail % q.cap * 128
  let s1 := sramPut s 0 at' (lanes32.flatMap (fun l => natLe 4 (g l).toNat))
  { sramClears s1 0 at' 128 with rings := mset s.rings key { q with tail := q.tail + 1 } }

/-- R288: the word of a lane in the oldest entry. -/
def headWord (s : State) (key : Nat) (q : Ring) (l : Nat) : Word :=
  BitVec.ofNat 32 (leNat (lRead s 0 (key + q.head % q.cap * 128 + 4 * l) 4))

/-- R492: the oldest entry's word of a lane is poisoned. -/
def headBad (s : State) (key : Nat) (q : Ring) (l : Nat) : Bool := lPoison s 0 (key + q.head % q.cap * 128 + 4 * l) 4

/-- R288: an entry is taken. -/
def popEntry (s : State) (key : Nat) (q : Ring) : State := { s with rings := mset s.rings key { q with head := q.head + 1 } }

/-- R288: the data words that a put gives the lanes. -/
def putWords (e : Env) (l : Nat) : Word := if e.act.contains l then wd e.b 0 l else 0

/-- The waiter's fibre has its result: 32 words, the status and the mask of the poisoned words. -/
def tellWaiter (s : State) (b kf : Nat) (ws : List Word) : State :=
  updFib s b (kf / 4) (kf % 4) (fun x => { x with wait := x.wait.map (fun w => { w with done := w.lanes, last := ws }) })

/-- The operands of a waiter that still waits. -/
def waiterEnv (s : State) (b kf : Nat) : Option Env :=
  let x := fibD s b (kf / 4) (kf % 4)
  if x.st = .live then
    match x.wait with
    | some w => if w.done.isEmpty then w.env else none
    | none => none
  else none

/-- R288, R289: the oldest waiter that the ring now serves is served; one whose fibre waits no longer is dropped. -/
def serveOne (s : State) (key n : Nat) : State :=
  let q := ringD s key n
  match q.waiters.find? (fun w => (waiterEnv s w.1 w.2.1).isNone || q.closed ||
      (if w.2.2 then decide (q.count < q.cap) else decide (0 < q.count))) with
  | none => s
  | some w =>
    let q1 := { q with waiters := q.waiters.filter (fun x => x != w) }
    let s1 := { s with rings := mset s.rings key q1 }
    match waiterEnv s w.1 w.2.1 with
    | none => s1
    | some e =>
      if w.2.2 then
        if q.closed then tellWaiter s1 w.1 w.2.1 (List.replicate 32 0 ++ [1, 0])
        else tellWaiter (putEntry s1 key q1 (putWords e)) w.1 w.2.1 (List.replicate 32 0 ++ [0, 0])
      else if 0 < q.count then
        tellWaiter (popEntry s1 key q1) w.1 w.2.1
          (lanes32.map (headWord s key q) ++ [0, BitVec.ofNat 32 (maskOf (lanes32.filter (headBad s key q)))])
      else tellWaiter s1 w.1 w.2.1 (List.replicate 32 0 ++ [1, 0])

/-- R288: the waiters of a ring, at each change of it. -/
def serveRing (s : State) (key n : Nat) : State :=
  (List.range ((ringD s key n).waiters.length + 1)).foldl (fun t _ => serveOne t key n) s

/-- A blocking ring instruction joins the waiters of its ring. -/
def joinRing (e : Env) (s : State) (key n : Nat) (put : Bool) : State × After :=
  let q := ringD s key n
  waitRetry e { s with rings := mset s.rings key { q with waiters := q.waiters ++ [(e.i.blk, 4 * e.i.slot + e.i.fib, put)] } }

/-- The wait of a fibre that already waits in this ring instruction: its result, or nothing yet. -/
def ringWait (s : State) (e : Env) : Option (List Word) :=
  match (fibIs s e.i).wait with
  | none => none
  | some w => some w.last

/-- The frame of the ring instructions (R287). A waiter that its ring has served, or told that it is closed, takes that result whatever has
become of the ring since (R288, R289); one that still waits stays. -/
def ringOp (r : Raw) (s : State) (served : Env → State → List Word → State × After) (body : Env → State → Nat → Nat → State × After) :
    Out :=
  perIssueOp r s (fun e t =>
    match ringWait t e with
    | some [] => (t, .stay)
    | some ws => served e t ws
    | none =>
      match ringAt t (ctxIs t e.i) (coreIs t e.i) (wd e.a 0 e.low).toNat with
      | none => trapAll t e 0x03 0 (addrField (wd e.a 0 e.low).toNat)
      | some (key, n) => body e t key n)

/-- R288: QPUT and QPUTN. -/
def putOp (r : Raw) (block : Bool) (s : State) : Out :=
  ringOp r s (fun e t ws => (wrAll r e (ws.getD 32 0) t, .advance)) (fun e t key n =>
    let q := ringD t key n
    if q.closed then (wrAll r e 1 t, .advance)
    else if q.count = q.cap then (if block then joinRing e t key n true else (wrAll r e 2 t, .advance))
    else (wrAll r e 0 (serveRing (putEntry t key q (putWords e)) key n), .advance))

/-- R288: the data and the status of a get. -/
def getResult (r : Raw) (e : Env) (g : Nat → Word) (st : Word) (s : State) : State :=
  wrD r e 1 (fun _ => st) (wrD r e 0 g s)

/-- R288: QGET and QGETN. -/
def getOp (r : Raw) (block : Bool) (s : State) : Out :=
  ringOp r s (fun e t ws =>
      let a := archReg e.wb r.d.toNat
      (poisonArch (getResult r e (fun l => ws.getD l 0) (ws.getD 32 0) t) e.i.blk e.i.slot a
        ((reached e t a e.act).filter (fun l => (ws.getD 33 0).getLsbD l)), .advance))
    (fun e t key n =>
      let q := ringD t key n
      if 0 < q.count then
        let t1 := getResult r e (headWord t key q) 0 (serveRing (popEntry t key q) key n)
        (poisonArch t1 e.i.blk e.i.slot (archReg e.wb r.d.toNat) (e.act.filter (headBad t key q)), .advance)
      else if q.closed then (getResult r e (fun _ => 0) 1 t, .advance)
      else if block then joinRing e t key n false
      else (getResult r e (fun _ => 0) 2 t, .advance))

/-- R288: QPUT. -/
def execQput (r : R3) (s : State) : Out := putOp (r.raw 0x34#7 0#3) true s
/-- R288: QGET. -/
def execQget (r : R3) (s : State) : Out := getOp (r.raw 0x34#7 1#3) true s
/-- R288: QPUTN. -/
def execQputn (r : R3) (s : State) : Out := putOp (r.raw 0x34#7 2#3) false s
/-- R288: QGETN. -/
def execQgetn (r : R3) (s : State) : Out := getOp (r.raw 0x34#7 3#3) false s

/-- R289: QCOUNT. -/
def execQcount (r : R3) (s : State) : Out :=
  ringOp (r.raw 0x34#7 4#3) s (fun _ t _ => (t, .stay)) (fun e t key n =>
    let q := ringD t key n
    (wrAll (r.raw 0x34#7 4#3) e (BitVec.ofNat 32 ((if q.closed then 2 ^ 31 else 0) + q.count)) t, .advance))

/-- R289: QCLOSE. -/
def execQclose (r : R3) (s : State) : Out :=
  ringOp (r.raw 0x34#7 5#3) s (fun _ t _ => (t, .stay)) (fun _ t key n =>
    (serveRing { t with rings := mset t.rings key { ringD t key n with closed := true } } key n, .advance))

/-! ### Engine counters (R291) -/

/-- R134, R291: WAITC. A WAITC that names G closes the scatter window (R313). -/
def execWaitc (r : R3) (s : State) : Out :=
  laneInsn (r.raw 0x35#7 0#3) s (fun e t =>
    let t1 := if r.a = 0 then closeWindow t e.i.blk e.i.slot e.i.fib else t
    if 63 ≤ r.b.toNat ∨ (fibIs t e.i).ctrs.getD r.a.toNat 0 ≤ r.b.toNat then (t1, .advance) else waitRetry e t1)

/-- R291: RDC. -/
def execRdc (r : R3) (s : State) : Out :=
  aluOp (r.raw 0x35#7 1#3) s (fun e _ => BitVec.ofNat 32 ((fibIs s e.i).ctrs.getD r.a.toNat 0))

/-! ### TRYW and TRYWL (R214) -/

/-- R214: whether a lane's condition holds for the word it has read. -/
def trywHolds (m : Nat) (e : Env) (l : Nat) (w : Word) : Bool := decide (w = wd e.b 0 l) == m.testBit 0

/-- R214: whether a lane's timeout has elapsed since a clk. -/
def trywOver (s : State) (e : Env) (start l : Nat) : Bool :=
  decide (wd e.c 0 l ≠ 0) && decide (start + (wd e.c 0 l).toNat ≤ s.clk)

/-- R214, R227: a lane whose timeout had elapsed before now: the word that it read last stands. -/
def trywPast (s : State) (e : Env) (start l : Nat) : Bool :=
  decide (wd e.c 0 l ≠ 0) && decide (start + (wd e.c 0 l).toNat < s.clk)

/-- R214: after a read of some lanes: those that have now completed, and the words read last, with the mask of the poisoned ones behind
them. -/
def trywExamine (m : Nat) (e : Env) (s : State) (start : Nat) (done : List Nat) (last : List Word) (act : List Nat)
    (got : Nat → Option Word) (bad : Nat → Bool) : List Nat × List Word :=
  let new (l : Nat) : Option Word := if done.contains l || trywPast s e start l then none else got l
  (act.filter (fun l => done.contains l || ((new l).map (trywHolds m e l)).getD false || trywOver s e start l),
   lanes32.map (fun l => (new l).getD (last.getD l 0)) ++
     [BitVec.ofNat 32 (maskOf (lanes32.filter (fun l => if (new l).isSome then bad l else (last.getD 32 0).getLsbD l)))])

/-- R214: TRYW and TRYWL from what the lanes have read: complete, or wait. -/
def trywEnd (r : Raw) (e : Env) (s : State) (act : List Nat) (parked : List Nat) (got : Nat → Option Word)
    (bad : Nat → Bool) : State × After :=
  let (start, done, last) := match (fibIs s e.i).wait with
    | some w => (w.start, w.done, w.last)
    | none => (s.clk, [], List.replicate 33 0)
  let (done1, words) := trywExamine (Forms.immOf r) e s start done last act got bad
  if act.all (fun l => done1.contains l) then
    (poisonArch (wrDs r e 0 act (fun l => words.getD l 0) s) e.i.blk e.i.slot (archReg e.wb r.d.toNat)
      ((reached e s (archReg e.wb r.d.toNat) act).filter (fun l => (words.getD 32 0).getLsbD l)),
     if parked.isEmpty then .advance else .part)
  else waitWith { e with i := { e.i with lanes := e.i.lanes.filter (fun l => !parked.contains l) }, act := act } s done1 words

/-- The word that a lane has read. -/
def gotWord (gs : List Got) (l : Nat) : Option Word :=
  (gs.find? (fun g => g.lane == l)).map (fun g => BitVec.ofNat 32 (leNat g.bytes))

/-- R214: a lane has read poisoned bytes. -/
def gotAnyBad (gs : List Got) (l : Nat) : Bool := (gs.find? (fun g => g.lane == l)).any (fun g => g.bad.any id)

/-- R214: TRYW. Of a fault after the first read R214 says nothing: the lane keeps the word that it read last and waits on, the model's
choice (log entry 62). -/
def execTryw (r : RX) (s : State) : Out :=
  let w := r.raw 0x3C#7 0#3
  laneInsn w s (fun e t =>
    let ea (l : Nat) := (pr e.a 0 l).toNat
    match e.act.find? (fun l => badGlobal 4 4 (ea l)) with
    | some l => (trapFibre t e.i 0x02 0 [l] (addrField (ea l)), .stay)
    | none =>
      let m := gMeet t e.i .read 4 ea e.act
      let (t0, gs) := gReadLanes m.s e.i m.ok
      let t1 := if m.stall then t0 else sendAll .usual e.i (coreIs t e.i) .read t.nextId t0 (m.ok.flatMap (·.2))
      if (fibIs t e.i).wait.isSome then trywEnd w e t1 e.act [] (gotWord gs) (gotAnyBad gs)
      else if m.stall then (m.s, .stay)
      else trywEnd w e (parkBad t1 e.i m.bad) (m.ok.map (·.1)) (m.bad.map (·.1)) (gotWord gs) (gotAnyBad gs))

/-- R214: TRYWL. A bank that is no longer reachable at a later read raises the local-access trap, the model's choice (log entry 62). -/
def execTrywl (r : RX) (s : State) : Out :=
  let w := r.raw 0x3C#7 1#3
  laneInsn w s (fun e t =>
    let la (l : Nat) := (wd e.a 0 l).toNat
    match e.act.find? (fun l => decide (la l % 4 ≠ 0) || (localOk t (ctxIs t e.i) (coreIs t e.i) (la l) 4 false).isNone) with
    | some l => (trapFibre t e.i 0x03 0 [l] (addrField (la l)), .stay)
    | none =>
      let (t0, m) := lMeet t e.i false 4 la e.act
      let (t1, gs) := lReadLanes t0 e.i 4 la m.ok
      if (fibIs t e.i).wait.isSome then trywEnd w e t1 e.act [] (gotWord gs) (gotAnyBad gs)
      else if m.stall then (stallLocal t0 e.i m, .stay)
      else trywEnd w e (parkLocal t1 e.i m.park) (m.ok.map (·.1)) (m.park.map (·.1)) (gotWord gs) (gotAnyBad gs))

end Sys2Proof.Machine
end

