-- ==== Sys2Proof/Machine/Trans.lean ====
section
/-!
DEFINITION. The transcendental functions (R237, R238, R241): special inputs, exact cases, and the bounds within which the word
of the unit is left open (log entry 9). Where a bound compares with sine, cosine, tangent, an exponential or a logarithm, the true
value is taken from a partial sum of its series that lies within 2^-200 of it (log entry 10).
-/

namespace Sys2Proof.Machine

/-- A finite value as a rational. -/
def Val.rat (v : Val) : Rat :=
  match v with
  | .fin n m e =>
    let a : Rat := if 0 ≤ e then ((m * 2 ^ e.toNat : Nat) : Rat) else mkRat m (2 ^ (-e).toNat)
    if n then -a else a
  | _ => 0

/-- A power of two. -/
def pow2 (k : Int) : Rat := if 0 ≤ k then ((2 ^ k.toNat : Nat) : Rat) else mkRat 1 (2 ^ (-k).toNat)

/-- floor(log2 q) for a positive rational. -/
def ratLog (q : Rat) : Int :=
  let k : Int := (Nat.log2 q.num.natAbs : Int) - (Nat.log2 q.den : Int)
  if pow2 k ≤ q then (if pow2 (k + 1) ≤ q then k + 1 else k) else k - 1

/-- R87: the unit in the last place of a nonzero exact value. -/
def ulp (f : Fmt) (q : Rat) : Rat :=
  let a := if q < 0 then -q else q
  pow2 (max (ratLog a) (1 - (f.bias : Int)) - f.mb)

/-- The distance of two rationals. -/
def ratDist (a b : Rat) : Rat := if a < b then b - a else a - b

/-- A partial sum of x^k / k! over the first `n` terms that `keep` names, each with its sign, in units of 2^-p. -/
def taylor (p : Nat) (x : Int) (keep : Nat → Int) (n k : Nat) (term acc : Int) : Int :=
  match n with
  | 0 => acc
  | m + 1 => taylor p x keep m (k + 1) (term * x / ((2 ^ p * (k + 1) : Nat) : Int)) (acc + term * keep k)

/-- A sum over a rational argument, as a rational. -/
def series (p n : Nat) (x : Rat) (keep : Nat → Int) : Rat :=
  mkRat (taylor p (x * ((2 ^ p : Nat) : Rat)).floor keep n 0 (2 ^ p) 0) (2 ^ p)

/-- 2 artanh z = ln((1 + z) / (1 − z)) by its series in units of 2^-p, for z at most 1 / 3. -/
def logSum (p : Nat) (z2 : Int) (n k : Nat) (term acc : Int) : Int :=
  match n with
  | 0 => acc
  | m + 1 => logSum p z2 m (k + 2) (term * z2 / ((2 ^ p : Nat) : Int)) (acc + 2 * term / (k : Int))

/-- ln x for a rational from 1 to 2. -/
def lnR (x : Rat) : Rat :=
  let z := (x - 1) / (x + 1)
  let one : Rat := ((2 ^ 400 : Nat) : Rat)
  mkRat (logSum 400 (z * z * one).floor 140 1 (z * one).floor 0) (2 ^ 400)

/-- 2^x of a rational. -/
def exp2R (x : Rat) : Rat := pow2 x.floor * series 400 120 ((x - (x.floor : Rat)) * lnR 2) (fun _ => 1)
/-- log2 x of a positive rational. -/
def log2R (x : Rat) : Rat := (ratLog x : Rat) + lnR (x / pow2 (ratLog x)) / lnR 2
/-- A rational brought to a magnitude of at most 1. -/
def toUnit (q : Rat) : Rat := if q < -1 then -1 else if 1 < q then 1 else q
/-- The sine of a rational up to 1024 in magnitude. -/
def sinR (x : Rat) : Rat := toUnit (series 2400 4400 x (fun k => if k % 4 = 1 then 1 else if k % 4 = 3 then -1 else 0))
/-- The cosine of a rational up to 1024 in magnitude. -/
def cosR (x : Rat) : Rat := toUnit (series 2400 4400 x (fun k => if k % 4 = 0 then 1 else if k % 4 = 2 then -1 else 0))
/-- The hyperbolic tangent of a rational. -/
def tanhR (x : Rat) : Rat := let y := exp2R (2 * x / lnR 2); (y - 1) / (y + 1)

/-- 1 / √x of a positive rational, to 300 bits. -/
def rsqR (x : Rat) : Rat :=
  let k := ratLog (1 / x) / 2 - 300
  (Nat.sqrt ((1 / x) / pow2 (2 * k)).floor.toNat : Nat) * pow2 k

/-- A rational as a value of 300 bits. -/
def ratVal (q : Rat) : Val :=
  if q = 0 then .fin false 0 0 else
  let a := if q < 0 then -q else q
  let e := ratLog a - 300
  .fin (decide (q < 0)) (a / pow2 e).floor.toNat e

/-- A word denotes a finite value. -/
def isFinite (f : Fmt) (w : Nat) : Bool :=
  match f.decode w with
  | .fin _ _ _ => true
  | _ => false

/-- R237, R241: |r × x − 1| ≤ ulp(1/x) × |x|: a word within 1 ulp of a reciprocal. -/
def okRcp (f : Fmt) (x r : Rat) : Bool := decide (ratDist r (1 / x) ≤ ulp f (1 / x))

/-- R237, R241: a word within 1 ulp of 1 / √x, for x > 0: compared in squares. -/
def okRsq (f : Fmt) (x r : Rat) : Bool :=
  let y2 := 1 / x
  let k := ratLog y2 / 2
  let u := pow2 (max k (1 - (f.bias : Int)) - f.mb)
  decide (0 ≤ r) && decide ((if r < u then 0 else (r - u) * (r - u)) ≤ y2) && decide (y2 ≤ (r + u) * (r + u))

/-- R237, R238: what a function of OP 0x17 comes to at a finite input outside its special and exact cases, within 2^-200. -/
def true32 (f : Nat) (x : Rat) : Rat :=
  match f with
  | 0 => 1 / x
  | 1 => rsqR x
  | 3 => exp2R x
  | 4 => log2R x
  | 5 => if ratDist x 0 ≤ 1024 then sinR x else 0
  | 6 => if ratDist x 0 ≤ 1024 then cosR x else 0
  | _ => tanhR x

/-- R237, R238: the bound of a function of OP 0x17 there; outside the domain of FSIN and FCOS a magnitude of at most 1. -/
def bound32 (f : Nat) (x y : Rat) : Rat :=
  match f with
  | 3 => 2 * ulp f32 y
  | 4 => if mkRat 1 2 ≤ x ∧ x ≤ 2 then pow2 (-22) else 2 * ulp f32 y
  | 5 => if ratDist x 0 ≤ 1024 then pow2 (-22) else 1
  | 6 => if ratDist x 0 ≤ 1024 then pow2 (-22) else 1
  | 7 => 2 * ulp f32 y
  | _ => ulp f32 y

/-- R237, R238: a word within the bound. -/
def ok32 (f : Nat) (x r : Rat) : Bool :=
  match f with
  | 0 => okRcp f32 x r
  | 1 => okRsq f32 x r
  | _ => decide (ratDist r (true32 f x) ≤ bound32 f x (true32 f x))

/-- A free word within a bound: the opaque one where it lies within, else the word of the true value rounded to nearest, which
does. -/
def freeWithin (w near : Nat) (ok : Nat → Bool) : Nat := if ok w then w else near

/-- The integer square root rounded to nearest, ties away never arising: √(m × 2^e) as a value rounded once to a format.
A remainder below the kept bits stands as one further bit. -/
def sqrtVal (m : Nat) (e : Int) : Val :=
  let m1 := if e % 2 = 0 then m else 2 * m
  let e1 := if e % 2 = 0 then e else e - 1
  let m2 := m1 * 2 ^ 240
  let r := Nat.sqrt m2
  .fin false (2 * r + (if r * r = m2 then 0 else 1)) ((e1 - 240) / 2 - 1)

/-- The exact value of a function of OP 0x17 where FP32 represents it. -/
def exact32 (f : Nat) (x : Rat) : Option Val :=
  let one (k : Int) : Val := .fin false 1 k
  match f with
  | 0 => if x = pow2 (ratLog (if x < 0 then -x else x)) ∨ x = -pow2 (ratLog (if x < 0 then -x else x)) then
      some (.fin (decide (x < 0)) 1 (-(ratLog (if x < 0 then -x else x)))) else none
  | 1 => if x = pow2 (ratLog x) ∧ ratLog x % 2 = 0 then some (one (-(ratLog x / 2))) else none
  | 3 => if x.den = 1 then some (one x.num) else none
  | 4 => if x = pow2 (ratLog x) then some (ofInteger (ratLog x)) else none
  | _ => none

/-- R238: the words of the special inputs of OP 0x17, and none for an input whose word R237 governs. -/
def special32 (f : Nat) (v : Val) : Option Val :=
  let one : Val := .fin false 1 0
  match v with
  | .nan => some .nan
  | .inf n =>
    match f with
    | 0 => some (.fin n 0 0)
    | 1 => if n then some .nan else some (.fin false 0 0)
    | 2 => if n then some .nan else some (.inf false)
    | 3 => if n then some (.fin false 0 0) else some (.inf false)
    | 4 => if n then some .nan else some (.inf false)
    | 7 => some (.fin n 1 0)
    | _ => some .nan
  | .fin n m e =>
    if m = 0 then
      match f with
      | 0 => some (.inf n)
      | 1 => some (.inf n)
      | 2 => some v
      | 3 => some one
      | 4 => some (.inf true)
      | 5 => some v
      | 6 => some one
      | _ => some v
    else
      let x := v.rat
      match f with
      | 0 => if ratDist x 0 ≤ pow2 (-128) then some (.inf n) else none
      | 1 => if n then some .nan else none
      | 2 => if n then some .nan else some (sqrtVal m e)
      | 3 => if 128 ≤ x then some (.inf false) else if x < -149 then some (.fin false 0 0) else none
      | 4 => if n then some .nan else none
      | 7 => if 128 ≤ x then some one else if x < -149 then some (.fin true 1 0) else none
      | _ => none

/-- R237, R238: OP 0x17. -/
def transcend (f : Nat) (w : Word) : Word :=
  let v := f32.decode w.toNat
  match special32 f v with
  | some y => BitVec.ofNat 32 (f32.rnd .rn 0 y)
  | none =>
    match exact32 f v.rat with
    | some y => BitVec.ofNat 32 (f32.rnd .rn 0 y)
    | none => BitVec.ofNat 32 (freeWithin (Config.trans32 f w).toNat (f32.rnd .rn 0 (ratVal (true32 f v.rat)))
        (fun r => isFinite f32 r && ok32 f v.rat (f32.decode r).rat))

/-- R241: DSQRT, DRCP and DRSQ. -/
def transcend64 (f : Nat) (w : DWord) : DWord :=
  let v := f64.decode w.toNat
  let free (y : Rat) (ok : Rat → Bool) : DWord := BitVec.ofNat 64 (freeWithin (Config.trans64 f w).toNat (f64.rnd .rn 0 (ratVal y))
      (fun r => isFinite f64 r && ok (f64.decode r).rat))
  let out (y : Val) : DWord := BitVec.ofNat 64 (f64.rnd .rn 0 y)
  match f, v with
  | _, .nan => out .nan
  | 0, .inf n => if n then out .nan else out (.inf false)
  | 1, .inf n => out (.fin n 0 0)
  | _, .inf n => if n then out .nan else out (.fin false 0 0)
  | 0, .fin n m e => if m = 0 then out v else if n then out .nan else out (sqrtVal m e)
  | 1, .fin n m _ =>
    if m = 0 then out (.inf n)
    else if ratDist v.rat 0 ≤ pow2 (-1024) then out (.inf n)
    else match exact32 0 v.rat with
      | some y => out y
      | none => free (1 / v.rat) (okRcp f64 v.rat)
  | _, .fin n m _ =>
    if m = 0 then out (.inf n) else if n then out .nan
    else match exact32 1 v.rat with
      | some y => out y
      | none => free (rsqR v.rat) (okRsq f64 v.rat)

end Sys2Proof.Machine
end

