-- ==== Sys2Proof/Machine/Matrix.lean ====
section
/-!
DEFINITION. Meanings of the matrix sequencer's instructions (R329 to R354).
-/

namespace Sys2Proof.Machine

/-! ### The frame of a sequencer instruction (R331, R341, R342, R493) -/

/-- What a sequencer instruction comes to: it is done and the next follows, or another address; it stalls; it traps with a cause
of R341 and an address; a page fault holds it; it has read a value whose parity fails; it has read poisoned bytes; the
sequencer ends. -/
inductive SeqRes
  | go (s : State)
  | jump (s : State) (pc : DWord)
  | stall (s : State)
  | trap (cause addr : Nat)
  | hold (s : State) (i : FaultInfo)
  | parity
  | eaten (unit addr : Nat)
  | ended (s : State)
  deriving DecidableEq, Repr

/-- A part of an instruction: a value, or what stops it. -/
abbrev SeqM (α : Type) := Except SeqRes α

/-- R332: an arrival is removed: its fibre's M counter falls. -/
def lowerM (s : State) (b kf : Nat) : State := updFib s b (kf / 4) (kf % 4) (fun x => { x with ctrs := x.ctrs.modify 1 (· - 1) })

/-- R332: the sequencer ends: every arrival is removed and every later BARWAIT completes at once. -/
def endSeq (s : State) (b : Nat) : State :=
  let t := ((seqD s b).queue.flatMap id).foldl (fun u kf => lowerM u b kf) s
  updSeq t b (fun q => { q with st := .ended, queue := List.replicate 16 [], marv := List.replicate 16 (2 ^ 64) })

/-- The sequencer's core: that of block slot 0 (R329). -/
def seqCore (s : State) (i : Issue) : Nat := coreOf (blkD s i.blk) 0

/-- R331: the sequencer goes on at an address. -/
def seqNext (s : State) (i : Issue) (pc : DWord) : State :=
  updSeq s i.blk (fun q => { q with mpc := pc, issued := q.issued + 1 })

/-- The end of a sequencer instruction. -/
def seqEnd (i : Issue) (s : State) (r : SeqRes) : State :=
  let t := match r with
    | .go t => seqNext t i i.next
    | .jump t pc => seqNext t i pc
    | .stall t => t
    | .trap c a => trapSeq s i 0x0A c (addrField a)
    | .hold t f => updSeq t i.blk (fun q => { q with st := .faulted, fault := some f })
    | .parity => if endsByPoison s i.blk then matrixLoss s i.blk else trapSeq (matrixLoss s i.blk) i 0x0A 0x0C (addrField 0)
    | .eaten u a => consumePoison s i.blk u a
    | .ended t => endSeq (updSeq t i.blk (fun q => { q with issued := q.issued + 1 })) i.blk
  { t with choice := s.choice + 1, cur := none }

/-- Every sequencer instruction: it stops only where no sequencer issues. -/
def seqInsn (s : State) (body : Issue → State → SeqM SeqRes) : Out :=
  match s.cur with
  | none => .fault .noIssuer
  | some i =>
    if i.seq then
      .next (seqEnd i s (match body i s with
        | .ok r => r
        | .error r => r))
    else .fault .noIssuer

/-- R493: a cell of these q registers. -/
def inQ (ks : List Nat) : MatrixCell → Bool
  | .q k => ks.contains k
  | _ => false

/-- R493: a cell of a tile, inside its first rows and columns. -/
def inTile (t m n : Nat) : MatrixCell → Bool
  | .tile u e => decide (u = t) && decide (e / 64 < m) && decide (e % 64 < n)
  | _ => false

/-- R493: a cell of the first bytes of a weight slot. -/
def inSlot (w n : Nat) : MatrixCell → Bool
  | .slot v b => decide (v = w) && decide (b < n)
  | _ => false

/-- R493: no cell that an instruction reads has failed its parity. -/
def liveCells (s : State) (i : Issue) (reads : MatrixCell → Bool) : Bool := !(seqD s i.blk).lost.any reads

/-- R341, R493: the instruction reads these cells, and has no lower cause. -/
def needLive (s : State) (i : Issue) (reads : MatrixCell → Bool) : SeqM Unit :=
  if liveCells s i reads then .ok () else .error .parity

/-- R493: cells written whole have no failure. -/
def mendLost (q : Seqr) (cells : MatrixCell → Bool) : Seqr := { q with lost := q.lost.filter (fun c => !cells c) }

/-- A q register. -/
def qReg (s : State) (i : Issue) (k : Nat) : DWord := (seqD s i.blk).q.getD k 0
/-- The state with a q register written. -/
def setQ (s : State) (i : Issue) (k : Nat) (v : DWord) : State :=
  updSeq s i.blk (fun q => mendLost { q with q := q.q.set k v } (inQ [k]))

/-- R330: a word of a tile. -/
def tileWord (q : Seqr) (t m n : Nat) : Nat := (((mgetD q.tiles t []).getD (64 * m + n) 0)).toNat
/-- The state with a whole tile written. -/
def setTile (s : State) (i : Issue) (t : Nat) (g : Nat → Nat → Nat) : State :=
  let ws := (List.range 4096).map (fun k => BitVec.ofNat 32 (g (k / 64) (k % 64)))
  updSeq s i.blk (fun q => mendLost { q with tiles := mset q.tiles t ws } (inTile t 64 64))

/-! ### Set-up (R346, R347) -/

/-- R346: MSHAPE. -/
def execMshape (r : R3) (s : State) : Out :=
  seqInsn s (fun i t => do
    needLive t i (inQ [r.b.toNat])
    let k := (qReg t i r.b.toNat).toNat % 2 ^ 32
    if k = 0 ∨ 65536 < k then .error (.trap 0x0A 0) else
    .ok (.go (updSeq t i.blk (fun q => { q with m := r.d.toNat + 1, n := r.a.toNat + 1, k := k }))))

/-- R346: MFMT. -/
def execMfmt (r : R3) (s : State) : Out :=
  seqInsn s (fun i t => .ok (.go (updSeq t i.blk (fun q =>
    { q with ta := r.d.toNat, tb := r.a.toNat, sa := r.b.getLsbD 0, sb := r.b.getLsbD 1 }))))

/-- R346: MQADD. -/
def execMqadd (r : R3) (s : State) : Out :=
  seqInsn s (fun i t => do
    let a := r.a.toNat % 32
    let b := r.b.toNat % 32
    needLive t i (inQ [a, b])
    let sh := r.a.toNat / 32 * 4 + r.b.toNat / 32
    .ok (.go (setQ t i r.d.toNat (qReg t i a + (qReg t i b <<< sh)))))

/-! ### Local bytes (R337, R331) -/

/-- R337: the first byte of a span outside the block's stash allocation or at or beyond a limit. -/
def spanOffend (x : Block) (limit : Nat) (p : Nat × Nat) : Option Nat :=
  let far := if limit < p.1 + p.2 then [max p.1 limit] else []
  let banks := (List.range 64).filter (fun b => decide (b * 0x4000 < p.1 + p.2) && decide (p.1 < b * 0x4000 + 0x4000) &&
    !(planMode x b == 1 || planMode x b == 2))
  match (far ++ banks.map (fun b => max p.1 (b * 0x4000))).foldl (fun a k => match a with
    | none => some k
    | some j => some (min j k)) none with
  | some k => some k
  | none => none

/-- R337: the first byte of a span that lies in a Draining handle buffer. -/
def spanDraining (s : State) (core : Nat) (p : Nat × Nat) : Option Nat :=
  ((List.range ((p.2 + 63) / 64 + 1)).map (fun k => max p.1 ((p.1 / 64 + k) * 64))).find? (fun a =>
    decide (a < p.1 + p.2) && inDraining s core a 1)

/-- R337: causes 0x03 to 0x05 of an access: `ok` says BASE and the row stride are aligned; `data` spans lie inside the extent
of the record; `line` is the version line, if one is used; `wr` are the spans written. -/
def spanCause (s : State) (i : Issue) (base limit : Nat) (ok : Bool) (line : Bool) (data wr : List (Nat × Nat)) : Option (Nat × Nat) :=
  let x := blkD s i.blk
  if !ok then some (3, base)
  else if line ∧ base < 64 then some (4, 0)
  else
    match (if line then spanOffend x 0x100000 (base - 64, 64) else none) with
    | some a => some (4, a)
    | none =>
      match data.findSome? (spanOffend x (min limit 0x100000)) with
      | some a => some (4, a)
      | none => (wr.findSome? (spanDraining s (seqCore s i))).map (fun a => (5, a))

/-- The lowest of some causes. -/
def lowCause (cs : List (Option (Nat × Nat))) : Option (Nat × Nat) :=
  cs.foldl (fun a c => match a, c with
    | none, c => c
    | a, none => a
    | some p, some q => if q.1 < p.1 then some q else some p) none

/-- R341: an instruction with a cause traps. -/
def noCause (c : Option (Nat × Nat)) : SeqM Unit :=
  match c with
  | none => .ok ()
  | some (k, a) => .error (.trap k a)

/-- A page fault that holds the sequencer (R342). -/
def seqFault (t : State) (i : Issue) (k : AccKind) (what : Nat) (f : Nat × Xl) : SeqRes :=
  match f.2 with
  | .fault c st lv => .hold t (faultInfo t i k what f.1 c st lv)
  | _ => .stall t

/-- R331: the stash lines of spans are present, or Exclusive for a store; else the sequencer stalls while they fill. -/
def seqLines (s : State) (i : Issue) (store : Bool) (ps : List (Nat × Nat)) : SeqM State :=
  let core := seqCore s i
  let lns := nub (ps.flatMap (fun p => if p.2 = 0 then [] else
    (List.range ((p.1 + p.2 - 1) / 64 + 1 - p.1 / 64)).map (p.1 / 64 + ·)))
  match meetLines s none store (lns.filterMap (fun ln => stashAt s core (64 * ln))) with
  | (t, .ok) => .ok t
  | (t, .line _ _ _) => .error (.stall t)
  | (t, .behind _ _) => .error (.stall t)
  | (t, .fault va c st lv) => .error (seqFault t i (if store then .atomic else .read) 4 (va, .fault c st lv))
  | (t, .capped) => .error (.stall (capHold t i))
  | (t, .locked) => .error (.stall t)

/-- R492, R495: the sequencer meets poison: its block's context is ended, or a partition root goes on with a record of class 2. -/
def seqPoison (s : State) (i : Issue) (bad : Bool) (unit addr : Nat) : SeqM State :=
  if !bad then .ok s else if endsByPoison s i.blk then .error (.eaten unit addr) else .ok (consumePoison s i.blk unit addr)

/-- R138, R492: bytes that the sequencer reads of its core. -/
def seqLocal (s : State) (i : Issue) (off n : Nat) : SeqM (State × List Byte) := do
  let core := seqCore s i
  let t ← seqPoison s i (lPoison s core off n) 2 off
  .ok (lLook t { agent := seqAgent i.blk, tile := true } core off n)

/-- R347: MQSET. -/
def execMqset (r : RI) (s : State) : Out :=
  seqInsn s (fun i t => do
    let k := r.d.toNat
    match r.a.toNat with
    | 0 => .ok (.go (setQ t i k (r.imm.signExtend 64)))
    | 1 => do
      needLive t i (inQ [k])
      .ok (.go (setQ t i k (r.imm ++ (qReg t i k).extractLsb' 0 32)))
    | _ => do
      let a := r.imm.toNat
      noCause (spanCause t i a 0x100000 (decide (a % 8 = 0)) false [(a, 8)] [])
      let t1 ← seqLines t i false [(a, 8)]
      let (u, bs) ← seqLocal t1 i a 8
      .ok (.go (setQ u i k (BitVec.ofNat 64 (leNat bs)))))

/-! ### Operand records (R336, R337) -/

/-- R336: a base-and-extent record. -/
structure MRec where
  kind : Nat
  v : Bool
  rowstr : Nat
  ext : Nat
  base : Nat
  shape : Nat
  bad : Bool
  deriving DecidableEq, Repr

/-- R336: the record that q(a) holds. -/
def mrec (s : State) (i : Issue) (a : Nat) : MRec :=
  let x := (qReg s i a).toNat
  let k := bits x 63 62
  { kind := k, v := bit x 61, rowstr := bits x 51 36, ext := bits x 35 20, base := bits x 19 0,
    shape := if bit x 56 then 2 ^ 64 - 2 ^ 57 + bits x 56 0 else bits x 56 0,
    bad := decide (2 ≤ k) || decide (bits x 60 57 ≠ 0) || (decide (k = 0) && (decide (bits x 56 52 ≠ 0) || decide (bits x 35 20 = 0))) ||
      (decide (k = 1) && decide (a = 31)) }

/-- R337: the end of a record's extent. -/
def MRec.limit (r : MRec) : Nat := r.base + 64 * r.ext

/-- R336: cause 0x02 of a record that must be of KIND 0. -/
def MRec.cause0 (r : MRec) : Option (Nat × Nat) := if r.bad ∨ r.kind ≠ 0 then some (2, 0) else none

/-- R337: the causes of a brick or vector record that spans `n` bytes, all read; `wr`: it is written too. -/
def brickCause (s : State) (i : Issue) (r : MRec) (n : Nat) (wr : Bool) : Option (Nat × Nat) :=
  lowCause [r.cause0, spanCause s i r.base r.limit (decide (r.base % 64 = 0)) r.v [(r.base, n)] (if wr then [(r.base, n)] else [])]

/-- R341, R493: those causes of the record that q(a) holds; none where the register has failed, since its value is never used. -/
def brickOf (s : State) (i : Issue) (a n : Nat) (wr : Bool) : Option (Nat × Nat) :=
  if liveCells s i (inQ [a]) then brickCause s i (mrec s i a) n wr else none

/-- R340: the version word of a local record is read with its poison; it is even between two steps (R138). -/
def readVersion (s : State) (i : Issue) (r : MRec) : SeqM State := do
  if r.v then
    let t ← seqLines s i false [(r.base - 64, 4)]
    let (u, _) ← seqLocal t i (r.base - 64) 4
    .ok u
  else .ok s

/-- A local operand of `n` bytes. -/
def readOperand (s : State) (i : Issue) (r : MRec) (n : Nat) : SeqM (State × List Byte) := do
  let t ← readVersion s i r
  let u ← seqLines t i false [(r.base, n)]
  seqLocal u i r.base n

/-! ### Weights and products (R348, R349) -/

/-- R349: the bricks of a reduction. -/
def runs (k : Nat) : Nat := (k + 31) / 32

/-- R348: the kept elements per 8 of a form. -/
def keptOf (f : Nat) : Nat :=
  match f with
  | 0 => 8
  | 1 => 4
  | 2 => 2
  | _ => 1

/-- Brick `j` of consecutive bricks. -/
def brickAt (bs : List Byte) (p j : Nat) : List Byte := (bs.drop (j * p)).take p

/-- R348: MWLD. -/
def execMwld (r : R3F) (s : State) : Out :=
  seqInsn s (fun i t => do
    let q := seqD t i.blk
    let rc := mrec t i r.a.toNat
    let n := runs q.k * brickSize q.tb (keptOf r.f.toNat) q.sb
    noCause (lowCause [brickOf t i r.a.toNat n false, if 65536 < n then some (7, 0) else none])
    needLive t i (inQ [r.a.toNat])
    let (u, bs) ← readOperand t i rc n
    let w : WSlot := { raw := bs, tb := q.tb, sb := q.sb, n := keptOf r.f.toNat, kb := runs q.k }
    .ok (.go (updSeq u i.blk (fun y => mendLost { y with slots := mset y.slots r.d.toNat w } (inSlot r.d.toNat 65536)))))

/-- R349, R85: one element of a product: the runs in ascending order, each summed exactly and rounded once. -/
def dotRuns (kb k : Nat) (a : Nat → Nat → Val) (b : Nat → Nat → Option Val) (c : Nat) : Nat :=
  (List.range kb).foldl (fun acc j =>
    let terms := ((List.range 32).filter (fun x => decide (32 * j + x < k))).filterMap (fun x => (b j x).map (fun v => (a j x).mul v))
    f32.rnd .rn 0 (Val.sum false [f32.decode acc, Val.sum false terms])) c

/-- R349: a product accumulates into a tile. -/
def product (s : State) (i : Issue) (t : Nat) (zero : Bool) (as : List Byte) (slot : WSlot) : State :=
  let q := seqD s i.blk
  let p := brickSize q.ta 8 q.sa
  let w := brickSize slot.tb slot.n slot.sb
  setTile s i t (fun m n => dotRuns (runs q.k) q.k
    (fun j x => brickVal q.ta 8 q.sa (brickAt as p j) m (32 * m + x))
    (fun j x => brickTerm slot.tb slot.n slot.sb (brickAt slot.raw w j) n x)
    (if zero then 0 else tileWord q t m n))

/-- R349: causes 0x06 and 0x07 of a weight slot. -/
def slotCause (q : Seqr) (w : Option WSlot) : Option (Nat × Nat) :=
  match w with
  | none => some (7, 0)
  | some y => if !Forms.legalClass q.ta y.tb q.sa y.sb then some (6, 0) else if y.kb < runs q.k then some (7, 0) else none

/-- R349: the bytes of a slot that a product reads. -/
def slotBytes (q : Seqr) (w : Option WSlot) : Nat :=
  match w with
  | none => 0
  | some y => runs q.k * brickSize y.tb y.n y.sb

/-- R349: MMA and MMZ. -/
def mmaOp (r : R3) (zero : Bool) (s : State) : Out :=
  seqInsn s (fun i t => do
    let q := seqD t i.blk
    let rc := mrec t i r.a.toNat
    let n := runs q.k * brickSize q.ta 8 q.sa
    let w := mget q.slots r.b.toNat
    noCause (lowCause [brickOf t i r.a.toNat n false, slotCause q w])
    needLive t i (fun c => inQ [r.a.toNat] c || inSlot r.b.toNat (slotBytes q w) c || (!zero && inTile r.d.toNat 64 64 c))
    let (u, bs) ← readOperand t i rc n
    match w with
    | none => .error (.trap 7 0)
    | some y => .ok (.go (updSeq (product u i r.d.toNat zero bs y) i.blk (fun q => { q with mmas := q.mmas + runs q.k }))))

/-- R349: MMA. -/
def execMma (r : R3) (s : State) : Out := mmaOp r false s
/-- R349: MMZ. -/
def execMmz (r : R3) (s : State) : Out := mmaOp r true s

/-- R349: MMAS. -/
def execMmas (r : R3) (s : State) : Out :=
  seqInsn s (fun i t => do
    let q := seqD t i.blk
    let ra := mrec t i r.a.toNat
    let rb := mrec t i r.b.toNat
    let na := runs q.k * brickSize q.ta 8 q.sa
    let nb := runs q.k * brickSize q.tb 8 q.sb
    noCause (lowCause [brickOf t i r.a.toNat na false, brickOf t i r.b.toNat nb false])
    needLive t i (fun c => inQ [r.a.toNat, r.b.toNat] c || inTile r.d.toNat 64 64 c)
    let (u, as) ← readOperand t i ra na
    let (v, bs) ← readOperand u i rb nb
    .ok (.go (product v i r.d.toNat false as { raw := bs, tb := q.tb, sb := q.sb, n := 8, kb := runs q.k })))

/-! ### Tile transfers (R340, R350) -/

/-- Where a tile element stands: at a local offset, or at a global address and its physical bytes. -/
inductive Place | loc (off : Nat) | glob (va : Nat) (pas : List Nat)
  deriving DecidableEq, Repr

/-- A tile access that may be performed: the state, the elements with their places, the version word's place. -/
structure Tile where
  s : State
  els : List (Nat × Nat × Place)
  ver : Option Place

/-- R340: the spans of the rows of a tile in a KIND 0 record. -/
def tileSpans (r : MRec) (m n z : Nat) : List (Nat × Nat) := (List.range m).map (fun j => (r.base + j * r.rowstr, n * z))

/-- R340: the elements of a tile in a KIND 0 record. -/
def tileLocal (r : MRec) (m n z : Nat) : List (Nat × Nat × Place) :=
  (List.range m).flatMap (fun j => (List.range n).map (fun k => (j, k, .loc (r.base + j * r.rowstr + k * z))))

/-- R337, R340: a tile in a KIND 0 record; `need`: a version word is required. -/
def openLocal (s : State) (i : Issue) (r : MRec) (z : Nat) (store need : Bool) : SeqM Tile := do
  let q := seqD s i.blk
  let al := if r.v then 64 else z
  let sp := tileSpans r q.m q.n z
  noCause (lowCause [r.cause0,
    spanCause s i r.base r.limit (decide (r.base % al = 0) && decide (r.rowstr % z = 0)) r.v sp
      (if store then (if need ∧ r.v then (r.base - 64, 4) :: sp else sp) else []),
    if need ∧ !r.v then some (8, 0) else none])
  let t ← (if store then (if need then seqLines s i true ((r.base - 64, 4) :: sp) else seqLines s i true sp)
    else seqLines s i false (if r.v then (r.base - 64, 4) :: sp else sp))
  .ok { s := t, els := tileLocal r q.m q.n z, ver := if r.v then some (.loc (r.base - 64)) else none }

/-- The translation of bytes that the sequencer reaches through the shape-walk engine (R425), whose request goes out unless the miss cap
holds it back (R465). -/
def seqXl (s : State) (i : Issue) (k : AccKind) (va n : Nat) : SeqM (State × List Nat) :=
  match shapeXl s (ctxIs s i) (seqCore s i) k va n with
  | .ok pas =>
    if capStalls s i (seqCore s i) k pas then .error (.stall (capHold s i))
    else .ok (sendAll .usual i (seqCore s i) k s.nextId s pas, pas)
  | .error f => .error (seqFault s i k (accCode k) f)

/-- R492: global bytes that the sequencer reads. -/
def seqGlobal (s : State) (i : Issue) (pas : List Nat) : SeqM (State × List Byte) := do
  let (t, bs) := gLook .usual s (ctxIs s i) { agent := seqAgent i.blk, tile := true } pas
  let u ← seqPoison t i (anyPoison t pas) 8 (pas.headD 0)
  .ok (u, bs)

/-- R336, R339: the shape of a KIND 1 record. -/
def seqShape (s : State) (i : Issue) (r : MRec) : SeqM (State × Shape × Bool) := do
  if r.shape % 64 ≠ 0 then .error (.trap 9 r.shape) else
  let (s1, pas) ← seqXl s i .read r.shape 128
  let (t, bs) ← seqGlobal s1 i pas
  .ok (t, shapeOf bs, shapeRsvd bs)

/-- R340: the elements of a tile in a shape, from an origin: those inside the extents and not absent. -/
def shapeTile (i : Issue) (h : Shape) (co ro : Nat) (k : AccKind) (ps : List (Nat × Nat)) (s : State) (out : List (Nat × Nat × Place)) :
    SeqM (State × List (Nat × Nat × Place)) :=
  match ps with
  | [] => .ok (s, out)
  | (m, n) :: rest =>
    if h.ext 0 ≤ co + n ∨ h.ext 1 ≤ ro + m then shapeTile i h co ro k rest s out else
    let is := h.dims.mapIdx (fun d _ => if d = 0 then co + n else if d = 1 then ro + m else 0)
    match shapeSpot s (ctxIs s i) (seqCore s i) h is with
    | .error f => .error (seqFault s i .read 0 f)
    | .ok (t, p, bad) =>
      match seqPoison t i bad 8 0, p with
      | .error e, _ => .error e
      | .ok u, .absent => shapeTile i h co ro k rest u out
      | .ok u, .at va _ =>
        match seqXl u i k va h.bytesPer with
        | .error e => .error e
        | .ok (v, pas) => shapeTile i h co ro k rest v (out ++ [(m, n, .glob va pas)])

/-- R340: a tile in a KIND 1 record, of an element type. A plain store and MSTADD do not reach its version word (R136, R137). -/
def openGlobal (s : State) (i : Issue) (a : Nat) (r : MRec) (typ : Nat) (k : AccKind) (need : Bool) : SeqM Tile := do
  let (t, h, ok) ← seqShape s i r
  noCause (if h.typ ≠ typ then some (6, 0) else if need ∧ h.ver = 0 then some (8, 0)
    else if !ok ∨ h.bad then some (9, r.shape) else none)
  needLive s i (inQ [a + 1])
  let q := seqD t i.blk
  let org := (qReg t i (a + 1)).toNat
  let (u, els) ← shapeTile i h (org % 2 ^ 32) (org / 2 ^ 32) k
    ((List.range q.m).flatMap (fun m => (List.range q.n).map (fun n => (m, n)))) t []
  if h.ver = 0 ∨ (k ≠ .read ∧ !need) then .ok { s := u, els := els, ver := none } else
  let (v, vp) ← seqXl u i (if need then .atomic else .read) h.ver 4
  .ok { s := v, els := els, ver := some (.glob h.ver vp) }

/-- R340: a tile access through the record in field A. -/
def openTile (s : State) (i : Issue) (a typ : Nat) (k : AccKind) (need : Bool) : SeqM Tile := do
  needLive s i (inQ [a])
  let r := mrec s i a
  if r.bad then .error (.trap 2 0) else
  if r.kind = 0 then openLocal s i r (nibbles typ / 2) (decide (k ≠ .read)) need else openGlobal s i a r typ k need

/-- The bytes at a place. -/
def placeRead (s : State) (i : Issue) (p : Place) (n : Nat) : SeqM (State × List Byte) :=
  match p with
  | .loc off => seqLocal s i off n
  | .glob _ pas => seqGlobal s i pas

/-- The home of the bytes at a place. -/
def Place.home (p : Place) (core : Nat) : Home :=
  match p with
  | .loc off => .loc core off
  | .glob _ pas => .glob pas

/-- The address of a place. -/
def Place.va (p : Place) : Nat :=
  match p with
  | .loc off => off
  | .glob va _ => va

/-- The newest bytes at a place. -/
def placeBytes (s : State) (i : Issue) (p : Place) (n : Nat) : List Byte :=
  match p with
  | .loc off => lRead s (seqCore s i) off n
  | .glob _ pas => pas.map (fun pa => (newByte s pa).1)

/-- R116, R136: a plain write of an element by tile store `id`, which others may see later. -/
def placeStore (s : State) (i : Issue) (id : Nat) (p : Place) (bs : List Byte) : State :=
  let h := p.home (seqCore s i)
  let a := seqAgent i.blk
  let locs := h.locs s bs.length
  addPieces (endReleases (h.put s (ctxIs s i) bs) locs) id a
    (piecesOf (h.writer s a 0 p.va) [bs.length] locs (placeBytes s i p bs.length) bs)

/-- R137, R138: an indivisible update of the word at a place by tile store `id` of a kind at a scope and in an order, which a plain load
may see later; nothing but a deferred record where it is poisoned (R492). -/
def placeUpdate (s : State) (i : Issue) (id scope ord : Nat) (kind : PendKind) (p : Place) (g : Nat → Nat) : State :=
  let core := seqCore s i
  let (t, _, bad) := updateAt s { ctx := ctxIs s i, agent := seqAgent i.blk, id := id, scope := scope, ord := ord, va := p.va, kind := kind }
    (p.home core) 4 (fun o => some (g o))
  if !bad then t else
  match p with
  | .loc off => noteError t { cls := 2, unit := 2, action := 0, loc := locCore core (off / 0x4000 % 64), ctx := ctxName s (ctxIs s i), addr := 0 }
  | .glob _ pas => deferredRec t (ctxIs s i) 8 (pas.headD 0)

/-- R137, R350: the update of an element by a tile store; from another tile row it is part of the one update of that element. -/
def placeRmw (s : State) (i : Issue) (id scope : Nat) (kind : PendKind) (p : Place) (g : Nat → Nat) : State :=
  mergeParts (placeUpdate s i id scope 0 kind p g) id ((p.home (seqCore s i)).locs s 4)

/-- R138: the version word of a tile is read. -/
def verRead (t : Tile) (i : Issue) : SeqM State :=
  match t.ver with
  | none => .ok t.s
  | some p => match placeRead t.s i p 4 with
    | .ok (u, _) => .ok u
    | .error e => .error e

/-- R350: a tile word converted for a store. -/
def storeCode (typ x : Nat) : Nat :=
  match typ with
  | 1 => x
  | 2 => f16.rnd .rn 0 (f32.decode x)
  | 3 => bf16.rnd .rn 0 (f32.decode x)
  | 4 => e5m2.round .rn .sat 0 (f32.decode x)
  | _ => e4m3.round .rn .sat 0 (f32.decode x)

/-- R350: MST with BRK: two dense unscaled bricks. -/
def mstBricks (s : State) (i : Issue) (a typ t : Nat) : SeqM SeqRes := do
  needLive s i (inQ [a])
  let r := mrec s i a
  let q := seqD s i.blk
  let p := brickSize typ 8 false
  noCause (lowCause [if r.bad then some (2, 0) else none, if r.kind ≠ 0 then some (6, 0) else none,
    if r.bad ∨ r.kind ≠ 0 then none else
      spanCause s i r.base r.limit (decide (r.base % 64 = 0)) r.v [(r.base, 2 * p)] [(r.base, 2 * p)]])
  needLive s i (inTile t q.m q.n)
  let u ← seqLines s i true [(r.base, 2 * p)]
  let bs := (List.range 2).flatMap (fun h => (List.range 64).flatMap (fun m => (List.range 32).flatMap (fun x =>
    natLe (nibbles typ / 2) (if m < q.m ∧ 32 * h + x < q.n then storeCode typ (tileWord q t m (32 * h + x)) else 0))))
  .ok (.go (lStoreBy (addStore u i 0 .plain) i u.nextId 0 r.base (seqCore u i) r.base (List.replicate 4096 (nibbles typ / 2)) bs))

/-- R350: MST. -/
def execMst (r : R3) (s : State) : Out :=
  seqInsn s (fun i t => do
    let typ := r.b.toNat % 16
    if r.b.getLsbD 4 then mstBricks t i r.a.toNat typ r.d.toNat else do
    let w ← openTile t i r.a.toNat typ .write false
    let q := seqD t i.blk
    needLive t i (inTile r.d.toNat q.m q.n)
    .ok (.go (w.els.foldl (fun u e =>
      placeStore u i w.s.nextId e.2.2 (natLe (nibbles typ / 2) (storeCode typ (tileWord q r.d.toNat e.1 e.2.1)))) (addStore w.s i 3 .plain))))

/-- R137, R350: MSTADD: the whole tile as one update, in ascending m. -/
def execMstadd (r : R3) (s : State) : Out :=
  seqInsn s (fun i t => do
    let w ← openTile t i r.a.toNat 1 .atomic false
    let q := seqD t i.blk
    needLive t i (inTile r.d.toNat q.m q.n)
    .ok (.go (markWhole (w.els.foldl (fun u e =>
      placeRmw u i w.s.nextId r.b.toNat .tileAdd e.2.2 (fun o => faddWord o (tileWord q r.d.toNat e.1 e.2.1)))
      (addStore w.s i r.b.toNat .tileAdd)) w.s.nextId)))

/-- R138: the version word while a store is in progress. -/
def oddVersion (v : Nat) : Nat := if v % 2 = 0 then v + 1 else v
/-- R138: an odd version word is made even again. -/
def nextVersion (v : Nat) : Nat := (oddVersion v + 1) % 2 ^ 32

/-- R138: the version word of a tile is updated by store `id`: made odd as an acquire, or even as a release. -/
def versionStep (s : State) (i : Issue) (id scope ord : Nat) (ver : Option Place) (g : Nat → Nat) : State :=
  match ver with
  | some p => placeUpdate s i id scope ord .tileAtom p g
  | none => s

/-- R138, R350: MSTATOM: the version word becomes odd, every element is written, the version word becomes even. -/
def execMstatom (r : R3) (s : State) : Out :=
  seqInsn s (fun i t => do
    let w ← openTile t i r.a.toNat 1 .atomic true
    let q := seqD t i.blk
    needLive t i (inTile r.d.toNat q.m q.n)
    let id := w.s.nextId
    let u := w.els.foldl (fun u e => placeRmw u i id r.b.toNat .tileAtom e.2.2 (fun _ => tileWord q r.d.toNat e.1 e.2.1))
      (versionStep (addStore w.s i r.b.toNat .tileAtom) i id r.b.toNat 1 w.ver oddVersion)
    .ok (.go (markWhole (versionStep u i id r.b.toNat 2 w.ver nextVersion) id)))

/-- R350: the words of a tile as they stand in memory. -/
def readTile (i : Issue) (es : List (Nat × Nat × Place)) (s : State) (out : List (Nat × Nat)) : SeqM (State × List (Nat × Nat)) :=
  match es with
  | [] => .ok (s, out)
  | (m, n, p) :: rest =>
    match placeRead s i p 4 with
    | .error e => .error e
    | .ok (t, bs) => readTile i rest t ((64 * m + n, leNat bs) :: out)

/-- R350: MLDT. -/
def execMldt (r : R3) (s : State) : Out :=
  seqInsn s (fun i t => do
    let w ← openTile t i r.a.toNat 1 .read false
    let u ← verRead w i
    let (v, ws) ← readTile i w.els u []
    .ok (.go (setTile v i r.d.toNat (fun m n => ((ws.find? (fun p => p.1 == 64 * m + n)).map (·.2)).getD 0))))

/-- R350: MZERO. -/
def execMzero (r : R3) (s : State) : Out := seqInsn s (fun i t => .ok (.go (setTile t i r.d.toNat (fun _ _ => 0))))

/-! ### Barriers and flow (R351, R352) -/

/-- R332, R343: some store of the sequencer is not yet performed. -/
def seqPending (s : State) (i : Issue) : Bool :=
  s.stores.any (fun p => p.blk == i.blk && p.agent == 64) || s.replays.any (fun r => r.blk == i.blk && r.tile)

/-- R332: MARV. -/
def execMarv (r : R3) (s : State) : Out :=
  seqInsn s (fun i t =>
    if seqPending t i then .ok (.stall t) else
    .ok (.go (updSeq (showStores t) i.blk (fun q => { q with marv := q.marv.modify r.a.toNat (· + 1) }))))

/-- R332: every fibre of the block has ended or stopped. -/
def fibresOver (x : Block) : Bool := x.slots.all (fun y => y.fibs.all (fun z => !z.takesPart))

/-- R332: MWAIT. -/
def execMwait (r : R3) (s : State) : Out :=
  seqInsn s (fun i t =>
    let n := r.a.toNat
    let c := r.b.toNat + 1
    let q := (seqD t i.blk).queue.getD n []
    if c ≤ q.length then
      .ok (.go ((q.take c).foldl (fun u kf => lowerM u i.blk kf)
        (updSeq t i.blk (fun y => { y with queue := y.queue.set n (q.drop c) }))))
    else if fibresOver (blkD t i.blk) then (if seqPending t i then .ok (.stall t) else .ok (.ended t))
    else .ok (.stall t))

/-- R352: the target of a jump; cause 0x0B outside the M-stream section. -/
def seqTarget (s : State) (i : Issue) (imm : Word) : SeqM DWord :=
  let a := i.pc + (imm.signExtend 64 <<< 1)
  let kd := (blkD s i.blk).kd
  if kd.mstr ≤ a.toNat ∧ a.toNat < kd.mstr + 2 * kd.mslen then .ok a else .error (.trap 0x0B 0)

/-- R352: MJMP. -/
def execMjmp (r : RI) (s : State) : Out :=
  seqInsn s (fun i t => do
    let a ← seqTarget t i r.imm
    .ok (.jump t a))

/-- R352: MLOOP. -/
def execMloop (r : RI) (s : State) : Out :=
  seqInsn s (fun i t => do
    let a ← seqTarget t i r.imm
    needLive t i (inQ [r.d.toNat])
    let v := qReg t i r.d.toNat - 1
    .ok (.jump (setQ t i r.d.toNat v) (if v = 0 then i.pc + 8 else a)))

/-! ### Element operations and end (R353) -/

/-- R343, R353: MEND. -/
def execMend (_ : R3) (s : State) : Out :=
  seqInsn s (fun i t => if seqPending t i then .ok (.stall t) else .ok (.ended t))

/-- R353: the words of a vector record. -/
def readVector (s : State) (i : Issue) (r : MRec) (n : Nat) : SeqM (State × (Nat → Nat)) := do
  let (t, bs) ← readOperand s i r (4 * n)
  .ok (t, fun k => leNat ((bs.drop (4 * k)).take 4))

/-- R353: MSCALE. -/
def execMscale (r : R3) (s : State) : Out :=
  seqInsn s (fun i t => do
    let rc := mrec t i r.a.toNat
    noCause (brickOf t i r.a.toNat 256 false)
    needLive t i (fun c => inQ [r.a.toNat] c || inTile r.d.toNat 64 64 c)
    let (u, v) ← readVector t i rc 64
    let q := seqD u i.blk
    .ok (.go (setTile u i r.d.toNat (fun m n =>
      f32.rnd .rn 0 ((f32.decode (tileWord q r.d.toNat m n)).mul (f32.decode (v (if r.b.getLsbD 0 then n else m))))))))

/-- R353: the function of MACT. -/
def actWord (fn x : Nat) : Nat :=
  match fn with
  | 0 => x
  | 1 => if (f32.decode x).isNan then f32.nanCode else if Val.lt (.fin false 0 0) (f32.decode x) then x else 0
  | 2 => (transcend 3 (BitVec.ofNat 32 x)).toNat
  | _ => (transcend 7 (BitVec.ofNat 32 x)).toNat

/-- R353: MACT. -/
def execMact (r : R3) (s : State) : Out :=
  seqInsn s (fun i t => do
    let fn := r.b.toNat % 4
    let t0 := r.d.toNat
    if r.b.getLsbD 2 then
      let rc := mrec t i r.a.toNat
      noCause (brickOf t i r.a.toNat 256 false)
      needLive t i (fun c => inQ [r.a.toNat] c || inTile t0 64 64 c)
      let (u, v) ← readVector t i rc 64
      let q := seqD u i.blk
      .ok (.go (setTile u i t0 (fun m n => actWord fn
        (f32.rnd .rn 0 (Val.sum false [f32.decode (tileWord q t0 m n), (f32.decode (v m)).neg])))))
    else
      needLive t i (inTile t0 64 64)
      let q := seqD t i.blk
      .ok (.go (setTile t i t0 (fun m n => actWord fn (tileWord q t0 m n)))))

/-- R353: MROWMAX and MROWSUM: each row of the tile gives one word of the vector. -/
def rowOp (r : R3) (g : List Nat → Nat) (s : State) : Out :=
  seqInsn s (fun i t => do
    let acc := r.b.getLsbD 0
    let rc := mrec t i r.a.toNat
    let q := seqD t i.blk
    noCause (brickOf t i r.a.toNat (4 * q.m) true)
    needLive t i (fun c => inQ [r.a.toNat] c || inTile r.d.toNat q.m q.n c)
    let (u, old) ← (if acc then readVector t i rc q.m else .ok (t, fun _ => 0))
    let w ← seqLines u i true [(rc.base, 4 * q.m)]
    let row (m : Nat) : List Nat := (List.range q.n).map (tileWord q r.d.toNat m) ++ (if acc then [old m] else [])
    .ok (.go (lStoreBy (addStore w i 0 .plain) i w.nextId 0 rc.base (seqCore w i) rc.base (List.replicate q.m 4)
      ((List.range q.m).flatMap (fun m => natLe 4 (g (row m)))))))

/-- R82, R353: the greatest of some words. -/
def maxWords (xs : List Nat) : Nat :=
  match xs with
  | [] => 0
  | x :: r => r.foldl (f32.pickMin false true) (f32.pickMin false true x x)

/-- R353: MROWMAX. -/
def execMrowmax (r : R3) (s : State) : Out := rowOp r maxWords s
/-- R353: MROWSUM. -/
def execMrowsum (r : R3) (s : State) : Out :=
  rowOp r (fun xs => f32.rnd .rn 0 (Val.sum false (xs.map f32.decode))) s

end Sys2Proof.Machine
end

