-- ==== Sys2Proof/Machine/Resolve.lean ====
section
/-!
DEFINITION. What kennel firmware does with a failed walk (R428): the page whose migration would resolve it (R442 to R444), and
the accesses that the kennel die makes for a context.
-/

namespace Sys2Proof.Machine

/-- R444: the migration lock of the page in a frame. -/
def migOf (s : State) (f : Nat) : Mig := (s.migs.find? (fun m => decide (m.frame = f))).getD { frame := f }

/-- R444: 2 ms in uclk. -/
def holdOff : Nat := 4800000

/-- The state with a migration lock changed. -/
def updMig (s : State) (f : Nat) (g : Mig → Mig) : State :=
  { s with migs := s.migs.filter (fun m => decide (m.frame ≠ f)) ++ [g (migOf s f)] }

/-- A range of a stage 2 cut so that one page stands in a range of its own. -/
def splitPage (l : List S2) (page : Nat) : List S2 :=
  l.flatMap (fun e =>
    if e.page ≤ page ∧ page < e.page + e.n then
      let k := page - e.page
      (if 0 < k then [{ e with n := k }] else []) ++
      [{ e with page := page, n := 1, frame := e.frame + k }] ++
      (if k + 1 < e.n then [{ e with page := page + 1, n := e.n - k - 1, frame := e.frame + k + 1 }] else [])
    else [e])

/-- The leaf of one page of a context changed. -/
def updLeaf (s : State) (c page : Nat) (g : S2 → S2) : State :=
  updCtx s c (fun x => { x with s2 := (splitPage x.s2 page).map (fun e => if e.page = page then g e else e) })

/-- R444, R466: MIGCONF of a context's partition rises by 1. -/
def countConflict (s : State) (c : Nat) : State :=
  let p := (ctxD s c).part
  updKen s (fun k => { k with migconf := mset k.migconf p (min 0xFFFFFFFF (mgetD k.migconf p 0 + 1)) })

/-- R444: the migratable leaves that name a frame map it where it lies, or no more. -/
def mapRemote (s : State) (f : Nat) (v : Bool) : State :=
  (namers s f).foldl (fun t c => ((leavesOf t c f).filter (·.migr)).foldl (fun u e =>
    updLeaf u c e.page (fun x => { x with valid := v })) t) s

/-- R442, R444: the device asks to migrate a page toward HBM: a request of the host that stands wins, and the page is mapped
where it lies; else the owner is asked for a grant. -/
def askMigration (s : State) (c page : Nat) : State :=
  match frameOf s c page with
  | none => s
  | some f =>
    let m := migOf s f
    if m.devHold ∨ m.want then s
    else if m.hostHas then
      countConflict (mapRemote (updMig s f (fun m => { m with remote := true, devHold := true, till := s.uclk + holdOff })) f true) c
    else postEvent (updMig s f (fun m => { m with want := true, wantAt := s.uclk })) 0x20 (natLe 8 (page * 65536))

/-- What an access of the kennel die for a context comes to: its physical bytes; a wait, in a state in which firmware has
asked for what resolves it; or an unresolved fault, in a state in which a firmware error is recorded. -/
inductive KAcc
  | ok (pas : List Nat) | wait (s : State) | bad (s : State) (i : FaultInfo)
  deriving DecidableEq, Repr

/-- R428: an access of the kennel die to a context's global bytes. -/
def kAcc (s : State) (c va n : Nat) (k : AccKind) : KAcc :=
  match kWalk s c va n k with
  | .ok pas => .ok pas
  | .error (a, .fault cause st lv) =>
    match migPage s c a k with
    | some p => .wait (askMigration s c p)
    | none => .bad (noteBadLeaf s c a k) (mkFault s c k (accCode k) a cause st lv)
  | .error _ => .wait s

/-- What a read by the kennel die comes to: bytes with their poison, a wait, or an unresolved fault. -/
inductive KRead
  | ok (s : State) (bs : List Byte) (bad : Bool) | wait (s : State) | bad (s : State) (i : FaultInfo)
  deriving DecidableEq, Repr

/-- R428: a read of a context's global bytes by the kennel die. -/
def kGet (s : State) (c va n : Nat) : KRead :=
  match kAcc s c va n .read with
  | .ok pas => let (t, bs) := gRead s c pas; .ok t bs (anyPoison t pas)
  | .wait t => .wait t
  | .bad t i => .bad t i

end Sys2Proof.Machine
end

