-- ==== Sys2Proof/Machine/Queues.lean ====
section
/-!
DEFINITION. Hardware queues (R447 to R450): headers, errors and pushes; SPAWN and TASKEND (R222, R224); handler-task and
continuation pushes (R433, R472, R473).
-/

namespace Sys2Proof.Machine

/-! ### Headers (R447, R450) -/

/-- R447: a queue header. -/
structure QHdr where
  ring : Nat
  tail : Nat
  head : Nat
  log2n : Nat
  prod : Bool
  err : Bool
  vf : Nat
  bad : Bool
  deriving DecidableEq, Repr

/-- R447: a header from its 64 bytes; `bad`: malformed. -/
def hdrOf (bs : List Byte) : QHdr :=
  let x := leNat bs
  let lg := bits x 132 128
  { ring := bits x 63 0, tail := bits x 95 64, head := bits x 127 96, log2n := lg, prod := bit x 148, err := bit x 149,
    vf := bits x 159 150
    bad := decide (bits x 511 160 ≠ 0) || decide (bits x 147 133 ≠ 0) || decide (lg = 0) || decide (16 < lg) ||
      decide (bits x 63 0 % 64 ≠ 0) || !canonical (bits x 63 0) || (!bit x 148 && decide (bits x 159 150 ≠ 0)) }

/-- The entries of a ring. -/
def QHdr.size (h : QHdr) : Nat := 2 ^ h.log2n
/-- The entries produced and not consumed. -/
def QHdr.held (h : QHdr) : Nat := (h.tail + 2 ^ 32 - h.head) % 2 ^ 32
/-- R447: the address of entry `i`. -/
def QHdr.entry (h : QHdr) (i : Nat) : Nat := (h.ring + 64 * (i % h.size)) % 2 ^ 64

/-- R447: the header address of a descriptor, sign-extended from bit 56. -/
def hdrAddr (v : DWord) : Nat :=
  let a := bits v.toNat 56 6 * 64
  if bit a 56 then a + (2 ^ 64 - 2 ^ 57) else a

/-- The header address of a queue of a context. -/
def hvaOf (s : State) (c q : Nat) : Nat := hdrAddr (mgetD (ctxD s c).qdesc q 0)

/-- R447: a queue is enabled. -/
def qEnabled (s : State) (c q : Nat) : Bool := (mgetD (ctxD s c).qdesc q 0).getLsbD 0

/-- R428, R450: the write of ERR that a queue owes is made, once nothing that firmware resolves delays it; an unresolved fault ends it. -/
def payErr (s : State) (c q : Nat) : State :=
  match mget (ctxD s c).errDue q with
  | none => s
  | some (a, v) =>
    let paid (t : State) : State := updCtx t c (fun x => { x with errDue := mdel x.errDue q })
    match kAcc s c a 1 .write with
    | .ok pas =>
      let b := Memory.rd (recalls s none false pas).mem (pas.headD 0)
      paid (if b.getLsbD 5 = v then s else gWrite s c pas [b ^^^ 0x20])
    | .wait t => t
    | .bad t _ => paid t

/-- R450: a queue owes a write of ERR in its header. -/
def oweErr (s : State) (c q : Nat) (v : Bool) : State :=
  payErr (updCtx s c (fun x => { x with errDue := mset x.errDue q ((hvaOf s c q + 18) % 2 ^ 64, v) })) c q

/-- R450: a queue enters error: ERR is written, nothing more is read, SCHEDERR rises by 1. -/
def queueError (s : State) (c q : Nat) : State :=
  if (ctxD s c).qerr.contains q then s else
  oweErr (schedErr (updCtx s c (fun x => { x with qerr := x.qerr ++ [q] })) c) c q true

/-- R448, R450: what the kennel die finds when it reads a header: a usable header, nothing usable (the queue is disabled, or in
error now), or a wait. -/
inductive QRead
  | ok (s : State) (h : QHdr) | none (s : State) | wait (s : State)
  deriving DecidableEq, Repr

/-- R449, R450: the watch of a queue's TAIL word, as the kennel die sets it at a place, unwritten. -/
def watchTail (s : State) (c q pa : Nat) : State :=
  { s with tails := s.tails.filter (fun w => !(w.ctx == c && w.queue == q)) ++ [{ ctx := c, queue := q, pa := pa }] }

/-- R449: the kennel die registers a header's line as a sharer, where the header translates. -/
def watchHdr (s : State) (c q : Nat) : State :=
  match kWalk s c (hvaOf s c q) 64 .read with
  | .ok pas => watchTail s c q (pas.headD 0 + 8)
  | .error _ => s

/-- R450: an agent other than the kennel die has written the TAIL word of a queue. -/
def tailHit (s : State) (c q : Nat) : Bool := s.tails.any (fun w => w.ctx == c && w.queue == q && w.hit)

/-- R448, R450, R492: the kennel die reads the header of a queue and judges it, once a write of ERR that it owes is made. -/
def readHdr (s0 : State) (c q : Nat) : QRead :=
  let s := if (ctxD s0 c).st = .free ∨ (ctxD s0 c).st = .revoking then s0 else payErr s0 c q
  if (mget (ctxD s c).errDue q).isSome then .wait s else
  if !qEnabled s c q ∨ (ctxD s c).qerr.contains q ∨ (ctxD s c).st = .free ∨ (ctxD s c).st = .revoking then .none s else
  match kGet s c (hvaOf s c q) 64 with
  | .wait t => .wait t
  | .bad t _ => .none (queueError t c q)
  | .ok t bs bad =>
    let h := hdrOf bs
    if bad ∨ h.bad ∨ h.size < h.held ∨ (!h.prod ∧ tailHit s c q) then .none (queueError t c q)
    else .ok (watchHdr t c q) h

/-- What a push comes to (R448): made, at an entry of the ring; the queue is full; not made; or a wait. -/
inductive PushRes
  | ok (s : State) (idx : Nat) | full (s : State) | none (s : State) | wait (s : State)
  deriving DecidableEq, Repr

/-- R448: a push of 64 bytes to a device-produced queue, with their poison; in a stopped hard partition it waits (R500). -/
def push (s : State) (c q : Nat) (bs : List Byte) (bad : Bool) : PushRes :=
  if halted s c then .wait s else
  match readHdr s c q with
  | .wait t => .wait t
  | .none t => .none t
  | .ok t h =>
    if h.prod then .none t
    else if h.held = h.size then .full t
    else
      match kAcc t c (h.entry h.tail) 64 .write, kAcc t c ((hvaOf t c q + 8) % 2 ^ 64) 4 .write with
      | .ok pas, .ok ta =>
        let t1 := gWrite t c pas bs
        let t2 := if bad then addPoison t1 (pas.map (· / 64)) else t1
        let t3 := gWrite t2 c ta (natLe 4 ((h.tail + 1) % 2 ^ 32))
        .ok (watchHdr t3 c q) (h.tail % h.size)
      | .wait u, _ => .wait u
      | _, .wait u => .wait u
      | _, _ => .none (queueError t c q)

/-! ### SPAWN and TASKEND (R222, R224) -/

/-- What SPAWN does for one lane that performs: the record is copied and pushed; its status. -/
def spawnLane (c q : Nat) (s : State) (pas : List Nat) : State × Word × Bool :=
  let (t, bs) := gRead s c pas
  match push t c q bs (anyPoison t pas) with
  | .ok u _ => (u, 0, false)
  | .full u => (u, 1, false)
  | .none u => (u, 2, false)
  | .wait u => (u, 0, true)

/-- R428: a state with the migrations that an access which had to wait has asked for, and nothing else of it. -/
def withAsks (s t : State) : State :=
  { s with migs := t.migs
           ctxs := s.ctxs.map (fun p => (p.1, { p.2 with s2 := (ctxD t p.1).s2 }))
           ken := { s.ken with held := t.ken.held, evSeq := t.ken.evSeq, evLost := t.ken.evLost, migconf := t.ken.migconf } }

/-- The lanes of SPAWN in ascending order: the state, the statuses, and whether the issue waits for a header. -/
def spawnLanes (e : Env) (c : Nat) (s : State) (ok : List GLane) : State × List (Nat × Word) × Bool :=
  ok.foldl (fun p l =>
    if p.2.2 then p else
    let (t, w, wt) := spawnLane c (wd e.b 0 l.1).toNat p.1 l.2
    (t, p.2.1 ++ [(l.1, w)], wt)) (s, [], false)

/-- R222: SPAWN. The address trap is judged first, then a misaligned address answers 3 whatever its queue is (log entry 37). -/
def execSpawn (r : R3) (s : State) : Out :=
  let w := r.raw 0x3F#7 0#3
  laneInsn w s (fun e t =>
    let ea (l : Nat) := (pr e.a 0 l).toNat
    match e.act.find? (fun l => !canonical (ea l)) with
    | some l => (trapFibre t e.i 0x02 0 [l] (addrField (ea l)), .stay)
    | none =>
      let odd := e.act.filter (fun l => decide (ea l % 64 ≠ 0))
      let m := gMeet t e.i .read 64 ea (e.act.filter (fun l => decide (ea l % 64 = 0)))
      if m.stall then (m.s, .stay) else
      let t0 := sendAll .usual e.i (coreIs t e.i) .read t.nextId m.s (m.ok.flatMap (·.2))
      let (t1, st, wt) := spawnLanes e (ctxIs t e.i) t0 m.ok
      if wt then (withAsks t t1, .stay) else
      let t2 := wrDs w e 0 (e.act.filter (fun l => odd.contains l || st.any (fun p => p.1 == l)))
        (fun l => if odd.contains l then 3 else ((st.find? (fun p => p.1 == l)).map (·.2)).getD 0) t1
      if m.bad.isEmpty then (t2, .advance) else (parkBad t2 e.i m.bad, .part))

/-- R22, R205: a fibre ends with every lane of it. -/
def endFib (f : Fibre) : Fibre :=
  if f.st = .empty then f else
  { f with st := .ended, wait := none, wstack := [], stopReq := false, window := none,
           lanes := f.lanes.map (fun y => if y.live then { y with st := .exited, meet := 0 } else y) }

/-- R22, R224: every fibre of a slot ends; the instructions that they wait in write nothing. -/
def endSlot (k : Slot) : Slot :=
  { dropLate k (k.fibs.filterMap (fun f => f.wait.bind (fun w => if w.kind = .retry then some w.id else none))) with
    fibs := k.fibs.map endFib }

/-- R22, R224: every fibre of a block ends. -/
def endFibres (x : Block) : Block := { x with slots := x.slots.map endSlot }

/-- R22, R224, R332, R342: a block's lanes and its sequencer end at once, its tile stores in flight are cut, and its retirement
begins. -/
def endBlock (s : State) (b : Nat) : State :=
  let t := updBlk (closeBlockWindows (cutStores s (fun p => p.blk == b && p.agent == 64)) b) b endFibres
  updBlk (endSeq t b) b (fun x => { x with st := .retiring, rstep := 2, ending := none })

/-- R31: an issue pipe of a block's slot: core × 4 + pipe. -/
def pipeOf (x : Block) (k : Nat) : Nat := coreOf x k * 4 + coreSpot x k % 4

/-- R224: the pipes, but for one, on which a slot of the block may still issue in this clk: those that have not issued in it. Where
slots of other blocks share a pipe, whether it chooses one of them is a free choice (R31). -/
def otherPipes (s : State) (b k : Nat) : List Nat :=
  let x := blkD s b
  nub (((List.range x.slots.length).filter (fun j =>
    decide (pipeOf x j ≠ pipeOf x k) &&
    (pipeSlots s b j).all (fun p => decide ((slotD s p.1 p.2).issuedAt ≤ s.clk)) &&
    ((pipeSlots s b j).all (fun p => p.1 == b) || decide (pick s (pipeOf x j) 5 2 = 0)))).map (pipeOf x))

/-- R224: a TASKEND takes effect: the block ends at once, or once the other pipes have issued in this clk. -/
def taskEnd (s : State) (i : Issue) : State :=
  match (match (blkD s i.blk).ending with
    | some ps => ps
    | none => otherPipes s i.blk i.slot) with
  | [] => endBlock s i.blk
  | ps => updBlk s i.blk (fun x => { x with ending := some ps })

/-- R224: TASKEND. -/
def execTaskend (r : R3) (s : State) : Out :=
  laneInsn (r.raw 0x3F#7 2#3) s (fun e t => (taskEnd t e.i, .jumped))

/-! ### Tickets that move on (R408, R433) -/

/-- R408, R431: a ticket goes to the first holder of a path, HOPS counting the contexts passed; the owner receives it where
none holds it. -/
def moveTicket (s : State) (id : Nat) (path : List Nat) (more : Nat) : State :=
  match mget s.tickets id with
  | none => s
  | some t =>
    let (h, hops) := findHolder s path ((t.words.getD 3 0).toNat + more)
    let ws := t.words.set 3 (BitVec.ofNat 32 (min hops 255))
    let s1 := { s with tickets := mset s.tickets id { t with words := ws, holder := h, push := h.isSome, spot := none } }
    if h.isNone ∧ s.ken.owner.isSome then postEvent s1 0x21 (wordBytes ws) else s1

/-- R433: a ticket passes on from its holder as if the holder's HTASK were 0. -/
def passTicket (s : State) (id : Nat) : State :=
  match (mget s.tickets id).bind (·.holder) with
  | none => s
  | some h => moveTicket s id (ancestors s h) 1

/-- R433: the kennel die pushes the handler task of one ticket; whether the holder's later tickets may follow. -/
def pushHandler (s : State) (id h : Nat) : State × Bool :=
  match kGet s h (ctxD s h).htask.toNat 64 with
  | .wait t => (t, false)
  | .bad t _ => (passTicket t id, true)
  | .ok t bs bad =>
    let q := (ctxD t h).hqueue.toNat % 65536
    match push t h q (bs.take 36 ++ natLe 4 (((mget s.tickets id).map (·.num)).getD 0) ++ bs.drop 40) bad with
    | .ok u idx => ({ u with tickets := mupd u.tickets id (fun x => { x with push := false, spot := some (h, q, idx) }) }, true)
    | .full u => (u, false)
    | .none u => (passTicket u id, true)
    | .wait u => (u, false)

/-- R433: the oldest ticket whose handler task is still to be pushed to a holder that does not wait, with that holder. -/
def nextPush (s : State) (waits : List Nat) : Option (Nat × Nat) :=
  s.tickets.findSome? (fun p => if !p.2.push then none else
    p.2.holder.bind (fun h => if waits.contains h || halted s h then none else some (p.1, h)))

/-- R433: the handler tasks are pushed in ticket-issue order, a ticket that is passed on in its place at the next holder; a holder
whose queue is full waits with all its later ones. -/
def pushSome (s : State) (waits : List Nat) (n : Nat) : State :=
  match n with
  | 0 => s
  | k + 1 =>
    match nextPush s waits with
    | none => s
    | some (id, h) =>
      let (t, ok) := pushHandler s id h
      pushSome t (if ok then waits else h :: waits) k

/-- R433: every handler task that can be pushed; a ticket has at most 8 holders one after another (R387). -/
def pushHandlers (s : State) : State := pushSome s [] (9 * s.tickets.length + s.ctxs.length)

/-- R433: HANDLER_TASK_PUSH. -/
def execHandlerTaskPush (s : State) : Out := event s pushHandlers

/-! ### Continuation pushes (R24, R472, R473) -/

/-- R472, R473: the push of a continuation record that has been read: what still waits. -/
def pushRecord (s : State) (p : Push) (bs : List Byte) : State × Option Push :=
  let q := { p with got := some bs }
  match push s p.ctx p.queue bs false with
  | .ok u _ => (u, none)
  | .full u => (u, some q)
  | .none u => (schedErr u p.ctx, none)
  | .wait u => (u, some q)

/-- R472, R473: one continuation push, its record read once: what still waits. -/
def pushCont (s : State) (p : Push) : State × Option Push :=
  if (ctxD s p.ctx).st = .free ∨ (ctxD s p.ctx).st = .revoking then (s, none) else
  match p.got with
  | some bs => pushRecord s p bs
  | none =>
    match kGet s p.ctx p.addr 64 with
    | .wait t => (t, some p)
    | .bad t i =>
      (newTicket t p.ctx (.cont p.ctx p.queue p.addr) (p.ctx :: ancestors t p.ctx)
        ([(0, 0x0B + 65536 * i.cause + 16777216 * 4), (14, i.acc)] ++ addrField p.addr), none)
    | .ok t bs bad =>
      if bad then
        (noteError (schedErr t p.ctx) { cls := 2, unit := 8, action := 0, loc := 0, ctx := ctxName t p.ctx, addr := 0 }, none)
      else pushRecord t p bs

/-- R472: the continuation pushes, oldest first; those that still wait stay. -/
def pushConts (s : State) : State :=
  s.pushes.foldl (fun t p =>
    let (u, waits) := pushCont t p
    { u with pushes := u.pushes ++ waits.toList }) { s with pushes := [] }

/-- R472: CONTINUATION_PUSH. -/
def execContinuationPush (s : State) : Out := event s pushConts

/-! ### Reading a header (R449, R450) -/

/-- R449: QUEUE_HEADER_POLL. -/
def execQueueHeaderPoll (ctx q : Nat) (s : State) : Out :=
  ctxEvent ctx s (fun t => match readHdr t ctx q with
    | .ok u _ => u
    | .none u => u
    | .wait u => u)

end Sys2Proof.Machine
end

