-- ==== Sys2Proof/Machine/Fit.lean ====
section
/-!
DEFINITION. Where a block may stand (R14, R19, R20, R28, R96, R329, R391 to R394, R439, R456 to R458): shares, tenancy, cores and
quads that fit, and the placement of one block.
-/

namespace Sys2Proof.Machine

/-! ### Shares (R19) -/

/-- The sum of some numbers. -/
def sumNat (l : List Nat) : Nat := l.foldl (· + ·) 0

/-- R19: the shares of `n` blocks over dies with the given core counts. -/
def shares (n : Nat) (cs : List Nat) : List Nat :=
  let all := sumNat cs
  if all = 0 then cs.map (fun _ => 0) else
  let left := n - sumNat (cs.map (fun c => n * c / all))
  cs.mapIdx (fun i c =>
    let above := ((cs.mapIdx (fun j d => (j, n * d % all))).filter (fun p =>
      decide (n * c % all < p.2) || (decide (p.2 = n * c % all) && decide (p.1 < i)))).length
    n * c / all + (if above < left then 1 else 0))

/-- R456: the virtual die of a block by its index. -/
def shareDie (sh : List Nat) (t : Nat) : Nat :=
  match sh with
  | [] => 0
  | n :: r => if t < n then 0 else shareDie r (t - n) + 1

/-! ### Holding, lending and tenancy (R392 to R394, R458) -/

/-- R391: a context is schedulable. -/
def schedulable (s : State) (c : Nat) : Bool := !halted s c && (c :: ancestors s c).all (fun d => decide ((ctxD s d).st = .running))

/-- R392: the context that holds a quad of a die. -/
def quadHolder (s : State) (die quad : Nat) : Option Nat :=
  (s.ctxs.find? (fun p => decide (p.2.st ≠ .free) && (p.2.quads.getD die 0).testBit quad)).map (·.1)

/-- R394: a quad is lent by its holder. -/
def isLent (s : State) (h die quad : Nat) : Bool := ((ctxD s h).lent.getD die 0).testBit quad

/-- R458: the quads of a die that a context holds and has not lent. -/
def ownUnlent (s : State) (c die : Nat) : Nat :=
  let x := ctxD s c
  (x.quads.getD die 0) - ((x.quads.getD die 0) &&& (x.lent.getD die 0))

/-- R393: a context has bound a physical die. -/
def bindsDie (s : State) (c die : Nat) : Bool := (ctxD s c).dies.contains die

/-- R458: a context may become the tenant of the quads of a holder: itself, or through shares at every level between. -/
def candidate (s : State) (h : Nat) (n c : Nat) : Bool :=
  if c = h then true else
  match n with
  | 0 => false
  | k + 1 =>
    let x := ctxD s c
    !x.root && decide (0 < x.tshare) && (List.range 4).any (fun d => bindsDie s c d && decide (ownUnlent s h d ≠ 0)) &&
      candidate s h k (x.parent % 4096)

/-- R458: the tenant of a holder's quads. -/
def tenantOf (s : State) (h : Nat) : Nat :=
  let rec go (n c : Nat) : Nat :=
    match n with
    | 0 => c
    | k + 1 =>
      let t := mgetD (ctxD s c).tenant h c
      if t = c ∨ (ctxD s t).st = .free ∨ (ctxD s t).parent % 4096 ≠ c then c else go k t
  go 8 h

/-- R454: a context has a ready block for a die: a schedulable one with a saved block, or with a waiting block of that die. -/
def readyOn (s : State) (c die : Nat) : Bool :=
  schedulable s c && (!(ctxD s c).waitList.isEmpty || s.launches.any (fun p => decide (p.2.ctx = c) &&
    p.2.waiting.any (fun w => decide ((ctxD s c).dies[w.vd]? = some die))))

/-- A block is resident on a quad. -/
def onQuad (x : Block) (die quad : Nat) : Bool := x.resident && decide (x.die = die) && decide (x.quad = quad)

/-- R394: a block of a holder's subtree is resident on the quad, or one of the holder itself, whose quad a lent one stays (R458), is ready
for it. -/
def holderBusy (s : State) (h die quad : Nat) : Bool :=
  s.blocks.any (fun p => onQuad p.2 die quad && (subtree s h).contains p.2.ctx) ||
  readyOn s h die

/-- R394: a context may borrow a quad that a sibling lends. -/
def mayBorrow (s : State) (c h die : Nat) : Bool :=
  !(ctxD s c).root && !(ctxD s h).root && decide ((ctxD s c).parent = (ctxD s h).parent) && decide (c ≠ h) &&
  (ctxD s c).borrow.getLsbD 0 && bindsDie s c die

/-- R393, R394, R458: a context may use a quad now: `some false` as holder or tenant, `some true` as a borrower. -/
def usableNow (s : State) (c die quad : Nat) : Option Bool :=
  match quadHolder s die quad with
  | none => none
  | some h =>
    if isLent s h die quad then
      if h = c then some false
      else if mayBorrow s c h die ∧ !holderBusy s h die quad then some true else none
    else if tenantOf s h = c ∧ bindsDie s c die then some false else none

/-- R453, R458: a context may ever use a quad. -/
def usableEver (s : State) (c die quad : Nat) : Option Bool :=
  match quadHolder s die quad with
  | none => none
  | some h =>
    if h = c then some false
    else if isLent s h die quad then (if mayBorrow s c h die then some true else none)
    else if candidate s h 8 c ∧ bindsDie s c die then some false else none

/-- R28: a context may use the quads that it holds. -/
def usableHeld (s : State) (c die quad : Nat) : Option Bool := if quadHolder s die quad = some c then some false else none

/-- R458: a context is the tenant of a quad that another holds. -/
def tenantOn (s : State) (c die quad : Nat) : Bool :=
  match quadHolder s die quad with
  | none => false
  | some h => decide (h ≠ c) && !isLent s h die quad && decide (tenantOf s h = c) && bindsDie s c die

/-- The enabled cores of a die whose quads satisfy a condition. -/
def coresWhere (s : State) (die : Nat) (p : Nat → Bool) : Nat :=
  ((List.range 64).filter (fun k => coreEnabled s (die * 64 + k) && p (k / 4))).length

/-- R19, R458: the enabled cores of a die that count for a context's shares: those that it holds, and those of the quads whose
tenant it is. -/
def shareCores (s : State) (c die : Nat) : Nat :=
  coresWhere s die (fun q => decide (quadHolder s die q = some c) || tenantOn s c die q)

/-- R19: the core counts of the bound dies for the shares of a launch. A context that neither holds a core nor is a tenant has
none: its launches are divided by the cores that it may come to use, the model's choice (log entry 39). -/
def shareCounts (s : State) (c : Nat) : List Nat :=
  let cs := (ctxD s c).dies.map (shareCores s c)
  if sumNat cs = 0 then (ctxD s c).dies.map (fun d => coresWhere s d (fun q => decide (usableEver s c d q = some false))) else cs

/-! ### Frames and save areas (R392, R439, R440) -/

/-- The parts of a list of ranges outside one range. -/
def cutRange (ps : List (Nat × Nat)) (a b : Nat) : List (Nat × Nat) :=
  ps.flatMap (fun p => [(p.1, min p.2 a), (max p.1 b, p.2)].filter (fun q => decide (q.1 < q.2)))

/-- R405: FMAPPED: the distinct frames mapped into a context. -/
def fmapped (x : Ctx) : Nat :=
  (x.s2.foldl (fun (p : List (Nat × Nat) × Nat) e =>
    let new := p.1.foldl (fun ps r => cutRange ps r.1 r.2) [(e.frame, e.frame + e.n)]
    (p.1 ++ [(e.frame, e.frame + e.n)], p.2 + sumNat (new.map (fun r => r.2 - r.1)))) ([], 0)).2

/-- R95: the mode of a bank in a plan. -/
def modeOf (kd : KDesc) (b : Nat) : Nat := kd.plan.getD b 0 % 8

/-- The banks of a plan in a mode. -/
def modeCount (kd : KDesc) (m : Nat) : Nat := (kd.plan.filter (fun p => p % 8 == m)).length

/-- R14: the cores that a block occupies. -/
def coreCount (kd : KDesc) : Nat := if kd.quadRes then 4 else 1

/-- R440: the 64 KiB frames of a block's save area. -/
def saveSize (kd : KDesc) : Nat :=
  1 + (kd.nslot + 3) / 4 + (if kd.mstr = 0 then 0 else 7) + 4 * coreCount kd +
  (coreCount kd * (modeCount kd 1 + modeCount kd 2 + modeCount kd 4) + 3) / 4 + 2 * kd.nslot

/-- R439: the save-area frames charged to a context. -/
def savesOf (s : State) (c : Nat) : Nat := sumNat ((s.blocks.filter (fun p => p.2.ctx == c)).map (·.2.saveFrames))

/-- R439: the save-area frames taken from a partition's pool. -/
def poolUsed (s : State) (part : Nat) : Nat :=
  sumNat ((s.blocks.filter (fun p => decide ((ctxD s p.2.ctx).part = part))).map (·.2.saveFrames))

/-- R60, R439: a save area of `n` frames can be reserved: in the pool, and within the FRAMES of a context that is not a
partition root (a root's FRAMES equal its mapped frames, R516). -/
def saveFits (s : State) (c n : Nat) : Bool :=
  decide (poolUsed s (ctxD s c).part + n ≤ (sliceOf s c).spcnt) &&
  ((ctxD s c).root || decide (fmapped (ctxD s c) + savesOf s c + n ≤ (ctxD s c).frames))

/-! ### Cores and quads that fit (R14, R19, R20, R96, R329) -/

/-- R14: the slots of a block on core `k` of its quad. -/
def slotsOn (kd : KDesc) (k : Nat) : Nat :=
  if kd.quadRes then (if k < kd.nslot then (kd.nslot - k + 3) / 4 else 0) else kd.nslot

/-- The occupied slots of a core. -/
def occupied (s : State) (core : Nat) : Nat := (coreSlots s core).length

/-- R96: every bank that a plan claims is eligible on a core. -/
def banksFit (s : State) (kd : KDesc) (core : Nat) : Bool :=
  (List.range 64).all (fun b => decide (modeOf kd b = 0) || s.blocks.all (fun p =>
    !holdsCore p.2 core || planMode p.2 b == 0 || (modeOf kd b == 3 && planMode p.2 b == 3)))

/-- R392: the STASH banks that a context's blocks hold on a core. -/
def stashHeld (s : State) (c core : Nat) : Nat :=
  ((List.range 64).filter (fun b => s.blocks.any (fun p =>
    decide (p.2.ctx = c) && holdsCore p.2 core && planMode p.2 b == 2))).length

/-- R96: a tagged orphan of the context stands where a declared buffer would. -/
def orphanMeets (s : State) (c core : Nat) (ds : List Decl) : Bool :=
  s.mappings.any (fun p => decide (p.2.core = core) && p.2.blk.isNone && decide (p.2.ctx = c) && decide (p.2.tag ≠ 0) &&
    ds.any (fun d => p.2.meets d.lbase d.size))

/-- R19, R20, R96, R329, R392: core `k` of a block's cores would hold its part. -/
def coreFits (s : State) (c : Nat) (kd : KDesc) (ds : List Decl) (k core : Nat) : Bool :=
  coreEnabled s core && decide (occupied s core + slotsOn kd k ≤ 16) && banksFit s kd core &&
  (decide (modeCount kd 2 = 0) || decide (stashHeld s c core + modeCount kd 2 ≤ (ctxD s c).sbank)) &&
  (decide (k ≠ 0) || (!orphanMeets s c core ds &&
    (decide (kd.mstr = 0) || s.blocks.all (fun p => !(p.2.resident && decide (p.2.kd.mstr ≠ 0) && decide (handleCore p.2 = core))))))

/-- Where a block stands: die, quad, core of the quad, and whether the quad is borrowed. -/
structure Spot4 where
  die : Nat
  quad : Nat
  core : Nat
  borrowed : Bool
  deriving DecidableEq, Repr

/-- A block fits on a core, or on the quad of that core. -/
def spotFits (s : State) (c : Nat) (kd : KDesc) (ds : List Decl) (die quad core : Nat) : Bool :=
  let base := die * 64 + quad * 4
  if kd.quadRes then (List.range 4).all (fun k => coreFits s c kd ds k (base + k)) else coreFits s c kd ds 0 (base + core)

/-- The occupied slots that rank a place (R19, R20). -/
def spotRank (s : State) (kd : KDesc) (p : Spot4) : Nat :=
  let base := p.die * 64 + p.quad * 4
  if kd.quadRes then sumNat ((List.range 4).map (fun k => occupied s (base + k))) else occupied s (base + p.core)

/-- The first place with the fewest occupied slots. -/
def bestSpot (s : State) (kd : KDesc) (ps : List Spot4) : Option Spot4 :=
  ps.foldl (fun a p => match a with
    | none => some p
    | some q => if spotRank s kd p < spotRank s kd q then some p else some q) none

/-- R19, R20: the place of a block on a die: on quads of its own or of its tenancy, else on borrowed ones. -/
def spotOn (s : State) (use : State → Nat → Nat → Nat → Option Bool) (c : Nat) (kd : KDesc) (ds : List Decl) (die : Nat) :
    Option Spot4 :=
  let all := (List.range 16).flatMap (fun q => match use s c die q with
    | none => []
    | some b => (if kd.quadRes then [0] else List.range 4).filterMap (fun k =>
        if spotFits s c kd ds die q k then some { die := die, quad := q, core := k, borrowed := b } else none))
  match bestSpot s kd (all.filter (fun p => !p.borrowed)) with
  | some p => some p
  | none => bestSpot s kd (all.filter (·.borrowed))

/-- R457: the place beside an orphan with a tag. -/
def affineSpot (s : State) (use : State → Nat → Nat → Nat → Option Bool) (c : Nat) (kd : KDesc) (ds : List Decl) (tag : Nat) :
    Option Spot4 :=
  if tag = 0 then none else
  s.mappings.findSome? (fun p =>
    if p.2.blk.isNone ∧ p.2.ctx = c ∧ p.2.tag.toNat = tag then
      let die := p.2.core / 64
      let q := p.2.core / 4 % 16
      let k := if kd.quadRes then 0 else p.2.core % 4
      match use s c die q with
      | some b => if spotFits s c kd ds die q k then some { die := die, quad := q, core := k, borrowed := b } else none
      | none => none
    else none)

/-- R19, R457: the place of a block of a launch. -/
def spotFor (s : State) (use : State → Nat → Nat → Nat → Option Bool) (l : Launch) (task vd : Nat) : Option Spot4 :=
  let here := (ctxD s l.ctx).dies[vd]?.bind (spotOn s use l.ctx l.kd l.decls)
  if l.tr.aff then (affineSpot s use l.ctx l.kd l.decls ((l.tr.afftag + task) % 2 ^ 32)).orElse (fun _ => here) else here

/-! ### One placement (R21 steps 1 to 3, R94, R97, R108) -/

/-- Two ranges of banks: a mapping stands in a bank. -/
def Mapping.inBank (m : Mapping) (b : Nat) : Bool := m.meets (b * 0x4000) 0x4000

/-- R97, R108: the orphans on a core that a claim of a bank reclaims. -/
def claimReclaim (s : State) (c core b mode : Nat) : State :=
  (s.mappings.filter (fun p => decide (p.2.core = core) && p.2.blk.isNone && p.2.inBank b &&
    !(mode == 2 && decide (p.2.ctx = c) && decide (p.2.tag ≠ 0)))).foldl (fun t p => deleteMapping t p.1 true) s

/-- R94: a bank is initialised: every byte 0 but those of orphans that are kept, every ring empty and open. -/
def initBank (s : State) (core b : Nat) : State :=
  let lo := sramKey core (b * 0x4000)
  let kept (key : Nat) : Bool := s.mappings.any (fun p => decide (p.2.core = core) && decide (sramKey core p.2.lbase ≤ key) &&
    decide (key < sramKey core p.2.lbase + 64 * p.2.lines.length))
  { s with sram := s.sram.filter (fun x => !(decide (lo ≤ x.1) && decide (x.1 < lo + 0x4000)) || kept x.1),
           sramPoison := s.sramPoison.filter (fun w => !(decide (lo ≤ w * 8) && decide (w * 8 < lo + 0x4000)) || kept (w * 8)),
           rings := s.rings.filter (fun r => !(decide (lo ≤ r.1) && decide (r.1 < lo + 0x4000))) }

/-- The cores of a place. -/
def spotCores (kd : KDesc) (p : Spot4) : List Nat :=
  let base := p.die * 64 + p.quad * 4
  if kd.quadRes then (List.range 4).map (base + ·) else [base + p.core]

/-- R97: the banks that a plan claims at a place, as core, bank and mode; a bank already in CACHE mode stays as it is. -/
def claimed (s : State) (kd : KDesc) (p : Spot4) : List (Nat × Nat × Nat) :=
  (spotCores kd p).flatMap (fun core => ((List.range 64).filter (fun b => decide (modeOf kd b ≠ 0) &&
    !s.blocks.any (fun q => holdsCore q.2 core && planMode q.2 b != 0))).map (fun b => (core, b, modeOf kd b)))

/-- R97 steps 1 and 2: the mappings that stand in the way of some claims are reclaimed. -/
def reclaimBanks (s : State) (c : Nat) (bs : List (Nat × Nat × Nat)) : State :=
  bs.foldl (fun t x => claimReclaim t c x.1 x.2.1 x.2.2) s

/-- R97 step 4: the claimed banks are initialised. -/
def initBanks (s : State) (bs : List (Nat × Nat × Nat)) : State := bs.foldl (fun t x => initBank t x.1 x.2.1) s

/-- R31: the slot numbers that the slots of a block take on its cores: the lowest free ones, the model's choice (log entry 39). -/
def takeSpots (s : State) (kd : KDesc) (p : Spot4) : List Nat :=
  (List.range kd.nslot).map (fun k =>
    let core := p.die * 64 + p.quad * 4 + (if kd.quadRes then k % 4 else p.core)
    let used := (coreSlots s core).map (fun q => coreSpot (blkD s q.1) q.2)
    ((List.range 16).filter (fun n => !used.contains n)).getD (if kd.quadRes then k / 4 else k) 15)

/-- R108, R392: the banks of a core that a context's blocks and orphans hold in STASH mode. -/
def stashUse (s : State) (c core : Nat) : Nat :=
  ((List.range 64).filter (fun b =>
    s.blocks.any (fun p => decide (p.2.ctx = c) && holdsCore p.2 core && planMode p.2 b == 2) ||
    s.mappings.any (fun p => decide (p.2.ctx = c) && decide (p.2.core = core) && p.2.blk.isNone && p.2.inBank b))).length

/-- R108, R402: orphans of a context on a core are reclaimed, oldest first, until its STASH banks fit. -/
def trimStash (s : State) (c core : Nat) : State :=
  let mine (t : State) : Option Nat := ((t.mappings.filter (fun p => decide (p.2.ctx = c) && decide (p.2.core = core) &&
      p.2.blk.isNone)).foldl (fun a p => match a with
    | none => some (p.1, p.2.orphan)
    | some q => if p.2.orphan < q.2 then some (p.1, p.2.orphan) else some q) none).map (·.1)
  (List.range 128).foldl (fun t _ => if (ctxD t c).sbank < stashUse t c core then
    (match mine t with
      | some m => deleteMapping t m true
      | none => t) else t) s

/-- R111: the handles of a new block. -/
def freshHandles (ds : List Decl) : Map Handle :=
  ds.foldl (fun m d => mset m d.hnd { decl := d, st := if d.out then .full else .filling }) []

/-- R21 steps 1 to 3: a block of a launch takes its place and is Loading. -/
def placeNew (s : State) (n : Nat) (l : Launch) (task level : Nat) (p : Spot4) : State :=
  let bs := claimed s l.kd p
  let s1 := reclaimBanks s l.ctx bs
  let b : Block := { launch := n, task := task, ctx := l.ctx, die := p.die, quad := p.quad, core := p.core, level := level,
                     spots := takeSpots s l.kd p, borrowed := p.borrowed, kd := l.kd,
                     slots := List.replicate l.kd.nslot {}, handles := freshHandles l.decls,
                     saveFrames := saveSize l.kd }
  let s2 := { s1 with blocks := mset s1.blocks s1.nextId b, nextId := s1.nextId + 1 }
  initBanks ((spotCores l.kd p).foldl (fun t core => trimStash t l.ctx core) s2) bs

/-- R27, R28: every member of a gang takes its place, or none does; `sav`: each needs its save area (R439). -/
def placeGang (s : State) (use : State → Nat → Nat → Nat → Option Bool) (sav : Bool) (n : Nat) (l : Launch) (level : Nat)
    (ws : List (Nat × Nat)) : Option State :=
  ws.foldl (fun a w => match a with
    | none => none
    | some t =>
      match spotFor t use l w.1 w.2 with
      | some p => if !sav || saveFits t l.ctx (saveSize l.kd) then some (placeNew t n l w.1 level p) else none
      | none => none) (some s)

/-- R28, R453: the machine with every slot and bank free. -/
def emptied (s : State) : State := { s with blocks := [], mappings := [] }

end Sys2Proof.Machine
end

