-- ==== Sys2Proof/Machine/Accept.lean ====
section
/-!
DEFINITION. Task records, kernel descriptors and declarations (R110, R451, R452), their examination (R449, R453), the write of
a queue descriptor (R447, R450) and aging (R454).
-/

namespace Sys2Proof.Machine

/-! ### Records (R110, R451, R452) -/

/-- R451: a task record from its 64 bytes. -/
def taskOf (bs : List Byte) : TaskRec :=
  let x := leNat bs
  { afftag := bits x 415 384, aff := bit x 353, gang := bit x 352, pri := bits x 351 344, ndecl := bits x 343 336,
    cqueue := bits x 335 320, seed := BitVec.ofNat 32 (bits x 319 288), ntask := bits x 287 256, cont := bits x 255 192,
    join := bits x 191 128, dtab := bits x 127 64, kdesc := bits x 63 0 }

/-- An address that is not canonical or not a multiple of `al`. -/
def badAddr (al a : Nat) : Bool := !canonical a || decide (a % al ≠ 0)

/-- R451, R453: STATUS 1, but for the queue of the continuation. -/
def taskBad (bs : List Byte) : Bool :=
  let x := leNat bs
  let t := taskOf bs
  decide (bits x 511 448 ≠ 0) || decide (bits x 383 354 ≠ 0) || decide (t.ntask = 0) || decide (47 < t.pri) ||
  decide (64 < t.ndecl) || badAddr 64 t.cont || badAddr 4 t.join || (decide (t.ndecl ≠ 0) && badAddr 32 t.dtab) || badAddr 64 t.kdesc

/-- R452: the launch template of a fibre position. -/
def fibDeclOf (x k : Nat) : FibDecl :=
  let o := 512 + 64 * k
  { entry := bits x (o + 31) o, nlane := bits x (o + 37) (o + 32), wb := 8 * bits x (o + 46) (o + 40) }

/-- R452: a kernel descriptor from its 192 bytes. -/
def kdescOf (bs : List Byte) : KDesc :=
  let x := leNat bs
  { plan := (bs.drop 128).map (·.toNat), data := bits x 831 768, dataLen := bits x 863 832, fibs := (List.range 4).map (fibDeclOf x),
    mentry := bits x 447 416, quadRes := decide (bits x 399 392 = 1), nslot := bits x 391 384, jtab := bits x 383 320,
    jtlen := bits x 319 288, mslen := bits x 287 256, mstr := bits x 255 192, dict := bits x 191 128, dictn := bits x 127 96,
    codelen := bits x 95 64, code := bits x 63 0 }

/-- R452, R453: STATUS 2. -/
def kdescBad (bs : List Byte) : Bool :=
  let x := leNat bs
  let k := kdescOf bs
  decide (bits x 1023 864 ≠ 0) || decide (bits x 511 448 ≠ 0) || decide (bits x 415 400 ≠ 0) || decide (1 < bits x 399 392) ||
  decide (k.nslot = 0) || decide (16 < k.nslot) || k.fibs.all (fun f => decide (f.nlane = 0)) ||
  (List.range 4).any (fun j =>
    let o := 512 + 64 * j
    let f := fibDeclOf x j
    decide (32 < f.nlane) || decide (896 < f.wb) || decide (bits x (o + 39) (o + 38) ≠ 0) || decide (bits x (o + 63) (o + 47) ≠ 0) ||
    (decide (f.nlane ≠ 0) && decide (k.codelen ≤ f.entry))) ||
  decide (1024 < k.dictn) || decide (k.codelen = 0) || (decide (k.mstr ≠ 0) && decide (k.mslen ≤ k.mentry)) ||
  badAddr 64 k.data || (decide (k.data = 0) && decide (k.dataLen ≠ 0)) || decide (k.code % 64 ≠ 0) || decide (k.mstr % 64 ≠ 0) ||
  decide (k.dict % 4 ≠ 0) || decide (k.jtab % 8 ≠ 0) || decide (k.jtlen % 8 ≠ 0)

/-- R95: STATUS 3 of the plan alone. -/
def planBad (k : KDesc) (ndecl : Nat) : Bool :=
  k.plan.any (fun p => decide (64 ≤ p) || decide (6 ≤ p % 8) || decide (p / 8 = 7) || (decide (p / 8 ≠ 0) && decide (p % 8 ≠ 4))) ||
  decide (63 < modeCount k 3) || (decide (ndecl ≠ 0) && decide (modeCount k 1 + modeCount k 2 + modeCount k 4 = 0))

/-- A declaration of R110 before its shape is read: reserved bits, and the shape's address. -/
structure RawDecl where
  decl : Decl
  rsvd : Bool
  at' : Nat
  deriving DecidableEq, Repr

/-- R110: a declaration from its 32 bytes. -/
def declOf (bs : List Byte) : RawDecl :=
  let x := leNat bs
  { decl := { layout := bits x 139 136, out := bit x 134, hnd := bits x 133 128, size := bits x 127 96, lbase := bits x 83 64, shape := {} }
    rsvd := decide (bits x 255 140 ≠ 0) || bit x 135 || decide (bits x 95 84 ≠ 0), at' := bits x 63 0 }

/-- R112, R335: the bytes that a copy of a shape takes in its buffer. -/
def copyBytes (layout : Nat) (h : Shape) : Nat :=
  if layout = 0 then (h.count * nibbles h.typ + 1) / 2
  else
    let n := (h.dims.drop 2).foldl (fun a d => a * d.1) 1
    n * ((h.ext 1 + 63) / 64) * ((h.ext 0 + 31) / 32) * brickSize h.typ 8 (decide (h.scl ≠ 0))

/-- R110: the bytes of a buffer lie in STASH banks of the plan. -/
def inStash (k : KDesc) (lo n : Nat) : Bool :=
  decide (lo + n ≤ 0x100000) && (List.range 64).all (fun b =>
    !(decide (b * 0x4000 < lo + n) && decide (lo < b * 0x4000 + 0x4000)) || decide (modeOf k b = 2))

/-- R110: one declaration of a list breaks the rules, its shape's bytes given where they could be read. -/
def declBad (k : KDesc) (r : RawDecl) (shape : Option (List Byte)) : Bool :=
  let d := r.decl
  r.rsvd || decide (1 < d.layout) || decide (d.size = 0) || decide (d.size % 64 ≠ 0) || decide (d.lbase % 64 ≠ 0) ||
  !inStash k d.lbase d.size || (match shape with
    | none => true
    | some bs => !shapeRsvd bs || (shapeOf bs).bad || decide (d.size < copyBytes d.layout (shapeOf bs)))

/-- R110: two declarations name one handle, or two buffers overlap. -/
def declsClash (ds : List Decl) : Bool :=
  match ds with
  | [] => false
  | d :: r => r.any (fun e => decide (d.hnd = e.hnd) || (decide (d.lbase < e.lbase + e.size) && decide (e.lbase < d.lbase + d.size))) ||
      declsClash r

/-! ### Acceptance (R453) -/

/-- What an examination comes to: a wait for firmware, or a STATUS, with the launch of STATUS 0. -/
inductive Judge
  | wait (s : State) | status (s : State) (n : Nat) (l : Option Launch)
  deriving DecidableEq, Repr

/-- R453: the shape records of some declarations, read once each; a bad address needs no read. -/
def readShapes (s : State) (c : Nat) (rs : List RawDecl) : KRead × List (Option (List Byte)) :=
  rs.foldl (fun p r => match p.1 with
    | .ok t _ bad =>
      if badAddr 64 r.at' then (p.1, p.2 ++ [none]) else
      match kGet t c r.at' 128 with
      | .ok u bs b => (.ok u [] (bad || b), p.2 ++ [some bs])
      | f => (f, p.2)
    | f => (f, p.2)) (.ok s [] false, [])

/-- R451: whether CQUEUE is an enabled device-produced queue; none while its header cannot be read yet. -/
def deviceQueue (s : State) (c q : Nat) : Option Bool :=
  if !qEnabled s c q then some false else
  match kGet s c (hvaOf s c q) 64 with
  | .ok _ bs _ => some (!(hdrOf bs).prod)
  | .wait _ => none
  | .bad _ _ => some false

/-- R20, R28, R453: the last two checks: a gang that does not fit in what the context holds, then a block that fits on no die. -/
def capacity (s : State) (l : Launch) : Nat :=
  let s0 := emptied s
  let ws := l.waiting.map (fun w => (w.task, w.vd))
  let room := decide (saveSize l.kd ≤ (sliceOf s l.ctx).spcnt) &&
    ((ctxD s l.ctx).root || decide (saveSize l.kd ≤ (ctxD s l.ctx).frames))
  let one := room && (List.range (ctxD s l.ctx).dies.length).any (fun vd =>
    (spotFor s0 usableEver { l with tr := { l.tr with aff := false } } 0 vd).isSome)
  if l.tr.gang ∧ (4096 < l.tr.ntask ∨ (placeGang s0 usableHeld false 0 l 0 ws).isNone) then 5
  else if !one then 7 else 0

/-- R453 steps 5 to 8: the declarations with their shapes, the gang and the capacity. -/
def judgeDecls (s : State) (c q : Nat) (tr : TaskRec) (kd : KDesc) (rs : List RawDecl) : Judge :=
  match readShapes s c rs with
  | (.wait t, _) => .wait t
  | (.bad t _, _) => .status t 6 none
  | (.ok t _ bad, shs) =>
    if bad then .status t 6 none else
    let ds := (rs.zip shs).map (fun p => { p.1.decl with shape := (p.2.map shapeOf).getD {} })
    if (rs.zip shs).any (fun p => declBad kd p.1 p.2) ∨ declsClash ds then .status t 4 none else
    let sh := shares tr.ntask (shareCounts t c)
    let l : Launch := { ctx := c, queue := q, tr := tr, kd := kd, decls := ds,
                        waiting := (List.range tr.ntask).map (fun k => { task := k, vd := shareDie sh k }) }
    match capacity t l with
    | 0 => .status t 0 (some l)
    | n => .status t n none

/-- R453: the checks of a record, in order. -/
def judge (s : State) (c q : Nat) (bs : List Byte) (bad : Bool) : Judge :=
  let tr := taskOf bs
  if bad then .status s 6 none else
  if taskBad bs then .status s 1 none else
  match (if tr.cont = 0 then some true else deviceQueue s c tr.cqueue) with
  | none => .wait s
  | some false => .status s 1 none
  | some true =>
    match kGet s c tr.kdesc 192 with
    | .wait t => .wait t
    | .bad t _ => .status t 6 none
    | .ok t kb kbad =>
      if kbad then .status t 6 none else
      let kd := kdescOf kb
      if kdescBad kb then .status t 2 none
      else if planBad kd tr.ndecl ∨ (ctxD t c).sbank < modeCount kd 2 then .status t 3 none
      else if tr.ndecl = 0 then judgeDecls t c q tr kd []
      else match kGet t c tr.dtab (32 * tr.ndecl) with
        | .wait u => .wait u
        | .bad u _ => .status u 6 none
        | .ok u db dbad => if dbad then .status u 6 none
          else judgeDecls u c q tr kd ((List.range tr.ndecl).map (fun k => declOf ((db.drop (32 * k)).take 32)))

/-! ### The examination of an entry (R449) -/

/-- R449: the accepted launches of a queue that still have blocks to place. -/
def pendingOf (s : State) (c q : Nat) : Nat :=
  (s.launches.filter (fun p => decide (p.2.ctx = c) && decide (p.2.queue = q) && !p.2.waiting.isEmpty)).length

/-- R449: a queue has an entry that may be read. -/
def qReady (s : State) (c q : Nat) : Bool :=
  qEnabled s c q && !(ctxD s c).qerr.contains q && decide (pendingOf s c q < 16) &&
  (match kWalk s c (hvaOf s c q) 64 .read with
    | .ok pas => let h := hdrOf (pas.map (Memory.rd s.mem)); !h.bad && decide (h.tail ≠ h.head)
    | .error _ => false)

/-- R449: the queue whose turn it is: round-robin in ascending number after the one examined last. -/
def nextQueue (s : State) (c : Nat) : Option Nat :=
  let qs := ((ctxD s c).qdesc.map (·.1)).filter (qReady s c)
  match qs.find? (fun q => decide ((ctxD s c).rrq < q)) with
  | some q => some q
  | none => qs.head?

/-- R433: the ticket whose handler task stood in an entry passes on when its record is refused. -/
def refuseHandler (s : State) (c q idx : Nat) : State :=
  match s.tickets.find? (fun p => decide (p.2.spot = some (c, q, idx))) with
  | some p => passTicket s p.1
  | none => s

/-- R449: the writes of STATUS and HEAD, and what the examination does once both are performed. -/
def concludeEntry (s : State) (c q : Nat) (h : QHdr) (st : Nat) (l : Option Launch) : State :=
  match kAcc s c ((h.entry h.head + 52) % 2 ^ 64) 4 .write, kAcc s c ((hvaOf s c q + 12) % 2 ^ 64) 4 .write with
  | .ok pa, .ok ha =>
    let s1 := gWrite (gWrite s c pa (natLe 4 st)) c ha (natLe 4 ((h.head + 1) % 2 ^ 32))
    let s2 := updCtx s1 c (fun x => { x with rrq := q })
    match l with
    | some l =>
      let s3 := { s2 with launches := mset s2.launches s2.nextId l, nextId := s2.nextId + 1 }
      { s3 with tickets := s3.tickets.map (fun p => if p.2.spot = some (c, q, h.head % h.size) then
          (p.1, { p.2 with spot := none }) else p) }
    | none => refuseHandler (schedErr s2 c) c q (h.head % h.size)
  | .wait t, _ => t
  | _, .wait t => t
  | _, _ => queueError s c q

/-- R449: the kennel die reads and examines the next entry of a queue. -/
def examineEntry (s : State) (c q : Nat) : State :=
  if nextQueue s c ≠ some q then s else
  match readHdr s c q with
  | .wait t => t
  | .none t => t
  | .ok t h =>
    match kGet t c (h.entry h.head) 64 with
    | .wait u => u
    | .bad u _ => u
    | .ok u bs bad =>
      match judge u c q bs bad with
      | .wait v => v
      | .status v n l => concludeEntry v c q h n l

/-- R449: QUEUE_ENTRY_EXAMINE. -/
def execQueueEntryExamine (ctx q : Nat) (s : State) : Out := ctxEvent ctx s (fun t => examineEntry t ctx q)

/-! ### Queue descriptors (R412, R447, R450) -/

/-- R392: the enabled queues of a context. -/
def queuesOn (x : Ctx) : Nat := (x.qdesc.filter (fun p => p.2.getLsbD 0)).length

/-- The children of a context number. -/
def childrenOf (s : State) (c : Nat) : List Nat :=
  (s.ctxs.filter (fun p => decide (p.2.st ≠ .free) && !p.2.root && decide (p.2.parent % 4096 = c) && decide (p.1 ≠ c))).map (·.1)

/-- A sum over the children of a context. -/
def sumKids (s : State) (c : Nat) (g : Ctx → Nat) : Nat := sumNat ((childrenOf s c).map (fun d => g (ctxD s d)))

/-- R392: the free QUEUES of a context. -/
def freeQueues (s : State) (c : Nat) : Nat := (ctxD s c).queues - queuesOn (ctxD s c) - sumKids s c (·.queues)

/-- R449, R450: ERR is cleared when the descriptor is enabled again, and the header's line watched. -/
def clearErr (s : State) (c q : Nat) : State :=
  watchHdr (oweErr (updCtx s c (fun x => { x with qerr := x.qerr.filter (· != q) })) c q false) c q

/-- R412, R447: the status of a write of QDESC. -/
def qdescStatus (s : State) (c q : Nat) (v : DWord) : Nat :=
  if v.toNat / 2 ^ 57 ≠ 0 ∨ v.toNat / 2 % 32 ≠ 0 then 4
  else if v.getLsbD 0 ∧ !qEnabled s c q ∧ freeQueues s c = 0 then 2 else 0

/-- R447, R450: a write of QDESC that is performed. -/
def writeQdesc (s : State) (c q : Nat) (v : DWord) : State :=
  if qdescStatus s c q v ≠ 0 then s else
  let t := updCtx s c (fun x => { x with qdesc := mset x.qdesc q v })
  if v.getLsbD 0 then clearErr t c q else t

/-- R450: QDESC_WRITE. -/
def execQdescWrite (ctx q : Nat) (v : DWord) (s : State) : Out := event s (fun t => writeQdesc t ctx q v)

/-! ### Aging (R454) -/

/-- R454, R458: 2 ms in uclk; 1 µs has 2400. -/
def agePeriod : Nat := 4800000

/-- R454: the level of a block that has waited for some uclk. -/
def agedLevel (base waited ceil : Nat) : Nat := min (base + waited / agePeriod) ceil

/-- R454: every waiting block of a schedulable context has waited for some uclk more. -/
def addWaits (s : State) (n : Nat) : State :=
  { s with
    launches := s.launches.map (fun p => if schedulable s p.2.ctx then
      (p.1, { p.2 with waiting := p.2.waiting.map (fun w => { w with waited := w.waited + n }) }) else p)
    blocks := s.blocks.map (fun p => if p.2.st = .saved ∧ schedulable s p.2.ctx then
      (p.1, { p.2 with waited := p.2.waited + n }) else p) }

/-- R454: the uclk for which a waiting block of a schedulable context has waited. -/
def waitedOf (s : State) (n task : Nat) : Option Nat :=
  let l := launchD s n
  let new := if (mget s.launches n).isSome ∧ schedulable s l.ctx then (l.waiting.find? (fun w => decide (w.task = task))).map (·.waited)
    else none
  new.orElse (fun _ => (s.blocks.find? (fun p => decide (p.2.launch = n) && decide (p.2.task = task) && decide (p.2.st = .saved) &&
    schedulable s p.2.ctx)).map (·.2.waited))

end Sys2Proof.Machine
end

