-- ==== Sys2Proof/Machine/Binning.lean ====
section
/-!
DEFINITION. Meanings of the binning instructions (R323 to R327) and the completion of operations of class B.
-/

namespace Sys2Proof.Machine

/-- R325: bytes of a core that a pen set may use: in SCRATCH mode, or in STASH mode outside every mapping and every handle
buffer that is not Free, in banks that the context holds there. -/
def penBytes (s : State) (c core off n : Nat) : Bool :=
  decide (off + n ≤ 0x100000) && (List.range n).all (fun k =>
    let bank := (off + k) / 0x4000
    s.blocks.any (fun p => decide (p.2.ctx = c) && holdsCore p.2 core && (planMode p.2 bank == 1 || (planMode p.2 bank == 2 &&
      (stashAt s core (off + k)).isNone && !s.blocks.any (fun q => meetsHandle q.2 core (off + k) 1)))))

/-- R325: the offset of a pen set in the executing core; none where the local-access trap is raised. -/
def penSet (s : State) (i : Issue) (a : Nat) : Option Nat :=
  match localAt (coreIs s i) a with
  | none => none
  | some (k, off) => if k = coreIs s i ∧ a % 64 = 0 ∧ penBytes s (ctxIs s i) k off 64 then some off else none

/-- R323: the fields of a pen-set header. -/
structure PenHead where
  npen : Nat
  ovf : Nat
  ovcap : Nat
  ovcnt : Nat
  lost : Nat
  bad : Bool
  deriving DecidableEq, Repr

/-- R323: a header as it stands in a core. -/
def penHead (s : State) (core off : Nat) : PenHead :=
  let x := leNat (lRead s core off 64)
  let n := bits x 31 0
  let ovf := bits x 127 64
  { npen := n, ovf := ovf, ovcap := bits x 159 128, ovcnt := bits x 191 160, lost := bits x 223 192,
    bad := decide (bits x 511 224 ≠ 0) || decide (bits x 63 32 ≠ 0) || decide (n = 0) || decide (1024 < n) ||
      decide (ovf % 8 ≠ 0) }

/-- R324: pen `k`'s entry offset. -/
def penAt (off k : Nat) : Nat := off + 64 + 8 * k

/-- A store of a number of `n` bytes that the binning path makes in its core. -/
def penStore (s : State) (core off n x : Nat) : State := putLocal s (sramKey core off) (natLe n x) []

/-- A binning operation as it runs: the state, the keys dropped, the overflow fault that holds it, and whether a poisoned
header or entry was read. -/
structure BinRun where
  s : State
  drops : Nat := 0
  fault : Option (Nat × Xl) := none
  poison : Bool := false

/-- R326: one key of a binning operation. -/
def binKey (o : Op) (w : BinRun) (x : Elem) : BinRun :=
  if w.fault.isSome ∨ w.poison then w else
  let s := w.s
  let core := o.core
  let h := penHead s core o.x
  let ea := penAt o.x x.val
  if h.bad ∨ dropped x.val h.npen ∨ !penBytes s o.ctx core ea 8 then { w with drops := w.drops + 1 } else
  if lPoison s core ea 8 then { w with poison := true } else
  let ent := leNat (lRead s core ea 8)
  let n := bits ent 31 0
  let s1 := penStore s core ea 4 (min (n + 1) 0xFFFFFFFF)
  if o.code = 0 then { w with s := s1 } else
  let slot := o.x + 16 * bits ent 47 32 + 4 * n
  if n < bits ent 63 48 ∧ penBytes s o.ctx core slot 4 then
    (if lPoison s core slot 4 then
      { w with s := noteError s1 { cls := 2, unit := 2, action := 0, loc := locCore core (slot / 0x4000 % 64),
                                   ctx := ctxName s o.ctx, addr := 0 } }
     else { w with s := penStore s1 core slot 4 x.val2 })
  else if h.ovf ≠ 0 ∧ h.ovcnt < h.ovcap then
    let va := (h.ovf + 8 * h.ovcnt) % 2 ^ 64
    match (if badGlobal 8 8 va then .error (va, .fault 0x01 1 4) else xlateAll (fun a => xlateShape s o.ctx core a .write) (spanOf va 8)) with
    | .error f => { w with fault := some f }
    | .ok pas => { w with s := penStore (gWrite s1 o.ctx pas (natLe 4 x.val ++ natLe 4 x.val2)) core (o.x + 20) 4 (h.ovcnt + 1) }
  else { w with s := penStore s1 core (o.x + 24) 4 ((h.lost + 1) % 2 ^ 32) }

/-- R326: a BINC or BINS as a whole. -/
def binRun (s : State) (o : Op) : BinRun :=
  if lPoison s o.core o.x 64 then { s := s, poison := true } else o.elems.foldl (binKey o) { s := s }

/-- R326, R430, R492: a binning operation is performed and completes in issue order; an overflow fault holds it with nothing
done; a poisoned header or entry ends the context. -/
def binComplete (s : State) (id : Nat) : State :=
  match mget s.ops id with
  | none => s
  | some o =>
    if o.cls ≠ 5 ∨ !isOldest s id o ∨ o.fault.isSome then s else
    let w := binRun s o
    match w.fault with
    | some f => holdOp s id o .write f
    | none =>
      if w.poison then finishOp (consumePoison s o.blk 2 o.x) id
      else finishOp (addDrops w.s o.blk o.slot o.fib w.drops) id

/-- R326: BINNING_COMPLETE. -/
def execBinningComplete (op : Nat) (s : State) : Out := event s (fun t => binComplete t op)

/-- R325, R326: BINC and BINS: an operation of class B. -/
def binOp (r : Raw) (item : Bool) (s : State) : Out :=
  laneInsn r s (fun e t =>
    let start (off : Nat) : State × After :=
      if ctrFull t e.i 5 then (t, .stay) else
      (startOp t e.i 5 .bin (fun o => { o with code := if item then 1 else 0, x := off, elems := e.act.map (fun l =>
        { lane := l, val := (wd e.b 0 l).toNat, val2 := (wd e.d 0 l).toNat }) }), .advance)
    if e.act.isEmpty then start 0 else
    match penSet t e.i (wd e.a 0 e.low).toNat with
    | none => trapAll t e 0x03 0 (addrField (wd e.a 0 e.low).toNat)
    | some off => start off)

/-- R326: BINC. -/
def execBinc (r : R3) (s : State) : Out := binOp (r.raw 0x64#7 0#3) false s
/-- R326: BINS. -/
def execBins (r : R3) (s : State) : Out := binOp (r.raw 0x64#7 1#3) true s

/-- R327: the reset of a pen set: every COUNT, OVCNT and LOST; a malformed header has only OVCNT and LOST reset. -/
def penReset (s : State) (c core off : Nat) : State :=
  let h := penHead s core off
  let s1 := penStore s core (off + 20) 8 0
  if h.bad then s1 else
  (List.range h.npen).foldl (fun t k => if penBytes t c core (penAt off k) 8 then penStore t core (penAt off k) 4 0 else t) s1

/-- R327: BINR. -/
def execBinr (r : R3) (s : State) : Out :=
  let w := r.raw 0x64#7 2#3
  perIssueOp w s (fun e t =>
    let a := (wd e.a 0 e.low).toNat
    match penSet t e.i a with
    | none => trapAll t e 0x03 0 (addrField a)
    | some off =>
      if (fibIs t e.i).ctrs.getD 5 0 ≠ 0 then waitRetry e t else
      let core := coreIs t e.i
      let bad := lPoison t core off 64
      let t1 := if bad then consumePoison t e.i.blk 2 off else t
      if bad ∧ endsByPoison t e.i.blk then (t1, .stay) else
      let n := (penHead t core off).ovcnt
      (wrAll w e (BitVec.ofNat 32 n) (penReset t1 (ctxIs t e.i) core off), .advance))

end Sys2Proof.Machine
end

