-- ==== Sys2Proof/Machine/Fetch.lean ====
section
/-!
DEFINITION. Instruction fetch (R144 to R147): parcels, new or as they stood before a store, the number of parcels of an
instruction, and the words that a trap record shows (R431).
-/

namespace Sys2Proof.Machine

/-- R147, R410: the contexts, by name, whose fetches of a kind may still return an old parcel. -/
def oldFor (x : OldParcel) : FetchBy → List Nat
  | .lane => x.lanes
  | .mstream => x.ms
  | .dict => x.dicts

/-- R147, R410: the bits that a context's fetch of a parcel may still return beside the newest ones. -/
def oldParcels (s : State) (c pa : Nat) (k : FetchBy) (new : Parcel16) : List Parcel16 :=
  (s.icache.filter (fun x => decide (x.pa = pa) && decide (x.old ≠ new) && (oldFor x k).contains (ctxName s c))).map (·.old)

/-- R147, R410: the fetches of some kinds by some contexts no longer return an old parcel: `gone` says whose. One that no fetch may
return is kept no longer. -/
def dropOlds (l : List OldParcel) (gone : OldParcel → FetchBy → Nat → Bool) : List OldParcel :=
  (l.map (fun x => { x with
    lanes := x.lanes.filter (fun n => !gone x .lane n), ms := x.ms.filter (fun n => !gone x .mstream n)
    dicts := x.dicts.filter (fun n => !gone x .dict n) })).filter (fun x => !(x.lanes.isEmpty && x.ms.isEmpty && x.dicts.isEmpty))

/-- R147: a fetch of one parcel for a core: the newest one or an older one, whichever comes. -/
def fetchParcel (s : State) (core c va : Nat) (kind : FetchBy) : Except (Nat × Xl) (State × Parcel16) :=
  match xlate s c core va .fetch with
  | .ok pa =>
    let s1 := recalls s none false [pa]
    let new : Parcel16 := Memory.rd s1.mem (pa + 1) ++ Memory.rd s1.mem pa
    match oldParcels s c pa kind new with
    | [] => .ok (s1, new)
    | olds => .ok (s1, (new :: olds).getD (pick s pa 0 (olds.length + 1)) new)
  | f => .error (va, f)

/-- A fetch of parcels at successive addresses. -/
def fetchParcels (s : State) (core c va n : Nat) (kind : FetchBy) : Except (Nat × Xl) (State × List Parcel16) :=
  match n with
  | 0 => .ok (s, [])
  | k + 1 =>
    match fetchParcel s core c va kind with
    | .error e => .error e
    | .ok (s1, p) =>
      match fetchParcels s1 core c ((va + 2) % 2 ^ 64) k kind with
      | .error e => .error e
      | .ok (s2, ps) => .ok (s2, p :: ps)

/-- R145: the parcels of the instruction that a first parcel begins; 1 where it has no length. -/
def parcelCount (p : Parcel16) : Nat :=
  if p.extractLsb' 14 2 = 0b10#2 then 1 else
  match Forms.opInfo (p.extractLsb' 9 7).toNat with
  | none => 1
  | some (.one, _) => 2
  | some _ => 4

/-- R145: a fetch of an instruction: its first parcel, then the others that its length asks for; the pages that the core's TLB misses
count (R477). -/
def fetchCode (s : State) (core c va : Nat) (kind : FetchBy) : Except (Nat × Xl) (State × List Parcel16) :=
  match fetchParcel s core c va kind with
  | .error e => .error e
  | .ok (s1, p) =>
    match fetchParcels s1 core c ((va + 2) % 2 ^ 64) (parcelCount p - 1) kind with
    | .error e => .error e
    | .ok (s2, ps) => .ok (seekTlb s2 c core .fetch (spanOf va (2 * parcelCount p)), p :: ps)

/-- A parcel of a fetched instruction; 0 beyond its end. -/
def par (ps : List Parcel16) (k : Nat) : Parcel16 := ps.getD k 0

/-- R431: INSN and EXT of fetched parcels. A lone parcel with a reserved major opcode stands in the upper half of INSN; BRK16, a parcel
with a bad SUB and one that names an empty entry stand in EXT beside an INSN of 0: the model's choices (log entry 64). -/
def recordWords (ps : List Parcel16) : Word × Word :=
  if (par ps 0).extractLsb' 14 2 = 0b10#2 then (0, (par ps 0).setWidth 32)
  else (par ps 0 ++ par ps 1, par ps 2 ++ par ps 3)

/-- R41, R147: lanes whose fetch finds no translation park at their address. -/
def parkFetch (s : State) (b k f : Nat) (ls : List Nat) (e : Nat × Xl) : State :=
  match e.2 with
  | .fault cause stage level =>
    let i := mkFault s (blkD s b).ctx .fetch 3 e.1 cause stage level
    updFib s b k f (fun x => updLanes x ls (fun _ y => { y with st := .parked (.fault i) }))
  | _ => s

end Sys2Proof.Machine
end

