-- ==== Sys2Proof/Machine/Lanes.lean ====
section
/-!
DEFINITION. Meanings of the lane operations (R194 to R198): shuffles, votes, masks, special registers, reductions and scans.
-/

namespace Sys2Proof.Machine

/-- R194: the source position of a lane; none where it falls outside 0 to 31. -/
def shflFrom (f l k : Nat) : Option Nat :=
  match f with
  | 0 => some k
  | 1 => if k ≤ l then some (l - k) else none
  | 2 => if l + k ≤ 31 then some (l + k) else none
  | _ => some (l ^^^ k)

/-- R194: the distance or index of a lane. -/
def shflAmount (imm : Nat) (e : Env) (l : Nat) : Nat := if imm.testBit 12 then (wd e.b 0 l).toNat % 32 else imm % 32

/-- R194, R40: the result of a shuffle in a lane. -/
def shflWord (f imm : Nat) (live : List Nat) (e : Env) (l : Nat) : Word :=
  match shflFrom f l (shflAmount imm e l) with
  | none => if imm.testBit 11 then wd e.c 0 l else wd e.a 0 l
  | some j => if e.act.contains j ∨ live.contains j then wd e.a 0 j else 0

/-- R194: a word of another lane. The result is not poisoned, and no trap is taken, where that lane is inactive and its word is poisoned:
R63 and R194 do not say, and this is the model's choice (log entry 62). -/
def execShfl (r : RXF) (s : State) : Out :=
  laneInsn (r.raw 0x22#7) s (fun e t =>
    (wrD (r.raw 0x22#7) e 0 (shflWord r.f.toNat r.x.imm.toNat (m0 (fibIs s e.i)) e) t, .advance))

/-- R195: 1 if a ≠ 0 in every active lane. -/
def execVoteall (r : R3) (s : State) : Out :=
  aluOp (r.raw 0x23#7 0#3) s (fun e _ => flag (e.act.all (fun l => holds (wd e.a 0 l))))
/-- R195: 1 if a ≠ 0 in some active lane. -/
def execVoteany (r : R3) (s : State) : Out :=
  aluOp (r.raw 0x23#7 1#3) s (fun e _ => flag (e.act.any (fun l => holds (wd e.a 0 l))))
/-- R195: 1 if a is the same word in every active lane. -/
def execVoteuni (r : R3) (s : State) : Out :=
  aluOp (r.raw 0x23#7 2#3) s (fun e _ => flag (e.act.all (fun l => wd e.a 0 l == wd e.a 0 (lowest e.act))))
/-- R195: the mask of active lanes with a ≠ 0. -/
def execBallot (r : R3) (s : State) : Out :=
  aluOp (r.raw 0x23#7 3#3) s (fun e _ => BitVec.ofNat 32 (maskOf (e.act.filter (fun l => holds (wd e.a 0 l)))))

/-- R195: the match word of a lane: the leader, the count and the rank among equal keys. -/
def matchWord (e : Env) (l : Nat) : Word :=
  let same := e.act.filter (fun j => wd e.a 0 j == wd e.a 0 l)
  BitVec.ofNat 32 (lowest same + 256 * same.length + 65536 * (same.filter (fun j => decide (j < l))).length)

/-- R195: MATCH. -/
def execMatchw (r : R3) (s : State) : Out := aluOp (r.raw 0x23#7 4#3) s matchWord

/-- R195, R64: the word of a mask. -/
def execMread (r : R3) (s : State) : Out :=
  aluOp (r.raw 0x23#7 5#3) s (fun e _ => BitVec.ofNat 32 (maskOf (maskLanes (fibIs s e.i) r.a.toNat)))

/-- R206, R207: a mask of the issuing fibre takes a new set of lanes. -/
def setMask (s : State) (i : Issue) (k : Nat) (ls : List Nat) : State :=
  updIs s i (fun x => { x with masks := x.masks.set k (BitVec.ofNat 32 (maskOf ls)) })

/-- R195: a mask takes the word of the lowest active lane. -/
def execMwrite (r : R3) (s : State) : Out :=
  laneInsn (r.raw 0x23#7 6#3) s (fun e t =>
    (updIs t e.i (fun x => { x with masks := x.masks.set r.d.toNat (wd e.a 0 (lowest e.act)) }), .advance))

/-- R66: a special register as a lane of the issue reads it. -/
def specialReg (s : State) (i : Issue) (idx l : Nat) : Nat :=
  let b := blkD s i.blk
  let k := slotD s i.blk i.slot
  let x := fibIs s i
  match idx with
  | 0x00 => l
  | 0x01 => i.fib
  | 0x02 => i.slot
  | 0x03 => coreIs s i % 4
  | 0x04 => b.quad
  | 0x05 => vdOf s b.ctx b.die
  | 0x06 => b.task
  | 0x07 => (launchD s b.launch).tr.ntask
  | 0x08 => b.slots.length
  | 0x09 => x.wb
  | 0x0A => b.ctx
  | 0x0B => (ctxD s b.ctx).depth
  | 0x0C => b.level
  | 0x0D => x.seed.toNat
  | 0x0E => x.gen.toNat
  | 0x0F => x.nlane
  | 0x10 => s.clk
  | 0x12 => s.uclk
  | 0x14 => x.icount
  | 0x16 => k.spbank
  | 0x17 => k.spl2
  | 0x18 => k.refill
  | 0x19 => physChunks k
  | 0x1A => k.poisons
  | 0x1C => b.kd.data
  | _ => 0

/-- R196: the low 32 bits of a special register. -/
def execSrd (r : R3) (s : State) : Out :=
  aluOp (r.raw 0x24#7 0#3) s (fun e l => BitVec.ofNat 32 (specialReg s e.i r.a.toNat l))
/-- R196: a special register as a pair, zero-extended. -/
def execSrd64 (r : R3) (s : State) : Out :=
  aluOp2 (r.raw 0x24#7 1#3) s (fun e l => BitVec.ofNat 64 (specialReg s e.i r.a.toNat l))

/-- R197: a combination of a over the active lanes. -/
def reduce (e : Env) (g : Word → Word → Word) : Word :=
  match e.act with
  | [] => 0
  | l :: ls => ls.foldl (fun a j => g a (wd e.a 0 j)) (wd e.a 0 l)

/-- R197: the sum modulo 2^32. -/
def execRedadd (r : R3) (s : State) : Out := aluOp (r.raw 0x25#7 0#3) s (fun e _ => reduce e (· + ·))
/-- R197: the least signed word. -/
def execRedmin (r : R3) (s : State) : Out :=
  aluOp (r.raw 0x25#7 1#3) s (fun e _ => reduce e (fun a b => if a.toInt ≤ b.toInt then a else b))
/-- R197: the greatest signed word. -/
def execRedmax (r : R3) (s : State) : Out :=
  aluOp (r.raw 0x25#7 2#3) s (fun e _ => reduce e (fun a b => if a.toInt ≤ b.toInt then b else a))
/-- R197: the least unsigned word. -/
def execRedminn (r : R3) (s : State) : Out :=
  aluOp (r.raw 0x25#7 3#3) s (fun e _ => reduce e (fun a b => if a.toNat ≤ b.toNat then a else b))
/-- R197: the greatest unsigned word. -/
def execRedmaxn (r : R3) (s : State) : Out :=
  aluOp (r.raw 0x25#7 4#3) s (fun e _ => reduce e (fun a b => if a.toNat ≤ b.toNat then b else a))
/-- R197: the bitwise and. -/
def execRedand (r : R3) (s : State) : Out := aluOp (r.raw 0x25#7 5#3) s (fun e _ => reduce e (· &&& ·))
/-- R197: the bitwise or. -/
def execRedor (r : R3) (s : State) : Out := aluOp (r.raw 0x25#7 6#3) s (fun e _ => reduce e (· ||| ·))
/-- R197: the bitwise xor. -/
def execRedxor (r : R3) (s : State) : Out := aluOp (r.raw 0x25#7 7#3) s (fun e _ => reduce e (· ^^^ ·))

/-- R198: the sum of a over some active lanes. -/
def sumLanes (e : Env) (p : Nat → Bool) : Word := (e.act.filter p).foldl (fun a l => a + wd e.a 0 l) 0

/-- R198: an active lane is a segment head. -/
def isHead (e : Env) (l : Nat) : Bool := holds (wd e.b 0 l) || decide (l = lowest e.act)

/-- R198: the head of a lane's segment: the highest head at or below it. -/
def headOf (e : Env) (l : Nat) : Nat :=
  (e.act.filter (fun j => decide (j ≤ l) && isHead e j)).foldl (fun _ j => j) 0

/-- R198: the sum over the lane's segment. -/
def execSegadd (r : R3) (s : State) : Out :=
  aluOp (r.raw 0x26#7 0#3) s (fun e l => sumLanes e (fun j => headOf e j == headOf e l))
/-- R198: the sum over the lanes of the segment numbered at most the lane. -/
def execSegaddi (r : R3) (s : State) : Out :=
  aluOp (r.raw 0x26#7 1#3) s (fun e l => sumLanes e (fun j => headOf e j == headOf e l && decide (j ≤ l)))
/-- R198: the sum over active lanes below the lane. -/
def execScanadd (r : R3) (s : State) : Out := aluOp (r.raw 0x26#7 2#3) s (fun e l => sumLanes e (fun j => decide (j < l)))
/-- R198: the sum over active lanes at most the lane. -/
def execScanaddi (r : R3) (s : State) : Out := aluOp (r.raw 0x26#7 3#3) s (fun e l => sumLanes e (fun j => decide (j ≤ l)))

end Sys2Proof.Machine
end

