-- ==== Sys2Proof/Machine/Control.lean ====
section
/-!
DEFINITION. Meanings of branches and calls (R199 to R205), reconvergence (R206 to R208), barriers (R209 to R213), windows and
fibres (R215 to R220), virtual dies (R225) and the software traps (R226, R158).
-/

namespace Sys2Proof.Machine

/-! ### Branches (R199) -/

/-- R146: the target of a branch offset. -/
def branchTarget (i : Issue) (imm : Word) : DWord := i.pc + (imm.signExtend 64 <<< 1)

/-- Some lanes of the issue take new program counters. -/
def jump (s : State) (i : Issue) (ls : List Nat) (t : Nat → DWord) : State :=
  updIs s i (fun x => updLanes x ls (fun l y => y.goto (t l) 0))

/-- R199: BRA. -/
def execBra (r : RI) (s : State) : Out :=
  laneInsn (r.raw 0x38#7 0#3) s (fun e t => (jump t e.i e.act (fun _ => branchTarget e.i r.imm), .jumped))
/-- R199: BNZ. -/
def execBnz (r : RI) (s : State) : Out :=
  laneInsn (r.raw 0x38#7 1#3) s (fun e t =>
    (jump t e.i e.act (fun l => if holds (wd e.a 0 l) then branchTarget e.i r.imm else e.i.next), .jumped))
/-- R199: BZ. -/
def execBz (r : RI) (s : State) : Out :=
  laneInsn (r.raw 0x38#7 2#3) s (fun e t =>
    (jump t e.i e.act (fun l => if holds (wd e.a 0 l) then e.i.next else branchTarget e.i r.imm), .jumped))

/-- R202: the budget check of a call. -/
def callBroken (x : Fibre) (f : Nat) : Bool := decide (depthOf x = 63) || decide (896 < x.wb + f)

/-- R202: the lanes of a call enter it. -/
def enterCall (e : Env) (t : State) (ls : List Nat) (f : Nat) (target : DWord) : State :=
  let link : DWord := e.i.pc + 8
  let w := e.wb + f
  let put (u : State) (name : Nat) (v : Word) : State :=
    writeArch u e.i.blk e.i.slot e.i.fib (archReg w name) e.lat ls (fun _ => v)
  let t1 := put (put t 110 (link.extractLsb' 0 32)) 111 (link.extractLsb' 32 32)
  updIs t1 e.i (fun x => updLanes { x with wstack := x.wb :: x.wstack, wb := w } ls
    (fun _ y => { y with depth := y.depth + 1, st := .issuable }.goto target 0))

/-- R202: CALL. -/
def execCall (r : RI) (s : State) : Out :=
  laneInsn (r.raw 0x38#7 3#3) s (fun e t =>
    let f := 8 * r.d.toNat
    if callBroken (fibIs t e.i) f then (trapFibre t e.i 0x05 2 e.act [], .stay)
    else (enterCall e t e.act f (branchTarget e.i r.imm), .jumped))

/-- R199: the offset of a lane's jump-table entry in the section. -/
def entryOff (imm : Word) (e : Env) (l : Nat) : Nat := imm.toNat + 8 * (wd e.a 0 l).toNat

/-- A jump-table entry: the code parcel index of bytes 3:0, the budget of bytes 5:4, and bytes 7:6, which must be 0 (R172). -/
structure JEntry where
  index : Nat
  budget : Nat
  rsvd : Nat
  deriving DecidableEq, Repr

/-- R172, R199: an entry as it is fetched, in the layout of R172. -/
def readEntry (s : State) (i : Issue) (off : Nat) : Except (Nat × Xl) (State × JEntry) :=
  let a := ((blkD s i.blk).kd.jtab + off) % 2 ^ 64
  match fetchParcels s (coreIs s i) (ctxIs s i) a 4 .lane with
  | .ok (t, ps) =>
    .ok (seekTlb t (ctxIs s i) (coreIs s i) .fetch (spanOf a 8), { index := (par ps 0).toNat + 65536 * (par ps 1).toNat, budget := (par ps 2).toNat, rsvd := (par ps 3).toNat })
  | .error f => .error f

/-- R172, R200: an entry that raises the jump-table trap: its index beyond the code, its reserved bytes not 0, or for CALLX a budget
that is no multiple of 8 from 8 to 112. -/
def badEntry (kd : KDesc) (x : Bool) (j : JEntry) : Bool :=
  decide (kd.codelen ≤ j.index) || decide (j.rsvd ≠ 0) ||
  (x && (decide (j.budget % 8 ≠ 0) || decide (j.budget < 8) || decide (112 < j.budget)))

/-- What the active lanes of BRX or CALLX read: entries, and faults that park. -/
structure JMet where
  got : List (Nat × JEntry) := []
  bad : List (Nat × FaultInfo) := []
  stall : Bool := false

/-- The entries of the active lanes, in ascending order. -/
def readEntries (s : State) (e : Env) (imm : Word) : State × JMet :=
  e.act.foldl (fun p l =>
    match readEntry p.1 e.i (entryOff imm e l) with
    | .ok (t, j) => (t, { p.2 with got := p.2.got ++ [(l, j)] })
    | .error (va, .fault c st lv) =>
      (p.1, { p.2 with bad := p.2.bad ++ [(l, { mkFault p.1 (ctxIs p.1 e.i) .fetch 3 va c st lv with
        insn := e.i.insn, ext := e.i.ext })] })
    | .error _ => (p.1, { p.2 with stall := true })) (s, {})

/-- R200: the trap of BRX and CALLX, before any effect. -/
def jumpTrap (t : State) (e : Env) (ls : List Nat) : State × After := (trapFibre t e.i 0x06 0 ls [], .stay)

/-- R199, R200: BRX and CALLX up to their entries: the traps of R200, else the effect on the lanes that have read one. Of several lanes
whose entries offend, the record names the first alone: the model's choice (log entry 64). -/
def withEntries (e : Env) (t : State) (x : Bool) (imm : Word)
    (eff : State → List (Nat × JEntry) → List (Nat × FaultInfo) → State × After) : State × After :=
  let kd := (blkD t e.i.blk).kd
  if imm.toNat % 8 ≠ 0 then jumpTrap t e e.act else
  match e.act.find? (fun l => decide (kd.jtlen < entryOff imm e l + 8)) with
  | some l => jumpTrap t e [l]
  | none =>
    let (t1, m) := readEntries t e imm
    match m.got.find? (fun p => badEntry kd x p.2) with
    | some p => jumpTrap t e [p.1]
    | none => if m.stall then (t, .stay) else eff t1 m.got m.bad

/-- R199: the target of an entry. -/
def entryTarget (kd : KDesc) (j : JEntry) : DWord := BitVec.ofNat 64 (kd.code + 2 * j.index)

/-- Lanes park at the jump-table entries that they could not read. -/
def parkEntries (s : State) (i : Issue) (bad : List (Nat × FaultInfo)) : State :=
  bad.foldl (fun t p => parkLanes t i [p.1] (fun _ => .fault p.2)) s

/-- R199: BRX. -/
def execBrx (r : RI) (s : State) : Out :=
  laneInsn (r.raw 0x38#7 4#3) s (fun e t => withEntries e t false r.imm (fun u got bad =>
    let kd := (blkD u e.i.blk).kd
    let u1 := got.foldl (fun v p => jump v e.i [p.1] (fun _ => entryTarget kd p.2)) u
    (parkEntries u1 e.i bad, if bad.isEmpty then .jumped else .split)))

/-- R203: CALLX. -/
def execCallx (r : RI) (s : State) : Out :=
  laneInsn (r.raw 0x38#7 5#3) s (fun e t =>
    let f := 8 * r.d.toNat
    if callBroken (fibIs t e.i) f then (trapFibre t e.i 0x05 2 e.act [], .stay) else
    withEntries e t true r.imm (fun u got bad =>
      let kd := (blkD u e.i.blk).kd
      let u1 := parkEntries u e.i bad
      let dear := (got.filter (fun p => decide (f < p.2.budget))).map (·.1)
      let u2 := parkLanes u1 e.i dear (fun _ => .budget e.i.insn e.i.ext)
      let rest := got.filter (fun p => decide (p.2.budget ≤ f))
      match rest with
      | [] => (u2, .split)
      | (_, j) :: _ =>
        let ls := (rest.filter (fun p => decide (p.2.index = j.index))).map (·.1)
        (enterCall e u2 ls f (entryTarget kd j), if bad.isEmpty && dear.isEmpty then .jumped else .split)))

/-- R204: RET. -/
def execRet (r : R3) (s : State) : Out :=
  laneInsn (r.raw 0x36#7 0#3) s (fun e t =>
    if depthOf (fibIs t e.i) = 0 then (trapFibre t e.i 0x05 4 e.act [], .stay) else
    let lo := readArch t e.i.blk e.i.slot (archReg e.wb 110)
    let hi := readArch t e.i.blk e.i.slot (archReg e.wb 111)
    (updIs t e.i (fun x => settleDepth (updLanes x e.act (fun l y =>
      { y with depth := y.depth - 1 }.goto (hi.getD l 0 ++ lo.getD l 0) 0))), .jumped))

/-- R205: EXIT. -/
def execExit (r : R3) (s : State) : Out :=
  laneInsn (r.raw 0x36#7 1#3) s (fun e t => (updIs t e.i (fun x => exitLanes x e.act), .jumped))

/-! ### Reconvergence (R206 to R208) -/

/-- R206: mask D takes a set of lanes. -/
def maskOp (r : Raw) (s : State) (g : Fibre → Env → List Nat) : Out :=
  laneInsn r s (fun e t => (setMask t e.i r.d.toNat (g (fibIs t e.i) e), .advance))

/-- R206: JOIN. -/
def execJoin (r : R3) (s : State) : Out :=
  maskOp (r.raw 0x39#7 0#3) s (fun x e => maskLanes x r.d.toNat ++ e.act)
/-- R206: LEAVE. -/
def execLeave (r : R3) (s : State) : Out :=
  maskOp (r.raw 0x39#7 1#3) s (fun x e => (maskLanes x r.d.toNat).filter (fun l => !e.act.contains l))
/-- R207: WAITM. -/
def execWaitm (r : R3) (s : State) : Out :=
  laneInsn (r.raw 0x39#7 2#3) s (fun e t =>
    (updIs t e.i (fun x => updLanes x e.act (fun _ y => { y with st := .held (.waitm r.a.toNat) e.i.next })), .jumped))
/-- R206: MSET. -/
def execMset (r : R3) (s : State) : Out := maskOp (r.raw 0x39#7 3#3) s (fun _ e => e.act)
/-- R206: MAND. -/
def execMand (r : R3) (s : State) : Out :=
  maskOp (r.raw 0x39#7 4#3) s (fun x _ => (maskLanes x r.a.toNat).filter (fun l => (maskLanes x r.b.toNat).contains l))
/-- R206: MOR. -/
def execMor (r : R3) (s : State) : Out :=
  maskOp (r.raw 0x39#7 5#3) s (fun x _ => maskLanes x r.a.toNat ++ maskLanes x r.b.toNat)
/-- R206: MCLR. -/
def execMclr (r : R3) (s : State) : Out := maskOp (r.raw 0x39#7 6#3) s (fun _ _ => [])
/-- R206: MNOT. -/
def execMnot (r : R3) (s : State) : Out :=
  maskOp (r.raw 0x39#7 7#3) s (fun x _ => (m0 x).filter (fun l => !(maskLanes x r.a.toNat).contains l))

/-- R208, R39: the active lanes take a meeting address. -/
def setMeet (r : Raw) (s : State) (g : Issue → DWord) : Out :=
  laneInsn r s (fun e t => (updIs t e.i (fun x => updLanes x e.act (fun _ y => { y with meet := g e.i })), .advance))

/-- R208: MEET. -/
def execMeet (r : RI) (s : State) : Out := setMeet (r.raw 0x3A#7 0#3) s (fun i => branchTarget i r.imm)
/-- R208: MEETCLR. -/
def execMeetclr (r : RI) (s : State) : Out := setMeet (r.raw 0x3A#7 1#3) s (fun _ => 0)

/-! ### Barriers (R209 to R213, R219) -/

/-- R209, R29: the block has no such barrier. -/
def noBarrier (s : State) (i : Issue) (n : Nat) : Bool :=
  let b := blkD s i.blk
  if n < 16 ∨ n = 32 then false
  else if n < 32 then b.seqr.isNone
  else !((launchD s b.launch).tr.gang || b.kd.quadRes)

/-- R65: an arrival at a matrix barrier would raise counter M from 63. -/
def mFull (s : State) (i : Issue) (n : Nat) : Bool :=
  decide (16 ≤ n ∧ n < 32) && decide ((seqD s i.blk).st ≠ .ended) && decide (63 ≤ (fibIs s i).ctrs.getD 1 0)

/-- R210: the issuing lanes are held for an arrival at a barrier; the barrier-scope trap comes first, then the stall of R65. -/
def arriveAt (r : Raw) (s : State) (n : Nat) (sync : Bool) : Out :=
  laneInsn r s (fun e t =>
    if noBarrier t e.i n then (trapFibre t e.i 0x04 0 e.act [], .stay) else
    if mFull t e.i n then (t, .stay) else
    (updIs t e.i (fun x => updLanes x e.act (fun _ y => { y with st := .held (.arrive n sync) e.i.next })), .jumped))

/-- R211, R212: whether a BARWAIT of a fibre would complete at once. -/
def barOpen (s : State) (i : Issue) (n : Nat) : Bool :=
  let x := fibIs s i
  if n < 16 then
    match x.pend.getD n none with
    | none => true
    | some p => decide (p < ((blkD s i.blk).bars.getD n {}).phase)
  else decide (x.mwaits.getD (n - 16) 0 < (seqD s i.blk).marv.getD (n - 16) 0)

/-- R211, R212: BARARV. -/
def execBararv (r : R3) (s : State) : Out := arriveAt (r.raw 0x3B#7 0#3) s r.a.toNat false
/-- R211, R212: BARSYNC. -/
def execBarsync (r : R3) (s : State) : Out := arriveAt (r.raw 0x3B#7 2#3) s r.a.toNat true
/-- R211, R212: BARWAIT. -/
def execBarwait (r : R3) (s : State) : Out :=
  let n := r.a.toNat
  laneInsn (r.raw 0x3B#7 1#3) s (fun e t =>
    if noBarrier t e.i n then (trapFibre t e.i 0x04 0 e.act [], .stay) else
    if barOpen t e.i n then
      (updIs t e.i (fun x => if n < 16 then { x with pend := x.pend.set n none }
        else { x with mwaits := x.mwaits.modify (n - 16) (· + 1) }), .advance)
    else
      (updIs t e.i (fun x => updLanes x e.act (fun _ y =>
        { y with st := .held (.phase n ((x.pend.getD n none).getD 0)) e.i.next })), .jumped))
/-- R211, R212: BARTRY. -/
def execBartry (r : R3) (s : State) : Out :=
  laneInsn (r.raw 0x3B#7 3#3) s (fun e t =>
    if noBarrier t e.i r.a.toNat then (trapFibre t e.i 0x04 0 e.act [], .stay)
    else (wrD (r.raw 0x3B#7 3#3) e 0 (fun _ => flag (barOpen t e.i r.a.toNat)) t, .advance))
/-- R213: QBAR. -/
def execQbar (r : R3) (s : State) : Out := arriveAt (r.raw 0x3B#7 4#3) s 33 false
/-- R213: DBAR. -/
def execDbar (r : R3) (s : State) : Out := arriveAt (r.raw 0x3B#7 5#3) s 34 false
/-- R213: PBAR. -/
def execPbar (r : R3) (s : State) : Out := arriveAt (r.raw 0x3B#7 6#3) s 35 false
/-- R219: FBAR. -/
def execFbar (r : R3) (s : State) : Out := arriveAt (r.raw 0x3D#7 4#3) s 32 false

/-! ### Windows and fibres (R215 to R220) -/

/-- R55: the registers that a fibre's window covers. -/
def covers (x : Fibre) (a : Nat) : Bool :=
  (decide (x.st = .live) || decide (x.st = .frozen)) && decide (x.wb ≤ a ∧ a ≤ x.wb + 111)

/-- R55: the registers that die when a fibre lowers its window base. -/
def leftBehind (s : State) (i : Issue) (new old : Nat) : List Nat :=
  ((List.range (old - new)).map (fun k => new + 112 + k)).filter (fun a =>
    (List.range 4).all (fun f => decide (f = i.fib) || !covers (fibD s i.blk i.slot f) a))

/-- R215, R55, R227: WIN; a result in flight still reaches a register that it leaves behind. -/
def execWin (r : R3) (s : State) : Out :=
  laneInsn (r.raw 0x3D#7 0#3) s (fun e t =>
    if 112 < r.d.toNat then (trapFibre t e.i 0x05 1 e.act [], .stay) else
    let new := 8 * r.d.toNat
    (updIs (fadeArch t e.i.blk e.i.slot (leftBehind t e.i new e.wb)) e.i (fun x => { x with wb := new }), .advance))

/-- R216: FYIELD, a switch point whether or not bit S is set. -/
def execFyield (r : R3) (s : State) : Out :=
  laneInsn { r.raw 0x3D#7 1#3 with s := true } s (fun _ t => (t, .advance))

/-- R216: NOP. -/
def execNop (r : R3) (s : State) : Out := laneInsn (r.raw 0x3D#7 6#3) s (fun _ t => (t, .advance))

/-- R217: the lowest Empty position of a slot. -/
def emptyPos (x : Slot) : Option Nat := (List.range 4).find? (fun f => decide ((x.fibs.getD f {}).st = .empty))

/-- R66: the seed of a fibre position. -/
def fibSeed (s : State) (b k f : Nat) : Word := (launchD s (blkD s b).launch).tr.seed ^^^ BitVec.ofNat 32 (4 * k + f)

/-- R217: FSPAWN. A launch mask of 0 answers 0xFFFFFFFE before the positions are looked at: R217 gives both statuses without an
order, and this one is the model's choice (log entry 29). -/
def execFspawn (r : R3) (s : State) : Out :=
  laneInsn (r.raw 0x3D#7 2#3) s (fun e t =>
    let l := lowest e.act
    let mask := wd e.b 0 l
    let wb := (wd e.b 1 l).toNat
    if wb % 8 ≠ 0 ∨ 896 < wb then (trapFibre t e.i 0x05 1 e.act [], .stay) else
    if mask = 0 then (wrAll (r.raw 0x3D#7 2#3) e 0xFFFFFFFE t, .advance) else
    match emptyPos (slotD t e.i.blk e.i.slot) with
    | none => (wrAll (r.raw 0x3D#7 2#3) e 0xFFFFFFFF t, .advance)
    | some f =>
      let y := startFib (pr e.a 0 l) mask wb (fibSeed t e.i.blk e.i.slot f)
      (wrAll (r.raw 0x3D#7 2#3) e (BitVec.ofNat 32 f) (updFib t e.i.blk e.i.slot f (fun _ => y)), .advance))

/-- R218: FSTOP. -/
def execFstop (r : R3) (s : State) : Out :=
  laneInsn (r.raw 0x3D#7 3#3) s (fun e t =>
    let f := (wd e.a 0 (lowest e.act)).toNat
    if 3 < f then (t, .advance) else
    let x := fibD t e.i.blk e.i.slot f
    match x.st with
    | .live =>
      if f = e.i.fib ∨ x.wait.isNone then
        (updFib (closeWindow t e.i.blk e.i.slot f) e.i.blk e.i.slot f stopFib, .advance)
      else (updFib t e.i.blk e.i.slot f (fun y => { y with stopReq := true }), .advance)
    | .frozen => (updFib t e.i.blk e.i.slot f (fun y => { y with stopReq := true }), .advance)
    | _ => (t, .advance))

/-- R220: KILL. -/
def execKill (r : R3) (s : State) : Out :=
  laneInsn (r.raw 0x3D#7 5#3) s (fun e t =>
    (killArch t e.i.blk e.i.slot ((List.range (r.a.toNat + 1)).map (fun j => archReg e.wb (r.d.toNat + j))), .advance))

/-! ### Virtual dies and traps (R17, R18, R225, R226, R158) -/

/-- R17: the hop distance between two virtual dies. -/
def hopWord (s : State) (c a b : Nat) : Word :=
  match (ctxD s c).dies[a]?, (ctxD s c).dies[b]? with
  | some x, some y => BitVec.ofNat 32 (popcount (x ^^^ y))
  | _, _ => 0xFFFFFFFF

/-- R18: the enabled cores that a context holds on a die. -/
def heldCores (s : State) (c die : Nat) : Nat :=
  ((List.range 64).filter (fun k => ((ctxD s c).quads.getD die 0).testBit (k / 4) && coreEnabled s (die * 64 + k))).length

/-- R18: the quads that a context holds on a die with four enabled cores. -/
def heldQuads (s : State) (c die : Nat) : Nat :=
  ((List.range 16).filter (fun q => ((ctxD s c).quads.getD die 0).testBit q &&
    (List.range 4).all (fun k => coreEnabled s (die * 64 + 4 * q + k)))).length

/-- R225: VDIST. -/
def execVdist (r : R3) (s : State) : Out :=
  aluOp (r.raw 0x3F#7 3#3) s (fun e l => hopWord s (ctxIs s e.i) (wd e.a 0 l).toNat (wd e.b 0 l).toNat)

/-- R225: VDINFO. -/
def execVdinfo (r : R3) (s : State) : Out :=
  aluOp (r.raw 0x3F#7 4#3) s (fun e l =>
    match (ctxD s (ctxIs s e.i)).dies[(wd e.a 0 l).toNat]? with
    | some d => BitVec.ofNat 32 (heldQuads s (ctxIs s e.i) d * 65536 + heldCores s (ctxIs s e.i) d)
    | none => 0)

/-- R221: the code of TRAP and BRK. -/
def trapCode (r : R3) : Nat := r.d.toNat * 16384 + r.a.toNat * 128 + r.b.toNat

/-- R226: TRAP: the lanes stand after it. -/
def execTrap (r : R3) (s : State) : Out :=
  laneInsn (r.raw 0x3F#7 5#3) s (fun e t =>
    (updIs (trapFibre t e.i 0x08 0 e.act [(15, trapCode r)]) e.i (fun x =>
      updLanes x e.act (fun _ y => y.goto e.i.next 0)), .stay))

/-- R226: BRK: the lanes stand at it. -/
def execBrk (r : R3) (s : State) : Out :=
  laneInsn (r.raw 0x3F#7 6#3) s (fun e t => (trapFibre t e.i 0x09 0 e.act [(15, trapCode r)], .stay))

/-- R158: BRK16. -/
def execBrk16 (r : Parcel) (s : State) : Out :=
  match s.cur with
  | none => .fault .noIssuer
  | some i => .next { trapFibre s i 0x09 1 i.lanes [(15, r.index.toNat)] with choice := s.choice + 1, cur := none }

end Sys2Proof.Machine
end

