-- ==== Sys2Proof/Machine/Copies.lean ====
section
/-!
DEFINITION. Declared copies (R111 to R113, R335, R425), and retirement (R22 to R25).
-/

namespace Sys2Proof.Machine

/-! ### The units of a copy (R112, R335, R339) -/

/-- One unit of a copy: an element of the shape, padding, a scale byte at an address, or the scale of a row beyond the extent. -/
inductive Piece
  | elem (is : List Nat) | pad | scale (va : Nat) | padScale
  deriving DecidableEq, Repr

/-- A unit with its place in the buffer: a byte offset, and whether it is the high half of that byte. -/
structure CopyUnit where
  off : Nat
  high : Bool
  piece : Piece
  deriving DecidableEq, Repr

/-- R335: the units of a brick. -/
def brickUnits (h : Shape) : Nat := 2048 + (if h.scl = 0 then 0 else 64)

/-- The units of a copy. -/
def copyCount (layout : Nat) (h : Shape) : Nat :=
  if layout = 0 then h.count
  else (h.dims.drop 2).foldl (fun a d => a * d.1) 1 * ((h.ext 1 + 63) / 64) * ((h.ext 0 + 31) / 32) * brickUnits h

/-- R335: unit `k` of a blocked copy. -/
def blockedUnit (h : Shape) (k : Nat) : CopyUnit :=
  let kbs := (h.ext 0 + 31) / 32
  let rbs := (h.ext 1 + 63) / 64
  let br := k / brickUnits h
  let j := k % brickUnits h
  let kb := br % kbs
  let rb := br / kbs % rbs
  let o := br / (kbs * rbs)
  let base := br * brickSize h.typ 8 (decide (h.scl ≠ 0))
  if j < 2048 then
    let i0 := 32 * kb + j % 32
    let i1 := 64 * rb + j / 32
    { off := base + j * nibbles h.typ / 2, high := decide (nibbles h.typ = 1) && decide (j % 2 = 1)
      piece := if i0 < h.ext 0 ∧ i1 < h.ext 1 then
          .elem ((i0 :: i1 :: ({ h with dims := h.dims.drop 2 } : Shape).indexes o).take h.dims.length) else .pad }
  else
    let row := j - 2048
    let i1 := 64 * rb + row
    { off := base + brickElems h.typ 8 + row, high := false
      piece := if i1 < h.ext 1 then .scale ((h.scl + (i1 + h.ext 1 * o) * kbs + kb) % 2 ^ 64) else .padScale }

/-- Unit `k` of a copy. -/
def copyUnit (layout : Nat) (h : Shape) (k : Nat) : CopyUnit :=
  if layout = 0 then
    { off := k * nibbles h.typ / 2, high := decide (nibbles h.typ = 1) && decide (k % 2 = 1), piece := .elem (h.indexes k) }
  else blockedUnit h k

/-- Units run in order until one meets a fault: the state, the units done, the fault. -/
def runUnits {α : Type} (f : α → Nat → Except (Nat × Xl) α) (a : α) (ks : List Nat) (n : Nat) : α × Nat × Option (Nat × Xl) :=
  match ks with
  | [] => (a, n, none)
  | k :: r =>
    match f a k with
    | .error e => (a, n, some e)
    | .ok b => runUnits f b r (n + 1)

/-- The bytes that an element takes in a buffer. -/
def elemSize (h : Shape) : Nat := (nibbles h.typ + 1) / 2

/-- R112, R335: one unit of an input copy. -/
def fillUnit (c core : Nat) (d : Decl) (s : State) (k : Nat) : Except (Nat × Xl) State :=
  let u := copyUnit d.layout d.shape k
  let key := sramKey core (d.lbase + u.off)
  let put (t : State) (v : Nat) (bad : Bool) : State :=
    let bs := bytesOfElem u.high d.shape.typ [Memory.rd t.sram key] v
    putLocal t key bs (bs.map (fun _ => bad))
  match u.piece with
  | .pad => .ok (put s 0 false)
  | .padScale => .ok (putLocal s key [0x7F] [])
  | .elem is =>
    match readElem s c core d.shape is with
    | .error e => .error e
    | .ok (t, v, bad) => .ok (put t v bad)
  | .scale va =>
    match shapeXl s c core .read va 1 with
    | .error e => .error e
    | .ok pas => let (t, bs) := gRead s c pas; .ok (putLocal t key bs [anyPoison t pas])

/-- A drain: the state, and the physical bytes that it has written, whole and with poison. -/
structure Drain where
  s : State
  pas : List Nat := []
  bad : List Nat := []
  deriving DecidableEq, Repr

/-- R112, R335: one unit of an output copy. -/
def drainUnit (c core b : Nat) (d : Decl) (a : Drain) (k : Nat) : Except (Nat × Xl) Drain :=
  let u := copyUnit d.layout d.shape k
  let off := d.lbase + u.off
  let note (t : State) (pas : List Nat) (bad : Bool) : Drain :=
    { s := t, pas := a.pas ++ pas, bad := if bad then a.bad ++ pas.map (· / 64) else a.bad }
  match u.piece with
  | .pad => .ok a
  | .padScale => .ok a
  | .elem is =>
    match shapeSpot a.s c core d.shape is with
    | .error e => .error e
    | .ok (t, .absent, _) => .ok { a with s := t }
    | .ok (t, .at va hi, odd) =>
      match shapeXl t c core .write va d.shape.bytesPer with
      | .error e => .error e
      | .ok pas =>
        let (v, bs) := lLook t { agent := copyAgent b } core off (elemSize d.shape)
        let x := elemOfBytes u.high d.shape.typ bs
        let old := pas.map (Memory.rd (recalls v none false pas).mem)
        .ok (note (gWrite v c pas (bytesOfElem hi d.shape.typ old x)) pas (odd || lPoison t core off (elemSize d.shape)))
  | .scale va =>
    match shapeXl a.s c core .write va 1 with
    | .error e => .error e
    | .ok pas =>
      let (t, bs) := lLook a.s { agent := copyAgent b } core off 1
      .ok (note (gWrite t c pas bs) pas (lPoison a.s core off 1))

/-- R491: a drain clears the poison of the lines that it has written whole, and carries that of its bytes. -/
def drainPoison (a : Drain) : State :=
  let whole := (nub (a.pas.map (· / 64))).filter (fun l => (List.range 64).all (fun k => a.pas.contains (l * 64 + k)))
  addPoison (dropPoison a.s whole) a.bad

/-- R113, R430: a copy has gone as far as it can: done, or held by a fault. -/
def copyStop (s : State) (b h n : Nat) (k : AccKind) (f : Option (Nat × Xl)) (fin : HandleSt) : State :=
  let c := (blkD s b).ctx
  updBlk s b (fun x => { x with handles := mupd x.handles h (fun y =>
    match f with
    | none => { y with st := fin, copied := 0 }
    | some (a, .fault cause st lv) =>
      { y with copied := n, fault := some (mkFault s c k (accCode k) a cause st lv) }
    | some _ => { y with copied := n }) })

/-- The units of a copy that are still to do. -/
def restUnits (h : Handle) : List Nat :=
  (List.range (copyCount h.decl.layout h.decl.shape - h.copied)).map (h.copied + ·)

/-- The bulk copies in flight on a core, by block and handle. -/
def coreCopies (s : State) (core : Nat) : List (Nat × Nat) :=
  s.blocks.flatMap (fun p => if p.2.resident ∧ handleCore p.2 = core then
    (p.2.handles.filter (fun h => decide (h.2.st = .filling) || decide (h.2.st = .draining))).map (fun h => (p.1, h.1)) else [])

/-- R4: a core has 128 bulk copies in flight; a later one waits, in the order of blocks and handles (log entry 34). -/
def copyTurn (s : State) (b h : Nat) : Bool := ((coreCopies s (handleCore (blkD s b))).take 128).contains (b, h)

/-- R111, R112: an input copy runs to its end, or to a fault. -/
def fillHandle (s : State) (b h : Nat) : State :=
  match mget (blkD s b).handles h with
  | none => s
  | some y =>
    if y.st ≠ .filling ∨ y.fault.isSome ∨ (blkD s b).st = .saved ∨ !copyTurn s b h then s else
    let x := blkD s b
    let (t, n, f) := runUnits (fillUnit x.ctx (handleCore x) y.decl) s (restUnits y) y.copied
    copyStop t b h n .read f .full

/-- R111, R112: an output copy runs to its end, or to a fault. -/
def drainHandle (s : State) (b h : Nat) : State :=
  match mget (blkD s b).handles h with
  | none => s
  | some y =>
    if y.st ≠ .draining ∨ y.fault.isSome ∨ (blkD s b).st = .saved ∨ !copyTurn s b h then s else
    let x := blkD s b
    let (a, n, f) := runUnits (drainUnit x.ctx (handleCore x) b y.decl) { s := s } (restUnits y) y.copied
    copyStop (drainPoison a) b h n .write f .free

/-- R111: INPUT_COPY_COMPLETE. -/
def execInputCopyComplete (blk h : Nat) (s : State) : Out := blkEvent blk s (fun t => fillHandle t blk h)
/-- R111: OUTPUT_DRAIN_COMPLETE. -/
def execOutputDrainComplete (blk h : Nat) (s : State) : Out := blkEvent blk s (fun t => drainHandle t blk h)

/-! ### Banks and rings of a block -/

/-- The cores that a block occupies. -/
def blockCores (x : Block) : List Nat :=
  if x.kd.quadRes then (List.range 4).map (fun k => x.die * 64 + x.quad * 4 + k) else [coreOf x 0]

/-- A key of a byte lies in a bank that a block holds in one of some modes. -/
def inBlockBank (x : Block) (modes : List Nat) (key : Nat) : Bool :=
  (blockCores x).contains (key / 2 ^ 20) && modes.contains (planMode x (key % 2 ^ 20 / 0x4000))

/-- R99, R288: the rings of a block go; a fibre of another block that waits at one of them issues its instruction again, which then finds no
ring: the model's choice, since R288 does not say what becomes of it (log entry 62). -/
def dropRings (s : State) (b : Nat) : State :=
  let x := blkD s b
  let mine := s.rings.filter (fun r => inBlockBank x [4] r.1)
  let t := (mine.flatMap (·.2.waiters)).foldl (fun u w =>
    if (waiterEnv u w.1 w.2.1).isSome then unwait u w.1 (w.2.1 / 4) (w.2.1 % 4) else u) s
  { t with rings := t.rings.filter (fun r => !inBlockBank x [4] r.1) }

/-! ### Contexts that come to rest (R390, R393) -/

/-- R393: the dies whose quads have all been taken are unbound, and the entries close up. -/
def unbindFallen (x : Ctx) : Ctx :=
  { x with dies := x.dies.filter (fun d => !(x.fallen.contains d && decide (x.quads.getD d 0 = 0))), fallen := [] }

/-- R390: a Stopping context with no resident block is Stopped. -/
def settleCtx (s : State) (c : Nat) : State :=
  if (ctxD s c).st = .stopping ∧ !s.blocks.any (fun p => decide (p.2.ctx = c) && p.2.resident) then
    updCtx s c (fun x => unbindFallen { x with st := .stopped, force := false })
  else s

/-! ### Retirement (R22 to R25) -/

/-- R23 steps 1 to 3: nothing of the block is in flight and its sequencer has ended. -/
def workDone (s : State) (b : Nat) : Bool :=
  !s.ops.any (fun p => p.2.blk == b) && !s.windows.any (fun p => p.2.blk == b) && !s.replays.any (fun r => r.blk == b) &&
  (match (blkD s b).seqr with
    | none => true
    | some q => decide (q.st = .ended))

/-- R23 step 4: the outputs start to drain and the inputs are freed. -/
def startDrains (x : Block) : Block :=
  { x with handles := x.handles.map (fun h => if h.2.st = .full then
      (h.1, { h.2 with st := if h.2.decl.out then .draining else .free, copied := 0 }) else h) }

/-- R23 step 5, R24, R25: the join decrement: none while it waits or faults. -/
def joinStep (s : State) (b : Nat) : State × Bool :=
  let x := blkD s b
  let tr := (launchD s x.launch).tr
  if tr.join = 0 then (s, true)
  else if x.joinFault.isSome then (s, false) else
  match kAcc s x.ctx tr.join 4 .atomic with
  | .wait t => (t, false)
  | .bad t i => (updBlk t b (fun y => { y with joinFault := some i }), false)
  | .ok pas =>
    let (t, old, bad) := rmwAt s x.ctx pas (fun v => some ((v + 2 ^ 32 - 1) % 2 ^ 32))
    if bad then (deferredRec t x.ctx 8 (pas.headD 0), true)
    else if old = 0 then (schedErr t x.ctx, true)
    else if old = 1 ∧ tr.cont ≠ 0 then
      ({ t with pushes := t.pushes ++ [{ ctx := x.ctx, queue := tr.cqueue, addr := tr.cont }] }, true)
    else (t, true)

/-- R108: the mappings of a block become orphans. -/
def orphanAll (s : State) (b : Nat) : State :=
  s.mappings.foldl (fun t p => if p.2.blk = some b then
    { t with mappings := mupd t.mappings p.1 (fun m => { m with blk := none, orphan := t.nextId, unmapping := false }),
             nextId := t.nextId + 1 } else t) s

/-- R467: a launch has retired: it leaves, and the groups bound to it are free. -/
def dropLaunch (s : State) (n : Nat) : State :=
  match mget s.launches n with
  | none => s
  | some l =>
    if !l.waiting.isEmpty ∨ s.blocks.any (fun p => p.2.launch == n) then s
    else updCtx { s with
        launches := mdel s.launches n
        whistles := s.whistles.filter (fun w => !(w.ctx == l.ctx && mget (ctxD s l.ctx).bound w.group == some n)) }
      l.ctx (fun x => { x with bound := x.bound.filter (fun g => g.2 != n) })

/-- R23 step 6: the block's slots and banks are freed. -/
def freeBlock (s : State) (b : Nat) : State :=
  let x := blkD s b
  let t := dropRings (orphanAll s b) b
  let u := { t with blocks := mdel t.blocks b
                    flights := t.flights.filter (fun y => y.blk != b)
                    launches := mupd t.launches x.launch (fun l => { l with gone := l.gone ++ [x.task] }) }
  settleCtx (dropLaunch u x.launch) x.ctx

/-- R23: the steps of retirement, as far as they can go. -/
def retireBlock (s : State) (b : Nat) : State :=
  if (mget s.blocks b).isNone then s else
  let s1 := beginRetire s b
  if (blkD s1 b).st ≠ .retiring then s else
  if !workDone s1 b then s1 else
  let s2 := if (blkD s1 b).rstep < 4 then updBlk s1 b (fun y => { startDrains y with rstep := 4 }) else s1
  if (blkD s2 b).handles.any (fun h => decide (h.2.st = .draining)) ∨ s2.stores.any (fun p => p.blk == b) then s2 else
  match joinStep (updBlk s2 b (fun y => { y with rstep := 5 })) b with
  | (t, true) => freeBlock t b
  | (t, false) => t

/-- R23: BLOCK_RETIRE. -/
def execBlockRetire (blk : Nat) (s : State) : Out := blkEvent blk s (fun t => retireBlock t blk)

end Sys2Proof.Machine
end

