-- ==== Sys2Proof/Machine/Place.lean ====
section
/-!
DEFINITION. Which block is placed next, and its placement (R21, R27, R28, R391, R394, R441, R454 to R458).
-/

namespace Sys2Proof.Machine

/-! ### The ready blocks in order (R454 to R456) -/

/-- A ready unit: its context, launch and block index, the saved block where it is one, and its rank within its level. -/
structure Cand where
  ctx : Nat
  launch : Nat
  task : Nat
  vd : Nat
  blk : Option Nat
  key : Nat
  deriving DecidableEq, Repr

/-- R454, R392: the current level of a saved block. -/
def savedLevel (s : State) (x : Block) : Nat := agedLevel x.level x.waited (ctxD s x.ctx).ceil

/-- R456: the saved blocks of a context at a level, in wait-list order; the key makes a merge by the oldest save. -/
def savedCands (s : State) (c level : Nat) : List Cand :=
  (((ctxD s c).waitList.filter (fun b => decide (savedLevel s (blkD s b) = level))).foldl (fun (p : List Cand × Nat) b =>
    let x := blkD s b
    let k := max p.2 x.savedAt
    (p.1 ++ [{ ctx := c, launch := x.launch, task := x.task, vd := 0, blk := some b, key := k }], k)) ([], 0)).1

/-- R456: the first waiting block of each launch at a level, in acceptance order, then by index. -/
def newCands (s : State) (level : Nat) : List Cand :=
  s.launches.flatMap (fun p =>
    if !schedulable s p.2.ctx then [] else
    (p.2.waiting.filter (fun w => decide (agedLevel p.2.tr.pri w.waited (ctxD s p.2.ctx).ceil = level))).map (fun w =>
      { ctx := p.2.ctx, launch := p.1, task := w.task, vd := w.vd, blk := none, key := p.1 }))

/-- A candidate put into a list by its key, behind those with the same key. -/
def insertCand (l : List Cand) (x : Cand) : List Cand :=
  match l with
  | [] => [x]
  | y :: r => if x.key < y.key then x :: y :: r else y :: insertCand r x

/-- R456: the candidates of a level, in order. -/
def candsAt (s : State) (level : Nat) : List Cand :=
  ((s.ctxs.filter (fun p => decide (p.2.st = .running) && schedulable s p.1)).flatMap (fun p => savedCands s p.1 level)).foldl
    insertCand [] ++ newCands s level

/-! ### The placement of a saved block (R438, R440, R441) -/

/-- A key of the bank images of a block at its cores, and back. -/
def imageKey (x : Block) (k : Nat) : Nat := ((blockCores x).getD (k / 2 ^ 20) 0) * 2 ^ 20 + k % 2 ^ 20

/-- R441: the recorded mappings are created afresh, every line Absent. -/
def restoreMaps (s : State) (b : Nat) : State :=
  let x := blkD s b
  x.savedMaps.foldl (fun t p =>
    let m := p.2
    let core := (blockCores x).getD m.core 0
    let u := smapReclaim t core m.lbase (64 * m.lines.length)
    { u with mappings := mset u.mappings p.1 { m with core := core, blk := some b, lines := m.lines.map (fun _ => {}) } }) s

/-- R440: the bank images are written back, with their poison and rings. -/
def restoreBanks (s : State) (b : Nat) : State :=
  let x := blkD s b
  let t := { s with sram := x.savedSram.foldl (fun m p => Memory.wr m (imageKey x p.1) p.2) s.sram
                    rings := x.savedRings.foldl (fun m p => mset m (imageKey x p.1) p.2) s.rings }
  addSramPoison t (x.savedPoison.map (fun w => imageKey x (w * 8) / 8))

/-- R438: the replay entries of a block go to its new cores; those without global elements need no translation. -/
def rebaseOps (s : State) (b : Nat) : State :=
  let mine := (s.ops.filter (fun p => p.2.blk == b)).map (fun p => (p.1, { p.2 with
    core := coreOf (blkD s b) p.2.slot, ready := decide (p.2.kind ≠ .atomic) && decide (p.2.kind ≠ .gather) }))
  mine.foldl (fun t p => fillAgain { t with ops := mset t.ops p.1 p.2 } p.1 p.2) s

/-- R436: the lanes of a saved block that a replay entry had parked are to try it again. -/
def wakeReplays (s : State) (b : Nat) : State :=
  (s.replays.filter (fun r => r.blk == b && !r.tile)).foldl (fun t r => updFib t b r.slot r.fib (fun x =>
    if x.st = .live then updLanes x [r.lane] (fun _ y => match y.st with
      | .parked _ => { y with st := .issuable }
      | _ => y) else x)) s

/-- R441: a resumed block's bank images hold every byte of its banks, so that no orphan stays in them (log entry 39). -/
def clearOrphans (s : State) (kd : KDesc) (p : Spot4) : State :=
  (spotCores kd p).foldl (fun t core => (List.range 64).foldl (fun u b =>
    if modeOf kd b = 0 then u else claimReclaim u 4096 core b (modeOf kd b)) t) s

/-- R441, R455: a saved block takes its place and is Loading, with its state restored. -/
def placeOld (s : State) (b : Nat) (p : Spot4) : State :=
  let x := blkD s b
  let lv := savedLevel s x
  let bs := claimed s x.kd p
  let s1 := reclaimBanks (clearOrphans s x.kd p) x.ctx bs
  let s2 := updBlk s1 b (fun y => { y with die := p.die, quad := p.quad, core := p.core, borrowed := p.borrowed, st := .loading,
                                           level := lv, waited := 0, spots := takeSpots s x.kd p })
  let s3 := restoreMaps (restoreBanks (initBanks ((spotCores x.kd p).foldl (fun t core => trimStash t x.ctx core) s2) bs) b) b
  let s4 := updBlk (rebaseOps (wakeReplays s3 b) b) b (fun y => { y with savedSram := [], savedPoison := [], savedRings := [], savedMaps := [] })
  updCtx s4 x.ctx (fun c => { c with
    waitHeads := c.waitHeads - (if c.waitList.findIdx (· == b) < c.waitHeads then 1 else 0)
    waitList := c.waitList.filter (· != b) })

/-- The place of a saved block: on the die that it stood on, else on another die of its context. -/
def spotOld (s : State) (x : Block) : Option Spot4 :=
  let ds := (launchD s x.launch).decls
  let dies := (ctxD s x.ctx).dies
  ((dies.filter (· == x.die)) ++ (dies.filter (· != x.die))).findSome? (spotOn s usableNow x.ctx x.kd ds)

/-- R27, R30: every saved member of a gang takes its place, or none does. -/
def placeOldGang (s : State) (bs : List Nat) : Option State :=
  bs.foldl (fun a b => match a with
    | none => none
    | some t => (spotOld t (blkD t b)).map (placeOld t b)) (some s)

/-! ### The next placement (R28, R456) -/

/-- What placing a candidate comes to: the blocks placed, as tasks of its launch, and the state. -/
def tryCand (s : State) (x : Cand) (level : Nat) : Option (List Nat × State) :=
  match mget s.launches x.launch with
  | none => none
  | some l =>
    match x.blk with
    | some b =>
      if l.tr.gang then
        let bs := (s.blocks.filter (fun p => p.2.launch == x.launch)).map (·.1)
        if bs.all (fun k => decide ((blkD s k).st = .saved)) then
          (placeOldGang s bs).map (fun t => (bs.map (fun k => (blkD s k).task), t)) else none
      else (spotOld s (blkD s b)).map (fun p => ([x.task], placeOld s b p))
    | none =>
      if l.tr.gang then
        (placeGang s usableNow true x.launch l level (l.waiting.map (fun w => (w.task, w.vd)))).map (fun t =>
          (l.waiting.map (·.task), { t with launches := mupd t.launches x.launch (fun y => { y with waiting := [] }) }))
      else
        match spotFor s usableNow l x.task x.vd with
        | none => none
        | some p =>
          if saveFits s l.ctx (saveSize l.kd) then
            some ([x.task], { placeNew s x.launch l x.task level p with
              launches := mupd s.launches x.launch (fun y => { y with waiting := y.waiting.filter (fun w => decide (w.task ≠ x.task)) }) })
          else none

/-- R48, R456: the first candidate that fits. One that fits nowhere holds back the later blocks of its context at its level (`held`, as
level and context), and a saved one every new block of its context at its level or below (`back`); one of a gang holds back
nothing (R28). -/
def firstFit (s : State) (held : List (Nat × Nat)) (back : List Nat) (cs : List (Nat × Cand)) : Option (Nat × List Nat × State) :=
  match cs with
  | [] => none
  | (level, x) :: r =>
    if held.contains (level, x.ctx) ∨ (x.blk.isNone ∧ back.contains x.ctx) then firstFit s held back r else
    match tryCand s x level with
    | some p => some (x.launch, p.1, p.2)
    | none =>
      if ((mget s.launches x.launch).map (·.tr.gang)).getD false then firstFit s held back r
      else firstFit s (held ++ [(level, x.ctx)]) (if x.blk.isSome then back ++ [x.ctx] else back) r

/-- R456: every candidate, with its level, the highest level first. -/
def allCands (s : State) : List (Nat × Cand) :=
  (List.range 48).flatMap (fun k => (candsAt s (47 - k)).map (fun x => (47 - k, x)))

/-- R456: the next placement: its launch, the blocks, the state after it. -/
def nextPlacement (s : State) : Option (Nat × List Nat × State) := firstFit s [] [] (allCands s)

/-- R21: a block is placed when its turn has come. -/
def placeBlock (s : State) (n task : Nat) : State :=
  match nextPlacement s with
  | some (m, ts, t) => if m = n ∧ ts.contains task then t else s
  | none => s

/-- R21: BLOCK_PLACEMENT. -/
def execBlockPlacement (launch task : Nat) (s : State) : Out := event s (fun t => placeBlock t launch task)

end Sys2Proof.Machine
end

