-- ==== Sys2Proof/Machine/Preempt.lean ====
section
/-!
DEFINITION. Forced pre-emption: quiescence (R435, R436), the save (R440, R441), and the start of a loaded block (R21, R438).
-/

namespace Sys2Proof.Machine

/-! ### What lands (R436) -/

/-- R437: an operation that stays becomes a replay entry. -/
def keepOp (s : State) (id : Nat) : State :=
  match (mget s.ops id).map (·.win) with
  | none => s
  | some win =>
    let t : State := { s with ops := mupd s.ops id (fun o => { o with ready := false }) }
    match win with
    | none => t
    | some k => { t with windows := mupd t.windows k (fun w => { w with shut := true, ready := false }) }

/-- R436: the elements of an operation that have passed at quiescence, and the others. Of each location all or none have, a free choice
(R122, R264); none where an older request of the lane to it stays. -/
def somePassed (s : State) (id : Nat) (o : Op) : List Elem × List Elem :=
  let behind (x : Elem) : Bool := s.replays.any (fun r => r.blk == o.blk && !r.tile && r.slot == o.slot && r.fib == o.fib &&
    r.lane == x.lane && decide (r.seq < id) && r.items.any (fun q => decide (x.va < q.1 + q.2.length) && decide (q.1 < x.va + o.w)))
  let stays := (nub (o.elems.map (·.pa))).filter (fun pa =>
    decide (pick s id (1 + pa) 2 = 1) || (o.elems.filter (fun x => x.pa == pa)).any behind)
  (o.elems.filter (fun x => !stays.contains x.pa), o.elems.filter (fun x => stays.contains x.pa))

/-- R436: an operation of class A: what has passed lands; the rest is replayed. -/
def landAtomic (s : State) (id : Nat) (o : Op) : State :=
  let (els, rest) := somePassed s id o
  let t := applyAtomics s id { o with elems := els }
  if rest.isEmpty then finishOp t id else { t with ops := mset t.ops id { o with elems := rest, ready := false } }

/-- R436: the elements of a gather into registers, likewise. -/
def landGather (s : State) (id : Nat) (o : Op) : State :=
  let (els, rest) := somePassed s id o
  if rest.isEmpty then retrieverComplete s id
  else
    let t := gatherLate s id { o with elems := els }
    { t with ops := mset t.ops id { o with elems := rest, ready := false } }

/-- R313, R436: a scatter window closes, and what of it has passed lands. -/
def landWindow (s : State) (k : Nat) : State :=
  match mget s.windows k with
  | none => s
  | some w0 =>
    let w := { w0 with shut := true }
    let t : State := { s with windows := mset s.windows k w }
    if windowHeld t k w ∨ !w.ready then t
    else
      let p := someSpots t k w
      windowPart t k w p.1 p.2

/-- R436: one operation in flight at quiescence. A collective waits as R297 says. -/
def landOp (s : State) (id : Nat) : State :=
  match mget s.ops id with
  | none => s
  | some o =>
    if o.cls = 4 then s
    else if o.fault.isSome ∨ !o.ready then keepOp s id
    else match o.kind with
      | .atomic => landAtomic s id o
      | .gather => if o.code = 4 then retrieverComplete s id else landGather s id o
      | .embLoad => keepOp (retrieverComplete s id) id
      | .bin => keepOp (binComplete s id) id
      | .scatter =>
        let t := (o.win.map (landWindow s)).getD s
        keepOp (retrieverComplete t id) id
      | .embUpdate =>
        let t := (o.win.map (landWindow s)).getD s
        keepOp (retrieverComplete t id) id
      | _ => keepOp (stashComplete s id) id

/-- R436: the operations of a block in issue order: once one of a fibre stays, its later ones stay too. -/
def landOps (s : State) (b : Nat) : State :=
  ((s.ops.filter (fun p => p.2.blk == b)).foldl (fun (p : State × List (Nat × Nat)) q =>
    if p.2.contains (q.2.slot, q.2.fib) then (keepOp p.1 q.1, p.2) else
    let t := landOp p.1 q.1
    (t, if (mget t.ops q.1).isSome ∧ q.2.cls ≠ 4 then p.2 ++ [(q.2.slot, q.2.fib)] else p.2)) (s, [])).1

/-! ### Lane accesses and tile stores (R342, R436, R437) -/

/-- R436: what passes or stays as one: a store of a lane, a load, or the updates of one issue at one location (R264). The numbers of the
lanes that make it, its bytes, its parts in flight by store, oldest first, and the accesses whose results await it. -/
structure Request where
  id : Nat
  slot : Nat
  fib : Nat
  lanes : List Nat
  locs : List Nat
  parts : List (Nat × Shard) := []
  accs : List Flight := []
  deriving DecidableEq, Repr

/-- R436: the stores of the lanes of one pending store, but for those of which a part has been performed. -/
def storeRequests (p : Pend) : List Request :=
  lanes32.filterMap (fun l =>
    let xs := p.pieces.filter (fun x => x.lane == l)
    match xs with
    | [] => none
    | x :: _ =>
      let locs := xs.flatMap (·.locs)
      if locs.length = x.req ∧ !locs.contains (2 ^ 60) then
        some { id := p.id, slot := p.agent / 4, fib := p.agent % 4, lanes := [l], locs := locs, parts := xs.map (fun y => (p.id, y)) }
      else none)

/-- R436: the accesses in flight that stay or pass with one: the updates of its issue at its location. -/
def fellows (s : State) (x : Flight) : List Flight :=
  if x.op = 0x28 ∨ x.op = 0x2A then [x] else s.flights.filter (fun y => y.id == x.id && y.locs == x.locs)

/-- R436: the request of an access in flight, for the lowest of its lanes; none where a part of its updates has been performed. -/
def accessRequest (s : State) (x : Flight) : Option Request :=
  let xs := fellows s x
  let parts := match xs.findSome? (·.pend) with
    | none => []
    | some n => (s.stores.filter (fun p => p.id == n)).flatMap (fun p => (p.pieces.filter (fun y => y.locs == x.locs)).map (fun y => (n, y)))
  if xs.head? = some x ∧ xs.all (·.stands s) ∧ parts.length = (xs.filter (·.pend.isSome)).length then
    some { id := x.id, slot := x.slot, fib := x.fib, lanes := xs.map (·.lane), locs := x.locs, parts := parts, accs := xs }
  else none

/-- A request in its place among others, oldest first. -/
def putRequest (r : Request) (rs : List Request) : List Request :=
  match rs with
  | [] => [r]
  | q :: t => if r.id < q.id then r :: q :: t else q :: putRequest r t

/-- R436: the requests of the lanes of a block in flight, oldest first. -/
def requests (s : State) (b : Nat) : List Request :=
  ((s.flights.filter (fun x => x.blk == b)).filterMap (accessRequest s)).foldl (fun rs r => putRequest r rs)
    ((s.stores.filter (fun p => p.blk == b && decide (p.agent ≠ 64) && decide (p.kind = .plain))).flatMap storeRequests)

/-- R437: the replay entries that one core of a block has room for still: 4096 of its lanes, and 4 tile copies of the block. -/
def replayRoom (s : State) (b slot : Nat) (tile : Bool) : Nat :=
  let x := blkD s b
  if tile then 4 - (s.replays.filter (fun r => r.blk == b && r.tile)).length
  else 4096 - (s.replays.filter (fun r => r.blk == b && !r.tile && coreOf x r.slot == coreOf x slot)).length

/-- R436: a request has not passed at quiescence, a free choice: nobody else has met its updates, no younger request of its lanes to its
bytes has passed, its lanes may issue again, and there is room for it. `passed`: what has passed, by agent. -/
def stays (s : State) (b : Nat) (passed : List (Nat × List Nat)) (r : Request) : Bool :=
  let as := r.lanes.map (laneAgent b r.slot r.fib)
  let own (n : Nat) (x : Shard) : List Nat := as ++ r.lanes.map (fun l => releaseView (32 * n + l)) ++ x.seen.take 1
  decide (Config.freePick s.choice (2 ^ 34 + r.id) (64 * r.locs.headD 0 + lowest r.lanes) % 2 = 0) &&
  r.lanes.all (fun l => decide ((laneD (fibD s b r.slot r.fib) l).st = .issuable)) &&
  r.parts.all (fun q => !q.2.back && q.2.seen.all (own q.1 q.2).contains) &&
  !passed.any (fun q => as.contains q.1 && q.2.any r.locs.contains) && decide (r.lanes.length ≤ replayRoom s b r.slot false)

/-- R435, R436: the words that an access in flight was to write are as before it, and await its replay under a number. -/
def awaitAgain (s : State) (x : Flight) (n : Nat) : State :=
  (List.range (widthRegs x.w)).foldl (fun t j =>
    awaitArch (updSlot t x.blk x.slot (fun y => { y with regs := mupd y.regs (x.reg + j) (fun g =>
      match g.stale.find? (fun v => v.op == some x.id) with
      | none => g
      | some v => { g with
          vals := g.vals.set x.lane (v.vals.getD x.lane 0)
          stale := (g.stale.map (fun u => if u.op = some x.id then
            { u with mask := maskOf (lanes32.filter (fun l => u.mask.testBit l && l != x.lane)) } else u)).filter
              (fun u => decide (u.mask ≠ 0)) }) })) x.blk x.slot x.fib (x.reg + j) n [x.lane]) s

/-- R437: the replay entry of a store of a lane. -/
def storeEntry (p : Pend) (r : Request) : Replay :=
  { seq := r.id, blk := p.blk, slot := r.slot, fib := r.fib, lane := lowest r.lanes, tile := false
    loc := r.parts.any (fun q => q.2.loc), items := [((r.parts.map (·.2.va)).headD 0, r.parts.flatMap (·.2.new))]
    pc := p.pc, insn := p.insn, ext := p.ext }

/-- R437: the replay entry of an access in flight, whose registers await it under a number. -/
def accessEntry (x : Flight) (n : Nat) : Replay :=
  { seq := x.id, blk := x.blk, slot := x.slot, fib := x.fib, lane := x.lane, tile := false, loc := x.loc
    items := [(x.va, List.replicate x.w 0)], acc := some x, late := n, pc := x.pc, insn := x.insn, ext := x.ext, rep := x.rep }

/-- R437: a request stays: it has not been performed, and becomes replay entries, one per lane. -/
def keepRequest (s : State) (r : Request) : State × List Replay :=
  let t := r.parts.reverse.foldl (fun u q => undoPart u q.1 q.2) s
  match r.accs with
  | [] => (t, ((s.stores.find? (fun p => p.id == r.id)).map (fun p => storeEntry p r)).toList)
  | _ =>
    let views := r.parts.flatMap (fun q => r.lanes.map (fun l => releaseView (32 * q.1 + l)))
    let n := t.nextId
    ({ r.accs.foldl (fun u x => awaitAgain u x n) t with
        nextId := n + 1, flights := t.flights.filter (fun x => !r.accs.contains x)
        pubs := t.pubs.filter (fun q => !views.contains q.view) },
     r.accs.map (fun x => accessEntry x n))

/-- R436: the requests of the lanes of a block at quiescence, the youngest first: each passes or stays. -/
def keepRequests (s : State) (b : Nat) : State :=
  let (t, out, _) := (requests s b).foldr (fun r (p : State × List Replay × List (Nat × List Nat)) =>
    let u : State := { p.1 with replays := s.replays ++ p.2.1 }
    if stays u b p.2.2 r then
      let (v, es) := keepRequest p.1 r
      (v, es ++ p.2.1, p.2.2)
    else (p.1, p.2.1, r.lanes.map (fun l => (laneAgent b r.slot r.fib l, r.locs)) ++ p.2.2)) (s, [], [])
  { t with replays := s.replays ++ out, flights := t.flights.filter (fun x => x.blk != b) }

/-- R342, R436: a tile store at quiescence: the parts outside the core that nobody has seen may have not been performed, each a free
choice, and take a tile copy. An MSTADD or MSTATOM is performed whole. -/
def keepTile (s : State) (p : Pend) : State :=
  let xs := p.pieces.filter (fun x => !x.loc && x.unseen &&
    decide (Config.freePick s.choice (2 ^ 34 + p.id) (x.locs.headD 0) % 2 = 0))
  if p.whole ≠ 0 ∨ xs.isEmpty ∨ replayRoom s p.blk 0 true = 0 then s else
  let r : Replay := { seq := p.id, blk := p.blk, slot := 0, fib := 0, lane := 0, tile := true
                      items := xs.map (fun x => (x.va, x.new)), pc := p.pc, insn := p.insn, ext := p.ext }
  { xs.reverse.foldl (fun t x => undoPart t p.id x) s with replays := s.replays ++ [r] }

/-- R436: the accesses of a block's lanes and sequencer at quiescence. -/
def keepStores (s : State) (b : Nat) : State :=
  let t := (s.stores.filter (fun p => p.blk == b && decide (p.agent = 64))).foldl keepTile (keepRequests s b)
  let u := showParts t (fun p _ => p.blk == b)
  { u with stores := u.stores.filter (fun p => p.blk != b) }

/-! ### Replay (R429, R438) -/

/-- R438: the writes of a tile copy, each translated afresh; the first that fails holds all of them. -/
def replayWrites (s : State) (r : Replay) : Except (Nat × Xl) (List (List Nat × List Byte)) :=
  let x := blkD s r.blk
  r.items.foldl (fun a p =>
    match a with
    | .error e => .error e
    | .ok l =>
      match xlateAll (fun v => xlateShape s x.ctx (coreOf x 0) v .write) (spanOf p.1 p.2.length) with
      | .error e => .error e
      | .ok pas => .ok (l ++ [(pas, p.2)])) (.ok [])

/-- The fault that a replay entry meets. -/
def replayFault (s : State) (r : Replay) (k : AccKind) (what a c st lv : Nat) : FaultInfo :=
  { mkFault s (blkD s r.blk).ctx k what a c st lv with insn := r.insn, ext := r.ext, pc := some r.pc }

/-- R438: the issue of a replay entry. -/
def Replay.issue (r : Replay) : Issue :=
  { blk := r.blk, slot := r.slot, fib := r.fib, lanes := [r.lane], pc := r.pc, next := r.pc, insn := r.insn, ext := r.ext }

/-- R438: a lane of a running block waits for its replay entries; of a loading one the block does. -/
def holdReplay (s : State) (r : Replay) : State :=
  if (blkD s r.blk).st ≠ .running then s
  else updFib s r.blk r.slot r.fib (fun x => updLanes x [r.lane] (fun _ y => { y with st := .parked .replay }))

/-- R429, R438: a replay entry that meets a fault parks its lane, or holds the sequencer; one that may not go on yet waits. -/
def parkReplay (s : State) (r : Replay) (k : AccKind) (what : Nat) (f : Nat × Xl) : State :=
  match f.2 with
  | .fault c st lv =>
    let i := replayFault s r k what f.1 c st lv
    if r.tile then updSeq s r.blk (fun q => { q with st := .faulted, fault := some i })
    else updFib s r.blk r.slot r.fib (fun x => updLanes x [r.lane] (fun _ y => { y with st := .parked (.fault i) }))
  | _ => if r.tile then s else holdReplay s r

/-- R429, R438: the agent of a replay entry waits for a fault, or may not go on. -/
def replayHeld (s : State) (r : Replay) : Bool :=
  if r.tile then decide ((seqD s r.blk).st ≠ .running)
  else match (laneD (fibD s r.blk r.slot r.fib) r.lane).st with
    | .parked .replay => false
    | .parked _ => true
    | _ => decide ((fibD s r.blk r.slot r.fib).st = .frozen)

/-- The replay entry is of the same lane as another, or both are of one sequencer. -/
def Replay.mate (r q : Replay) : Bool :=
  q.blk == r.blk && q.tile == r.tile && (r.tile || (q.slot == r.slot && q.fib == r.fib && q.lane == r.lane))

/-- R438: an older replay entry of the agent of one is still to be performed. -/
def replayBehind (s : State) (r : Replay) : Bool := (s.replays.takeWhile (fun q => q != r)).any r.mate

/-- R438: a replay entry has been performed; a lane that waited for the last of its entries goes on. -/
def dropReplay (s : State) (r : Replay) : State :=
  let t : State := { s with replays := s.replays.filter (fun q => q != r) }
  if r.tile ∨ t.replays.any r.mate then t else
  updFib t r.blk r.slot r.fib (fun x => updLanes x [r.lane] (fun _ y => if y.st = .parked .replay then { y with st := .issuable } else y))

/-- R438: the result of a replayed access reaches the words that still await it, with its poison (R492). -/
def replayResult (s : State) (r : Replay) (x : Flight) (bs : List Byte) (bad : List Bool) : State :=
  (List.range (widthRegs x.w)).foldl (fun t j =>
    let ls := awaiting t x.blk x.slot (x.reg + j) r.late |>.filter (· == x.lane)
    let u := updSlot t x.blk x.slot (fun y => { y with regs := mupd y.regs (x.reg + j) (fun g =>
      if ls.isEmpty then g else
      { g with vals := g.vals.set x.lane (loadWord x.f bs j)
               poison := maskOf (lanes32.filter (fun l => g.poison.testBit l && l != x.lane)), late := cutLate g.late [x.lane] }) })
    poisonArch u x.blk x.slot (x.reg + j) (if ((bad.drop (4 * j)).take 4).any id then ls else [])) s

/-- R438: a replayed update at its home. -/
def replayUpdate (s : State) (r : Replay) (x : Flight) (h : Home) : State :=
  let n := s.nextId
  let (t, old, bad) := updateAt (addStore s r.issue x.scope .atom)
    { ctx := (blkD s r.blk).ctx, agent := x.agent, id := n, lane := x.lane, scope := x.scope, ord := x.ord, va := x.va } h x.w
    (fun o => updateNew x.op x.f o x.b x.c)
  replayResult (performStore t n) r x (natLe x.w old) (List.replicate x.w bad)

/-- R438: a replay entry at a global address. -/
def replayGlobal (s : State) (r : Replay) (a w : Nat) (bs : List Byte) : State :=
  let c := (blkD s r.blk).ctx
  let core := coreOf (blkD s r.blk) r.slot
  let k := match r.acc with
    | none => AccKind.write
    | some x => if x.op = 0x28 then .read else .atomic
  match xlateAll (fun v => xlate s c core v k) (spanOf a w), r.acc with
  | .error e, _ => parkReplay s r k (accCode k) e
  | .ok pas, none => dropReplay (gWrite s c pas bs) r
  | .ok pas, some x =>
    if x.op = 0x28 then
      let (t, ys) := gReadBy (retainOf x.pol) s c x.agent pas
      dropReplay (replayResult t r x ys (pas.map (poisoned t))) r
    else dropReplay (replayUpdate s r x (.glob pas)) r

/-- R438: a replay entry at a local address, as if its instruction had just issued. -/
def replayLocal (s : State) (r : Replay) (a w : Nat) (bs : List Byte) : State :=
  let store := match r.acc with
    | none => true
    | some x => decide (x.op = 0x2E)
  match localOk s (blkD s r.blk).ctx (coreOf (blkD s r.blk) r.slot) a w store with
  | none => trapFibre s r.issue 0x03 0 [r.lane] (addrField a)
  | some (core, off) =>
    match meetLines s none store (stashLines s core off w) with
    | (t, .ok) =>
      (match r.acc with
        | none => dropReplay (lWrite t core off bs) r
        | some x =>
          if store then dropReplay (replayUpdate t r x (.loc core off)) r
          else
            let (u, ys) := lReadBy t x.agent a core off w
            dropReplay (replayResult u r x ys ((List.range w).map (fun j => lPoison u core (off + j) 1))) r)
    | (t, .fault va c st lv) => parkReplay t r (if store then .atomic else .read) 4 (va, .fault c st lv)
    | (t, _) => holdReplay t r

/-- R438: a replay entry is performed, or held by what it meets. -/
def replayEntry (s : State) (r : Replay) : State :=
  if r.tile then
    match replayWrites s r with
    | .error f => parkReplay s r .write 1 f
    | .ok ws => dropReplay (ws.foldl (fun t w => gWrite t (blkD s r.blk).ctx w.1 w.2) s) r
  else match r.items with
    | [] => dropReplay s r
    | (a, bs) :: _ => if r.loc then replayLocal s r a bs.length bs else replayGlobal s r a bs.length bs

/-- R438: one replay entry in its turn: that of a lane that has ended meanwhile is gone; a held one, one behind another of its lane, and
in a loading block one behind an older operation of its fibre that no fault holds wait. -/
def replayOne (s : State) (r : Replay) : State :=
  if !r.tile ∧ !(laneD (fibD s r.blk r.slot r.fib) r.lane).live then dropReplay s r
  else if replayHeld s r ∨ replayBehind s r then s
  else if !r.tile ∧ (blkD s r.blk).st = .loading ∧ s.ops.any (fun p => decide (p.1 < r.seq) && p.2.blk == r.blk && p.2.slot == r.slot &&
      p.2.fib == r.fib && p.2.fault.isNone && decide (p.2.cls ≠ 4)) then s
  else replayEntry s r

/-- R429, R438: the replay entries of a block's stores and updates are performed as far as they can be. -/
def replayStores (s : State) (b : Nat) : State :=
  let t := if s.replays.isEmpty then s else (s.replays.filter (fun r => r.blk == b)).foldl replayOne s
  if (blkD t b).st = .running then retryAtomics t b else t

/-- R429: the replay entries of the running blocks whose lanes may go on come first. -/
def replayAll (s : State) : State :=
  (s.blocks.filter (fun p => decide (p.2.st = .running))).foldl (fun t p => replayStores t p.1) s

/-- R438: the replay entries of a block are out of the way of its start: held by a fault, or behind one of their lane that is. -/
def replayDone (s : State) (b : Nat) : Bool :=
  (s.replays.filter (fun r => r.blk == b)).all (fun r => replayHeld s r ||
    (s.replays.takeWhile (fun q => q != r)).any (fun q => r.mate q && replayHeld s q))

/-! ### Issue stops (R435, R436) -/

/-- R399, R436: a waiting instruction has its result: a ring instruction that was served, or a CTXTAKE that was performed. -/
def Wait.served (w : Wait) : Bool := decide (w.kind = .retry) && !w.done.isEmpty && decide (33 ≤ w.last.length)

/-- R436: a waiting blocking instruction is saved as not issued, but for one that has its result; a lane that waits for an object
issues again. -/
def unissueFib (s : State) (b k f : Nat) : State :=
  let t := match (fibD s b k f).wait with
    | some w => if w.served then s else unwait s b k f
    | none => s
  updFib t b k f (fun x => { x with lanes := x.lanes.map (fun y => match y.st with
    | .held .object _ => { y with st := .issuable }
    | _ => y) })

/-- R35, R435: every register result in flight of a slot has returned. -/
def settleRegs (x : Slot) : Slot := [0, 1, 2, 3].foldl returnAll x

/-- R423, R436: a waiting acquire leaves its home as not issued. -/
def recallAcq (s : State) (a : Acq) : State :=
  let t := updSlot { s with acqs := s.acqs.filter (fun x => x.id != a.id) } a.blk a.slot (fun k => dropLate k [a.id])
  updFib t a.blk a.slot a.fib (fun x => updLanes x (acqLanes s a) (fun _ y => { y with st := .issuable }))

/-- R423, R436: some waiting acquires leave their homes. -/
def recallAcqs (s : State) (p : Acq → Bool) : State := (s.acqs.filter p).foldl recallAcq s

/-- R435: a block stops issuing, and what has passed lands. -/
def stopBlock (s : State) (b : Nat) : State :=
  let x := blkD s b
  if x.st = .loading then updBlk s b (fun y => { y with halt := true })
  else if x.ending.isSome then endBlock s b
  else if x.st ≠ .running then s else
  let s1 := (fibIds x).foldl (fun t p => closeWindow t b p.1 p.2) (updBlk (keepStores s b) b (fun y => { y with st := .quiescing }))
  let s2 := recallAcqs (landOps s1 b) (fun a => a.blk == b)
  let s3 := (fibIds x).foldl (fun t p => unissueFib t b p.1 p.2) s2
  updBlk s3 b (fun y => { y with slots := y.slots.map settleRegs })

/-- R30: the blocks that are pre-empted as one unit with a block. -/
def unitOf (s : State) (b : Nat) : List Nat :=
  let n := (blkD s b).launch
  if (launchD s n).tr.gang then (s.blocks.filter (fun p => p.2.launch == n && p.2.resident)).map (·.1) else [b]

/-- R30, R435: forced pre-emption of a block or its gang; `head` says that it returns at the head of its wait list. -/
def quiesce (s : State) (b : Nat) (head : Bool) : State :=
  (unitOf s b).foldl (fun t k => stopBlock (updBlk t k (fun x => { x with head := x.head || head })) k) s

/-- R435: FORCED_PREEMPTION. -/
def execForcedPreemption (blk : Nat) (s : State) : Out :=
  blkEvent blk s (fun t => if (mget t.blocks blk).isSome then quiesce t blk false else t)

/-! ### The save (R440, R441, R455, R493) -/

/-- The place of a core's byte in the bank images of a block. -/
def blockKey (x : Block) (key : Nat) : Nat := ((blockCores x).findIdx (· == key / 2 ^ 20)) * 2 ^ 20 + key % 2 ^ 20

/-- R441: the mappings of a block are written back, recorded and removed. -/
def saveMaps (s : State) (b : Nat) : State :=
  let x := blkD s b
  let mine := s.mappings.filter (fun p => decide (p.2.blk = some b))
  let t := mine.foldl (fun u p => deleteMapping u p.1 true) s
  updBlk t b (fun y => { y with savedMaps := mine.map (fun p => (p.1, { p.2 with
    core := (blockCores x).findIdx (· == p.2.core), lines := p.2.lines.map (fun _ => {}) })) })

/-- R440: the bank images of a block, with ring states. -/
def saveBanks (s : State) (b : Nat) : State :=
  let x := blkD s b
  let u := updBlk s b (fun y => { y with
    savedSram := ((s.sram.filter (fun c => inBlockBank x [1, 2, 4] c.1)).foldl (fun m c => Memory.wr m (blockKey x c.1) c.2) [])
    savedPoison := (s.sramPoison.filter (fun w => inBlockBank x [1, 2, 4] (w * 8))).map (fun w => blockKey x (w * 8) / 8)
    savedRings := (s.rings.filter (fun r => inBlockBank x [4] r.1)).foldl (fun m r =>
      mset m (blockKey x r.1) { r.2 with waiters := [] }) [] })
  dropRings u b

/-- R440, R60, R66: every chunk of a slot goes to its spill area, and those that were not there are counted. -/
def saveChunks (x : Slot) : Slot :=
  { x with chunks := x.chunks.map (fun p => (p.1, { p.2 with st := .l2 }))
           spl2 := (x.spl2 + (x.chunks.filter (fun p => decide (p.2.st ≠ .l2))).length) % 2 ^ 32 }

/-- R493: a lost value of a sequencer is written as 0. -/
def zeroLost (q : Seqr) : Seqr :=
  { q with
    q := q.q.mapIdx (fun k v => if q.lost.contains (.q k) then 0 else v)
    tiles := q.tiles.map (fun p => (p.1, p.2.mapIdx (fun e v => if q.lost.contains (.tile p.1 e) then 0 else v)))
    slots := q.slots.map (fun p => (p.1, { p.2 with raw := p.2.raw.mapIdx (fun b v => if q.lost.contains (.slot p.1 b) then 0 else v) }))
    lost := [] }

/-- R493: the save meets a lost value: the context bears it. -/
def saveLost (s : State) (b : Nat) : State :=
  if (seqD s b).lost.isEmpty then s else
  updSeq (matrixLoss s b) b zeroLost

/-- R455: a block enters the wait list of its context. -/
def enterWaits (s : State) (b : Nat) : State :=
  let x := blkD s b
  let t := updCtx s x.ctx (fun c => if x.head then
      { c with waitList := c.waitList.take c.waitHeads ++ [b] ++ c.waitList.drop c.waitHeads, waitHeads := c.waitHeads + 1 }
    else { c with waitList := c.waitList ++ [b] })
  updBlk t b (fun y => { y with
    st := .saved, savedAt := t.saves + 1, waited := 0, borrowed := false, head := false
    level := if y.head then (ctxD t y.ctx).ceil else y.level })

/-- R440, R441: one block of the unit is saved. -/
def saveBlock (s : State) (b : Nat) : State :=
  if (blkD s b).st ≠ .quiescing then s else
  let t := saveLost (saveBanks (saveMaps s b) b) b
  settleCtx (enterWaits (updBlk t b (fun y => { y with slots := y.slots.map saveChunks })) b) (blkD s b).ctx

/-- R435 step 4: the quiesced unit is saved. -/
def saveUnit (s : State) (b : Nat) : State :=
  if (blkD s b).st ≠ .quiescing then s else
  let t := (unitOf s b).foldl saveBlock s
  { t with saves := t.saves + 1 }

/-- R440: BLOCK_SAVE. -/
def execBlockSave (blk : Nat) (s : State) : Out := blkEvent blk s (fun t => saveUnit t blk)

/-! ### The start (R21 steps 2 to 5, R156, R438) -/

/-- R438: an operation of a loading block is out of the way of its start: held by a fault or behind one of its fibre, or a
collective. -/
def replayed (s : State) (id : Nat) (o : Op) : Bool :=
  decide (o.cls = 4) || o.fault.isSome ||
  (decide (o.kind = .atomic) && o.elems.any (fun y => (faultLanes (fibD s o.blk o.slot o.fib)).any (fun p => p.1 == y.lane))) ||
  s.ops.any (fun p => decide (p.1 < id) && p.2.blk == o.blk && p.2.slot == o.slot && p.2.fib == o.fib && p.2.fault.isSome)

/-- R21, R438: a block has its inputs, and its replay entries are performed. -/
def loaded (s : State) (b : Nat) : Bool :=
  let x := blkD s b
  decide (x.st = .loading) && x.handles.all (fun h => decide (h.2.st ≠ .filling) && (decide (h.2.st ≠ .draining) || h.2.fault.isSome)) &&
  s.ops.all (fun p => p.2.blk != b || replayed s p.1 p.2)

/-- R156: an entry of a dictionary as the core reads it; a fault that firmware resolves is answered with its page. -/
def readDict (s : State) (b k : Nat) : Except Nat (State × DictEnt) :=
  let x := blkD s b
  let va := (x.kd.dict + 4 * k) % 2 ^ 64
  match fetchParcels s (coreOf x 0) x.ctx va 2 .dict with
  | .ok (t, ps) => .ok (seekTlb t x.ctx (coreOf x 0) .fetch (spanOf va 4), .word (par ps 0 ++ par ps 1))
  | .error (a, .fault c st lv) =>
    match migPage s x.ctx a .fetch with
    | some p => .error p
    | none => .ok (noteBadLeaf s x.ctx a .fetch, .unreadable (mkFault s x.ctx .fetch 3 va c st lv))
  | .error (_, _) => .error (2 ^ 64)

/-- R156, R428: a dictionary entry whose new read waits is read, once nothing holds the read; a page that firmware can resolve is asked
for. -/
def settleEntry (s : State) (b k : Nat) : State :=
  if (blkD s b).dict[k]? ≠ some .pending then s else
  match readDict s b k with
  | .ok (u, e) => updBlk u b (fun x => { x with dict := x.dict.set k e })
  | .error p => if p = 2 ^ 64 then s else askMigration s (blkD s b).ctx p

/-- R156: the entries of a dictionary from one on. -/
def readDicts (s : State) (b k n : Nat) (out : List DictEnt) : Except Nat (State × List DictEnt) :=
  match n with
  | 0 => .ok (s, out)
  | m + 1 =>
    match readDict s b k with
    | .error p => .error p
    | .ok (t, e) => readDicts t b (k + 1) m (out ++ [e])

/-- R156: a block's dictionary is loaded; a page that firmware can resolve is asked for instead. -/
def loadDict (s : State) (b : Nat) : State × Bool :=
  match readDicts s b 0 (blkD s b).kd.dictn [] with
  | .ok (t, ds) => (updBlk t b (fun x => { x with dict := ds }), true)
  | .error p => (if p = 2 ^ 64 then s else askMigration s (blkD s b).ctx p, false)

/-- R21 steps 3 to 5, R217: the fibres of a slot at its first start. -/
def firstFibs (s : State) (b k : Nat) : List Fibre :=
  let kd := (blkD s b).kd
  (List.range 4).map (fun f =>
    let d := kd.fibs.getD f {}
    if d.nlane = 0 then {} else
    startFib (BitVec.ofNat 64 (kd.code + 2 * d.entry)) (BitVec.ofNat 32 (2 ^ d.nlane - 1)) d.wb (fibSeed s b k f))

/-- R329, R330: the sequencer at its start. -/
def firstSeq (s : State) (b : Nat) : Option Seqr :=
  let x := blkD s b
  if x.kd.mstr = 0 then none else
  some { mpc := BitVec.ofNat 64 (x.kd.mstr + 2 * x.kd.mentry)
         q := ((List.replicate 32 (0 : DWord)).set 0 (BitVec.ofNat 64 x.task)).set 1
           (BitVec.ofNat 64 (launchD s x.launch).tr.ntask) }

/-- R36, R41, R429: a fibre goes on after a save: its groups have waited equally long, and its parked lanes try again, but for those
that a replay entry has just parked. -/
def resumeFib (clk : Nat) (x : Fibre) : Fibre :=
  { x with since := 0, group := [], gcount := 0, lanes := x.lanes.map (fun y =>
      let z := { y with age := clk, right := none }
      match y.st with
      | .parked (.fault i) => if x.st = .live ∧ i.pc.isNone then { z with st := .issuable } else z
      | .parked _ => if x.st = .live then { z with st := .issuable } else z
      | _ => z) }

/-- R342: a sequencer that a fault holds without a ticket tries again. -/
def resumeSeq (s : State) (b : Nat) (q : Seqr) : Seqr :=
  if q.st = .faulted ∧ !s.tickets.any (fun p => decide (p.2.src = .seqr b)) then { q with st := .running, fault := none } else q

/-- R21 step 5: a block runs. -/
def runBlock (s : State) (b : Nat) : State :=
  let x := blkD s b
  if x.savedAt = 0 then
    updBlk s b (fun y => { y with
      st := .running, seqr := firstSeq s b
      slots := (List.range y.slots.length).map (fun k => ({ fibs := firstFibs s b k } : Slot)) })
  else
    updBlk s b (fun y => { y with
      st := .running, savedAt := 0, seqr := y.seqr.map (resumeSeq s b)
      slots := y.slots.map (fun k => { k with fibs := k.fibs.map (resumeFib s.clk) }) })

/-- R474: a block that a pre-emption has reached while it was loading. -/
def obeyHalt (s : State) (b : Nat) : State :=
  if (blkD s b).halt then quiesce (updBlk s b (fun x => { x with halt := false })) b false else s

/-- R27, R30: the blocks that start together. -/
def startUnit (s : State) (b : Nat) : List Nat :=
  let n := (blkD s b).launch
  if (launchD s n).tr.gang then (s.blocks.filter (fun p => p.2.launch == n)).map (·.1) else [b]

/-- R21, R27: a block starts once it and every member of its gang is loaded. -/
def startBlock (s : State) (b : Nat) : State :=
  let us := startUnit s b
  let l := launchD s (blkD s b).launch
  if l.tr.gang ∧ !l.waiting.isEmpty then s else
  let r := us.foldl (fun t k => if (blkD t k).st = .loading then replayStores t k else t) s
  if !us.all (fun k => loaded r k && replayDone r k) then r else
  let (t, ok) := us.foldl (fun (p : State × Bool) k => if p.2 then loadDict p.1 k else p) (r, true)
  if !ok then t else
  let u := us.foldl runBlock t
  us.foldl obeyHalt u

/-- R21: BLOCK_START. -/
def execBlockStart (blk : Nat) (s : State) : Out :=
  blkEvent blk s (fun t => if (mget t.blocks blk).isSome then startBlock t blk else t)

end Sys2Proof.Machine
end

