-- ==== Sys2Proof/Machine/SaveArea.lean ====
section
/-!
DEFINITION. The save area of a saved block as the bytes of its frames: the replay entries of R437, and the regions and the fibre table of
R440. No access reaches them (R439), so that the block's own fields hold the contents; what R437 and R440 leave open of a place within a
region is the model's choice (log entry 40).
-/

namespace Sys2Proof.Machine

/-! ### Replay entries (R437) -/

/-- R437: the fields of a replay entry. -/
structure EntryWord where
  kind : Nat
  data : Nat := 0
  cmp : Nat := 0
  addr : Nat := 0
  pc : Nat := 0
  insn : Nat := 0
  ext : Nat := 0
  seq : Nat := 0
  dreg : Option Nat := none
  ridx : Nat := 0
  slot : Nat := 0
  fib : Nat := 0
  lane : Nat := 0
  ctr : Nat := 15
  deriving DecidableEq, Repr

/-- R437: the 64 bytes of a replay entry. -/
def EntryWord.bytes (e : EntryWord) : List Byte :=
  natLe 64 (e.kind + 2 ^ 64 * (e.ctr % 16 + (if e.dreg.isNone then 16 else 0) + 32 * (e.lane % 32) + 1024 * (e.fib % 4) +
    4096 * (e.slot % 16) + 65536 * (e.ridx % 64) + 2 ^ 22 * (e.dreg.getD 0 % 1024) + 2 ^ 32 * (e.seq % 2 ^ 32) +
    2 ^ 64 * (e.ext % 2 ^ 32) + 2 ^ 96 * (e.insn % 2 ^ 32) + 2 ^ 128 * (e.pc % 2 ^ 64) + 2 ^ 192 * (e.addr % 2 ^ 64) +
    2 ^ 256 * (e.cmp % 2 ^ 64) + 2 ^ 320 * (e.data % 2 ^ 128)))

/-- R437: the entry of a lane access or of a tile store, with the tile copy that it uses. -/
def Replay.word (r : Replay) (copy : Nat) : EntryWord :=
  let (a, bs) := r.items.headD (0, [])
  { kind := if r.tile then 5 else 1
    data := if r.tile then copy else ((r.acc.map (·.b)).getD (leNat bs))
    cmp := (r.acc.map (fun x => if x.f = 6 ∨ x.f = 7 then x.c else 0)).getD 0
    addr := a, pc := r.pc.toNat, insn := r.insn.toNat, ext := r.ext.toNat, seq := r.seq
    dreg := r.acc.map (·.reg), ridx := r.rep, slot := r.slot, fib := r.fib, lane := r.lane }

/-- R437: the KIND of an operation's entries. -/
def OpKind.entry (k : OpKind) : Nat :=
  match k with
  | .atomic => 1
  | .coll => 4
  | .smap | .sunmap | .sfill | .sclean | .sdrop => 3
  | _ => 2

/-- R437: the entry of an element of an operation. -/
def Op.word (id : Nat) (o : Op) (x : Elem) : EntryWord :=
  { kind := o.kind.entry, data := x.val
    cmp := if o.kind = .atomic ∧ (o.code = 8 * 0x2C + 6 ∨ o.code = 8 * 0x2D + 7) then x.val2 else 0
    addr := if o.kind.entry = 3 then x.loc else x.va
    pc := o.pc.toNat, insn := o.insn.toNat, ext := o.ext.toNat, seq := id
    dreg := if o.kind = .gather ∧ o.code ≠ 4 then some o.reg else none
    ridx := o.rep, slot := o.slot, fib := o.fib, lane := x.lane, ctr := o.cls }

/-- R437: the entries of an operation: one per element, one where it has none of its own. -/
def opWords (s : State) (id : Nat) (o : Op) : List EntryWord :=
  let els := match o.win.bind (mget s.windows) with
    | some w => w.elems.filter (fun x => x.op == id)
    | none => o.elems
  match els with
  | [] => [Op.word id o { lane := 0, loc := o.x }]
  | _ => els.map (Op.word id o)

/-- R437: the entries of the copies of a block that have not run to their end. -/
def copyWords (x : Block) : List EntryWord :=
  (x.handles.filter (fun h => decide (h.2.st = .filling) || decide (h.2.st = .draining))).map (fun h =>
    { kind := 6, data := h.2.copied, addr := h.2.decl.lbase, seq := h.1 })

/-- R437, R440: the replay log of a core of a block: its slots' entries in the order of their positions; that of slot 0 holds those of
the sequencer and of the copies too. -/
def replayLog (s : State) (b core : Nat) : List EntryWord :=
  let x := blkD s b
  let here (slot : Nat) : Bool := decide (coreOf x slot = core)
  let tiles := s.replays.filter (fun r => r.blk == b && r.tile)
  (s.replays.filter (fun r => r.blk == b && !r.tile && here r.slot)).map (·.word 0) ++
  ((s.ops.filter (fun p => p.2.blk == b && here p.2.slot)).flatMap (fun p => opWords s p.1 p.2)) ++
  (if here 0 then (List.range tiles.length).flatMap (fun k => ((tiles[k]?).map (·.word k)).toList) ++ copyWords x else [])

/-! ### The regions (R440) -/

/-- Bytes with zeros after them up to a length. -/
def padTo (n : Nat) (bs : List Byte) : List Byte := (bs ++ List.replicate (n - bs.length) 0).take n

/-- R45: the code of a lane's state, its place in the table. -/
def LaneSt.code (x : LaneSt) : Nat :=
  match x with
  | .notLaunched => 0
  | .issuable => 1
  | .held _ _ => 2
  | .parked _ => 3
  | .exited => 5

/-- R46: the code of a fibre's state, its place in the table. -/
def Fibre.code (x : Fibre) : Nat :=
  match x.st with
  | .empty => 0
  | .live => if x.wait.isSome then 2 else if lanes32.any (issuable x) then 1 else 3
  | .frozen => 4
  | .stopped => 5
  | .ended => 6

/-- R304: the code of a stream's state. -/
def StreamSt.code (x : StreamSt) : Nat :=
  match x with
  | .closed => 0
  | .openSt => 1
  | .ended => 2
  | .error => 3

/-- R304, R440: the 32 bytes of a stream register. -/
def Stream.bytes (x : Stream) : List Byte :=
  padTo 32 (natLe 8 x.st.code ++ natLe 8 x.base.toNat ++ natLe 4 x.row.toNat ++ natLe 4 x.rend.toNat ++ natLe 4 x.rbeg.toNat ++
    natLe 4 x.pos.toNat)

/-- R440: the fibre table: the 4 KiB of a fibre position. -/
def fibreTable (s : State) (b k f : Nat) : List Byte :=
  let x := fibD s b k f
  let bad (l : Nat) : Bool := (slotD s b k).regs.any (fun p => p.2.poison.testBit l)
  padTo 0x40 ((List.range 12).flatMap (fun m => natLe 4 (maskOf (maskLanes x m)))) ++
  padTo 0x40 (([x.code, if x.stopReq then 1 else 0, x.wb, x.gen.toNat, x.drops.toNat] ++ x.ctrs).flatMap (natLe 4)) ++
  padTo 0x180 (x.streams.flatMap Stream.bytes) ++
  lanes32.flatMap (fun l => natLe 8 (laneD x l).pc.toNat) ++
  lanes32.flatMap (fun l => natLe 8 (laneD x l).meet.toNat) ++
  lanes32.flatMap (fun l => natLe 1 (laneD x l).st.code ++ natLe 1 (laneD x l).rep ++ natLe 1 (laneD x l).depth ++
    natLe 1 (if bad l then 1 else 0)) ++
  padTo 0xB80 (padTo 126 (x.wstack.flatMap (natLe 2)))

/-- R440: the spill area of a slot: chunk c at offset 1 KiB × c. -/
def spillArea (x : Slot) : List Byte :=
  (List.range 128).flatMap (fun c => (List.range 8).flatMap (fun j =>
    lanes32.flatMap (fun l => natLe 4 (((mget x.regs (8 * c + j)).map (fun r => (r.vals.getD l 0).toNat)).getD 0))))

/-- R440: the sequencer's tiles, weight slots with their fields, and tile copies. -/
def seqrArea (s : State) (b : Nat) (q : Seqr) : List Byte :=
  let tiles := s.replays.filter (fun r => r.blk == b && r.tile)
  (List.range 8).flatMap (fun t => padTo 0x4000 ((mgetD q.tiles t []).flatMap (fun w => natLe 4 w.toNat))) ++
  (List.range 4).flatMap (fun k => padTo 0x10000 (match mget q.slots k with
    | none => []
    | some w => natLe 8 w.tb ++ natLe 8 (if w.sb then 1 else 0) ++ natLe 8 w.n ++ natLe 8 w.kb ++ w.raw)) ++
  (List.range 4).flatMap (fun k => padTo 0x4000 (((tiles[k]?).map (fun r => r.items.flatMap (·.2))).getD []))

/-- R440: the image of a bank of the block's core `k`; one that is a ring ends in its head, its tail and its closed flag. -/
def bankImage (x : Block) (k bank : Nat) : List Byte :=
  let key := k * 2 ^ 20 + bank * 0x4000
  let bs := (List.range 0x4000).map (fun j => Memory.rd x.savedSram (key + j))
  match mget x.savedRings key with
  | none => bs
  | some r => bs.take (0x4000 - 12) ++ natLe 4 r.head ++ natLe 4 r.tail ++ natLe 4 (if r.closed then 1 else 0)

/-- R440: the banks of a block that have an image: those in SCRATCH, STASH or FIFO mode. -/
def imageBanks (kd : KDesc) : List Nat := (List.range 64).filter (fun j => [1, 2, 4].contains (modeOf kd j))

/-- R440: the header. -/
def headerArea (s : State) (b : Nat) : List Byte :=
  let x := blkD s b
  let q := x.seqr.getD {}
  natLe 4 x.task ++ natLe 8 x.launch ++ x.kd.plan.flatMap (natLe 1) ++
  x.handles.flatMap (fun h => natLe 4 h.1 ++ natLe 4 (match h.2.st with
    | .free => 0
    | .filling => 1
    | .full => 2
    | .draining => 3) ++ natLe 8 h.2.copied) ++
  x.binds.flatMap (fun d => natLe 8 d.obj ++ natLe 8 d.base ++ natLe 8 d.len) ++
  x.bars.flatMap (fun z => natLe 4 z.phase ++ natLe 8 (maskOf z.arrived)) ++
  q.q.flatMap (fun v => natLe 8 v.toNat) ++ natLe 8 q.mpc.toNat ++ [q.ta, q.tb, q.m, q.n].flatMap (natLe 4) ++
  (blockCores x).flatMap (fun c => natLe 4 (replayLog s b c).length) ++
  x.savedMaps.flatMap (fun p => natLe 8 p.2.gbase.toNat ++ [p.2.core, p.2.lbase, p.2.fwid, p.2.foff, p.2.stride, p.2.count].flatMap (natLe 4))

/-- R440: the regions of a block's save area, in order, as offset and contents. -/
def saveRegions (s : State) (b : Nat) : List (Nat × List Byte) :=
  let x := blkD s b
  let n := x.kd.nslot
  let seq := if x.kd.mstr = 0 then 0 else 7
  let cores := blockCores x
  let banks := (List.range cores.length).flatMap (fun k => (imageBanks x.kd).map (fun j => (k, j)))
  let at1 := 1 + (n + 3) / 4
  let at2 := at1 + seq
  let at3 := at2 + 4 * cores.length
  let at4 := at3 + (banks.length + 3) / 4
  let out : List (Nat × List Byte) := [(0, headerArea s b),
    (1, (List.range n).flatMap (fun k => (List.range 4).flatMap (fibreTable s b k)))] ++
    (if seq = 0 then [] else [(at1, seqrArea s b (seqD s b))]) ++
    (List.range cores.length).map (fun j => (at2 + 4 * j, (replayLog s b (cores.getD j 0)).flatMap EntryWord.bytes)) ++
    [(at3, banks.flatMap (fun p => bankImage x p.1 p.2))] ++
    (List.range n).map (fun k => (at4 + 2 * k, spillArea (slotD s b k)))
  out.map (fun p => (p.1 * 65536, p.2))

end Sys2Proof.Machine
end

