-- ==== Sys2Proof/Machine/Faults.lean ====
section
/-!
DEFINITION. Kennel firmware and failed walks (R428 to R431).
-/

namespace Sys2Proof.Machine

/-! ### What firmware finds (R428) -/

/-- R428: an entry that the failed walk used has changed; a migration or a remote mapping would resolve it, and is asked for; or
it stays unresolved. -/
inductive Verdict
  | gone | asked (s : State) | stays
  deriving DecidableEq, Repr

/-- R428: the examination of one failed walk. -/
def verdict (s : State) (c : Nat) (i : FaultInfo) : Verdict :=
  if faultGone s c i then .gone
  else match (if i.cause = 0x06 then none else migPage s c i.addr i.kind) with
    | some p => .asked (askMigration s c p)
    | none => .stays

/-- R428: one parked lane of a fibre is examined. -/
def examineLane (b k f : Nat) (s : State) (p : Nat × FaultInfo) : State :=
  if p.2.examined then s else
  let c := (blkD s b).ctx
  match verdict s c p.2 with
  | .gone => updFib s b k f (fun x => updLanes x [p.1] (fun _ y => { y with st := .issuable }))
  | .asked t => t
  | .stays => updFib (noteBadLeaf s c p.2.addr p.2.kind) b k f (fun x => updLanes x [p.1] (fun _ y =>
      { y with st := .parked (.fault { p.2 with examined := true }) }))

/-- R302, R431: the elements of an embedding operation whose row faults; all of them where the table itself does. -/
def embFaults (s : State) (o : Op) (k : AccKind) (els : List Elem) : List Elem :=
  match readTable s o.ctx o.core o.x with
  | .error _ => els
  | .ok (t, tb) => els.filter (fun x => match embRows t o tb k [x] with
    | .error _ => true
    | .ok _ => false)

/-- R326, R431: the elements of a binning operation whose overflow write faults. -/
def binFaults (s : State) (o : Op) : List Elem :=
  (o.elems.foldl (fun (p : BinRun × List Elem) x =>
    let w := binKey o p.1 x
    if w.fault.isSome then (p.1, p.2 ++ [x]) else (w, p.2)) ({ s := s }, [])).2

/-- R431: the lanes whose elements of an operation fault; all of its lanes where none does of itself. -/
def opLanes (s : State) (id : Nat) (o : Op) (i : FaultInfo) : List Nat :=
  let els := match o.win.bind (mget s.windows) with
    | some w => w.elems.filter (fun x => x.op == id)
    | none => o.elems
  let bad := match o.kind with
    | .embLoad => embFaults s o .read els
    | .embUpdate => embFaults s o .atomic els
    | .bin => binFaults s o
    | _ => els.filter (fun x => decide (x.va ≠ 0) && (match xlate s o.ctx o.core x.va i.kind with
      | .ok _ => false
      | _ => true))
  let ls := (if bad.isEmpty then els else bad).map (·.lane)
  lanes32.filter (fun l => ls.contains l)

/-- R430, R431: the ticket of an engine operation. -/
def opTicket (s : State) (id : Nat) (o : Op) (i : FaultInfo) : State :=
  let ls := opLanes s id o i
  newTicket s o.ctx (.op id) (o.ctx :: ancestors s o.ctx)
    ([(0, 0x0B + 65536 * i.cause + 16777216 * 3), (4, (blkD s o.blk).task), (5, whereWord s o.blk o.slot o.fib), (6, maskOf ls),
      (7, lowest ls + 256 * o.rep), (8, o.pc.toNat % 2 ^ 32), (9, o.pc.toNat / 2 ^ 32), (10, o.insn.toNat), (11, o.ext.toNat), (14, i.acc)] ++
      addrField i.addr)

/-- R430: the fault of one engine operation is examined. -/
def examineOp (s : State) (id : Nat) : State :=
  match mget s.ops id with
  | none => s
  | some o =>
    match o.fault with
    | none => s
    | some i =>
      if i.examined then s else
      match verdict s o.ctx i with
      | .gone => { s with ops := mset s.ops id { o with fault := none } }
      | .asked t => t
      | .stays =>
        let t : State := { s with ops := mset s.ops id { o with fault := some { i with examined := true } } }
        opTicket (noteBadLeaf t o.ctx i.addr i.kind) id o i

/-- R431: the words of a record of a block's own agent: WHERE is that of slot 0. -/
def agentFields (s : State) (b agent : Nat) (i : FaultInfo) : List (Nat × Nat) :=
  [(0, 0x0B + 65536 * i.cause + 16777216 * agent), (4, (blkD s b).task), (5, whereWord s b 0 0), (14, i.acc)]

/-- R342, R430: the fault of a block's sequencer is examined. -/
def examineSeq (s : State) (b : Nat) : State :=
  let q := seqD s b
  let c := (blkD s b).ctx
  match q.fault with
  | none => s
  | some i =>
    if i.examined ∨ q.st ≠ .faulted then s else
    match verdict s c i with
    | .gone => updSeq s b (fun q => { q with st := .running, fault := none })
    | .asked t => t
    | .stays =>
      newTicket (noteBadLeaf (updSeq s b (fun q => { q with fault := some { i with examined := true } })) c i.addr i.kind) c (.seqr b)
        (c :: ancestors s c) (agentFields s b 1 i ++ addrField i.addr ++
          [(8, q.mpc.toNat % 2 ^ 32), (9, q.mpc.toNat / 2 ^ 32), (10, i.insn.toNat), (11, i.ext.toNat)])

/-- R113, R430: the fault of a handle's copy is examined. -/
def examineCopy (b : Nat) (s : State) (h : Nat) : State :=
  let c := (blkD s b).ctx
  match (mget (blkD s b).handles h).bind (·.fault) with
  | none => s
  | some i =>
    if i.examined then s else
    let put (t : State) (v : Option FaultInfo) : State :=
      updBlk t b (fun x => { x with handles := mupd x.handles h (fun y => { y with fault := v }) })
    match verdict s c i with
    | .gone => put s none
    | .asked t => t
    | .stays =>
      newTicket (noteBadLeaf (put s (some { i with examined := true })) c i.addr i.kind) c (.copy b h) (c :: ancestors s c)
        (agentFields s b 2 i ++ addrField i.addr ++ [(15, h)])

/-- R23, R430: the fault of a join decrement is examined. -/
def examineJoin (s : State) (b : Nat) : State :=
  let x := blkD s b
  match x.joinFault with
  | none => s
  | some i =>
    if i.examined then s else
    match verdict s x.ctx i with
    | .gone => updBlk s b (fun y => { y with joinFault := none })
    | .asked t => t
    | .stays =>
      newTicket (noteBadLeaf (updBlk s b (fun y => { y with joinFault := some { i with examined := true } })) x.ctx i.addr i.kind) x.ctx (.join b)
        (x.ctx :: ancestors s x.ctx) (agentFields s b 4 i ++ addrField (launchD s x.launch).tr.join)

/-- R428: firmware examines what has failed in a fibre, or for slot 16 in the block's own agents. -/
def examineFaults (s : State) (b k f : Nat) : State :=
  if (mget s.blocks b).isNone then s
  else if k = 16 then examineJoin (((blkD s b).handles.map (·.1)).foldl (examineCopy b) (examineSeq s b)) b
  else
    let t := (faultLanes (fibD s b k f)).foldl (examineLane b k f) s
    let ids := (t.ops.filter (fun p => p.2.blk == b && p.2.slot == k && p.2.fib == f)).map (·.1)
    reportParked (ids.foldl examineOp t) b k f

/-- R428: FAULT_EXAMINE. -/
def execFaultExamine (blk slot fib : Nat) (s : State) : Out := blkEvent blk s (fun t => examineFaults t blk slot fib)

end Sys2Proof.Machine
end

