-- ==== Sys2Proof/Machine/Issue.lean ====
section
/-!
DEFINITION. Which group of a fibre issues (R31 to R37), and the events of issue: results and refills that return, forced
switches, the reads of TRYW.
-/

namespace Sys2Proof.Machine

/-! ### Groups (R36, R163) -/

/-- R36, R163: two lanes of a fibre stand at one address with one repeat index. -/
def sameGroup (x : Fibre) (a b : Nat) : Bool :=
  decide ((laneD x a).pc = (laneD x b).pc) && decide ((laneD x a).rep = (laneD x b).rep)

/-- R36: the lanes that may issue. -/
def readyLanes (x : Fibre) : List Nat := lanes32.filter (issuable x)

/-- R36: the lanes that issue with a lane. -/
def groupOf (x : Fibre) (l : Nat) : List Nat := (readyLanes x).filter (sameGroup x l)

/-- R36: the lowest lane of the group that has waited longest. -/
def oldestLane (x : Fibre) : Option Nat :=
  let ls := readyLanes x
  match ls with
  | [] => none
  | l :: r =>
    let m := r.foldl (fun a j => min a (laneD x j).age) (laneD x l).age
    ls.find? (fun j => (groupOf x j).any (fun i => decide ((laneD x i).age = m)))

/-- R36: the group that a fibre issues: the one it has selected while its lanes stay together, else the one that has waited
longest. -/
def selectGroup (x : Fibre) : List Nat :=
  match x.group with
  | l :: r =>
    if (l :: r).all (fun j => issuable x j && sameGroup x l j) then groupOf x l
    else ((oldestLane x).map (groupOf x)).getD []
  | [] => ((oldestLane x).map (groupOf x)).getD []

/-- R31: a fibre is ready. -/
def fibReady (x : Fibre) : Bool := decide (x.st = .live) && x.wait.isNone && !(readyLanes x).isEmpty

/-- R36: GROUP_SELECT: after 64 instructions of one group the fibre selects again. -/
def groupSelect (s : State) (b k f : Nat) : State :=
  if 64 ≤ (fibD s b k f).gcount then updFib s b k f (fun x => { x with group := [], gcount := 0 }) else s

/-- R36: GROUP_SELECT. -/
def execGroupSelect (blk slot fib : Nat) (s : State) : Out := event s (fun t => groupSelect t blk slot fib)

/-! ### Forced switches (R33) -/

/-- R33: some other fibre of the slot is ready. -/
def otherReady (s : State) (b k f : Nat) : Bool :=
  (List.range 4).any (fun g => decide (g ≠ f) && fibReady (fibD s b k g))

/-- R33: a fibre that has issued 64 instructions without a switch point yields where another is ready; else its count
restarts. -/
def forcedSwitch (s : State) (b k f : Nat) : State :=
  if (fibD s b k f).since < 64 then s
  else if otherReady s b k f then updSlot (passOn s b k f) b k (fun x => { x with forced := x.forced + 1 })
  else updFib s b k f (fun x => { x with since := 0 })

/-- R33: FORCED_SWITCH. -/
def execForcedSwitch (blk slot fib : Nat) (s : State) : Out := event s (fun t => forcedSwitch t blk slot fib)

/-! ### Returns (R32, R35, R61) -/

/-- R35: the results of a register return, but for those that an operation still holds and those whose fixed latency runs (R34); loads
among them may be performed only now (R121). A fibre that waited for them alone goes on (`settle`). -/
def returnReg (s : State) (b k a : Nat) : State :=
  let fs := s.flights.filter (fun x => x.blk == b && x.slot == k && decide (x.reg ≤ a) && decide (a < x.reg + (x.w + 3) / 4) && x.stands s)
  let t := fs.foldl relook s
  updSlot (landFlights t fs.contains) b k (fun x => { x with regs := mupd x.regs a (fun r => { r with stale := r.stale.filter (fun t =>
    t.due.isSome || (t.op.map (fun n => (mget s.ops n).isSome)).getD false) }) })

/-- R35: REGISTER_RESULT_RETURN. -/
def execRegisterResultReturn (blk slot reg : Nat) (s : State) : Out := event s (fun t => returnReg t blk slot reg)

/-- R58, R61: a refilled chunk becomes Resident, or Unallocated where its registers have died meanwhile. -/
def refillDone (s : State) (b k c : Nat) : State :=
  updSlot s b k (fun x => freeChunks { x with chunks := mupd x.chunks c (fun y =>
    if y.st = .refilling then { st := .resident, used := x.issues } else y) })

/-- R61: CHUNK_REFILL_COMPLETE. -/
def execChunkRefillComplete (blk slot chunk : Nat) (s : State) : Out := event s (fun t => refillDone t blk slot chunk)

/-! ### The reads of TRYW and TRYWL (R214) -/

/-- A waiting TRYW or TRYWL as its words stand in the wait: its function and operands. -/
def trywOf (ps : List Parcel16) : Option (BitVec 3 × RX) :=
  match frame (wordOf (par ps 0) (par ps 1)) (wordOf (par ps 2) (par ps 3)) with
  | some (r, _) =>
    match r.x with
    | some x => if r.op = 0x3C then some (r.f, { s := r.s, d := r.d, a := r.a, b := r.b, x := x }) else none
    | none => none
  | none => none

/-- The state after a meaning that cannot stop. -/
def Out.get (o : Out) (s : State) : State :=
  match o with
  | .next t => t
  | _ => s

/-- R214: the core reads again for a fibre that waits in TRYW or TRYWL. -/
def readAgain (s : State) (b k f : Nat) : State :=
  match ((fibD s b k f).wait).bind (·.env) with
  | none => s
  | some e =>
    match trywOf e.i.code with
    | none => s
    | some (fn, r) =>
      let t : State := { s with cur := some e.i }
      (if fn = 0 then execTryw r t else execTrywl r t).get s

/-- R214: TRYW_RECHECK: a write to the line was signalled. -/
def execTrywRecheck (blk slot fib : Nat) (s : State) : Out := event s (fun t => readAgain t blk slot fib)

/-- R214: TRYW_POLL: 4096 clk have passed since the last read. -/
def execTrywPoll (blk slot fib : Nat) (s : State) : Out := event s (fun t => readAgain t blk slot fib)

/-- R214: the clk at which a lane's timeout elapses; 0 where it has none. -/
def timeoutAt (s : State) (b k f l : Nat) : Nat :=
  match (fibD s b k f).wait with
  | none => 0
  | some w => match w.env with
    | none => 0
    | some e => if (wd e.c 0 l) = 0 then 0 else w.start + (wd e.c 0 l).toNat

end Sys2Proof.Machine
end

