-- ==== Sys2Proof/Machine/Sched.lean ====
section
/-!
DEFINITION. Lending and reclaim (R394, R395), slices and tenancy (R458), collective group entries (R467).
-/

namespace Sys2Proof.Machine

/-! ### Lending and reclaim (R394, R395) -/

/-- R395: the borrowing blocks on some quads of a die are frozen, to be saved and re-queued at the head. -/
def reclaimQuads (s : State) (die mask : Nat) : State :=
  (s.blocks.filter (fun p => p.2.borrowed && p.2.resident && decide (p.2.die = die) && mask.testBit p.2.quad)).foldl
    (fun t p => quiesce t p.1 true) s

/-- R394, R412: the status of a write of a LEND register. -/
def lendStatus (s : State) (c k : Nat) (v : Word) : Nat :=
  let x := ctxD s c
  let m := v.toNat % 65536
  match x.dies[k]? with
  | none => if m = 0 ∧ k < 4 then 0 else 4
  | some d => if m &&& (x.quads.getD d 0) = m then 0 else 4

/-- R394, R395: a write of a LEND register that is performed; quads that leave it are reclaimed. -/
def writeLend (s : State) (c k : Nat) (v : Word) : State :=
  if lendStatus s c k v ≠ 0 then s else
  match (ctxD s c).dies[k]? with
  | none => s
  | some d =>
    let old := (ctxD s c).lent.getD d 0
    let m := v.toNat % 65536
    reclaimQuads (updCtx s c (fun x => { x with lent := x.lent.set d m })) d (old - (old &&& m))

/-- R394: LEND_WRITE. -/
def execLendWrite (ctx k : Nat) (v : Word) (s : State) : Out := event s (fun t => writeLend t ctx k v)

/-- R395: a block of the holder's subtree is ready and eligible for a lent quad: one of the holder's own, since no share of its children
reaches a quad that it has lent (R458). -/
def wantsBack (s : State) (h die : Nat) : Bool := readyOn s h die

/-- R395: a lent quad is reclaimed once a block of its holder's subtree is ready for it. -/
def reclaimQuad (s : State) (c vd q : Nat) : State :=
  match (ctxD s c).dies[vd]? with
  | none => s
  | some d => if isLent s c d q ∧ wantsBack s c d then reclaimQuads s d (2 ^ q) else s

/-- R395: every lent quad that its holder's subtree wants back is reclaimed. -/
def reclaimDue (s : State) : State :=
  s.ctxs.foldl (fun t p => (List.range p.2.dies.length).foldl (fun u vd =>
    match p.2.dies[vd]? with
    | none => u
    | some d => if p.2.st = .free ∨ p.2.lent.getD d 0 = 0 ∨ !wantsBack u p.1 d then u else reclaimQuads u d (p.2.lent.getD d 0)) t) s

/-- R395: QUAD_RECLAIM. -/
def execQuadReclaim (ctx vd quad : Nat) (s : State) : Out := ctxEvent ctx s (fun t => reclaimQuad t ctx vd quad)

/-! ### Slices (R458) -/

/-- R458: the candidates among which a context chooses for the quads of a holder. -/
def slateOf (s : State) (h c : Nat) : List Nat := c :: (childrenOf s c).filter (fun d => candidate s h 8 d)

/-- R458: a context has a ready block for the quads of a holder: one that waits for them, or one that stands on them. -/
def hasReady (s : State) (h c : Nat) : Bool :=
  schedulable s c && (List.range 4).any (fun d => decide (ownUnlent s h d ≠ 0) && (readyOn s c d ||
    s.blocks.any (fun p => decide (p.2.ctx = c) && !p.2.borrowed && p.2.resident && decide (p.2.die = d) &&
      (ownUnlent s h d).testBit p.2.quad)))

/-- R458: the share of a candidate: the chooser's own rest, or a child's TSHARE. -/
def shareOf (s : State) (c d : Nat) : Int :=
  if d = c then (4096 : Int) - (sumKids s c (·.tshare) : Nat) else ((ctxD s d).tshare : Nat)

/-- R458: the key of a credit. -/
def creditKey (h c : Nat) : Nat := h * 4096 + c

/-- R458: the credit of a candidate. -/
def creditOf (s : State) (h c d : Nat) : Int := mgetD (ctxD s d).credit (creditKey h c) 0

/-- R458: a candidate's credit at a boundary. -/
def addCredit (h c : Nat) (s : State) (d : Nat) : State :=
  let old := creditOf s h c d
  let new := if hasReady s h d then old + shareOf s c d else min old 0
  updCtx s d (fun x => { x with credit := mset x.credit (creditKey h c) new })

/-- R458: one choice of a tenant: the greatest credit, ties to the chooser and then to the lowest number. -/
def chooseOne (s : State) (h c : Nat) : State × Nat :=
  let t := (slateOf s h c).foldl (addCredit h c) s
  let best := (slateOf s h c).foldl (fun a d => if creditOf t h c a < creditOf t h c d then d else a) c
  (updCtx (updCtx t best (fun x => { x with credit := mset x.credit (creditKey h c) (creditOf t h c best - 4096) })) c
    (fun x => { x with tenant := mset x.tenant h best }), best)

/-- R458: the choice, and those of the child tenants under it. -/
def chooseTenant (s : State) (h : Nat) (n c : Nat) : State :=
  match n with
  | 0 => s
  | k + 1 =>
    let (t, d) := chooseOne s h c
    if d = c then t else chooseTenant t h k d

/-- R458: the blocks of a former tenant on the quads of a holder are pre-empted. -/
def evictTenant (s : State) (h old : Nat) : State :=
  (s.blocks.filter (fun p => decide (p.2.ctx = old) && !p.2.borrowed && p.2.resident &&
    (ownUnlent s h p.2.die).testBit p.2.quad)).foldl (fun t p => quiesce t p.1 false) s

/-- R458: a slice boundary of a holder's quads. -/
def sliceBoundary (s : State) (h : Nat) : State :=
  if (ctxD s h).st = .free ∨ (List.range 4).all (fun d => decide (ownUnlent s h d = 0)) then s else
  let old := tenantOf s h
  let t := chooseTenant s h 8 h
  if tenantOf t h = old then t else evictTenant t h old

/-- R458: the uclk of a slice of a context. -/
def sliceLen (s : State) (c : Nat) : Nat := (ctxD s c).slice.toNat * 2400

/-- R458: the slice boundaries that sr.uclk has crossed since it stood at `u0`. -/
def crossSlices (s : State) (u0 : Nat) : State :=
  s.ctxs.foldl (fun t p =>
    (List.range (s.uclk / sliceLen s p.1 - u0 / sliceLen s p.1)).foldl (fun u _ => sliceBoundary u p.1) t) s

/-! ### Collective group entries (R467) -/

/-- A group entry (R467). -/
structure Group where
  en : Bool
  rlim : Nat
  gid : Nat
  kbase : Nat
  lcnt : Nat
  mm : Nat
  deriving DecidableEq, Repr

/-- R467: the fields of a group entry. -/
def groupOfEntry (v : DWord) : Group :=
  let x := v.toNat
  { en := bit x 63, rlim := bits x 62 48, gid := bits x 47 32, kbase := bits x 31 24, lcnt := bits x 23 16, mm := bits x 7 0 }

/-- R467: the status of a write of a group entry. -/
def groupStatus (v : DWord) : Nat :=
  let g := groupOfEntry v
  if bits v.toNat 15 8 ≠ 0 ∨ (g.en ∧ (g.rlim = 0 ∨ g.mm + 1 < g.kbase + g.lcnt + 1)) then 4 else 0

/-- R467: a write of a group entry that is performed. -/
def writeGroup (s : State) (c g : Nat) (v : DWord) : State :=
  if groupStatus v ≠ 0 ∨ 256 ≤ g then s else updCtx s c (fun x => { x with group := mset x.group g v })

/-- R467: GROUP_WRITE. -/
def execGroupWrite (ctx g : Nat) (v : DWord) (s : State) : Out := event s (fun t => writeGroup t ctx g v)

end Sys2Proof.Machine
end

