-- ==== Sys2Proof/Machine/Maps.lean ====
section
/-!
DEFINITION. Mappings between contexts (R406, R407) and invalidations (R423): what CTXMAP, UNMAP, TLBINV, migration and
revocation share.
-/

namespace Sys2Proof.Machine

/-! ### Invalidation (R423) -/

/-- R423: the accesses that engines have translated for some contexts are performed, and the windows that hold them close for it (log entry
40); those that stand behind a held one are translated afresh. -/
def flushOps (s : State) (cs : List Nat) : State :=
  let ws := (s.windows.filter (fun p => cs.contains (blkD s p.2.blk).ctx)).map (·.1)
  let t := ws.foldl (fun u k => windowApply { u with windows := mupd u.windows k (fun w => { w with shut := true }) } k)
    { s with blocks := s.blocks.map (fun p => if cs.contains p.2.ctx then (p.1, { p.2 with slots := p.2.slots.map (fun k =>
        { k with fibs := k.fibs.map (fun f => { f with window := none }) }) }) else p) }
  let u := ((t.ops.filter (fun p => cs.contains p.2.ctx && p.2.ready)).map (·.1)).foldl
    (fun u id => atomicComplete (retrieverComplete u id) id) t
  { u with
    ops := u.ops.map (fun p => if cs.contains p.2.ctx ∧ (p.2.kind = .atomic ∨ p.2.kind = .gather) then
      (p.1, { p.2 with ready := false }) else p)
    windows := u.windows.map (fun p => if cs.contains (blkD u p.2.blk).ctx then (p.1, { p.2 with ready := false }) else p) }

/-- R423: the stash lines of some contexts that touch some frames go back to memory. -/
def flushLines (s : State) (cs : List Nat) (frames : List Nat) : State :=
  (s.mappings.filter (fun p => cs.contains p.2.ctx)).foldl (fun t p =>
    (List.range p.2.lines.length).foldl (fun u j =>
      if (lineD u p.1 j).pas.any (fun pa => decide (pa < 2 ^ 52) && frames.contains (pa / 65536)) then invalidateLine u p.1 j else u) t) s

/-- R422, R423: the cached translations of some contexts are dropped, and the walkers' entries. -/
def dropTlb (s : State) (cs : List Nat) : State :=
  { s with tlb := s.tlb.filter (fun t => !cs.contains (t.name % 4096)), wcache := s.wcache.filter (fun h => !cs.contains (h.name % 4096)) }

/-- R423: the waiting acquires of some contexts whose object lies in some frames are translated again. -/
def flushAcqs (s : State) (cs : List Nat) (frames : List Nat) : State :=
  recallAcqs s (fun a => cs.contains (blkD s a.blk).ctx && frames.contains (a.pa / 65536))

/-- R423: an invalidation of the translations of some contexts to some frames. -/
def invalidate (s : State) (cs : List Nat) (frames : List Nat) : State :=
  dropTlb (flushLines (flushAcqs (flushOps s cs) cs frames) cs frames) cs

/-! ### Removal of a mapping (R407) -/

/-- A range of a stage 2 without the part inside some pages. -/
def cutPages (l : List S2) (lo n : Nat) : List S2 :=
  l.flatMap (fun e =>
    let hi := lo + n
    (if e.page < lo then [{ e with n := min e.n (lo - e.page) }] else []) ++
    (if hi < e.page + e.n then
      let p := max e.page hi
      [{ e with page := p, n := e.page + e.n - p, frame := e.frame + (p - e.page) }] else []))

/-- R406, R407: the leaves of a context that name a frame take its access back, or have it withdrawn. -/
def setHeld (s : State) (c frame : Nat) (v : Bool) : State :=
  (leavesOf s c frame).foldl (fun t e => updLeaf t c e.page (fun x => { x with held := v })) s

/-- R407: one leaf leaves a context; a frame that it received by XFER returns to its giver. -/
def dropLeaf (s : State) (c : Nat) (e : S2) : State :=
  let t := updCtx s c (fun x => { x with s2 := cutPages x.s2 e.page 1 })
  match e.giver with
  | some g => if e.xfer then setHeld t g e.frame false else t
  | none => t

/-- R407: the leaves of a frame that contexts hold through one. -/
def dropThrough (s : State) (n c frame : Nat) : State :=
  match n with
  | 0 => s
  | k + 1 =>
    (s.ctxs.map (·.1)).foldl (fun t d =>
      ((leavesOf t d frame).filter (fun e => decide (e.giver = some c) && decide (d ≠ c))).foldl (fun u e =>
        dropLeaf (dropThrough u k d frame) d e) t) s

/-- R407: UNMAP of one page of a context. -/
def unmapPage (s : State) (c page : Nat) : State :=
  match leafAt s c page with
  | none => s
  | some e => dropLeaf (dropThrough s 8 c e.frame) c e

/-- R407: UNMAP of a range. -/
def unmapRange (s : State) (c lo n : Nat) : State := (List.range n).foldl (fun t k => unmapPage t c (lo + k)) s

/-! ### Map records (R406) -/

/-- R406: a map record. -/
structure MapRec where
  cia : Nat
  pva : Nat
  len : Nat
  r : Bool
  w : Bool
  x : Bool
  xfer : Bool
  unmap : Bool
  bad : Bool
  deriving DecidableEq, Repr

/-- R406: a map record from its 32 bytes; `bad`: status 4. -/
def mapRecOf (bs : List Byte) : MapRec :=
  let v := leNat bs
  let cia := bits v 63 0
  let pva := bits v 127 64
  let len := bits v 159 128
  let un := bit v 164
  { cia := cia, pva := pva, len := len, r := bit v 160, w := bit v 161, x := bit v 162, xfer := bit v 163, unmap := un
    bad := decide (bits v 255 165 ≠ 0) || decide (len = 0) || decide (cia % 65536 ≠ 0) || decide (2 ^ 56 < cia + 65536 * len) ||
      (if un then decide (pva ≠ 0) || decide (bits v 163 160 ≠ 0)
       else decide (pva % 65536 ≠ 0) || !canonical pva || decide (bits v 162 160 = 0)) }

/-- R407 step 1: the leaf behind a global page of a context, where it maps the page with some permissions. A page that migrates
counts where it lies. -/
def behind (s : State) (c va : Nat) (r w x : Bool) : Option S2 :=
  let ks := (if r then [AccKind.read] else []) ++ (if w then [AccKind.write] else []) ++ (if x then [AccKind.fetch] else [])
  let at' (k : AccKind) : Option S2 :=
    match stage1 s c va k with
    | .ok l => (leafAt s c (l.ia / 65536)).bind (fun e =>
        if (e.valid || e.migr) && !e.held && !e.bad && permits k e.r e.w e.x then some e else none)
    | .error _ => none
  if canonical va ∧ ks.all (fun k => (at' k).isSome) then (ks.head?).bind at' else none

/-- R407: the leaves behind the pages of a range. -/
def behindAll (s : State) (c : Nat) (m : MapRec) : List (Option S2) :=
  (List.range m.len).map (fun k => behind s c (m.pva + 65536 * k) m.r m.w m.x)

/-- R420: a malformed stage-2 entry that the walks of a CTXMAP meet is reported. -/
def noteBehind (s : State) (c : Nat) (m : MapRec) : State :=
  let ks := (if m.r then [AccKind.read] else []) ++ (if m.w then [AccKind.write] else []) ++ (if m.x then [AccKind.fetch] else [])
  (List.range m.len).foldl (fun t k =>
    let va := m.pva + 65536 * k
    if !canonical va then t else ((ks.find? (metBadLeaf t c va)).map (noteBadLeaf t c va)).getD t) s

/-- R407 step 2: a context other than one maps a frame. -/
def othersMap (s : State) (c frame : Nat) : Bool :=
  s.ctxs.any (fun p => decide (p.1 ≠ c) && decide (p.2.st ≠ .free) && (leavesOf s p.1 frame).any (fun e => !e.held))

/-- R407 step 3: the frames newly mapped into a context. -/
def newFrames (s : State) (c : Nat) (fs : List Nat) : Nat := ((nub fs).filter (fun f => (leavesOf s c f).isEmpty)).length

/-- R407 step 4: one page of a range is mapped. -/
def mapPage (s : State) (from' to' page : Nat) (m : MapRec) (e : S2) : State :=
  let t := unmapPage s to' page
  let new : S2 := { e with page := page, n := 1, r := m.r, w := m.w, x := m.x, giver := some from', xfer := m.xfer, held := false }
  let u := updCtx t to' (fun x => { x with s2 := new :: x.s2 })
  if m.xfer then setHeld u from' e.frame true else u

/-- R407: CTXMAP without UNMAP: its status and the state after it. -/
def mapRange (s : State) (c n : Nat) (m : MapRec) : Nat × State :=
  let es := behindAll s c m
  if es.any (·.isNone) then (4, noteBehind s c m) else
  let es := es.filterMap id
  if m.xfer ∧ es.any (fun e => othersMap s c e.frame) then (5, s) else
  if (ctxD s n).frames < fmapped (ctxD s n) + savesOf s n + newFrames s n (es.map (·.frame)) then (2, s) else
  let cs := if m.xfer then c :: subtree s n else subtree s n
  let old := (List.range m.len).filterMap (fun k => frameOf s n (m.cia / 65536 + k))
  let t := invalidate s cs (es.map (·.frame) ++ old)
  (0, (es.zip (List.range m.len)).foldl (fun u p => mapPage u c n (m.cia / 65536 + p.2) m p.1) t)

end Sys2Proof.Machine
end

