-- ==== Sys2Proof/Machine/Contexts.lean ====
section
/-!
DEFINITION. Meanings of the context instructions (R386 to R407).
-/

namespace Sys2Proof.Machine

/-! ### Names (R386, R388) -/

/-- R386: a name is current. -/
def current (s : State) (name : Nat) : Bool :=
  decide ((ctxD s (name % 4096)).gen = name / 4096) && decide (name / 4096 ≠ 0) && decide ((ctxD s (name % 4096)).st ≠ .free)

/-- R388: the number of a current name of a descendant. -/
def descendant (s : State) (c name : Nat) : Option Nat :=
  if current s name ∧ isAnc s c (name % 4096) then some (name % 4096) else none

/-- R388: a context is a former ancestor of a retired name: the recorded parent, followed through retired parents. -/
def formerAncestor (s : State) (c : Nat) (n name : Nat) : Bool :=
  match n with
  | 0 => false
  | k + 1 =>
    let x := ctxD s (name % 4096)
    if x.gen ≠ name / 4096 ∨ name / 4096 = 0 ∨ x.root then false
    else if x.st = .free then
      let p := x.parent
      (current s p && (decide (p % 4096 = c) || isAnc s c (p % 4096))) || formerAncestor s c k p
    else false

/-- R388: a retired name, as a former ancestor sees it. -/
def retiredName (s : State) (c name : Nat) : Bool :=
  decide ((ctxD s (name % 4096)).st = .free) && formerAncestor s c 8 name

/-- The frame of opcodes 0x7C to 0x7F (R397 step 1, R398): a member of a subtree under revocation receives status 3. -/
def sysOp (r : Raw) (s : State) (body : Env → State → State × After) : Out :=
  perIssueOp r s (fun e t =>
    if (ctxD t (ctxIs t e.i)).st = .revoking then (wrAll r e 3 t, .advance) else body e t)

/-- R398: a status is written. -/
def status (r : Raw) (e : Env) (n : Nat) (t : State) : State × After := (wrAll r e (BitVec.ofNat 32 n) t, .advance)

/-- The word of field A, and words of field B, of the lowest active lane. -/
def Env.na (e : Env) : Nat := (wd e.a 0 e.low).toNat
/-- A word of field B of the lowest active lane. -/
def Env.nb (e : Env) (k : Nat) : Nat := (wd e.b k e.low).toNat
/-- The pair of field B of the lowest active lane. -/
def Env.pb (e : Env) : Nat := (pr e.b 0 e.low).toNat

/-! ### CTXNEW (R401) -/

/-- R392: what the children of a context take of its CALLOW. -/
def callowUsed (s : State) (c : Nat) : Nat := sumKids s c (fun x => 1 + x.callow)

/-- R401: the number of a new context: the lowest never used, else the one that has been Free longest and is not being
retagged. -/
def newNumber (s : State) : Option Nat :=
  match (List.range 4096).find? (fun n => (mget s.ctxs n).isNone) with
  | some n => some n
  | none => s.freed.find? (fun n => !(ctxD s n).retag && !s.ken.losses.any (fun l => l.tag == n))

/-- R386: the next generation. -/
def nextGen (g : Nat) : Nat := if (g + 1) % 2 ^ 20 = 0 then 1 else (g + 1) % 2 ^ 20

/-- R401: a child of a context. -/
def makeChild (s : State) (p n : Nat) : State :=
  let x : Ctx := { gen := nextGen (ctxD s n).gen, st := .created, parent := ctxName s p, depth := (ctxD s p).depth + 1,
                   part := (ctxD s p).part }
  { s with ctxs := mset s.ctxs n x, freed := s.freed.filter (· != n) }

/-- R401: the name or the status of CTXNEW. -/
def ctxNew (s : State) (p : Nat) : Nat × State :=
  let x := ctxD s p
  if x.st = .free ∨ x.st = .revoking then (3, s)
  else if x.depth = 7 then (6, s)
  else if x.callow ≤ callowUsed s p then (2, s)
  else match newNumber s with
    | none => (7, s)
    | some n => let t := makeChild s p n; (ctxName t n, t)

/-- R400: CTXNEW. -/
def execCtxnew (r : R3) (s : State) : Out :=
  let w := r.raw 0x7C#7 0#3
  sysOp w s (fun e t =>
    let c := ctxIs t e.i
    match (if e.na = 0 then some c else descendant t c e.na) with
    | none => status w e 1 t
    | some p => let q := ctxNew t p; status w e q.1 q.2)

/-! ### CTXGRANT and CTXTAKE (R392, R393, R402) -/

/-- R402: a kind word and an amount. -/
structure Budget where
  kind : Nat
  vd : Nat
  amount : Nat
  rsvd : Bool
  deriving DecidableEq, Repr

/-- R402: the operands of CTXGRANT and CTXTAKE. -/
def budgetOf (w amount : Nat) : Budget :=
  { kind := w % 16, vd := bits w 9 8, amount := amount, rsvd := decide (bits w 7 4 ≠ 0) || decide (bits w 31 10 ≠ 0) }

/-- R392: the greatest amount of a kind. -/
def kindLimit (k : Nat) : Nat :=
  match k with
  | 0 => 65535
  | 2 => 64
  | 3 => 65535
  | 4 => 47
  | 5 => 4096
  | 6 => 4095
  | 7 => 1023
  | _ => 2 ^ 32 - 1

/-- R402: status 4 of the kind word and the amount; `p`: the giver. -/
def budgetBad (s : State) (p : Nat) (b : Budget) : Bool :=
  b.rsvd || decide (8 ≤ b.kind) || (decide (b.vd ≠ 0) && decide (b.kind ≠ 0)) || decide (kindLimit b.kind < b.amount) ||
  (decide (b.kind = 0) && ((ctxD s p).dies[b.vd]?).isNone)

/-- R392, R454: a ceiling reaches a subtree and the levels of its saved blocks; a placed block keeps that of its placement. -/
def lowerCeil (s : State) (c ceil : Nat) : State :=
  let cs := subtree s c
  let t := cs.foldl (fun u d => updCtx u d (fun x => { x with ceil := if d = c then ceil else min x.ceil ceil })) s
  { t with blocks := t.blocks.map (fun p => if cs.contains p.2.ctx ∧ p.2.st = .saved then
      (p.1, { p.2 with level := min p.2.level (ctxD t p.2.ctx).ceil }) else p) }

/-- R393: a context binds a die. -/
def bindDie (x : Ctx) (die : Nat) : Ctx :=
  { x with dies := if x.dies.contains die then x.dies else x.dies ++ [die], fallen := x.fallen.filter (· != die) }

/-- R402: quads pass to a context. -/
def addQuads (x : Ctx) (die mask : Nat) : Ctx := { x with quads := x.quads.set die ((x.quads.getD die 0) ||| mask) }

/-- R402: quads leave a context, with what it lent of them. -/
def cutQuads (x : Ctx) (die mask : Nat) : Ctx :=
  let cut (m : Nat) : Nat := m - (m &&& mask)
  { x with quads := x.quads.set die (cut (x.quads.getD die 0)), lent := x.lent.set die (cut (x.lent.getD die 0)) }

/-- R427: a virtual function whose TDI lets it move. -/
def vfMoves (s : State) (vf : Nat) : Bool := decide (mgetD s.ken.tdis vf .unlocked = .unlocked)

/-- R402: CTXGRANT from `p` to `n` after the common checks. -/
def grantKind (s : State) (p n : Nat) (b : Budget) : Nat × State :=
  let x := ctxD s p
  let a := b.amount
  let upd (g : Ctx → Ctx) : Nat × State := (0, updCtx s n g)
  match b.kind with
  | 0 =>
    let d := x.dies.getD b.vd 0
    if a &&& (ownUnlent s p d) = a then (0, updCtx (updCtx s p (fun y => cutQuads y d a)) n (fun y => addQuads (bindDie y d) d a))
    else (2, s)
  | 1 => if a + sumKids s p (·.frames) ≤ x.frames then upd (fun y => { y with frames := y.frames + a }) else (2, s)
  | 2 => if a ≤ x.sbank then upd (fun y => { y with sbank := a }) else (2, s)
  | 3 => if a ≤ freeQueues s p then upd (fun y => { y with queues := y.queues + a }) else (2, s)
  | 4 => if a ≤ x.ceil then (0, lowerCeil s n a) else (2, s)
  | 5 => if a + sumKids s p (·.tshare) ≤ 4096 then upd (fun y => { y with tshare := y.tshare + a }) else (2, s)
  | 6 => if a + callowUsed s p ≤ x.callow then upd (fun y => { y with callow := y.callow + a }) else (2, s)
  | _ =>
    if !x.vfs.contains a then (2, s)
    else if !vfMoves s a then (3, s)
    else (0, updCtx (updCtx s p (fun y => { y with vfs := y.vfs.filter (· != a) })) n (fun y => { y with vfs := y.vfs ++ [a] }))

/-- R398, R402: the giver of a descendant, and the statuses 1, 4 and 3 in their order. -/
def budgetCheck (s : State) (c name : Nat) (b : Budget) : Except Nat (Nat × Nat) :=
  match descendant s c name with
  | none => .error 1
  | some n =>
    let p := (ctxD s n).parent % 4096
    if budgetBad s p b then .error 4
    else if (ctxD s n).st = .revoking then .error 3
    else .ok (p, n)

/-- R400: CTXGRANT. -/
def execCtxgrant (r : R3) (s : State) : Out :=
  let w := r.raw 0x7C#7 1#3
  sysOp w s (fun e t =>
    let b := budgetOf (e.nb 0) (e.nb 1)
    match budgetCheck t (ctxIs t e.i) e.na b with
    | .error n => status w e n t
    | .ok (p, n) => let q := grantKind t p n b; status w e q.1 q.2)

/-- R393: quads have been taken from a context: a die that it holds no more is unbound, at once or when it comes to rest. -/
def fallDie (x : Ctx) (die : Nat) : Ctx :=
  if !x.dies.contains die ∨ x.quads.getD die 0 ≠ 0 then x
  else if x.st = .created ∨ x.st = .stopped then { x with dies := x.dies.filter (· != die) }
  else { x with fallen := if x.fallen.contains die then x.fallen else x.fallen ++ [die] }

/-- R402: the quads of a die that a subtree holds. -/
def subtreeQuads (s : State) (n die : Nat) : Nat := (subtree s n).foldl (fun a d => a ||| ((ctxD s d).quads.getD die 0)) 0

/-- R395, R402: the blocks that a take of quads freezes: those of the subtree on them, and borrowers. -/
def takenBlocks (s : State) (n die mask : Nat) : List Nat :=
  (s.blocks.filter (fun p => p.2.resident && decide (p.2.die = die) && mask.testBit p.2.quad &&
    ((subtree s n).contains p.2.ctx || p.2.borrowed))).map (·.1)

/-- R402: kind 0 of CTXTAKE. -/
def takeQuads (s : State) (p n die mask : Nat) : Nat × State :=
  if mask &&& (subtreeQuads s n die) ≠ mask then (2, s) else
  let bs := takenBlocks s n die mask
  let hit := (subtree s n).filter (fun d => decide ((ctxD s d).quads.getD die 0 &&& mask ≠ 0))
  let t := hit.foldl (fun u d => updCtx u d (fun x => fallDie (cutQuads x die mask) die)) s
  (0, bs.foldl (fun u b => quiesce u b true) (updCtx t p (fun x => addQuads x die mask)))

/-- R402: SBANK of a subtree falls, and orphans above it are reclaimed on every core. -/
def lowerSbank (s : State) (n a : Nat) : State :=
  let cs := subtree s n
  let t := cs.foldl (fun u d => updCtx u d (fun x => { x with sbank := min x.sbank a })) s
  cs.foldl (fun u d => (nub (s.mappings.map (·.2.core))).foldl (fun v core => trimStash v d core) u) t

/-- R402: the enabled queues of a subtree. -/
def subtreeQueues (s : State) (n : Nat) : Nat := sumNat ((subtree s n).map (fun d => queuesOn (ctxD s d)))

/-- R402: CTXTAKE from `n` to `p` after the common checks. -/
def takeKind (s : State) (p n : Nat) (b : Budget) : Nat × State :=
  let x := ctxD s n
  let a := b.amount
  let upd (g : Ctx → Ctx) : Nat × State := (0, updCtx s n g)
  match b.kind with
  | 0 => takeQuads s p n ((ctxD s p).dies.getD b.vd 0) a
  | 1 =>
    if a + (fmapped x + savesOf s n) ≤ x.frames ∧ a + sumKids s n (·.frames) ≤ x.frames then
      upd (fun y => { y with frames := y.frames - a }) else (5, s)
  | 2 => if a ≤ x.sbank then (0, lowerSbank s n a) else (4, s)
  | 3 => if a + subtreeQueues s n ≤ x.queues then upd (fun y => { y with queues := y.queues - a }) else (5, s)
  | 4 => if a ≤ x.ceil then (0, lowerCeil s n a) else (4, s)
  | 5 => if a + sumKids s n (·.tshare) ≤ x.tshare then upd (fun y => { y with tshare := y.tshare - a }) else (5, s)
  | 6 => if a + callowUsed s n ≤ x.callow then upd (fun y => { y with callow := y.callow - a }) else (5, s)
  | _ =>
    if !x.vfs.contains a then (2, s)
    else if !vfMoves s a then (3, s)
    else (0, updCtx (updCtx s n (fun y => { y with vfs := y.vfs.filter (· != a) })) p (fun y => { y with vfs := y.vfs ++ [a] }))

/-- R402: the taken quads of a die are free: none of the blocks that the take froze still stands on them. -/
def quadsFree (s : State) (die mask : Nat) (bs : List Nat) : Bool :=
  bs.all (fun b => match mget s.blocks b with
    | some x => !(x.resident && decide (x.die = die) && mask.testBit x.quad)
    | none => true)

/-- R399, R402: a CTXTAKE that has been performed and waits for its quads: their die and mask, and the blocks that it froze. -/
def takeWait (e : Env) (s : State) (die mask : Nat) (bs : List Nat) : State × After :=
  waitWith e s (die :: mask :: bs) (List.replicate 34 0)

/-- R400: CTXTAKE. -/
def execCtxtake (r : R3) (s : State) : Out :=
  let w := r.raw 0x7C#7 2#3
  sysOp w s (fun e t =>
    match (fibIs t e.i).wait with
    | some k =>
      let die := k.done.getD 0 0
      let mask := k.done.getD 1 0
      if quadsFree t die mask (k.done.drop 2) then status w e 0 t else takeWait e t die mask (k.done.drop 2)
    | none =>
      let b := budgetOf (e.nb 0) (e.nb 1)
      match budgetCheck t (ctxIs t e.i) e.na b with
      | .error n => status w e n t
      | .ok (p, n) =>
        let die := (ctxD t p).dies.getD b.vd 0
        let bs := if b.kind = 0 then takenBlocks t n die b.amount else []
        let q := takeKind t p n b
        if q.1 = 0 ∧ !quadsFree q.2 die b.amount bs then takeWait e q.2 die b.amount bs else status w e q.1 q.2)

/-! ### CTXRUN, CTXSTOP, CTXREVOKE (R403, R404) -/

/-- R403: CTXRUN of a context. -/
def ctxRun (s : State) (n : Nat) : Nat × State :=
  match (ctxD s n).st with
  | .created => (0, updCtx s n (fun x => { x with st := .running }))
  | .stopped => (0, updCtx s n (fun x => { x with st := .running }))
  | .running => (0, s)
  | _ => (3, s)

/-- R400: CTXRUN. -/
def execCtxrun (r : R3) (s : State) : Out :=
  let w := r.raw 0x7C#7 3#3
  sysOp w s (fun e t =>
    match descendant t (ctxIs t e.i) e.na with
    | none => status w e 1 t
    | some n => let q := ctxRun t n; status w e q.1 q.2)

/-- R391, R403: every resident block of a subtree is quiesced. -/
def forceStop (s : State) (n : Nat) : State :=
  (s.blocks.filter (fun p => p.2.resident && (subtree s n).contains p.2.ctx)).foldl (fun t p => quiesce t p.1 false) s

/-- R403: CTXSTOP of a context that is not Revoking. -/
def ctxStop (s : State) (n : Nat) (force : Bool) : State :=
  match (ctxD s n).st with
  | .created => updCtx s n (fun x => { x with st := .stopped })
  | .running =>
    let t := updCtx s n (fun x => { x with st := .stopping, force := force })
    settleCtx (if force then forceStop t n else t) n
  | .stopping => if force then settleCtx (forceStop (updCtx s n (fun x => { x with force := true })) n) n else s
  | _ => s

/-- R403: a wait for a stop has ended: its status. -/
def stopWait (s : State) (name : Nat) : Option Nat :=
  if !current s name then some 3
  else match (ctxD s (name % 4096)).st with
    | .stopping => none
    | .revoking => none
    | _ => some 0

/-- R400: CTXSTOP. -/
def execCtxstop (r : R3) (s : State) : Out :=
  let w := r.raw 0x7C#7 4#3
  sysOp w s (fun e t =>
    let go (u : State) : State × After :=
      match stopWait u e.na with
      | some n => status w e n u
      | none => waitRetry e u
    if (fibIs t e.i).wait.isSome then go t else
    match descendant t (ctxIs t e.i) e.na with
    | none => status w e 1 t
    | some n =>
      if 4 ≤ e.nb 0 then status w e 4 t
      else if (ctxD t n).st = .revoking then status w e 3 t
      else
        let u := ctxStop t n ((e.nb 0).testBit 0)
        if (e.nb 0).testBit 1 then go u else status w e 0 u)

/-- R404: a wait for a revocation has ended. -/
def revokeDone (s : State) (name : Nat) : Bool := !current s name

/-- R400: CTXREVOKE. -/
def execCtxrevoke (r : R3) (s : State) : Out :=
  let w := r.raw 0x7C#7 5#3
  sysOp w s (fun e t =>
    let go (u : State) : State × After :=
      if (e.nb 0).testBit 1 ∧ !revokeDone u e.na then waitRetry e u else status w e 0 u
    if (fibIs t e.i).wait.isSome then go t else
    match descendant t (ctxIs t e.i) e.na with
    | none =>
      if retiredName t (ctxIs t e.i) e.na then (if bits (e.nb 0) 31 2 ≠ 0 ∨ bit (e.nb 0) 0 then status w e 4 t else status w e 0 t)
      else status w e 1 t
    | some n =>
      if bits (e.nb 0) 31 2 ≠ 0 ∨ bit (e.nb 0) 0 then status w e 4 t
      else go (if (ctxD t n).st = .revoking then t else startRevoke t n))

/-! ### CTXQRY (R405) -/

/-- R390: the code of a state. -/
def ctxCode (x : CtxSt) : Nat :=
  match x with
  | .free => 0
  | .created => 1
  | .running => 2
  | .stopping => 3
  | .stopped => 4
  | .revoking => 5

/-- R405: the image of a context. -/
def qryImage (s : State) (n : Nat) : Nat :=
  let x := ctxD s n
  let die (k : Nat) : Nat := match x.dies[k]? with
    | some d => x.quads.getD d 0 + 65536 * x.lent.getD d 0
    | none => 0
  ctxName s n + 2 ^ 32 * (if x.root then 0 else x.parent) + 2 ^ 64 * ctxCode x.st + 2 ^ 67 * (if schedulable s n then 1 else 0) +
  2 ^ 68 * x.depth + 2 ^ 71 * (if x.htask = 0 then 0 else 1) + 2 ^ 72 * x.ceil + 2 ^ 80 * x.dies.length + 2 ^ 96 * x.frames +
  2 ^ 128 * fmapped x + 2 ^ 160 * x.sbank + 2 ^ 176 * x.queues + 2 ^ 192 * x.tshare + 2 ^ 208 * x.callow +
  2 ^ 224 * ((subtree s n).length - 1) + 2 ^ 240 * x.vfs.length +
  2 ^ 256 * (die 0 + 2 ^ 32 * die 1 + 2 ^ 64 * die 2 + 2 ^ 96 * die 3) +
  2 ^ 384 * (s.tickets.filter (fun p => decide (p.2.holder = some n))).length +
  2 ^ 416 * (s.blocks.filter (fun p => decide (p.2.ctx = n) && p.2.resident)).length + 2 ^ 448 * (x.ctime % 2 ^ 64)

/-- R388: the image of a retired name. -/
def retiredImage (s : State) (name : Nat) : Nat := name + 2 ^ 32 * (ctxD s (name % 4096)).parent

/-- R398: the writes of an instruction to the executing context's memory. -/
def sysWrite (r : Raw) (e : Env) (a : Nat) (bs : List Byte) (t : State) : State × After :=
  match xlSpan t e.i .write a bs.length with
  | .error f => parkAll t e .write 1 f
  | .ok pas => status r e 0 (gWrite (asked t e.i .write (spanOf a bs.length) pas) (ctxIs t e.i) pas bs)

/-- R400: CTXQRY. -/
def execCtxqry (r : R3) (s : State) : Out :=
  let w := r.raw 0x7C#7 6#3
  sysOp w s (fun e t =>
    let c := ctxIs t e.i
    if badGlobal 64 128 e.pb then trapAll t e 0x02 0 (addrField e.pb) else
    match (if e.na = 0 then some c else descendant t c e.na) with
    | some n => sysWrite w e e.pb (natLe 128 (qryImage t n)) t
    | none =>
      if retiredName t c e.na then sysWrite w e e.pb (natLe 128 (retiredImage t e.na)) t else status w e 1 t)

/-! ### CTXMAP (R406, R407) -/

/-- R398: a record of the executing context is read. -/
def sysRead (e : Env) (t : State) (a n : Nat) (k : State → List Byte → State × After) : State × After :=
  match xlSpan t e.i .read a n with
  | .error f => parkAll t e .read 0 f
  | .ok pas => let (u, bs) := gRead (asked t e.i .read (spanOf a n) pas) (ctxIs t e.i) pas; k u bs

/-- R407: CTXMAP up to its map record. -/
def mapOp (r : R3) (s : State) : Out :=
  let w := r.raw 0x7C#7 7#3
  sysOp w s (fun e t =>
    if badGlobal 32 32 e.pb then trapAll t e 0x02 0 (addrField e.pb) else
    let c := ctxIs t e.i
    match descendant t c e.na with
    | none => status w e 1 t
    | some n => sysRead e t e.pb 32 (fun u bs =>
        let m := mapRecOf bs
        if m.bad then status w e 4 u
        else if (ctxD u n).st = .revoking then status w e 3 u
        else if m.unmap then
          let fs := (List.range m.len).filterMap (fun k => frameOf u n (m.cia / 65536 + k))
          status w e 0 (unmapRange (invalidate u (subtree u n) fs) n (m.cia / 65536) m.len)
        else let q := mapRange u c n m; status w e q.1 q.2))

/-- R407: CTXMAP. -/
def execCtxmap (r : R3) (s : State) : Out := mapOp r s
/-- R407: CTXMAP with UNMAP, which its record selects. -/
def execCtxmapUnmap (r : R3) (s : State) : Out := mapOp r s

end Sys2Proof.Machine
end

