-- ==== Sys2Proof/Machine/System.lean ====
section
/-!
DEFINITION. Meanings of the ticket, invalidation and register instructions (R408 to R413, R466), and the return from a trap.
-/

namespace Sys2Proof.Machine

/-! ### The frozen state of a ticket (R413) -/

/-- R413: an item of the frozen state. -/
inductive Item
  | word (a l : Nat) | pc (l : Nat) | meet (l : Nat) | rep (l : Nat) | mask (m : Nat) | wb | gen | drops | q (k : Nat) | mpc
  deriving DecidableEq, Repr

/-- R413: the item of a selector. -/
def itemOf (x : Nat) : Option Item :=
  if x < 0x8000 then some (.word (x / 32) (x % 32))
  else if x < 0x8020 then some (.pc (x - 0x8000))
  else if x < 0x8040 then some (.meet (x - 0x8020))
  else if x < 0x8060 then some (.rep (x - 0x8040))
  else if x < 0x806C then some (.mask (x - 0x8060))
  else if x = 0x8070 then some .wb
  else if x = 0x8071 then some .gen
  else if x = 0x8072 then some .drops
  else if 0x9000 ≤ x ∧ x < 0x9020 then some (.q (x - 0x9000))
  else if x = 0x9020 then some .mpc
  else none

/-- R413: an item belongs to a sequencer. -/
def Item.ofSeq (x : Item) : Bool :=
  match x with
  | .q _ => true
  | .mpc => true
  | _ => false

/-- R413: an item of a ticket's fibre or sequencer. -/
def Item.fits (x : Item) (src : TrapSrc) : Bool :=
  match src with
  | .fibre _ _ _ => !x.ofSeq
  | .seqr _ => x.ofSeq
  | _ => false

/-- R413: a value that an item refuses. -/
def Item.refuses (x : Item) (kd : KDesc) (v : DWord) : Bool :=
  match x with
  | .pc _ => v.getLsbD 0
  | .meet _ => v.getLsbD 0
  | .rep _ => true
  | .mask m => decide (m = 0)
  | .wb => decide (v.toNat % 2 ^ 32 % 8 ≠ 0) || decide (896 < v.toNat % 2 ^ 32)
  | .gen => decide (v.toNat % 2 ^ 32 = 0)
  | .mpc => !(decide (kd.mstr ≤ v.toNat) && decide (v.toNat < kd.mstr + 2 * kd.mslen))
  | _ => false

/-- R409, R413: a write that a ticket has recorded reaches its fibre. -/
def putFib (x : Fibre) (i : Item) (v : DWord) : Fibre :=
  let w : Word := v.setWidth 32
  match i with
  | .pc l => updLanes x [l] (fun _ y => { y with pc := v, rep := if y.pc = v then y.rep else 0 })
  | .meet l => updLanes x [l] (fun _ y => { y with meet := v })
  | .mask m => { x with masks := x.masks.set m w }
  | .wb => { x with wb := w.toNat }
  | .gen => { x with gen := w }
  | .drops => { x with drops := w }
  | _ => x

/-- R409, R413: a write that a ticket has recorded reaches its sequencer. -/
def putSeq (x : Seqr) (i : Item) (v : DWord) : Seqr :=
  match i with
  | .q k => { x with q := x.q.set k v, lost := x.lost.filter (· != .q k) }
  | .mpc => { x with mpc := v }
  | _ => x

/-- R413: an item as it stands. -/
def getItem (s : State) (src : TrapSrc) (i : Item) : Nat :=
  match src with
  | .fibre b k f =>
    let x := fibD s b k f
    match i with
    | .word a l => (regWord s b k a l).toNat
    | .pc l => (laneD x l).pc.toNat
    | .meet l => (laneD x l).meet.toNat
    | .rep l => (laneD x l).rep + 256 * (laneD x l).depth
    | .mask m => maskOf (maskLanes x m)
    | .wb => x.wb
    | .gen => x.gen.toNat
    | .drops => x.drops.toNat
    | _ => 0
  | .seqr b =>
    match i with
    | .q k => ((seqD s b).q.getD k 0).toNat
    | .mpc => (seqD s b).mpc.toNat
    | _ => 0
  | _ => 0

/-- R413: a word that is poisoned. -/
def itemPoison (s : State) (src : TrapSrc) (i : Item) : Bool :=
  match src, i with
  | .fibre b k _, .word a l => ((mget (slotD s b k).regs a).map (fun r => r.poison.testBit l)).getD false
  | _, _ => false

/-! ### The return from a trap (R409, R429, R430) -/

/-- R156, R428: the unreadable entries of a block's dictionary are read again; lanes that name one whose read a migration delays meet it
only once it has been read. -/
def rereadDict (s : State) (b : Nat) : State :=
  (List.range (blkD s b).dict.length).foldl (fun t k =>
    match (blkD t b).dict.getD k (.word 0) with
    | .word _ => t
    | _ => settleEntry (updBlk t b (fun x => { x with dict := x.dict.set k .pending })) b k) s

/-- R45, R203, R429: the lanes whose fault a ticket reports: those of a page-fault or a budget record. -/
def Ticket.faulted (t : Ticket) : List Nat :=
  let w0 := (t.words.getD 0 0).toNat
  if w0 % 2 ^ 24 = 0x0B + 65536 * (w0 / 65536 % 256) ∨ w0 % 2 ^ 24 = 0x05 + 65536 * 3 then lanesOf (t.words.getD 6 0).toNat else []

/-- R45, R203, R409, R429: a fibre resumes with every lane in its prior state; the lanes whose fault was reported try again. -/
def thawFib (x : Fibre) (ls : List Nat) : Fibre :=
  let y := updLanes x ls (fun _ z => match z.st with
      | .parked _ => { z with st := .issuable }
      | _ => z)
  { y with st := .live, since := 0, group := [], gcount := 0 }

/-- R409, R430: what a ticket stands for goes on, and the ticket is deleted. -/
def resumeTicket (s : State) (id : Nat) : State :=
  match mget s.tickets id with
  | none => s
  | some t =>
    let u : State := { s with tickets := mdel s.tickets id }
    match t.src with
    | .fibre b k f =>
      if (fibD u b k f).st ≠ .frozen then u else
      let v := updFib (rereadDict u b) b k f (fun x =>
        thawFib (t.writes.foldl (fun y p => ((itemOf p.1).map (fun i => putFib y i p.2)).getD y) x) t.faulted)
      settleFib (obeyStop v b k f) b k f
    | .seqr b => updSeq u b (fun x =>
        let y := t.writes.foldl (fun y p => ((itemOf p.1).map (fun i => putSeq y i p.2)).getD y) x
        if y.st = .ended then y else { y with st := .running, fault := none })
    | .op n => { u with ops := mupd u.ops n (fun o => { o with fault := none }) }
    | .copy b h => updBlk u b (fun x => { x with handles := mupd x.handles h (fun y => { y with fault := none }) })
    | .join b => updBlk u b (fun x => { x with joinFault := none })
    | .cont c q a => { u with pushes := u.pushes ++ [{ ctx := c, queue := q, addr := a }] }
    | .note => u

/-- R409: the ticket at a place in issue order, where the context holds it. -/
def heldTicket (s : State) (c id : Nat) : Option Ticket := (mget s.tickets id).filter (fun t => decide (t.holder = some c))

/-- R409: TRAPRET. -/
def execTrapret (r : R3) (s : State) : Out :=
  let w := r.raw 0x7D#7 0#3
  sysOp w s (fun e t =>
    match heldTicket t (ctxIs t e.i) (ticketKey t e.na) with
    | none => status w e 8 t
    | some _ => status w e 0 (resumeTicket t (ticketKey t e.na)))

/-- R409: TRAPFWD. -/
def execTrapfwd (r : R3) (s : State) : Out :=
  let w := r.raw 0x7D#7 1#3
  sysOp w s (fun e t =>
    match heldTicket t (ctxIs t e.i) (ticketKey t e.na) with
    | none => status w e 8 t
    | some _ => status w e 0 (passTicket t (ticketKey t e.na)))

/-- R409: TRAPINFO. -/
def execTrapinfo (r : R3) (s : State) : Out :=
  let w := r.raw 0x7D#7 2#3
  perIssueOp w s (fun e t =>
    let give (v : Word) (n : Nat) : State × After := (wrD w e 1 (fun _ => BitVec.ofNat 32 n) (wrD w e 0 (fun _ => v) t), .advance)
    if (ctxD t (ctxIs t e.i)).st = .revoking then give 0 3 else
    match heldTicket t (ctxIs t e.i) (ticketKey t e.na) with
    | none => give 0 8
    | some k => if 31 < e.nb 0 then give 0 4 else give (k.words.getD (e.nb 0) 0) 0)

/-! ### Invalidations (R410) -/

/-- R410, R423: the cached translations of a range and the walkers' entries for it are dropped, and what has used one is performed or
translated again; a length of 0 names the whole space. -/
def dropRange (s : State) (cs : List Nat) (base pages : Nat) : State :=
  let lo := base % 2 ^ 57
  let meets (va size : Nat) : Bool := decide (pages = 0) || (decide (va % 2 ^ 57 < lo + 65536 * pages) && decide (lo < va % 2 ^ 57 + size))
  let t := recallAcqs (flushOps s cs) (fun a => cs.contains (blkD s a.blk).ctx && meets a.va 8)
  { t with tlb := t.tlb.filter (fun x => !(cs.contains (x.name % 4096) && meets x.va x.size))
           wcache := t.wcache.filter (fun x => !(cs.contains (x.name % 4096) && meets x.va x.size)) }

/-- R410: TLBINV. -/
def execTlbinv (r : R3) (s : State) : Out :=
  let w := r.raw 0x7E#7 0#3
  sysOp w s (fun e t =>
    match descendant t (ctxIs t e.i) e.na with
    | none => status w e 1 t
    | some n =>
      if e.nb 3 ≠ 0 ∨ !canonical e.pb then status w e 4 t else status w e 0 (dropRange t (subtree t n) e.pb (e.nb 2)))

/-- R147, R410: the physical address that stands behind a page of a context's code, whatever access its tables permit now. -/
def codePage (s : State) (c va : Nat) : Option Nat :=
  let ia : Option Nat := [AccKind.fetch, .read, .write].findSome? (fun k => match stage1 s c va k with
    | .ok l => some l.ia
    | .error _ => none)
  ia.bind (fun a => (leafOf (ctxD s c) (a / 65536)).map (fun e => leafAddr e a))

/-- R147, R410: the physical bytes of a range of a context's code, page by page; none for a page that nothing stands behind. -/
def codeSpans (s : State) (c base len : Nat) : List (Option (Nat × Nat)) :=
  (List.range ((base % 65536 + len + 65535) / 65536)).map (fun k =>
    let va := (base / 65536 + k) * 65536
    (codePage s c (va % 2 ^ 64)).map (fun pa => (pa + (max base va - va), pa + (min (base + len) (va + 65536) - va))))

/-- R410: one context's old parcels of a range are discarded for its fetches of some kinds. Where nothing stands behind a page of the range,
all of them are, since the page may come back (log entry 45). -/
def dropCode (s : State) (kinds : List FetchBy) (base len c : Nat) : State :=
  let spans := codeSpans s c base len
  let all := spans.contains none
  { s with icache := dropOlds s.icache (fun x k n => kinds.contains k && decide (n = ctxName s c) &&
      (all || (spans.filterMap id).any (fun p => decide (p.1 ≤ x.pa + 1) && decide (x.pa < p.2)))) }

/-- R410: the old parcels of a range are discarded in some contexts. -/
def dropCodes (s : State) (cs : List Nat) (base len : Nat) (kinds : List FetchBy) : State :=
  cs.foldl (fun t c => dropCode t kinds base len c) s

/-- R410: what ICINV discards: bit 0 of the word lane caches, bit 1 M-stream buffers, and 0 both. -/
def icinvKinds (w : Nat) : List FetchBy :=
  (if w ≠ 2 then [.lane] else []) ++ (if w ≠ 1 then [.mstream] else [])

/-- R410: ICINV. -/
def execIcinv (r : R3) (s : State) : Out :=
  let w := r.raw 0x7E#7 1#3
  sysOp w s (fun e t =>
    match descendant t (ctxIs t e.i) e.na with
    | none => status w e 1 t
    | some n =>
      if 4 ≤ e.nb 3 ∨ !canonical e.pb then status w e 4 t else status w e 0 (dropCodes t (subtree t n) e.pb (e.nb 2) (icinvKinds (e.nb 3))))

/-- R156, R410, R484: the running blocks of some contexts whose dictionary stands at an address read it afresh, and from then on no
load of that dictionary there returns an old entry; all of it is done. -/
def reloadDicts (s0 : State) (cs : List Nat) (a : Nat) : State × Bool :=
  let s := dropCodes s0 cs a 4096 [.dict]
  (s.blocks.filter (fun p => cs.contains p.2.ctx && p.2.resident && decide (p.2.st ≠ .loading) && decide (p.2.kd.dictn ≠ 0) &&
    decide (p.2.kd.dict = a))).foldl (fun q p => if q.2 then loadDict q.1 p.1 else q) (s, true)

/-- R410: DCTINV. -/
def execDctinv (r : R3) (s : State) : Out :=
  let w := r.raw 0x7E#7 2#3
  sysOp w s (fun e t =>
    match descendant t (ctxIs t e.i) e.na with
    | none => status w e 1 t
    | some n =>
      let q := reloadDicts t (subtree t n) e.pb
      if q.2 then status w e 0 q.1 else (q.1, .stay))

/-! ### System registers (R411, R412, R466) -/

/-- A list of bytes, one per virtual die, of the die table. -/
def dieTable (x : Ctx) : Nat := leNat ((List.range 4).map (fun k => BitVec.ofNat 8 (x.dies.getD k 0xFF)))

/-- R412, R466, R503: a register of space 0; none for an index that is not listed. -/
def readSys (s : State) (n idx : Nat) : Option Nat :=
  let x := ctxD s n
  if idx = 0 then some x.s1root.toNat
  else if idx = 1 then some x.htask.toNat
  else if idx = 2 then some x.hqueue.toNat
  else if idx = 3 then some x.slice.toNat
  else if idx = 4 then some x.borrow.toNat
  else if 8 ≤ idx ∧ idx ≤ 0xB then some (match x.dies[idx - 8]? with
    | some d => x.lent.getD d 0
    | none => 0)
  else if idx = 0x10 then some (dieTable x)
  else if idx = 0x18 then some x.apbase.toNat
  else if idx = 0x19 then some x.schederr
  else if idx = 0x1A then some (mgetD s.ken.migconf x.part 0)
  else if idx = 0x1B then some ((sliceOf s n).slice + 16 * (sliceOf s n).hard)
  else if idx = 0x1C then some (sliceOf s n).tenant.toNat
  else if idx = 0x20 then some x.errring.toNat
  else if 0x100 ≤ idx ∧ idx < 0x100 + 65535 then some (mgetD x.qdesc (idx - 0x100) 0).toNat
  else if 0x20000 ≤ idx ∧ idx < 0x20100 then some (mgetD x.group (idx - 0x20000) 0).toNat
  else none

/-- R411, R412, R466, R503: a write of space 0: its status and the state after it. -/
def writeSys (s : State) (n idx : Nat) (v : DWord) : Nat × State :=
  let w : Word := v.setWidth 32
  let upd (ok : Bool) (g : Ctx → Ctx) : Nat × State := if ok then (0, updCtx s n g) else (4, s)
  if idx = 0 then upd (decide (v.toNat % 65536 = 0)) (fun x => { x with s1root := v })
  else if idx = 1 then upd (decide (v.toNat % 64 = 0) && canonical v.toNat) (fun x => { x with htask := v })
  else if idx = 2 then upd true (fun x => { x with hqueue := w &&& 0xFFFF })
  else if idx = 3 then upd (decide (100 ≤ w.toNat) && decide (w.toNat ≤ 65535)) (fun x => { x with slice := w })
  else if idx = 4 then upd true (fun x => { x with borrow := w &&& 1 })
  else if 8 ≤ idx ∧ idx ≤ 0xB then (lendStatus s n (idx - 8) w, writeLend s n (idx - 8) w)
  else if idx = 0x18 then upd (decide (v.toNat % 65536 = 0) && canonical v.toNat) (fun x => { x with apbase := v })
  else if idx = 0x20 then upd (decide (v.toNat % 64 = 0) && canonical v.toNat) (fun x => { x with errring := v })
  else if 0x100 ≤ idx ∧ idx < 0x100 + 65535 then (qdescStatus s n (idx - 0x100) v, writeQdesc s n (idx - 0x100) v)
  else if 0x20000 ≤ idx ∧ idx < 0x20100 then (groupStatus v, writeGroup s n (idx - 0x20000) v)
  else (4, s)

/-- R413: a write of space 1: its status and the state after it. A word of a register is written at once, anything else at
TRAPRET. A word of a spilled chunk is reached where it lies, with no refill: the model's choice (log entry 63). -/
def writeFrozen (s : State) (id : Nat) (t : Ticket) (sel : Nat) (v : DWord) : Nat × State :=
  match itemOf sel with
  | none => (4, s)
  | some i =>
    if !i.fits t.src then (4, s) else
    match t.src, i with
    | .fibre b k f, .word a l => (0, writeArch s b k f a (some 0) [l] (fun _ => v.setWidth 32))
    | .fibre b _ _, _ => if i.refuses (blkD s b).kd v then (4, s) else
      (0, { s with tickets := mset s.tickets id { t with writes := t.writes ++ [(sel, v)] } })
    | .seqr b, _ => if i.refuses (blkD s b).kd v then (4, s) else
      (0, { s with tickets := mset s.tickets id { t with writes := t.writes ++ [(sel, v)] } })
    | _, _ => (4, s)

/-- R411: SRW. -/
def execSrw (r : R3) (s : State) : Out :=
  let w := r.raw 0x7F#7 0#3
  sysOp w s (fun e t =>
    let c := ctxIs t e.i
    let sel := e.nb 0
    let v := pr e.b 2 e.low
    if sel / 2 ^ 28 = 0 then
      match descendant t c e.na with
      | none => status w e 1 t
      | some n =>
        if (ctxD t n).st = .revoking then status w e 3 t
        else let q := writeSys t n (sel % 2 ^ 28) v; status w e q.1 q.2
    else if sel / 2 ^ 28 = 1 then
      match heldTicket t c (ticketKey t e.na) with
      | none => status w e 8 t
      | some k => let q := writeFrozen t (ticketKey t e.na) k (sel % 2 ^ 28) v; status w e q.1 q.2
    else status w e 4 t)

/-- R411: what SRR reads: its status and value. -/
def srrValue (s : State) (c a sel : Nat) : Nat × Nat :=
  if (ctxD s c).st = .revoking then (3, 0)
  else if sel / 2 ^ 28 = 0 then
    match (if a = 0 then some c else descendant s c a) with
    | none => (1, 0)
    | some n => match readSys s n (sel % 2 ^ 28) with
      | some v => (0, v)
      | none => (4, 0)
  else if sel / 2 ^ 28 = 1 then
    match heldTicket s c (ticketKey s a) with
    | none => (8, 0)
    | some t => match itemOf (sel % 2 ^ 28) with
      | none => (4, 0)
      | some i => if !i.fits t.src then (4, 0) else if itemPoison s t.src i then (9, 0) else (0, getItem s t.src i)
  else (4, 0)

/-- R411: SRR. -/
def execSrr (r : R3) (s : State) : Out :=
  let w := r.raw 0x7F#7 1#3
  perIssueOp w s (fun e t =>
    let p := srrValue t (ctxIs t e.i) e.na (e.nb 0)
    let v : DWord := BitVec.ofNat 64 p.2
    let t1 := wrD w e 1 (fun _ => 0) (wrD w e 0 (fun _ => BitVec.ofNat 32 p.1) t)
    (wrD w e 3 (fun _ => v.extractLsb' 32 32) (wrD w e 2 (fun _ => v.extractLsb' 0 32) t1), .advance))

end Sys2Proof.Machine
end

