-- ==== Sys2Proof/Machine/Profile.lean ====
section
/-!
DEFINITION. Profiling sessions (R475 to R479) and causal experiments (R480 to R482).
-/

namespace Sys2Proof.Machine

/-! ### Occurrences of events (R477) -/

/-- R477: an event identifier that the Triaris implements. -/
def evtKnown (e : Nat) : Bool :=
  [0x0001, 0x0002, 0x0003, 0x0010, 0x0011, 0x0020, 0x0021, 0x0022, 0x0030, 0x0031, 0x0040, 0x0041, 0x0042, 0x0050, 0x0060, 0x0070,
    0x0090, 0x0091, 0x00A0].contains e

/-- The resident blocks of some contexts. -/
def blocksOf (s : State) (cs : List Nat) : List (Nat × Block) := s.blocks.filter (fun p => cs.contains p.2.ctx && p.2.resident)

/-- The rise of a count of slots over a step. -/
def riseSlots (s t : State) (cs : List Nat) (g : Slot → Nat) : Nat :=
  sumNat ((blocksOf t cs).map (fun p => match mget s.blocks p.1 with
    | none => 0
    | some x => sumNat (p.2.slots.map g) - sumNat (x.slots.map g)))

/-- The rise of a count of sequencers over a step. -/
def riseSeqs (s t : State) (cs : List Nat) (g : Seqr → Nat) : Nat :=
  sumNat ((blocksOf t cs).map (fun p => match (mget s.blocks p.1).bind (·.seqr), p.2.seqr with
    | some x, some y => g y - g x
    | _, _ => 0))

/-- The lines of stash mappings of some contexts that have come into a state over a step. -/
def riseLines (s t : State) (cs : List Nat) (st : LineSt) : Nat :=
  sumNat ((t.mappings.filter (fun p => cs.contains p.2.ctx)).map (fun p =>
    ((List.range p.2.lines.length).filter (fun j => decide ((p.2.lines.getD j {}).st = st) && decide ((lineD s p.1 j).st ≠ st))).length))

/-- The lanes of a block that are parked, with where they stand. -/
def parkedLanes (x : Block) : List (Nat × Nat × Nat) :=
  (fibIds x).flatMap (fun p => (lanes32.filter (fun l => match (laneD ((x.slots.getD p.1 {}).fibs.getD p.2 {}) l).st with
    | .parked _ => true
    | _ => false)).map (fun l => (p.1, p.2, l)))

/-- R477: the lanes of some contexts that have been parked over a step. -/
def riseParks (s t : State) (cs : List Nat) : Nat :=
  sumNat ((blocksOf t cs).map (fun p =>
    let old := parkedLanes (blkD s p.1)
    ((parkedLanes p.2).filter (fun q => !old.contains q)).length))

/-- R477: the blocks of some contexts that have retired over a step. -/
def riseRetired (s t : State) (cs : List Nat) : Nat :=
  (s.blocks.filter (fun p => cs.contains p.2.ctx && (mget t.blocks p.1).isNone && decide (p.2.st ≠ .saved) &&
    decide ((ctxD t p.2.ctx).st = .running ∨ (ctxD t p.2.ctx).st = .stopping ∨ (ctxD t p.2.ctx).st = .stopped))).length

/-- R477: the continuations of some contexts that have been pushed over a step: those that wait no longer and were not
discarded. -/
def risePushed (s t : State) (cs : List Nat) : Nat :=
  sumNat (cs.map (fun c =>
    let n (u : State) : Nat := (u.pushes.filter (fun p => p.ctx == c)).length
    let k (u : State) : Nat := (u.tickets.filter (fun p => decide (p.2.ctx = c) && (match p.2.src with
      | .cont _ _ _ => true
      | _ => false))).length
    n s - n t - ((ctxD t c).schederr - (ctxD s c).schederr) - (k t - k s)))

/-- R477, R481: the clk in which issue was held by causal delay on the cores where some contexts have a resident block of an
experiment's subtree. -/
def risePaid (s t : State) (cs : List Nat) : Nat :=
  sumNat (t.trials.map (fun p =>
    let here := (blocksOf t (cs.filter (subtree t p.2.root).contains)).flatMap (fun q => blockCores q.2)
    sumNat ((p.2.paid.filter (fun d => here.contains d.1)).map (fun d =>
      d.2 - ((mget s.trials p.1).map (fun x => if x.xid = p.2.xid then mgetD x.paid d.1 0 else 0)).getD 0))))

/-- R477: the rise over a step of a count that is kept by context. -/
def riseTally (s t : State) (cs : List Nat) (e : Nat) : Nat :=
  sumNat (cs.map (fun c => mgetD t.tallies (c * 65536 + e) 0 - mgetD s.tallies (c * 65536 + e) 0))

/-- R477: the clk of a step in which a slot had a ready fibre that did not issue: a clk in which the slot has issued counts where another
of its fibres was ready (log entry 30). -/
def slotIdle (s t : State) (b k : Nat) : Nat :=
  let x := slotD s b k
  let ready (f : Nat) : Bool := fibReady (fibD s b k f)
  let used := if s.clk < x.issuedAt ∧ x.issuedAt ≤ t.clk then 1 else 0
  (if (List.range 4).any ready then t.clk - s.clk - used else 0) +
    (if (List.range 4).any (fun f => decide (f ≠ x.cur) && ready f) then used else 0)

/-- R477: the clk of a step in which a slot of some contexts had a ready fibre that did not issue. -/
def riseIdle (s t : State) (cs : List Nat) : Nat :=
  if s.clk = t.clk then 0 else
  sumNat ((blocksOf s cs).map (fun p => if p.2.st = .running then sumNat ((List.range p.2.slots.length).map (slotIdle s t p.1)) else 0))

/-- R477: the occurrences of an event in the blocks of some contexts over a step. A TLB miss is an access that its core's TLB has not
served, or a walk that has left an entry there. -/
def occurs (s t : State) (cs : List Nat) (e : Nat) : Nat :=
  match e with
  | 0x0001 => riseSlots s t cs (·.issues) + riseSeqs s t cs (·.issued)
  | 0x0002 => riseIdle s t cs
  | 0x0003 => risePaid s t cs
  | 0x0010 => riseSlots s t cs (·.switches)
  | 0x0011 => riseSlots s t cs (·.forced)
  | 0x0020 => riseSlots s t cs (·.spbank)
  | 0x0021 => riseSlots s t cs (·.spl2)
  | 0x0022 => riseSlots s t cs (·.refill)
  | 0x0030 => riseLines s t cs .filling
  | 0x0031 => riseLines s t cs .upgrading
  | 0x0040 => riseTally s t cs e
  | 0x0042 => riseTally s t cs e
  | 0x0041 => (t.msc.filter (fun x => cs.contains x.owner && !s.msc.any (fun y => y.line == x.line))).length
  | 0x0050 => riseSeqs s t cs (·.mmas)
  | 0x0060 => riseSlots s t cs (·.dropped)
  | 0x0070 => (t.tlb.filter (fun x => cs.contains (x.name % 4096) && decide (x.core ≠ shapeWho) && !s.tlb.contains x)).length +
      riseTally s t cs e
  | 0x0090 => riseRetired s t cs
  | 0x0091 => risePushed s t cs
  | 0x00A0 => riseParks s t cs
  | _ => 0

/-- R477: a counter after a step. -/
def addCount (n k : Nat) : Nat := min (2 ^ 63 - 1) (n + k)

/-- R476, R477: a session after a step. -/
def tallySession (s t : State) (x : Session) : Session :=
  let cs := subtree t x.root
  { x with counts := x.counts.mapIdx (fun k n =>
      if x.unav.getD k false ∨ x.evts.getD k 0 = 0 then n else addCount n (occurs s t cs (x.evts.getD k 0))) }

/-! ### Experiments (R480 to R482) -/

/-- R481: an address lies in the range of an experiment. -/
def Trial.inRange (x : Trial) (a : Nat) : Bool := decide (x.lo ≤ a) && decide (a < x.hi)

/-- The cores with a resident block of a subtree. -/
def coresUnder (s : State) (root : Nat) : List Nat := nub ((blocksOf s (subtree s root)).flatMap (fun p => blockCores p.2))

/-- R481: the scope of an experiment: the cores with a resident block of its subtree. -/
def Trial.scope (s : State) (x : Trial) : List Nat := coresUnder s x.root

/-- R481: an issue that an experiment delays. -/
def delayed (s : State) (b core pc : Nat) (seq : Bool) : Bool :=
  s.trials.any (fun p => !p.2.done && (subtree s p.2.root).contains (blkD s b).ctx && decide (0 < mgetD p.2.debt core 0) &&
    !(decide (p.2.ms = seq) && p.2.inRange pc))

/-- R481: some cores of an experiment pay their debt for some clk. -/
def Trial.pay (x : Trial) (cores : List Nat) (n : Nat) : Trial :=
  let ds := x.debt.filter (fun d => cores.contains d.1)
  { x with debt := x.debt.map (fun d => if cores.contains d.1 then (d.1, d.2 - n) else d)
           paid := ds.foldl (fun m d => mset m d.1 (mgetD m d.1 0 + min d.2 n)) x.paid }

/-- R481: the cores of every scope pay their debt for some clk. -/
def payDebts (s : State) (n : Nat) : State := { s with trials := s.trials.map (fun p => (p.1, p.2.pay (p.2.scope s) n)) }

/-- R482: the progress points that an issue passes. -/
def pointHit (x : Trial) (k pc : Nat) (seq act : Bool) : Bool :=
  !x.pkind.testBit k && decide (x.pps.getD k 0 ≠ 0) && decide (x.pps.getD k 0 = pc) && decide (x.ms = seq) && (act || seq)

/-- What a step has issued: its context, the address, the core, by a sequencer, with an active lane. -/
structure Issued where
  ctx : Nat
  pc : Nat
  core : Nat
  seq : Bool
  act : Bool
  deriving DecidableEq, Repr

/-- R481, R482: an experiment after an issue of its subtree: its code points, and a range clk where the core has none in this clk. -/
def countIssued (clk : Nat) (q : Issued) (x : Trial) : Trial :=
  let y := { x with counts := x.counts.mapIdx (fun k n => if pointHit x k q.pc q.seq q.act then n + 1 else n) }
  if x.inRange q.pc ∧ x.ms = q.seq ∧ mgetD x.rcAt q.core 0 ≠ clk + 1 then
    { y with rc := mset y.rc q.core (mgetD y.rc q.core 0 + 1), rcAt := mset y.rcAt q.core (clk + 1), trange := y.trange + 1 }
  else y

/-- R481, R482: the counts of every experiment after an issue. -/
def tallyIssue (s : State) (q : Issued) : State :=
  { s with trials := s.trials.map (fun p =>
      (p.1, if !p.2.done ∧ (subtree s p.2.root).contains q.ctx then countIssued s.clk q p.2 else p.2)) }

/-- R482: an experiment ran in the step from `s` to the state that holds it as `x`. -/
def ranIn (s : State) (p : Nat) (x : Trial) : Bool :=
  !x.done || ((mget s.trials p).map (fun y => decide (y.xid = x.xid) && !y.done)).getD false

/-- R482: the event points of an experiment after a step. -/
def tallyPoints (s t : State) (x : Trial) : Trial :=
  let cs := subtree t x.root
  { x with counts := x.counts.mapIdx (fun k n =>
      let e := x.pps.getD k 0 % 65536
      if x.pkind.testBit k ∧ e ≠ 0 then n + occurs s t cs e else n) }

/-- R477, R482: the counts of events of every session and experiment after a step from `s` to `t`. -/
def tallyEvents (s t : State) : State :=
  { t with
    sessions := t.sessions.map (fun p => (p.1, tallySession s t p.2))
    trials := t.trials.map (fun p => (p.1, if ranIn s p.1 p.2 then tallyPoints s t p.2 else p.2)) }

/-! ### PROF (R475, R476, R479) -/

/-- R475: a session record. -/
structure ProfRec where
  cmd : Nat
  wrptr : Nat
  img : Nat
  sid : Nat
  period : Nat
  log2n : Nat
  buf : Nat
  evts : List Nat
  rsvd : Bool
  deriving DecidableEq, Repr

/-- R475: a session record from its bytes. -/
def profRecOf (bs : List Byte) : ProfRec :=
  let x := leNat bs
  { cmd := bits x 3 0, wrptr := bits x 191 160, img := bits x 255 192, sid := bits x 271 256, period := bits x 303 272,
    log2n := bits x 311 304, buf := bits x 383 320, evts := (List.range 8).map (fun k => bits x (399 + 16 * k) (384 + 16 * k)),
    rsvd := decide (bits x 319 312 ≠ 0) || decide (bits x 159 4 ≠ 0) }

/-- R475: sampling fields that give status 4. -/
def samplingBad (period log2n buf : Nat) : Bool :=
  (decide (1 ≤ period) && decide (period ≤ 4095)) || !canonical buf || decide (buf % 64 ≠ 0) ||
  (decide (buf ≠ 0) && !(decide (4 ≤ log2n) && decide (log2n ≤ 16)))

/-- R476: the lowest session number that is not open. -/
def freeSid (s : State) : Nat := ((List.range 66).find? (fun k => decide (k ≠ 0) && (mget s.sessions k).isNone)).getD 1

/-- R475: the bytes of the counters. -/
def countBytes (x : Session) : List Byte :=
  (List.range 8).flatMap (fun k => natLe 8 (x.counts.getD k 0 + (if x.unav.getD k false then 2 ^ 63 else 0)))

/-- R479: a session image (its layout is that of log entry 30). -/
def imageOf (sid : Nat) (x : Session) : List Byte :=
  natLe 2 sid ++ natLe 2 x.log2n ++ natLe 4 x.period ++ natLe 8 x.buf ++ x.evts.flatMap (natLe 2) ++ List.replicate 32 0 ++
    countBytes x ++ List.replicate 128 0

/-- R479: a session from an image. -/
def ofImage (owner root : Nat) (bs : List Byte) : Session :=
  let x := leNat bs
  let evts := (List.range 8).map (fun k => bits x (128 + 16 * k + 15) (128 + 16 * k))
  { owner := owner, root := root, evts := evts
    counts := (List.range 8).map (fun k => bits x (512 + 64 * k + 62) (512 + 64 * k))
    unav := (List.range 8).map (fun k => bit x (512 + 64 * k + 63) || (decide (evts.getD k 0 ≠ 0) && !evtKnown (evts.getD k 0)))
    period := bits x 63 32, log2n := bits x 31 16, buf := bits x 127 64 }

/-- R476: a session that OPEN opens. -/
def openSession (owner root : Nat) (m : ProfRec) : Session :=
  { owner := owner, root := root, evts := m.evts, counts := List.replicate 8 0
    unav := m.evts.map (fun e => decide (e ≠ 0) && !evtKnown e), period := m.period, log2n := m.log2n, buf := m.buf }

/-- R398: writes of an instruction to the executing context's memory, piece by piece, once all of them translate. -/
def sysWrites (r : Raw) (e : Env) (t : State) (ps : List (Nat × List Byte)) (g : State → State) : State × After :=
  let vas := ps.flatMap (fun p => spanOf p.1 p.2.length)
  match xlBytes t e.i .write vas with
  | .error f => parkAll t e .write 1 f
  | .ok all =>
    let u := ps.foldl (fun v p => match xlateAll (fun a => xlate v (ctxIs v e.i) (coreIs v e.i) a .write) (spanOf p.1 p.2.length) with
      | .ok pas => gWrite v (ctxIs v e.i) pas p.2
      | .error _ => v) (asked t e.i .write vas all)
    status r e 0 (g u)

/-- R476: the session that a record names in a subtree. -/
def sessionOf (s : State) (n sid : Nat) : Option Session := (mget s.sessions sid).filter (fun x => decide (x.root = n))

/-- R476: OPEN. -/
def profOpen (w : Raw) (e : Env) (t : State) (n : Nat) (m : ProfRec) : State × After :=
  if m.sid ≠ 0 ∧ (sessionOf t n m.sid).isSome then status w e 5 t
  else if samplingBad m.period m.log2n m.buf then status w e 4 t
  else if 64 ≤ t.sessions.length then status w e 2 t
  else
    let k := freeSid t
    sysWrites w e t [(e.pb + 32, natLe 2 k)] (fun u => { u with sessions := mset u.sessions k (openSession (ctxIs t e.i) n m) })

/-- R476: READ. -/
def profRead (w : Raw) (e : Env) (t : State) (n : Nat) (m : ProfRec) : State × After :=
  match sessionOf t n m.sid with
  | none => status w e 8 t
  | some x => sysWrites w e t [(e.pb + 64, countBytes x), (e.pb + 20, natLe 4 x.wrptr)] id

/-- R476: CLOSE. -/
def profClose (w : Raw) (e : Env) (t : State) (n : Nat) (m : ProfRec) : State × After :=
  match sessionOf t n m.sid with
  | none => status w e 8 t
  | some x => sysWrites w e t [(e.pb + 64, countBytes x)] (fun u => { u with sessions := mdel u.sessions m.sid })

/-- R476, R479: EXPORT. -/
def profExport (w : Raw) (e : Env) (t : State) (n : Nat) (m : ProfRec) : State × After :=
  match sessionOf t n m.sid with
  | none => status w e 8 t
  | some x =>
    if badGlobal 64 256 m.img then status w e 4 t else
    sysWrites w e t [(m.img, imageOf m.sid x)] (fun u => { u with sessions := mdel u.sessions m.sid })

/-- R476, R479: IMPORT. -/
def profImport (w : Raw) (e : Env) (t : State) (n : Nat) (m : ProfRec) : State × After :=
  if badGlobal 64 256 m.img then status w e 4 t else
  sysRead e t m.img 256 (fun u bs =>
    let x := ofImage (ctxIs u e.i) n bs
    if samplingBad x.period x.log2n x.buf then status w e 4 u
    else if (mget u.sessions (leNat (bs.take 2))).isSome then status w e 5 u
    else if 64 ≤ u.sessions.length then status w e 2 u
    else
      let k := freeSid u
      sysWrites w e u [(e.pb + 32, natLe 2 k)] (fun v => { v with sessions := mset v.sessions k x }))

/-- R475, R476: PROF up to its command. The record's reserved and sampling fields come first; OPEN reads its SID before the latter. -/
def profOp (r : R3) (s : State) : Out :=
  let w := r.raw 0x7E#7 3#3
  sysOp w s (fun e t =>
    if badGlobal 64 128 e.pb then trapAll t e 0x02 0 (addrField e.pb) else
    match descendant t (ctxIs t e.i) e.na with
    | none => status w e 1 t
    | some n => sysRead e t e.pb 128 (fun u bs =>
        let m := profRecOf bs
        if m.rsvd ∨ 4 < m.cmd ∨ (m.cmd ≠ 0 ∧ samplingBad m.period m.log2n m.buf) then status w e 4 u
        else if (ctxD u n).st = .revoking ∧ m.cmd ≠ 1 then status w e 3 u
        else match m.cmd with
          | 0 => profOpen w e u n m
          | 1 => profRead w e u n m
          | 2 => profClose w e u n m
          | 3 => profExport w e u n m
          | _ => profImport w e u n m))

/-- R476: PROF with OPEN, which its record selects. -/
def execProfOpen (r : R3) (s : State) : Out := profOp r s
/-- R476: PROF with READ. -/
def execProfRead (r : R3) (s : State) : Out := profOp r s
/-- R476: PROF with CLOSE. -/
def execProfClose (r : R3) (s : State) : Out := profOp r s
/-- R476: PROF with EXPORT. -/
def execProfExport (r : R3) (s : State) : Out := profOp r s
/-- R476: PROF with IMPORT. -/
def execProfImport (r : R3) (s : State) : Out := profOp r s

/-! ### TRIAL (R480) -/

/-- R480: an experiment record. -/
structure TrialRec where
  cmd : Nat
  speed : Nat
  ms : Bool
  pkind : Nat
  xid : Nat
  dur : Nat
  lo : Nat
  hi : Nat
  pps : List Nat
  rsvd : Bool
  deriving DecidableEq, Repr

/-- R480: an experiment record from its bytes. -/
def trialRecOf (bs : List Byte) : TrialRec :=
  let x := leNat bs
  { cmd := bits x 3 0, speed := bits x 37 32, ms := bit x 65, pkind := bits x 71 68, xid := bits x 95 80, dur := bits x 127 96,
    lo := bits x 191 128, hi := bits x 255 192, pps := (List.range 4).map (fun k => bits x (319 + 64 * k) (256 + 64 * k)),
    rsvd := decide (bits x 79 72 ≠ 0) || decide (bits x 67 66 ≠ 0) || decide (bits x 64 38 ≠ 0) || decide (bits x 31 4 ≠ 0) }

/-- R480: the fields of a record that give status 4 for any command. -/
def TrialRec.bad (m : TrialRec) : Bool :=
  m.rsvd || decide (2 < m.cmd) || decide (m.hi ≤ m.lo) || decide (m.lo % 2 ≠ 0) || decide (m.hi % 2 ≠ 0)

/-- R480: the fields that START alone uses, where they are outside their values (log entry 30). -/
def TrialRec.unfit (m : TrialRec) : Bool :=
  decide (m.dur = 0) || (List.range 4).any (fun k => !m.pkind.testBit k && decide (m.pps.getD k 0 % 2 ≠ 0))

/-- R480: an experiment ends: its debt is unpaid. -/
def endTrial (s : State) (x : Trial) : Trial :=
  if x.done then x else
  { x with done := true, unpaid := x.unpaid + sumNat (x.debt.map (·.2)), debt := [], elapsed := s.clk - x.start }

/-- R480: bits 1023:512 of a record. -/
def trialBytes (s : State) (x : Trial) : List Byte :=
  x.counts.flatMap (natLe 8) ++ natLe 8 (if x.done then x.elapsed else s.clk - x.start) ++ natLe 8 x.trange ++ natLe 8 x.dglobal ++
    natLe 8 (x.unpaid % 2 ^ 63 + (if x.done then 2 ^ 63 else 0))

/-- R480: the experiment that a record names: its number and its root, which is known by its name. -/
def trialOf (s : State) (n xid : Nat) : Option Trial :=
  (mget s.trials (ctxD s n).part).filter (fun x => decide (x.xid = xid) && decide (x.root = n) && decide (x.name = ctxName s n))

/-- R480: START. -/
def trialStart (w : Raw) (e : Env) (t : State) (n : Nat) (m : TrialRec) : State × After :=
  let p := (ctxD t n).part
  if m.unfit then status w e 4 t
  else if ((mget t.trials p).map (fun x => !x.done)).getD false then status w e 5 t
  else
    let k := (mgetD t.xids p 0) % 65535 + 1
    let x : Trial := { xid := k, root := n, name := ctxName t n, lo := m.lo, hi := m.hi, ms := m.ms, speed := m.speed, dur := m.dur, pps := m.pps,
                       pkind := m.pkind, start := t.clk }
    sysWrites w e t [(e.pb + 10, natLe 2 k)] (fun u => { u with trials := mset u.trials p x, xids := mset u.xids p k })

/-- R480: READ. -/
def trialRead (w : Raw) (e : Env) (t : State) (n : Nat) (m : TrialRec) : State × After :=
  match trialOf t n m.xid with
  | none => status w e 8 t
  | some x => sysWrites w e t [(e.pb + 64, trialBytes t x)] id

/-- R480: ABORT. -/
def trialAbort (w : Raw) (e : Env) (t : State) (n : Nat) (m : TrialRec) : State × After :=
  match (trialOf t n m.xid).filter (fun x => !x.done) with
  | none => status w e 8 t
  | some x => status w e 0 { t with trials := mset t.trials (ctxD t n).part (endTrial t x) }

/-- R480: TRIAL up to its command. -/
def trialOp (r : R3) (s : State) : Out :=
  let w := r.raw 0x7E#7 4#3
  sysOp w s (fun e t =>
    if badGlobal 64 128 e.pb then trapAll t e 0x02 0 (addrField e.pb) else
    match descendant t (ctxIs t e.i) e.na with
    | none => status w e 1 t
    | some n => sysRead e t e.pb 128 (fun u bs =>
        let m := trialRecOf bs
        if m.bad then status w e 4 u
        else if (ctxD u n).st = .revoking then status w e (if m.cmd = 1 then 1 else 3) u
        else match m.cmd with
          | 0 => trialStart w e u n m
          | 1 => trialRead w e u n m
          | _ => trialAbort w e u n m))

/-- R480: TRIAL with START, which its record selects. -/
def execTrialStart (r : R3) (s : State) : Out := trialOp r s
/-- R480: TRIAL with READ. -/
def execTrialRead (r : R3) (s : State) : Out := trialOp r s
/-- R480: TRIAL with ABORT. -/
def execTrialAbort (r : R3) (s : State) : Out := trialOp r s

/-! ### Samples (R478) -/

/-- R478: the slots of a subtree on a core, as block × 16 + slot + 1. -/
def sampleSlots (s : State) (n core : Nat) : List Nat :=
  (blocksOf s (subtree s n)).flatMap (fun p =>
    ((List.range p.2.slots.length).filter (fun k => coreOf p.2 k == core)).map (fun k => p.1 * 16 + k + 1))

/-- R45, R478: the code of a lane's state; a lane that a call holds is Held (R201). -/
def laneCode (f : Fibre) (l : Nat) : Nat :=
  if f.st = .frozen ∧ (laneD f l).live then 4
  else match (laneD f l).st with
    | .notLaunched => 0
    | .issuable => if (laneD f l).depth = depthOf f then 1 else 2
    | .held _ _ => 2
    | .parked _ => 3
    | .exited => 5

/-- R478: the fibre and lane that a sample of a slot names. -/
def sampleLane (x : Slot) : Nat :=
  match x.last with
  | n :: r => r.foldl min n
  | [] => ((List.range 128).find? (fun n => (laneD (x.fibs.getD (n / 32) {}) (n % 32)).live)).getD 0

/-- R478: the words of a sample. -/
def sampleWords (s : State) (b k n : Nat) : List Byte :=
  let x := blkD s b
  let f := fibD s b k (n / 32)
  natLe 4 (ctxName s x.ctx) ++ natLe 4 (whereWord s b k (n / 32)) ++ natLe 4 (n % 32 + 256 * laneCode f (n % 32)) ++ natLe 4 x.task ++
    natLe 8 (laneD f (n % 32)).pc.toNat ++ natLe 8 s.clk

/-- R478: one sample of a session on a core. -/
def sample (s : State) (sid core : Nat) : State :=
  match mget s.sessions sid with
  | none => s
  | some x =>
    if x.period = 0 ∨ x.buf = 0 then s else
    let all := sampleSlots s x.root core
    match (all.find? (fun n => decide (mgetD x.rr core 0 < n))).orElse (fun _ => all.head?) with
    | none => s
    | some n =>
      let b := (n - 1) / 16
      let k := (n - 1) % 16
      let bs := sampleWords s b k (sampleLane (slotD s b k))
      let t := (kWrite s x.owner ((x.buf + 32 * (x.wrptr % 2 ^ x.log2n)) % 2 ^ 64) bs).1
      updSlot { t with sessions := mset t.sessions sid { x with wrptr := (x.wrptr + 1) % 2 ^ 32, rr := mset x.rr core n } } b k
        (fun y => { y with last := [] })

/-- R478: every core of a session's subtree writes a sample. -/
def sampleAll (s : State) (sid : Nat) : State :=
  match mget s.sessions sid with
  | none => s
  | some x => (coresUnder s x.root).foldl (fun t c => sample t sid c) s

/-- R478: the clk after which a session's next samples come; none where it takes none. -/
def Session.due (clk : Nat) (x : Session) : Option Nat :=
  if x.period = 0 ∨ x.buf = 0 then none else some ((clk / x.period + 1) * x.period)

/-- R481: the clk that ends an experiment's epoch; none where it does not run. -/
def Trial.due (clk : Nat) (x : Trial) : Option Nat :=
  if x.done then none else some (max (clk + 1) (x.start + 1024 * (x.epochs + 1)))

/-- R481: the end of an epoch: the range clk of the scope's cores are collected, and debts and the global delay grow. -/
def closeEpoch (s : State) (p : Nat) (x : Trial) : State :=
  let cores := x.scope s
  let rc (c : Nat) : Nat := mgetD x.rc c 0
  let all := sumNat (cores.map rc)
  let y := { x with
    epochs := x.epochs + 1, rc := [], dglobal := x.dglobal + x.speed * all / 64
    debt := cores.foldl (fun m c => mset m c (mgetD m c 0 + x.speed * (all - rc c) / 64)) x.debt }
  { s with trials := mset s.trials p (if y.dur ≤ y.epochs then endTrial s y else y) }

/-- R478, R481: what falls at the clk that has come: the ends of epochs, and samples. -/
def atClk (s : State) : State :=
  let t := (s.trials.filter (fun p => !p.2.done && decide (p.2.start + 1024 * (p.2.epochs + 1) ≤ s.clk))).foldl
    (fun u p => closeEpoch u p.1 p.2) s
  (t.sessions.filter (fun p => decide (p.2.period ≠ 0) && decide (p.2.buf ≠ 0) && decide (t.clk % p.2.period = 0))).foldl
    (fun u p => sampleAll u p.1) t

/-- R478, R481: the next clk at which an epoch ends or a sample is due. -/
def nextDue (s : State) : Option Nat :=
  (s.sessions.filterMap (fun p => p.2.due s.clk) ++ s.trials.filterMap (fun p => p.2.due s.clk)).min?

/-- R478, R481: `n` clk pass: debts are paid, and what is due in them falls; `fuel` bounds the dues. -/
def passClk (fuel : Nat) (s : State) (n : Nat) : State :=
  let rest := payDebts { s with clk := s.clk + n } n
  match fuel with
  | 0 => rest
  | k + 1 =>
    match nextDue s with
    | none => rest
    | some m => if s.clk + n < m then rest
      else passClk k (atClk (payDebts { s with clk := m } (m - s.clk))) (s.clk + n - m)

end Sys2Proof.Machine
end

