-- ==== Sys2Proof/Machine/Collect.lean ====
section
/-!
DEFINITION. Collective steps (R293 to R297) and the whistle (R467, R468).
-/

namespace Sys2Proof.Machine

/-! ### Descriptors (R294) -/

/-- R294: a collective descriptor. -/
structure CDesc where
  src : Nat
  dst : Nat
  count : Nat
  typ : Nat
  opc : Nat
  root : Nat
  group : Nat
  step : Nat
  rsvd : Bool
  deriving DecidableEq, Repr

/-- R294: a descriptor from its 512 bits. -/
def cdescOf (x : Nat) : CDesc :=
  { src := bits x 63 0, dst := bits x 127 64, count := bits x 159 128, typ := bits x 175 172, opc := bits x 183 176,
    root := bits x 191 184, group := bits x 223 192, step := bits x 255 224
    rsvd := decide (bits x 171 160 ≠ 0) || decide (bits x 511 288 ≠ 0) }

/-- R294: the element types of a collective. -/
def collType (ty : Nat) : Bool := [0, 1, 2, 3, 7, 8].contains ty

/-- R294, R338: a field breaks the field map; `t`: COLLT. -/
def CDesc.bad (d : CDesc) (t : Bool) : Bool :=
  d.rsvd || !collType d.typ || decide (5 < d.opc) || (decide (d.opc ≠ 4) && decide (d.root ≠ 0)) ||
  (if t then decide (d.count ≠ 0) || badAddr 64 d.src || badAddr 64 d.dst
   else decide (d.count = 0) || !canonical d.src || !canonical d.dst)

/-- The group that an operation's descriptor names (R467). -/
def groupOfOp (s : State) (o : Op) : Group :=
  let d := cdescOf o.y
  if 256 ≤ d.group then groupOfEntry 0 else groupOfEntry (mgetD (ctxD s o.ctx).group d.group 0)

/-- R467: the member index of an operation's block. -/
def memberOf (s : State) (o : Op) : Nat := (groupOfOp s o).kbase + (blkD s o.blk).task

/-- R467: the causes of STATUS 1. -/
def notMember (s : State) (o : Op) : Bool :=
  let d := cdescOf o.y
  let g := groupOfOp s o
  let x := blkD s o.blk
  !g.en || !(launchD s x.launch).tr.gang || decide (g.lcnt < x.task) ||
  (match mget (ctxD s o.ctx).bound d.group with
    | some n => decide (n ≠ x.launch)
    | none => false)

/-! ### Shapes of COLLT (R294, R338) -/

/-- R425: a shape record of a COLLT step as the engine reads it; none inside: malformed. -/
def collShape (s : State) (o : Op) (a : Nat) : Except (Nat × Xl) (State × Option Shape) :=
  match engineRead s o.ctx o.core a 128 .read with
  | .error e => .error e
  | .ok (t, _, bs) =>
    let h := shapeOf bs
    .ok (t, if !shapeRsvd bs ∨ h.bad ∨ h.typ ≠ (cdescOf o.y).typ then none else some h)

/-- R295: the elements of a contribution and of a result, for members `m` and a count. -/
def srcCount (opc m count : Nat) : Nat := if opc = 5 then m * count else count
/-- R295: the elements of a result. -/
def dstCount (opc m count : Nat) : Nat := if opc = 3 then m * count else count

/-- R294: the counts of the two shapes agree for the opcode. -/
def shapesAgree (opc m : Nat) (src dst : Shape) : Bool :=
  if opc = 5 then decide (src.count = m * dst.count) else if opc = 3 then decide (dst.count = m * src.count)
  else decide (dst.count = src.count)

/-- R294, R338: both shapes of a COLLT step: whether they are sound. -/
def collShapes (s : State) (o : Op) : Except (Nat × Xl) (State × Option (Shape × Shape)) :=
  let d := cdescOf o.y
  match collShape s o d.src with
  | .error e => .error e
  | .ok (t, a) =>
    match collShape t o d.dst with
    | .error e => .error e
    | .ok (u, b) =>
      .ok (u, match a, b with
        | some x, some y => if shapesAgree d.opc ((groupOfOp s o).mm + 1) x y then some (x, y) else none
        | _, _ => none)

/-! ### The whistle (R468) -/

/-- The position of the whistle that counts an operation as arrived. -/
def whistleOf (s : State) (id : Nat) : Option Nat := s.whistles.findIdx? (fun w => w.arrived.contains id)

/-- The state with a whistle changed. -/
def updWhistle (s : State) (k : Nat) (g : Whistle → Whistle) : State := { s with whistles := s.whistles.modify k g }

/-- R468: the flit of a member's module. -/
def flitOf (s : State) (o : Op) : Flit :=
  let d := cdescOf o.y
  let g := groupOfOp s o
  { gid := g.gid, step := d.step, tenant := (sliceOf s o.ctx).tenant, kbase := g.kbase, lcnt := g.lcnt, opc := d.opc, typ := d.typ,
    count := d.count, root := d.root }

/-- R468: two flits agree. -/
def Flit.agrees (a b : Flit) : Bool :=
  decide (a.opc = b.opc) && decide (a.typ = b.typ) && decide (a.count = b.count) && decide (a.root = b.root)

/-- All the flits of a list agree. -/
def allAgree (l : List Flit) : Bool :=
  match l with
  | [] => true
  | f :: r => r.all (fun x => Flit.agrees f x)

/-- R468: ranges of members cover 0 to m − 1 exactly once. -/
def covered (l : List Flit) (m : Nat) : Bool :=
  decide (sumNat (l.map (fun f => f.lcnt + 1)) = m) &&
  (List.range m).all (fun k => decide ((l.filter (fun f => decide (f.kbase ≤ k ∧ k ≤ f.kbase + f.lcnt))).length = 1))

/-- R468 step 3: what the caller does once its flits cover the members. -/
def judgeFlits (w : Whistle) (m : Nat) : Whistle :=
  if w.go ∨ w.abort.isSome ∨ !covered w.flits m then w
  else if allAgree w.flits then { w with go := true } else { w with abort := some 4 }

/-- R468: the local members of a whistle that have arrived and are resident. -/
def present (s : State) (w : Whistle) : List (Nat × Op) :=
  w.arrived.filterMap (fun id => (mget s.ops id).bind (fun o => if (blkD s o.blk).resident then some (id, o) else none))

/-- The positions of the whistles of a group that are neither go nor over. -/
def pendingAt (s : State) (c g : Nat) : List Nat :=
  (List.range s.whistles.length).filter (fun k => match s.whistles[k]? with
    | some w => w.ctx == c && w.group == g && !w.go && w.abort.isNone
    | none => false)

/-- R468: a member of a group has arrived at a whistle: a local one that is resident, or one that a counted flit names. -/
def memberAt (s : State) (w : Whistle) (x : Group) (j : Nat) : Bool :=
  (present s w).any (fun p => x.kbase + (blkD s p.2.blk).task == j) ||
  w.flits.any (fun f => decide (f.kbase ≠ x.kbase) && decide (f.kbase ≤ j) && decide (j ≤ f.kbase + f.lcnt))

/-- R294, R296: every member of a group has arrived at some pending whistle of it: where none completes, they disagree in STEP. -/
def stepOdds (s : State) (c g : Nat) (x : Group) : Bool :=
  let ws := (pendingAt s c g).filterMap (fun k => s.whistles[k]?)
  (List.range (x.mm + 1)).all (fun j => ws.any (fun w => memberAt s w x j))

/-- R468 step 1: a module whose local members have all arrived sends its flit, completes an internal whistle, or finds its
own members at odds. -/
def sendWhistle (s : State) (k : Nat) : State :=
  match s.whistles[k]? with
  | none => s
  | some w =>
    if w.sent ∨ w.go ∨ w.abort.isSome then s else
    let ps := present s w
    match ps with
    | [] => s
    | (_, o) :: _ =>
      let g := groupOfOp s o
      let ts := ps.map (fun p => (blkD s p.2.blk).task)
      if ps.length ≠ g.lcnt + 1 ∨ !(List.range (g.lcnt + 1)).all (fun t => ts.contains t) then s
      else if !allAgree (ps.map (fun p => flitOf s p.2)) then updWhistle s k (fun x => { x with sent := true, abort := some 4 })
      else if g.mm = g.lcnt then updWhistle s k (fun x => { x with sent := true, go := true })
      else updWhistle s k (fun x => judgeFlits { x with
        sent := true, flits := if g.kbase = 0 then x.flits ++ [flitOf s o] else x.flits } (g.mm + 1))

/-- The whistle of a step of a group, made where there is none. -/
def whistleAt (s : State) (c g gid step : Nat) : State × Nat :=
  match s.whistles.findIdx? (fun w => w.ctx == c && w.group == g && w.gid == gid && w.step == step && !w.go) with
  | some k => (s, k)
  | none => ({ s with whistles := s.whistles ++ [{ gid := gid, step := step, ctx := c, group := g }] }, s.whistles.length)

/-- R468: an operation arrives at the whistle of its step. -/
def joinWhistle (s : State) (id : Nat) (o : Op) : State :=
  let d := cdescOf o.y
  let g := groupOfOp s o
  let (t, k) := whistleAt s o.ctx d.group g.gid d.step
  sendWhistle (updWhistle t k (fun w => { w with arrived := w.arrived ++ [id], since := some (w.since.getD s.uclk) })) k

/-- The state with the status of an operation decided. -/
def decideOp (s : State) (id : Nat) (o : Op) (st : Nat) : State := { s with ops := mset s.ops id { o with code := st + 1 } }

/-- R294: a run of elements as a shape of one dimension. -/
def runShape (base n ty : Nat) : Shape := { dims := [(n, 1)], typ := ty, base := base }

/-- R294, R295: the shapes of an operation's contribution and result: read for COLLT, from COUNT for COLL; none inside: they
break a rule. -/
def stepShapes (s : State) (o : Op) : Except (Nat × Xl) (State × Option (Shape × Shape)) :=
  let d := cdescOf o.y
  let m := (groupOfOp s o).mm + 1
  if o.w = 1 then collShapes s o
  else .ok (s, some (runShape d.src (srcCount d.opc m d.count) d.typ, runShape d.dst (dstCount d.opc m d.count) d.typ))

/-- R467: the first COLL or COLLT that names a group binds it to its block's launch. -/
def bindGroup (s : State) (o : Op) : State :=
  let d := cdescOf o.y
  if !(groupOfOp s o).en ∨ (mget (ctxD s o.ctx).bound d.group).isSome then s
  else updCtx s o.ctx (fun x => { x with bound := mset x.bound d.group (blkD s o.blk).launch })

/-- R294, R296, R467, R468: an operation that has issued binds its group, is judged by its descriptor, and arrives where nothing is wrong
with it; its shapes are read when the step begins (R297). -/
def collArrive (s0 : State) (id : Nat) (o : Op) : State :=
  let s := bindGroup s0 o
  let d := cdescOf o.y
  if d.bad (decide (o.w = 1)) then decideOp s id o 2
  else if notMember s o then decideOp s id o 1
  else if d.opc = 4 ∧ (groupOfOp s o).mm < d.root then decideOp s id o 2
  else joinWhistle s id o

/-- R293: COLL and COLLT up to their descriptor. Without an active lane the operation only takes its turn (R154). -/
def collOp (r : Raw) (t : Bool) (s : State) : Out :=
  laneInsn r s (fun e u =>
    if e.act.isEmpty then (if ctrFull u e.i 4 then (u, .stay) else (startOp u e.i 4 .idle (fun o => o), .advance)) else
    let a := (pr e.a 0 e.low).toNat
    if badGlobal 64 64 a then trapAll u e 0x02 0 (addrField a) else
    match xlSpan u e.i .read a 64 with
    | .error f => parkAll u e .read 0 f
    | .ok pas =>
      if ctrFull u e.i 4 then (u, .stay) else
      let (v, bs) := gRead (asked u e.i .read (spanOf a 64) pas) (ctxIs u e.i) pas
      let w := startOp v e.i 4 .coll (fun o => { o with x := a, y := leNat bs, w := if t then 1 else 0 })
      match mget w.ops v.nextId with
      | some o => (collArrive w v.nextId o, .advance)
      | none => (w, .advance))

/-- R293: COLL. -/
def execColl (r : RX) (s : State) : Out := collOp (r.raw 0x37#7 0#3) false s
/-- R293: COLLT. -/
def execCollt (r : RX) (s : State) : Out := collOp (r.raw 0x37#7 1#3) true s

/-! ### The step (R295, R297) -/

/-- R295: the combination of two elements: the code of a floating-point or integer type. -/
def combine (opc ty a b : Nat) : Nat :=
  if ty = 7 ∨ ty = 8 then
    let lt (x y : Nat) : Bool := if ty = 8 then decide (x < y) else decide (signedOf 32 x < signedOf 32 y)
    match opc with
    | 1 => if lt b a then b else a
    | 2 => if lt a b then b else a
    | _ => (a + b) % 2 ^ 32
  else match opc with
    | 1 => (fmtOf ty).pickMin false false a b
    | 2 => (fmtOf ty).pickMin false true a b
    | _ => (fmtOf ty).rnd .rn 0 (Val.sum false [(fmtOf ty).decode a, (fmtOf ty).decode b])

/-- R491: an element read with its poison, held above the bits of any element. -/
def flagged (v : Nat) (bad : Bool) : Nat := v % 2 ^ 64 + (if bad then 2 ^ 64 else 0)

/-- R295: the members' elements combined in ascending order, poison carried. -/
def combineAll (opc ty : Nat) (xs : List Nat) : Nat :=
  match xs with
  | [] => 0
  | x :: r => r.foldl (fun a b => flagged (combine opc ty (a % 2 ^ 64) (b % 2 ^ 64)) (decide (2 ^ 64 ≤ a) || decide (2 ^ 64 ≤ b))) x

/-- R295: element `i` of the result of member `k`, from each member's elements. -/
def resultElem (d : CDesc) (m k n i : Nat) (src : Nat → Nat → Nat) : Nat :=
  match d.opc with
  | 3 => src (i / n) (i % n)
  | 4 => src d.root i
  | 5 => combineAll 0 d.typ ((List.range m).map (fun j => src j (k * n + i)))
  | _ => combineAll d.opc d.typ ((List.range m).map (fun j => src j i))

/-- R339: the elements of a shape, read in order. -/
def readElems (s : State) (c core : Nat) (h : Shape) (n k : Nat) (out : List Nat) : Except (Nat × Xl) (State × List Nat) :=
  match n with
  | 0 => .ok (s, out)
  | m + 1 =>
    match readElem s c core h (h.indexes k) with
    | .error e => .error e
    | .ok (t, v, bad) => readElems t c core h m (k + 1) (out ++ [flagged v bad])

/-- R339: the elements of a shape, written in order. -/
def writeElems (s : State) (c core : Nat) (h : Shape) (k : Nat) (vs : List Nat) : Except (Nat × Xl) State :=
  match vs with
  | [] => .ok s
  | v :: r =>
    match writeElem s c core h (h.indexes k) (v % 2 ^ 64) (decide (2 ^ 64 ≤ v)) with
    | .error e => .error e
    | .ok t => writeElems t c core h (k + 1) r

/-- R295: a member's contribution is read once the whistle has completed; only the root's counts for a broadcast. -/
def readSource (s : State) (id : Nat) (o : Op) (k : Nat) (h : Shape) : State × Bool :=
  match s.whistles[k]? with
  | none => (s, false)
  | some w =>
    let me := memberOf s o
    if (mget w.src me).isSome then (s, true) else
    let d := cdescOf o.y
    let n := if d.opc = 4 ∧ d.root ≠ me then 0 else h.count
    match readElems s o.ctx o.core h n 0 [] with
    | .error f => (holdOp s id o .read f, false)
    | .ok (t, vs) => (updWhistle t k (fun x => { x with src := mset x.src me vs }), true)

/-- R295: the elements of each member: the local ones as read, the others' bytes in ascending order of member. -/
def memberElem (w : Whistle) (g : Group) (ty j i : Nat) : Nat :=
  if g.kbase ≤ j ∧ j ≤ g.kbase + g.lcnt then (mgetD w.src j []).getD i 0
  else
    let z := nibbles ty / 2
    let bs := w.far.getD (if j < g.kbase then j else j - (g.lcnt + 1)) []
    leNat ((bs.drop (i * z)).take z)

/-- R297: every contribution of a step has been read: those of the members of this module, and those of the others. -/
def allRead (w : Whistle) (g : Group) : Bool :=
  (List.range (g.lcnt + 1)).all (fun j => (mget w.src (g.kbase + j)).isSome) && decide (g.mm - g.lcnt ≤ w.far.length)

/-- R297: no member of the module is held by a fault or saved, so that the step need not wait for it. -/
def noneHeld (s : State) (w : Whistle) : Bool :=
  w.arrived.all (fun id => match mget s.ops id with
    | some o => o.fault.isNone && (blkD s o.blk).resident
    | none => true)

/-- R294: the counts of the members' shapes agree: of every contribution, those of other modules by their bytes, and for a broadcast with
the root's. -/
def countsAgree (d : CDesc) (g : Group) (w : Whistle) : Bool :=
  let z := nibbles d.typ / 2
  let far := w.far.getD (if d.root < g.kbase then d.root else d.root - (g.lcnt + 1)) []
  let n := if d.opc = 4 ∧ !(decide (g.kbase ≤ d.root) && decide (d.root ≤ g.kbase + g.lcnt)) then far.length / z
    else ((w.shapes.head?).map (fun p => p.2.1.count)).getD 0
  w.shapes.all (fun p => p.2.1.count == n) && (decide (d.opc = 4) || w.far.all (fun bs => bs.length == n * z))

/-- R296: a status is written at a member; none where a fault holds it. -/
def putStatus (s : State) (id : Nat) (o : Op) (st : Nat) : State × Bool :=
  match engineRead s o.ctx o.core (o.x + 32) 4 .write with
  | .error f => (holdOp s id o .write f, false)
  | .ok (t, pas, _) => (gWrite t o.ctx pas (natLe 4 st), true)

/-- R296: a status that the descriptor of a member alone brings is written, and the operation completes. -/
def collStatus (s : State) (id : Nat) (o : Op) (st : Nat) : State :=
  let (t, ok) := putStatus s id o st
  if ok then finishOp t id else t

/-- R296, R297: a status of a step is written at a member; the whistle notes it. -/
def stepStatus (s : State) (id : Nat) (o : Op) (k st : Nat) : State :=
  let (t, ok) := putStatus s id o st
  if ok then updWhistle t k (fun w => { w with wrote := w.wrote ++ [id] }) else t

/-- R295, R297: a member's result and STATUS 0 are written; the whistle notes it. -/
def collWrite (s : State) (id : Nat) (o : Op) (k : Nat) (b : Shape) (vs : List Nat) : State :=
  match writeElems s o.ctx o.core b 0 vs with
  | .error f => holdOp s id o .write f
  | .ok t => stepStatus t id o k 0

/-- R294, R297: the shapes of a member whose step has passed the whistle are read, which a fault on them delays at every member; where
they break a rule, every member of the module receives STATUS 2. -/
def takeShapes (s : State) (id : Nat) (o : Op) (k : Nat) : State :=
  match stepShapes s o with
  | .error f => holdOp s id o .read f
  | .ok (t, none) => updWhistle t k (fun w => { w with abort := some 2 })
  | .ok (t, some h) => updWhistle t k (fun w => { w with shapes := mset w.shapes id h })

/-- R295, R297: a member's part of a step that has passed the whistle: its contribution is read; once every member's has been
and none waits, its result is written. -/
def collPerform (s : State) (id : Nat) (o : Op) (k : Nat) : State :=
  match (s.whistles[k]?).bind (fun w => mget w.shapes id) with
  | none => takeShapes s id o k
  | some (a, b) =>
    let p := readSource s id o k a
    if !p.2 then p.1 else
    match p.1.whistles[k]? with
    | none => p.1
    | some w =>
      let g := groupOfOp s o
      let d := cdescOf o.y
      if !allRead w g ∨ !noneHeld p.1 w then p.1
      else if !countsAgree d g w then stepStatus p.1 id o k 2
      else
        let m := g.mm + 1
        let n := if d.opc = 3 then b.count / m else b.count
        collWrite p.1 id o k b ((List.range b.count).map (fun i => resultElem d m (memberOf s o) n i (memberElem w g d.typ)))

/-- R133, R297: X falls at a member once the step, or its status, is performed at every member of the module that has arrived; a
whistle that all of them have left is forgotten. -/
def collLeave (s : State) (id k : Nat) (w : Whistle) : State :=
  if !w.arrived.all (fun n => w.wrote.contains n || (mget s.ops n).isNone) then s else
  let t := finishOp s id
  let x := groupOfEntry (mgetD (ctxD s w.ctx).group w.group 0)
  if w.arrived.any (fun n => (mget t.ops n).isSome) ∨ w.arrived.length ≤ x.lcnt then t else { t with whistles := t.whistles.eraseIdx k }

/-- R296, R297: one advance of a collective operation. -/
def collStep (s : State) (id : Nat) : State :=
  match mget s.ops id with
  | none => s
  | some o =>
    if o.cls ≠ 4 ∨ !isOldest s id o ∨ o.fault.isSome then s
    else if o.kind = .idle then finishOp s id
    else if o.code ≠ 0 then collStatus s id o (o.code - 1)
    else match whistleOf s id with
      | none => collArrive s id o
      | some k =>
        let t := sendWhistle s k
        match t.whistles[k]? with
        | none => t
        | some w =>
          if w.wrote.contains id then collLeave t id k w
          else match w.abort with
            | some c => stepStatus t id o k c
            | none => if !w.go then t else collPerform t id o k

/-- R296: COLLECTIVE_STEP_COMPLETE. -/
def execCollectiveStepComplete (op : Nat) (s : State) : Out := event s (fun t => collStep t op)

/-! ### What other modules send (R468) -/

/-- The contexts and groups that hold a pod-wide identity. -/
def groupsOf (s : State) (gid : Nat) : List (Nat × Nat × Group) :=
  s.ctxs.flatMap (fun p => if p.2.st = .free then [] else (p.2.group.map (fun q => (p.1, q.1, groupOfEntry q.2))).filter
    (fun q => q.2.2.en && q.2.2.gid == gid))

/-- R468 steps 2 and 3: the caller counts a flit of its own tenant; one that follows an abort has no effect. -/
def countFlit (s : State) (f : Flit) : State :=
  match (groupsOf s f.gid).find? (fun q => q.2.2.kbase == 0 && decide ((sliceOf s q.1).tenant = f.tenant)) with
  | none => s
  | some (c, g, x) =>
    let (t, k) := whistleAt s c g f.gid f.step
    updWhistle t k (fun w => if w.abort.isSome then w else judgeFlits { w with flits := w.flits ++ [f] } (x.mm + 1))

/-- R468: WHISTLE_FLIT. -/
def execWhistleFlit (w : Flit) (s : State) : Out := event s (fun t => countFlit t w)

/-- R468 step 5: go, with the other modules' contributions; it follows an abort without effect. -/
def takeGo (s : State) (gid step : Nat) (data : List (List Byte)) : State :=
  { s with whistles := s.whistles.map (fun w =>
      let g := groupOfEntry (mgetD (ctxD s w.ctx).group w.group 0)
      if w.gid = gid ∧ w.step = step ∧ w.sent ∧ w.abort.isNone ∧ w.far.isEmpty ∧ g.mm ≠ g.lcnt ∧ (w.go ∨ g.kbase ≠ 0) then
        { w with go := true, far := data } else w) }

/-- R468: WHISTLE_GO. -/
def execWhistleGo (gid step : Nat) (data : List (List Byte)) (s : State) : Out := event s (fun t => takeGo t gid step data)

/-- R468 step 5: an abort, remembered for the members that have not yet arrived. -/
def takeAbort (s : State) (gid step code : Nat) : State :=
  ((groupsOf s gid).filter (fun q => q.2.2.mm != q.2.2.lcnt)).foldl (fun t q =>
    let (u, k) := whistleAt t q.1 q.2.1 gid step
    updWhistle u k (fun w => if w.abort.isSome then w else { w with abort := some (code % 2 ^ 32) })) s

/-- R468: WHISTLE_ABORT. -/
def execWhistleAbort (gid step code : Nat) (s : State) : Out := event s (fun t => takeAbort t gid step code)

/-- The group entry under which a whistle stands. -/
def whistleGroup (s : State) (w : Whistle) : Group := groupOfEntry (mgetD (ctxD s w.ctx).group w.group 0)

/-- R468 step 4: the uclk at which the rendezvous limit of a step is over whose caller this module is; none where it does not run. -/
def whistleDue (s : State) (w : Whistle) : Option Nat :=
  let g := whistleGroup s w
  if g.kbase ≠ 0 ∨ w.go ∨ w.abort.isSome then none else w.since.map (· + 2400 * g.rlim)

/-- R294, R296, R468 step 4: the steps whose rendezvous limit is over end with abort 3; where every member has arrived by then, but at
several steps, each of these ends with 4 (log entry 47). -/
def lateWhistles (s : State) : State :=
  let late := s.whistles.filter (fun w => ((whistleDue s w).map (fun d => decide (d ≤ s.uclk))).getD false)
  let odd (w : Whistle) : Bool := late.any (fun v => v.ctx == w.ctx && v.group == w.group) && stepOdds s w.ctx w.group (whistleGroup s w)
  { s with whistles := s.whistles.map (fun w =>
      if !w.go ∧ w.abort.isNone ∧ odd w then { w with abort := some 4 }
      else if late.contains w then { w with abort := some 3 } else w) }

end Sys2Proof.Machine
end

