-- ==== Sys2Proof/Machine/Float.lean ====
section
/-!
DEFINITION. Meanings of the floating-point and conversion instructions (R228 to R250). Each result is computed per active
lane; an issue in mode .rs steps the generator once, whether or not a lane is active (R79).
-/

namespace Sys2Proof.Machine

/-- R229: the rounding mode of an X form. -/
def rmImm (r : Raw) : Rm := rmOf (Forms.immOf r % 8)

/-- R79, R230: an issue in mode .rs steps the generator; the random words of lanes and elements come from the new value. -/
def drawRs (rm : Rm) (e : Env) (s : State) : State × (Nat → Nat → Nat) :=
  if rm = .rs then
    let g := stepGen (fibIs s e.i).gen
    (updIs s e.i (fun x => { x with gen := g }), fun l k => (laneWord g l k).toNat)
  else (s, fun _ _ => 0)

/-- A one-word result in a rounding mode. -/
def fpOp (r : Raw) (rm : Rm) (s : State) (g : (Nat → Nat → Nat) → Env → Nat → Nat) : Out :=
  laneInsn r s (fun e t =>
    let (t1, u) := drawRs rm e t
    (wrD r e 0 (fun l => BitVec.ofNat 32 (g u e l)) t1, .advance))

/-- A pair result in a rounding mode. -/
def fpOp2 (r : Raw) (rm : Rm) (s : State) (g : (Nat → Nat → Nat) → Env → Nat → Nat) : Out :=
  laneInsn r s (fun e t =>
    let (t1, u) := drawRs rm e t
    (wrD2 r e (fun l => BitVec.ofNat 64 (g u e l)) t1, .advance))

/-- R228: a word of a field as FP32. -/
def fw (x : List (List Word)) (l : Nat) : Val := f32.decode (wd x 0 l).toNat
/-- R228: a pair of a field as FP64. -/
def dw (x : List (List Word)) (l : Nat) : Val := f64.decode (pr x 0 l).toNat
/-- R70: element `j` of width `w` of a word. -/
def elemOf (x : Word) (w j : Nat) : Nat := x.toNat / 2 ^ (w * j) % 2 ^ w
/-- R228: half `j` of a packed operand. -/
def hw (f : Fmt) (x : List (List Word)) (j l : Nat) : Val := f.decode (elemOf (wd x 0 l) 16 j)
/-- R70: a word of two halves. -/
def halves (g : Nat → Nat) : Nat := g 0 + 65536 * g 1

/-- R74: a sum rounded once. -/
def addR (f : Fmt) (rm : Rm) (u : Nat) (a b : Val) : Nat := f.rnd rm u (Val.sum rm.isRd [a, b])
/-- R74: a product rounded once. -/
def mulR (f : Fmt) (rm : Rm) (u : Nat) (a b : Val) : Nat := f.rnd rm u (a.mul b)
/-- R234: a product-sum rounded once. -/
def fmaR (f : Fmt) (rm : Rm) (u : Nat) (a b c : Val) : Nat := f.rnd rm u (Val.sum rm.isRd [a.mul b, c])
/-- R86: two products and an addend rounded once to FP32. -/
def dotR (f : Fmt) (rm : Rm) (u : Nat) (e : Env) (l : Nat) : Nat :=
  f32.rnd rm u (Val.sum rm.isRd [(hw f e.a 0 l).mul (hw f e.b 0 l), (hw f e.a 1 l).mul (hw f e.b 1 l), fw e.c l])

/-- R235: a comparison of FP32 words. -/
def fcmp (k : Nat) (a b : Val) : Bool :=
  let un := a.isNan || b.isNan
  match k with
  | 0 => !un && !a.lt b && !b.lt a
  | 1 => un || a.lt b || b.lt a
  | 2 => a.lt b
  | 3 => !un && !b.lt a
  | _ => un

/-- R236: the class of an encoding. -/
def classOf (f : Fmt) (x : Nat) : Nat :=
  let neg := x.testBit (f.eb + f.mb)
  let c := x % f.signBit
  let m := c % 2 ^ f.mb
  if f.infCode < c then (if m.testBit (f.mb - 1) then 2 ^ 9 else 2 ^ 8)
  else if c = f.infCode then (if neg then 2 ^ 0 else 2 ^ 7)
  else if c = 0 then (if neg then 2 ^ 3 else 2 ^ 4)
  else if c < 2 ^ f.mb then (if neg then 2 ^ 2 else 2 ^ 5)
  else (if neg then 2 ^ 1 else 2 ^ 6)

/-! ### Element types (R244) -/

/-- R244: an element type: a float format, or an integer type with its limits. -/
inductive ETy
  | flt (f : Fmt)
  | int (w : Nat) (signed : Bool)
  deriving DecidableEq, Repr

/-- R244: the type of a code. -/
def etyOf (k : Nat) : ETy :=
  match k with
  | 0 => .flt f64
  | 1 => .flt f32
  | 2 => .flt f16
  | 3 => .flt bf16
  | 4 => .flt e5m2
  | 5 => .flt e4m3
  | 6 => .flt e2m1
  | 7 => .int 32 true
  | 8 => .int 32 false
  | 9 => .int 8 true
  | 10 => .int 8 false
  | _ => .int 4 true

/-- R244: the width of a type's element. -/
def ETy.width (t : ETy) : Nat :=
  match t with
  | .flt f => f.width
  | .int w _ => w

/-- R69: the limits of an integer type. -/
def intLo (w : Nat) (signed : Bool) : Int := if signed then -(2 ^ (w - 1) : Int) else 0
/-- R69: the limits of an integer type. -/
def intHi (w : Nat) (signed : Bool) : Int := if signed then 2 ^ (w - 1) - 1 else 2 ^ w - 1

/-- An element as an integer (R246). -/
def intOf (w : Nat) (signed : Bool) (x : Nat) : Int :=
  if signed && x.testBit (w - 1) then (x : Int) - 2 ^ w else x

/-- R246: the value of an element. -/
def ETy.value (t : ETy) (x : Nat) : Val :=
  match t with
  | .flt f => f.decode x
  | .int w sg => ofInteger (intOf w sg x)

/-- R84: the non-saturating form of a destination: always for the four wide formats, where NS asks for it in E5M2 and E4M3,
never in E2M1. -/
def satOf (f : Fmt) (ns : Bool) : Sat :=
  if f = e2m1 then .sat else if f = e5m2 ∨ f = e4m3 then (if ns then .r76 else .sat) else .r76

/-- R84: the conversion of a value to a type, as an encoding. -/
def convert (d : ETy) (ns : Bool) (rm : Rm) (u : Nat) (v : Val) : Nat :=
  match d with
  | .flt f => f.round rm (satOf f ns) u v
  | .int w sg => (toIntSat (intLo w sg) (intHi w sg) rm u v % (2 ^ w : Int)).toNat

/-- R246: element E of the source. -/
def sourceElem (st k : Nat) (e : Env) (l : Nat) : Nat :=
  if st = 0 then (pr e.a 0 l).toNat else elemOf (wd e.a 0 l) (etyOf st).width k

/-- R246: a result of type code `dt`: a pair for FP64, else a word. -/
def cvtOut (r : Raw) (dt : Nat) (rm : Rm) (s : State) (g : (Nat → Nat → Nat) → Env → Nat → Nat) : Out :=
  if dt = 0 then fpOp2 r rm s g else fpOp r rm s g

/-- R245, R246: CVT. -/
def execCvt (r : RX) (s : State) : Out :=
  let w := r.raw 0x1F#7 0#3
  let m := r.x.imm.toNat
  let dt := m / 256 % 16
  let st := m / 16 % 16
  cvtOut w dt (rmImm w) s (fun u e l =>
    convert (etyOf dt) (m.testBit 3) (rmImm w) (u l 0) ((etyOf st).value (sourceElem st r.b.toNat e l)))

/-- R245, R246: FRND. -/
def execFrnd (r : RX) (s : State) : Out :=
  let w := r.raw 0x1F#7 1#3
  let st := r.x.imm.toNat / 16 % 16
  cvtOut w st (rmImm w) s (fun u e l =>
    convert (etyOf st) false .rz 0 (integral (rmImm w) (u l 0) ((etyOf st).value (sourceElem st r.b.toNat e l))))

/-! ### Block-scaled data (R247 to R250) -/

/-- R247: the element format of PACK, UNPACK and BSCALE. -/
def mxFmt (m : Nat) : Fmt :=
  match m / 8 % 8 with
  | 0 => e4m3
  | 1 => e5m2
  | _ => e2m1

/-- R249: byte `j` of the scale operand in a lane. -/
def scaleByte (e : Env) (j l : Nat) : Nat := elemOf (wd e.c (j / 4) l) 8 (j % 4)

/-- R249: an element of PACK8 or PACK4. -/
def packElem (m w : Nat) (u : Nat → Nat → Nat) (e : Env) (l j : Nat) : Nat :=
  let x := (wd e.a j l).toNat
  if m.testBit 7 then x % 2 ^ w
  else if scaleByte e j l = 0xFF then 0
  else convert (.flt (mxFmt m)) (m.testBit 6) (rmOf (m % 8)) (u l j) ((f32.decode x).scale (127 - (scaleByte e j l : Int)))

/-- R249: PACK8 and PACK4. -/
def packOp (r : Raw) (n w : Nat) (s : State) : Out :=
  fpOp r (rmImm r) s (fun u e l =>
    ((List.range n).map (fun j => packElem (Forms.immOf r) w u e l j * 2 ^ (w * j))).foldl (· + ·) 0)

/-- R249: PACK8. -/
def execPack8 (r : RX) (s : State) : Out := packOp (r.raw 0x20#7 0#3) 4 8 s
/-- R249: PACK4. -/
def execPack4 (r : RX) (s : State) : Out := packOp (r.raw 0x20#7 2#3) 8 4 s

/-- R250: an element of UNPACK8 or UNPACK4. -/
def unpackElem (m w : Nat) (e : Env) (l j : Nat) : Nat :=
  let x := elemOf (wd e.a 0 l) w j
  if m.testBit 7 then x else f32.rnd .rn 0 (mxValue (mxFmt m) x (scaleByte e j l))

/-- R250: UNPACK8 and UNPACK4. -/
def unpackOp (r : Raw) (n w : Nat) (s : State) : Out :=
  laneInsn r s (fun e t =>
    ((List.range n).foldl (fun v j => wrD r e j (fun l => BitVec.ofNat 32 (unpackElem (Forms.immOf r) w e l j)) v) t, .advance))

/-- R250: UNPACK8. -/
def execUnpack8 (r : RX) (s : State) : Out := unpackOp (r.raw 0x20#7 1#3) 4 8 s
/-- R250: UNPACK4. -/
def execUnpack4 (r : RX) (s : State) : Out := unpackOp (r.raw 0x20#7 3#3) 8 4 s

/-- R248: the scale of register `j` over the active lanes. -/
def scaleOf (m : Nat) (e : Env) (j : Nat) : Nat :=
  blockScale (mxFmt m) (e.act.map (fun l => f32.decode (wd e.a j l).toNat))

/-- R248: four scales as a word. -/
def scaleWord (m : Nat) (e : Env) (k : Nat) : Word :=
  BitVec.ofNat 32 (((List.range 4).map (fun j => scaleOf m e (4 * k + j) * 2 ^ (8 * j))).foldl (· + ·) 0)

/-- R248: BSCALE. -/
def execBscale (r : RX) (s : State) : Out :=
  let w := r.raw 0x20#7 4#3
  let m := r.x.imm.toNat
  laneInsn w s (fun e t =>
    let t1 := wrD w e 0 (fun _ => scaleWord m e 0) t
    (if m / 8 % 8 = 2 then wrD w e 1 (fun _ => scaleWord m e 1) t1 else t1, .advance))

/-- R236: FCLASS. -/
def execFclass (r : R3) (s : State) : Out :=
  aluOp (r.raw 0x18#7 5#3) s (fun e l => BitVec.ofNat 32 (match r.b.toNat with
    | 0 => classOf f32 (wd e.a 0 l).toNat
    | 1 => classOf f64 (pr e.a 0 l).toNat
    | 2 => classOf f16 (elemOf (wd e.a 0 l) 16 0)
    | _ => classOf bf16 (elemOf (wd e.a 0 l) 16 0)))


/-! ### FP32 (R232 to R235, R237) -/

/-- R232: f(a) + f(b). -/
def execFadd (r : R3) (s : State) : Out :=
  fpOp (r.raw 0x14#7 0#3) .rn s (fun _ e l => addR f32 .rn 0 (fw e.a l) (fw e.b l))

/-- R232: f(a) − f(b). -/
def execFsub (r : R3) (s : State) : Out :=
  fpOp (r.raw 0x14#7 1#3) .rn s (fun _ e l => addR f32 .rn 0 (fw e.a l) (fw e.b l).neg)

/-- R232: f(a) × f(b). -/
def execFmul (r : R3) (s : State) : Out :=
  fpOp (r.raw 0x14#7 2#3) .rn s (fun _ e l => mulR f32 .rn 0 (fw e.a l) (fw e.b l))

/-- R232: minimumNumber. -/
def execFmin (r : R3) (s : State) : Out :=
  fpOp (r.raw 0x14#7 3#3) .rn s (fun _ e l => f32.pickMin false false (wd e.a 0 l).toNat (wd e.b 0 l).toNat)

/-- R232: maximumNumber. -/
def execFmax (r : R3) (s : State) : Out :=
  fpOp (r.raw 0x14#7 4#3) .rn s (fun _ e l => f32.pickMin false true (wd e.a 0 l).toNat (wd e.b 0 l).toNat)

/-- R232: the lesser operand, NaN if either is. -/
def execFminp (r : R3) (s : State) : Out :=
  fpOp (r.raw 0x14#7 5#3) .rn s (fun _ e l => f32.pickMin true false (wd e.a 0 l).toNat (wd e.b 0 l).toNat)

/-- R232: the greater operand, NaN if either is. -/
def execFmaxp (r : R3) (s : State) : Out :=
  fpOp (r.raw 0x14#7 6#3) .rn s (fun _ e l => f32.pickMin true true (wd e.a 0 l).toNat (wd e.b 0 l).toNat)

/-- R233: FADD in mode RM. -/
def execFaddx (r : RX) (s : State) : Out :=
  fpOp (r.raw 0x15#7 0#3) (rmImm (r.raw 0x15#7 0#3)) s (fun u e l => addR f32 (rmImm (r.raw 0x15#7 0#3)) (u l 0) (fw e.a l) (fw e.b l))

/-- R233: FSUB in mode RM. -/
def execFsubx (r : RX) (s : State) : Out :=
  fpOp (r.raw 0x15#7 1#3) (rmImm (r.raw 0x15#7 1#3)) s (fun u e l => addR f32 (rmImm (r.raw 0x15#7 1#3)) (u l 0) (fw e.a l) (fw e.b l).neg)

/-- R233: FMUL in mode RM. -/
def execFmulx (r : RX) (s : State) : Out :=
  fpOp (r.raw 0x15#7 2#3) (rmImm (r.raw 0x15#7 2#3)) s (fun u e l => mulR f32 (rmImm (r.raw 0x15#7 2#3)) (u l 0) (fw e.a l) (fw e.b l))

/-- R234: FFMA. -/
def execFfma (r : RX) (s : State) : Out :=
  fpOp (r.raw 0x16#7 0#3) (rmImm (r.raw 0x16#7 0#3)) s (fun u e l =>
    fmaR f32 (rmImm (r.raw 0x16#7 0#3)) (u l 0) (fw e.a l) (fw e.b l) (fw e.c l))

/-- R237, R238: FRCP. -/
def execFrcp (r : R3) (s : State) : Out :=
  aluOp (r.raw 0x17#7 0#3) s (fun e l => transcend 0 (wd e.a 0 l))

/-- R237, R238: FRSQ. -/
def execFrsq (r : R3) (s : State) : Out :=
  aluOp (r.raw 0x17#7 1#3) s (fun e l => transcend 1 (wd e.a 0 l))

/-- R237, R238: FSQRT. -/
def execFsqrt (r : R3) (s : State) : Out :=
  aluOp (r.raw 0x17#7 2#3) s (fun e l => transcend 2 (wd e.a 0 l))

/-- R237, R238: FEX2. -/
def execFex2 (r : R3) (s : State) : Out :=
  aluOp (r.raw 0x17#7 3#3) s (fun e l => transcend 3 (wd e.a 0 l))

/-- R237, R238: FLG2. -/
def execFlg2 (r : R3) (s : State) : Out :=
  aluOp (r.raw 0x17#7 4#3) s (fun e l => transcend 4 (wd e.a 0 l))

/-- R237, R238: FSIN. -/
def execFsin (r : R3) (s : State) : Out :=
  aluOp (r.raw 0x17#7 5#3) s (fun e l => transcend 5 (wd e.a 0 l))

/-- R237, R238: FCOS. -/
def execFcos (r : R3) (s : State) : Out :=
  aluOp (r.raw 0x17#7 6#3) s (fun e l => transcend 6 (wd e.a 0 l))

/-- R237, R238: FTANH. -/
def execFtanh (r : R3) (s : State) : Out :=
  aluOp (r.raw 0x17#7 7#3) s (fun e l => transcend 7 (wd e.a 0 l))

/-- R235: FCMP .eq. -/
def execFcmpEq (r : R3) (s : State) : Out :=
  aluOp (r.raw 0x18#7 0#3) s (fun e l => flag (fcmp 0 (fw e.a l) (fw e.b l)))

/-- R235: FCMP .ne. -/
def execFcmpNe (r : R3) (s : State) : Out :=
  aluOp (r.raw 0x18#7 1#3) s (fun e l => flag (fcmp 1 (fw e.a l) (fw e.b l)))

/-- R235: FCMP .lt. -/
def execFcmpLt (r : R3) (s : State) : Out :=
  aluOp (r.raw 0x18#7 2#3) s (fun e l => flag (fcmp 2 (fw e.a l) (fw e.b l)))

/-- R235: FCMP .le. -/
def execFcmpLe (r : R3) (s : State) : Out :=
  aluOp (r.raw 0x18#7 3#3) s (fun e l => flag (fcmp 3 (fw e.a l) (fw e.b l)))

/-- R235: FCMP .un. -/
def execFcmpUn (r : R3) (s : State) : Out :=
  aluOp (r.raw 0x18#7 4#3) s (fun e l => flag (fcmp 4 (fw e.a l) (fw e.b l)))

/-! ### FP64 (R239 to R241) -/

/-- R239: DADD. -/
def execDadd (r : R3) (s : State) : Out :=
  fpOp2 (r.raw 0x19#7 0#3) .rn s (fun _ e l => addR f64 .rn 0 (dw e.a l) (dw e.b l))

/-- R239: DSUB. -/
def execDsub (r : R3) (s : State) : Out :=
  fpOp2 (r.raw 0x19#7 1#3) .rn s (fun _ e l => addR f64 .rn 0 (dw e.a l) (dw e.b l).neg)

/-- R239: DMUL. -/
def execDmul (r : R3) (s : State) : Out :=
  fpOp2 (r.raw 0x19#7 2#3) .rn s (fun _ e l => mulR f64 .rn 0 (dw e.a l) (dw e.b l))

/-- R239: DMIN. -/
def execDmin (r : R3) (s : State) : Out :=
  fpOp2 (r.raw 0x19#7 3#3) .rn s (fun _ e l => f64.pickMin false false (pr e.a 0 l).toNat (pr e.b 0 l).toNat)

/-- R239: DMAX. -/
def execDmax (r : R3) (s : State) : Out :=
  fpOp2 (r.raw 0x19#7 4#3) .rn s (fun _ e l => f64.pickMin false true (pr e.a 0 l).toNat (pr e.b 0 l).toNat)

/-- R240: DFMA. -/
def execDfma (r : RX) (s : State) : Out :=
  fpOp2 (r.raw 0x1A#7 0#3) (rmImm (r.raw 0x1A#7 0#3)) s (fun u e l =>
    fmaR f64 (rmImm (r.raw 0x1A#7 0#3)) (u l 0) (dw e.a l) (dw e.b l) (dw e.c l))

/-- R241: DSQRT. -/
def execDsqrt (r : R3) (s : State) : Out :=
  aluOp2 (r.raw 0x1B#7 0#3) s (fun e l => transcend64 0 (pr e.a 0 l))

/-- R241: DRCP. -/
def execDrcp (r : R3) (s : State) : Out :=
  aluOp2 (r.raw 0x1B#7 1#3) s (fun e l => transcend64 1 (pr e.a 0 l))

/-- R241: DRSQ. -/
def execDrsq (r : R3) (s : State) : Out :=
  aluOp2 (r.raw 0x1B#7 2#3) s (fun e l => transcend64 2 (pr e.a 0 l))

/-! ### Packed FP16 and BF16 (R242, R243) -/

/-- R242: HADD2. -/
def execHadd2 (r : R3) (s : State) : Out :=
  fpOp (r.raw 0x1C#7 0#3) .rn s (fun _ e l => halves (fun j =>
    addR f16 .rn 0 (hw f16 e.a j l) (hw f16 e.b j l)))

/-- R242: HSUB2. -/
def execHsub2 (r : R3) (s : State) : Out :=
  fpOp (r.raw 0x1C#7 1#3) .rn s (fun _ e l => halves (fun j =>
    addR f16 .rn 0 (hw f16 e.a j l) (hw f16 e.b j l).neg))

/-- R242: HMUL2. -/
def execHmul2 (r : R3) (s : State) : Out :=
  fpOp (r.raw 0x1C#7 2#3) .rn s (fun _ e l => halves (fun j =>
    mulR f16 .rn 0 (hw f16 e.a j l) (hw f16 e.b j l)))

/-- R242: HMIN2. -/
def execHmin2 (r : R3) (s : State) : Out :=
  fpOp (r.raw 0x1C#7 3#3) .rn s (fun _ e l => halves (fun j =>
    f16.pickMin false false (elemOf (wd e.a 0 l) 16 j) (elemOf (wd e.b 0 l) 16 j)))

/-- R242: HMAX2. -/
def execHmax2 (r : R3) (s : State) : Out :=
  fpOp (r.raw 0x1C#7 4#3) .rn s (fun _ e l => halves (fun j =>
    f16.pickMin false true (elemOf (wd e.a 0 l) 16 j) (elemOf (wd e.b 0 l) 16 j)))

/-- R242: BADD2. -/
def execBadd2 (r : R3) (s : State) : Out :=
  fpOp (r.raw 0x1D#7 0#3) .rn s (fun _ e l => halves (fun j =>
    addR bf16 .rn 0 (hw bf16 e.a j l) (hw bf16 e.b j l)))

/-- R242: BSUB2. -/
def execBsub2 (r : R3) (s : State) : Out :=
  fpOp (r.raw 0x1D#7 1#3) .rn s (fun _ e l => halves (fun j =>
    addR bf16 .rn 0 (hw bf16 e.a j l) (hw bf16 e.b j l).neg))

/-- R242: BMUL2. -/
def execBmul2 (r : R3) (s : State) : Out :=
  fpOp (r.raw 0x1D#7 2#3) .rn s (fun _ e l => halves (fun j =>
    mulR bf16 .rn 0 (hw bf16 e.a j l) (hw bf16 e.b j l)))

/-- R242: BMIN2. -/
def execBmin2 (r : R3) (s : State) : Out :=
  fpOp (r.raw 0x1D#7 3#3) .rn s (fun _ e l => halves (fun j =>
    bf16.pickMin false false (elemOf (wd e.a 0 l) 16 j) (elemOf (wd e.b 0 l) 16 j)))

/-- R242: BMAX2. -/
def execBmax2 (r : R3) (s : State) : Out :=
  fpOp (r.raw 0x1D#7 4#3) .rn s (fun _ e l => halves (fun j =>
    bf16.pickMin false true (elemOf (wd e.a 0 l) 16 j) (elemOf (wd e.b 0 l) 16 j)))

/-- R243: HFMA2. -/
def execHfma2 (r : RX) (s : State) : Out :=
  fpOp (r.raw 0x1E#7 0#3) (rmImm (r.raw 0x1E#7 0#3)) s (fun u e l => halves (fun j =>
    fmaR f16 (rmImm (r.raw 0x1E#7 0#3)) (u l j) (hw f16 e.a j l) (hw f16 e.b j l) (hw f16 e.c j l)))

/-- R243: BFMA2. -/
def execBfma2 (r : RX) (s : State) : Out :=
  fpOp (r.raw 0x1E#7 1#3) (rmImm (r.raw 0x1E#7 1#3)) s (fun u e l => halves (fun j =>
    fmaR bf16 (rmImm (r.raw 0x1E#7 1#3)) (u l j) (hw bf16 e.a j l) (hw bf16 e.b j l) (hw bf16 e.c j l)))

/-- R243, R86: HDOT2. -/
def execHdot2 (r : RX) (s : State) : Out :=
  fpOp (r.raw 0x1E#7 2#3) (rmImm (r.raw 0x1E#7 2#3)) s (fun u e l =>
    dotR f16 (rmImm (r.raw 0x1E#7 2#3)) (u l 0) e l)

/-- R243, R86: BDOT2. -/
def execBdot2 (r : RX) (s : State) : Out :=
  fpOp (r.raw 0x1E#7 3#3) (rmImm (r.raw 0x1E#7 3#3)) s (fun u e l =>
    dotR bf16 (rmImm (r.raw 0x1E#7 3#3)) (u l 0) e l)

end Sys2Proof.Machine
end

