-- ==== Sys2Proof/Machine/Integer.lean ====
section
/-!
DEFINITION. Meanings of the integer, address, logic, shift and bit-field instructions (R179 to R193). Each result is one
word, or one pair, per active lane; none traps and none has another effect.
-/

namespace Sys2Proof.Machine

/-- R187: shift left. -/
def shl32 (a : Word) (n : Nat) : Word := if 32 ≤ n then 0 else a <<< n
/-- R187: logical shift right. -/
def shr32 (a : Word) (n : Nat) : Word := if 32 ≤ n then 0 else a >>> n
/-- R187: arithmetic shift right. -/
def sar32 (a : Word) (n : Nat) : Word := if 32 ≤ n then (if a.msb then 0xFFFFFFFF else 0) else a.sshiftRight n
/-- R187: rotate left. -/
def rotl32 (a : Word) (n : Nat) : Word := a.rotateLeft (n % 32)
/-- R187: rotate right. -/
def rotr32 (a : Word) (n : Nat) : Word := a.rotateRight (n % 32)
/-- R187: shift left of a pair. -/
def shlD (a : DWord) (n : Nat) : DWord := if 64 ≤ n then 0 else a <<< n
/-- R187: logical shift right of a pair. -/
def shrD (a : DWord) (n : Nat) : DWord := if 64 ≤ n then 0 else a >>> n
/-- R187: arithmetic shift right of a pair. -/
def sarD (a : DWord) (n : Nat) : DWord := if 64 ≤ n then (if a.msb then -1 else 0) else a.sshiftRight n

/-- R189: leading zero bits; 32 for 0. -/
def clz32 (a : Word) : Nat := ((List.range 32).takeWhile (fun k => !a.getMsbD k)).length
/-- R189: trailing zero bits; 32 for 0. -/
def ctz32 (a : Word) : Nat := ((List.range 32).takeWhile (fun k => !a.getLsbD k)).length

/-- R190: the bit field of a word; bits above 31 read as 0. -/
def bitField (a : Word) (spec : Nat) : Nat := a.toNat / 2 ^ specPos spec % 2 ^ specLen spec
/-- R190: the bit field sign-extended from its length. -/
def bitFieldS (a : Word) (spec : Nat) : Word :=
  let f := bitField a spec
  if f.testBit (specLen spec - 1) then BitVec.ofNat 32 (f + (2 ^ 32 - 2 ^ specLen spec)) else BitVec.ofNat 32 f
/-- R190: a word with a bit field replaced. -/
def bitInsert (a b : Word) (spec : Nat) : Word :=
  let m := BitVec.ofNat 32 ((2 ^ specLen spec - 1) * 2 ^ specPos spec)
  (a &&& ~~~m) ||| ((b <<< specPos spec) &&& m)

/-- R179: (a + b) mod 2^32. -/
def execIadd (r : R3) (s : State) : Out :=
  aluOp (r.raw 0x00#7 0#3) s (fun e l => wd e.a 0 l + wd e.b 0 l)
/-- R179: (a − b) mod 2^32. -/
def execIsub (r : R3) (s : State) : Out :=
  aluOp (r.raw 0x00#7 1#3) s (fun e l => wd e.a 0 l - wd e.b 0 l)
/-- R179: the signed sum, clamped. -/
def execIadds (r : R3) (s : State) : Out :=
  aluOp (r.raw 0x00#7 2#3) s (fun e l => wordOfInt (clampInt (-2 ^ 31) (2 ^ 31 - 1) ((wd e.a 0 l).toInt + (wd e.b 0 l).toInt)))
/-- R179: the signed difference, clamped. -/
def execIsubs (r : R3) (s : State) : Out :=
  aluOp (r.raw 0x00#7 3#3) s (fun e l => wordOfInt (clampInt (-2 ^ 31) (2 ^ 31 - 1) ((wd e.a 0 l).toInt - (wd e.b 0 l).toInt)))
/-- R179: the unsigned sum, at most 0xFFFFFFFF. -/
def execIaddns (r : R3) (s : State) : Out :=
  aluOp (r.raw 0x00#7 4#3) s (fun e l => BitVec.ofNat 32 (min ((wd e.a 0 l).toNat + (wd e.b 0 l).toNat) 0xFFFFFFFF))
/-- R179: the unsigned difference, at least 0. -/
def execIsubns (r : R3) (s : State) : Out :=
  aluOp (r.raw 0x00#7 5#3) s (fun e l => BitVec.ofNat 32 ((wd e.a 0 l).toNat - (wd e.b 0 l).toNat))
/-- R179: the absolute difference of the signed words. -/
def execIabsd (r : R3) (s : State) : Out :=
  aluOp (r.raw 0x00#7 6#3) s (fun e l => BitVec.ofNat 32 ((wd e.a 0 l).toInt - (wd e.b 0 l).toInt).natAbs)
/-- R179: (−a) mod 2^32. -/
def execIneg (r : R3) (s : State) : Out :=
  aluOp (r.raw 0x00#7 7#3) s (fun e l => -(wd e.a 0 l))
/-- R180: (a + imm) mod 2^32. -/
def execIaddi (r : RI) (s : State) : Out :=
  aluOp (r.raw 0x01#7 0#3) s (fun e l => wd e.a 0 l + r.imm)
/-- R180: (imm − a) mod 2^32. -/
def execIrsubi (r : RI) (s : State) : Out :=
  aluOp (r.raw 0x01#7 1#3) s (fun e l => r.imm - wd e.a 0 l)
/-- R181: the low word of the product. -/
def execImul (r : R3) (s : State) : Out :=
  aluOp (r.raw 0x02#7 0#3) s (fun e l => wd e.a 0 l * wd e.b 0 l)
/-- R181: bits 63:32 of the signed product. -/
def execImulhi (r : R3) (s : State) : Out :=
  aluOp (r.raw 0x02#7 1#3) s (fun e l => (dwordOfInt ((wd e.a 0 l).toInt * (wd e.b 0 l).toInt)).extractLsb' 32 32)
/-- R181: bits 63:32 of the unsigned product. -/
def execImulhin (r : R3) (s : State) : Out :=
  aluOp (r.raw 0x02#7 2#3) s (fun e l => BitVec.ofNat 32 ((wd e.a 0 l).toNat * (wd e.b 0 l).toNat / 2 ^ 32))
/-- R181: the signed product modulo 2^64, a pair. -/
def execImulw (r : R3) (s : State) : Out :=
  aluOp2 (r.raw 0x02#7 3#3) s (fun e l => dwordOfInt ((wd e.a 0 l).toInt * (wd e.b 0 l).toInt))
/-- R181: the unsigned product, a pair. -/
def execImulwn (r : R3) (s : State) : Out :=
  aluOp2 (r.raw 0x02#7 4#3) s (fun e l => BitVec.ofNat 64 ((wd e.a 0 l).toNat * (wd e.b 0 l).toNat))
/-- R182: (a × b + c) mod 2^32. -/
def execImad (r : RX) (s : State) : Out :=
  aluOp (r.raw 0x03#7 0#3) s (fun e l => wd e.a 0 l * wd e.b 0 l + wd e.c 0 l)
/-- R182: (s(a) × s(b) + p(vC)) mod 2^64. -/
def execImadw (r : RX) (s : State) : Out :=
  aluOp2 (r.raw 0x03#7 1#3) s (fun e l => dwordOfInt ((wd e.a 0 l).toInt * (wd e.b 0 l).toInt) + pr e.c 0 l)
/-- R182: (u(a) × u(b) + p(vC)) mod 2^64. -/
def execImadwn (r : RX) (s : State) : Out :=
  aluOp2 (r.raw 0x03#7 2#3) s (fun e l => BitVec.ofNat 64 ((wd e.a 0 l).toNat * (wd e.b 0 l).toNat) + pr e.c 0 l)
/-- R183: the quotient truncated toward zero; 0xFFFFFFFF for a divisor of 0. -/
def execIdiv (r : R3) (s : State) : Out :=
  aluOp (r.raw 0x04#7 0#3) s (fun e l =>
    if wd e.b 0 l = 0 then 0xFFFFFFFF else wordOfInt ((wd e.a 0 l).toInt.tdiv (wd e.b 0 l).toInt))
/-- R183: the unsigned quotient; 0xFFFFFFFF for a divisor of 0. -/
def execIdivn (r : R3) (s : State) : Out :=
  aluOp (r.raw 0x04#7 1#3) s (fun e l =>
    if wd e.b 0 l = 0 then 0xFFFFFFFF else BitVec.ofNat 32 ((wd e.a 0 l).toNat / (wd e.b 0 l).toNat))
/-- R183: the remainder with the sign of the dividend; a for a divisor of 0. -/
def execIrem (r : R3) (s : State) : Out :=
  aluOp (r.raw 0x04#7 2#3) s (fun e l =>
    if wd e.b 0 l = 0 then wd e.a 0 l else wordOfInt ((wd e.a 0 l).toInt - (wd e.b 0 l).toInt * (wd e.a 0 l).toInt.tdiv (wd e.b 0 l).toInt))
/-- R183: the unsigned remainder; a for a divisor of 0. -/
def execIremn (r : R3) (s : State) : Out :=
  aluOp (r.raw 0x04#7 3#3) s (fun e l =>
    if wd e.b 0 l = 0 then wd e.a 0 l else BitVec.ofNat 32 ((wd e.a 0 l).toNat % (wd e.b 0 l).toNat))
/-- R184: p(vA) + p(vB). -/
def execAdd64 (r : R3) (s : State) : Out :=
  aluOp2 (r.raw 0x05#7 0#3) s (fun e l => pr e.a 0 l + pr e.b 0 l)
/-- R184: p(vA) − p(vB). -/
def execSub64 (r : R3) (s : State) : Out :=
  aluOp2 (r.raw 0x05#7 1#3) s (fun e l => pr e.a 0 l - pr e.b 0 l)
/-- R184: −p(vA). -/
def execNeg64 (r : R3) (s : State) : Out :=
  aluOp2 (r.raw 0x05#7 2#3) s (fun e l => -(pr e.a 0 l))
/-- R184: p(vA) = p(vB). -/
def execIcmp64Eq (r : R3) (s : State) : Out :=
  aluOp (r.raw 0x05#7 3#3) s (fun e l => flag (decide (pr e.a 0 l = pr e.b 0 l)))
/-- R184: signed p(vA) < p(vB). -/
def execIcmp64Lt (r : R3) (s : State) : Out :=
  aluOp (r.raw 0x05#7 4#3) s (fun e l => flag (decide ((pr e.a 0 l).toInt < (pr e.b 0 l).toInt)))
/-- R184: unsigned p(vA) < p(vB). -/
def execIcmp64Ltn (r : R3) (s : State) : Out :=
  aluOp (r.raw 0x05#7 5#3) s (fun e l => flag (decide ((pr e.a 0 l).toNat < (pr e.b 0 l).toNat)))
/-- R184: a copy of a pair. -/
def execMov64 (r : R3) (s : State) : Out :=
  aluOp2 (r.raw 0x05#7 6#3) s (fun e l => pr e.a 0 l)
/-- R185: p(vA) + sext(b) × 2^F + imm. -/
def execLea (r : RXF) (s : State) : Out :=
  aluOp2 (r.raw 0x06#7) s (fun e l =>
    dwordOfInt (Int.ofNat (pr e.a 0 l).toNat + (wd e.b 0 l).toInt * 2 ^ r.f.toNat + r.x.imm.toInt))
/-- R185: p(vA) + zext(b) × 2^F + imm. -/
def execLean (r : RXF) (s : State) : Out :=
  aluOp2 (r.raw 0x07#7) s (fun e l =>
    dwordOfInt (Int.ofNat (pr e.a 0 l).toNat + Int.ofNat (wd e.b 0 l).toNat * 2 ^ r.f.toNat + r.x.imm.toInt))
/-- R186: a and b. -/
def execAnd (r : R3) (s : State) : Out :=
  aluOp (r.raw 0x08#7 0#3) s (fun e l => wd e.a 0 l &&& wd e.b 0 l)
/-- R186: a or b. -/
def execOr (r : R3) (s : State) : Out :=
  aluOp (r.raw 0x08#7 1#3) s (fun e l => wd e.a 0 l ||| wd e.b 0 l)
/-- R186: a xor b. -/
def execXor (r : R3) (s : State) : Out :=
  aluOp (r.raw 0x08#7 2#3) s (fun e l => wd e.a 0 l ^^^ wd e.b 0 l)
/-- R186: a and not b. -/
def execAndn (r : R3) (s : State) : Out :=
  aluOp (r.raw 0x08#7 3#3) s (fun e l => wd e.a 0 l &&& ~~~(wd e.b 0 l))
/-- R186: a or not b. -/
def execOrn (r : R3) (s : State) : Out :=
  aluOp (r.raw 0x08#7 4#3) s (fun e l => wd e.a 0 l ||| ~~~(wd e.b 0 l))
/-- R186: not (a xor b). -/
def execXnor (r : R3) (s : State) : Out :=
  aluOp (r.raw 0x08#7 5#3) s (fun e l => ~~~(wd e.a 0 l ^^^ wd e.b 0 l))
/-- R186: not a. -/
def execNot (r : R3) (s : State) : Out :=
  aluOp (r.raw 0x08#7 6#3) s (fun e l => ~~~(wd e.a 0 l))
/-- R186: a. -/
def execMov (r : R3) (s : State) : Out :=
  aluOp (r.raw 0x08#7 7#3) s (fun e l => wd e.a 0 l)
/-- R186: a and imm. -/
def execAndi (r : RI) (s : State) : Out :=
  aluOp (r.raw 0x09#7 0#3) s (fun e l => wd e.a 0 l &&& r.imm)
/-- R186: a or imm. -/
def execOri (r : RI) (s : State) : Out :=
  aluOp (r.raw 0x09#7 1#3) s (fun e l => wd e.a 0 l ||| r.imm)
/-- R186: a xor imm. -/
def execXori (r : RI) (s : State) : Out :=
  aluOp (r.raw 0x09#7 2#3) s (fun e l => wd e.a 0 l ^^^ r.imm)
/-- R186: imm. -/
def execMovi (r : RI) (s : State) : Out :=
  aluOp (r.raw 0x09#7 3#3) s (fun _ _ => r.imm)
/-- R187: a shifted left; 0 for 32 or more. -/
def execShl (r : R3) (s : State) : Out :=
  aluOp (r.raw 0x0A#7 0#3) s (fun e l => shl32 (wd e.a 0 l) (wd e.b 0 l).toNat)
/-- R187: a shifted right; 0 for 32 or more. -/
def execShr (r : R3) (s : State) : Out :=
  aluOp (r.raw 0x0A#7 1#3) s (fun e l => shr32 (wd e.a 0 l) (wd e.b 0 l).toNat)
/-- R187: a shifted right by the sign. -/
def execSar (r : R3) (s : State) : Out :=
  aluOp (r.raw 0x0A#7 2#3) s (fun e l => sar32 (wd e.a 0 l) (wd e.b 0 l).toNat)
/-- R187: a rotated left by n mod 32. -/
def execRotl (r : R3) (s : State) : Out :=
  aluOp (r.raw 0x0A#7 3#3) s (fun e l => rotl32 (wd e.a 0 l) (wd e.b 0 l).toNat)
/-- R187: a rotated right by n mod 32. -/
def execRotr (r : R3) (s : State) : Out :=
  aluOp (r.raw 0x0A#7 4#3) s (fun e l => rotr32 (wd e.a 0 l) (wd e.b 0 l).toNat)
/-- R187: p(vA) shifted left; 0 for 64 or more. -/
def execShl64 (r : R3) (s : State) : Out :=
  aluOp2 (r.raw 0x0A#7 5#3) s (fun e l => shlD (pr e.a 0 l) (wd e.b 0 l).toNat)
/-- R187: p(vA) shifted right; 0 for 64 or more. -/
def execShr64 (r : R3) (s : State) : Out :=
  aluOp2 (r.raw 0x0A#7 6#3) s (fun e l => shrD (pr e.a 0 l) (wd e.b 0 l).toNat)
/-- R187: p(vA) shifted right by the sign. -/
def execSar64 (r : R3) (s : State) : Out :=
  aluOp2 (r.raw 0x0A#7 7#3) s (fun e l => sarD (pr e.a 0 l) (wd e.b 0 l).toNat)
/-- R188: as SHL with the amount in field B. -/
def execShli (r : R3) (s : State) : Out :=
  aluOp (r.raw 0x0B#7 0#3) s (fun e l => shl32 (wd e.a 0 l) r.b.toNat)
/-- R188: as SHR with the amount in field B. -/
def execShri (r : R3) (s : State) : Out :=
  aluOp (r.raw 0x0B#7 1#3) s (fun e l => shr32 (wd e.a 0 l) r.b.toNat)
/-- R188: as SAR with the amount in field B. -/
def execSari (r : R3) (s : State) : Out :=
  aluOp (r.raw 0x0B#7 2#3) s (fun e l => sar32 (wd e.a 0 l) r.b.toNat)
/-- R188: as ROTL with the amount in field B. -/
def execRotli (r : R3) (s : State) : Out :=
  aluOp (r.raw 0x0B#7 3#3) s (fun e l => rotl32 (wd e.a 0 l) r.b.toNat)
/-- R188: as ROTR with the amount in field B. -/
def execRotri (r : R3) (s : State) : Out :=
  aluOp (r.raw 0x0B#7 4#3) s (fun e l => rotr32 (wd e.a 0 l) r.b.toNat)
/-- R188: as SHL64 with the amount in field B. -/
def execShli64 (r : R3) (s : State) : Out :=
  aluOp2 (r.raw 0x0B#7 5#3) s (fun e l => shlD (pr e.a 0 l) r.b.toNat)
/-- R188: as SHR64 with the amount in field B. -/
def execShri64 (r : R3) (s : State) : Out :=
  aluOp2 (r.raw 0x0B#7 6#3) s (fun e l => shrD (pr e.a 0 l) r.b.toNat)
/-- R188: as SAR64 with the amount in field B. -/
def execSari64 (r : R3) (s : State) : Out :=
  aluOp2 (r.raw 0x0B#7 7#3) s (fun e l => sarD (pr e.a 0 l) r.b.toNat)
/-- R189: the set bits of a. -/
def execPopc (r : R3) (s : State) : Out :=
  aluOp (r.raw 0x0C#7 0#3) s (fun e l => BitVec.ofNat 32 (popcount (wd e.a 0 l).toNat))
/-- R189: the leading zero bits of a. -/
def execClz (r : R3) (s : State) : Out :=
  aluOp (r.raw 0x0C#7 1#3) s (fun e l => BitVec.ofNat 32 (clz32 (wd e.a 0 l)))
/-- R189: the trailing zero bits of a. -/
def execCtz (r : R3) (s : State) : Out :=
  aluOp (r.raw 0x0C#7 2#3) s (fun e l => BitVec.ofNat 32 (ctz32 (wd e.a 0 l)))
/-- R189: bit i moved to bit 31 − i. -/
def execBrev (r : R3) (s : State) : Out :=
  aluOp (r.raw 0x0C#7 3#3) s (fun e l => (wd e.a 0 l).reverse)
/-- R189: the low byte sign-extended. -/
def execSext8 (r : R3) (s : State) : Out :=
  aluOp (r.raw 0x0C#7 4#3) s (fun e l => ((wd e.a 0 l).extractLsb' 0 8).signExtend 32)
/-- R189: the low half sign-extended. -/
def execSext16 (r : R3) (s : State) : Out :=
  aluOp (r.raw 0x0C#7 5#3) s (fun e l => ((wd e.a 0 l).extractLsb' 0 16).signExtend 32)
/-- R189: the low byte. -/
def execZext8 (r : R3) (s : State) : Out :=
  aluOp (r.raw 0x0C#7 6#3) s (fun e l => ((wd e.a 0 l).extractLsb' 0 8).setWidth 32)
/-- R189: the low half. -/
def execZext16 (r : R3) (s : State) : Out :=
  aluOp (r.raw 0x0C#7 7#3) s (fun e l => ((wd e.a 0 l).extractLsb' 0 16).setWidth 32)
/-- R190: a bit field, zero-extended. -/
def execBfx (r : RX) (s : State) : Out :=
  aluOp (r.raw 0x0D#7 0#3) s (fun e l => BitVec.ofNat 32 (bitField (wd e.a 0 l) (fieldSpec (r.raw 0x0D#7 0#3) e l)))
/-- R190: a bit field, sign-extended from its length. -/
def execBfxi (r : RX) (s : State) : Out :=
  aluOp (r.raw 0x0D#7 1#3) s (fun e l => bitFieldS (wd e.a 0 l) (fieldSpec (r.raw 0x0D#7 1#3) e l))
/-- R190: a with a bit field replaced by b. -/
def execBfi (r : RX) (s : State) : Out :=
  aluOp (r.raw 0x0D#7 2#3) s (fun e l => bitInsert (wd e.a 0 l) (wd e.b 0 l) (fieldSpec (r.raw 0x0D#7 2#3) e l))
/-- R191: the lesser signed word. -/
def execImin (r : R3) (s : State) : Out :=
  aluOp (r.raw 0x0E#7 0#3) s (fun e l => if (wd e.a 0 l).toInt ≤ (wd e.b 0 l).toInt then wd e.a 0 l else wd e.b 0 l)
/-- R191: the greater signed word. -/
def execImax (r : R3) (s : State) : Out :=
  aluOp (r.raw 0x0E#7 1#3) s (fun e l => if (wd e.a 0 l).toInt ≤ (wd e.b 0 l).toInt then wd e.b 0 l else wd e.a 0 l)
/-- R191: the lesser unsigned word. -/
def execIminn (r : R3) (s : State) : Out :=
  aluOp (r.raw 0x0E#7 2#3) s (fun e l => if (wd e.a 0 l).toNat ≤ (wd e.b 0 l).toNat then wd e.a 0 l else wd e.b 0 l)
/-- R191: the greater unsigned word. -/
def execImaxn (r : R3) (s : State) : Out :=
  aluOp (r.raw 0x0E#7 3#3) s (fun e l => if (wd e.a 0 l).toNat ≤ (wd e.b 0 l).toNat then wd e.b 0 l else wd e.a 0 l)
/-- R192: the comparison that F names. -/
def execIcmp (r : R3F) (s : State) : Out :=
  aluOp (r.raw 0x0F#7) s (fun e l => flag (intCond r.f.toNat (wd e.a 0 l) (wd e.b 0 l)))
/-- R192: the comparison that F names, with the immediate. -/
def execIcmpi (r : RIF) (s : State) : Out :=
  aluOp (r.raw 0x10#7) s (fun e l => flag (intCond r.f.toNat (wd e.a 0 l) r.imm))
/-- R193: a where c is not 0, else b. -/
def execSel (r : RX) (s : State) : Out :=
  aluOp (r.raw 0x11#7 0#3) s (fun e l => if wd e.c 0 l ≠ 0 then wd e.a 0 l else wd e.b 0 l)

end Sys2Proof.Machine
end

