-- ==== Sys2Proof/Machine/Streams.lean ====
section
/-!
DEFINITION. Meanings of the stream instructions (R304 to R309).
-/

namespace Sys2Proof.Machine

/-- What stops a read of a row pointer: a bad address (R88), or a failed translation (R254). -/
inductive RpErr | addr (a : Nat) | page (f : Nat × Xl)
  deriving DecidableEq, Repr

/-- A stream under its reads: the state, the stream, whether a poisoned entry was read, and the lane on whose behalf it reads. -/
structure Walk where
  s : State
  st : Stream
  bad : Bool := false
  lane : Nat

/-- The stream register that field A or D names. -/
def streamD (x : Fibre) (k : Nat) : Stream := x.streams.getD k {}
/-- The state with a stream of the issuing fibre set. -/
def setStream (s : State) (i : Issue) (k : Nat) (st : Stream) : State :=
  updIs s i (fun x => { x with streams := x.streams.set k st })

/-- R306, R309, R121: the row pointer of a row, a plain load at issue. -/
def rpRead (i : Issue) (w : Walk) (r : Nat) : Except RpErr (Walk × Nat) :=
  let a := (w.st.base.toNat + 4 * r) % 2 ^ 64
  if badGlobal 4 4 a then .error (.addr a) else
  match xlSpan w.s i .read a 4 with
  | .ok pas =>
    let (t, bs) := gReadBy .usual (asked w.s i .read (spanOf a 4) pas) (ctxIs w.s i) (agentOf i w.lane) pas
    .ok ({ w with s := t, bad := w.bad || anyPoison t pas }, leNat bs)
  | .error f => .error (.page f)

/-- R306, R308: a stream stands at the start of its row, or has ended. -/
def startRow (i : Issue) (w : Walk) : Except RpErr Walk :=
  if w.st.rend ≤ w.st.row then .ok { w with st := { w.st with st := .ended } } else
  match rpRead i w w.st.row.toNat with
  | .error e => .error e
  | .ok (w1, x) =>
    let p := BitVec.ofNat 32 x
    .ok { w1 with st := { w1.st with rbeg := p, pos := p, st := if x = 0xFFFFFFFF then .error else .openSt } }

/-- R307: rows that are finished or empty are skipped; at most `n` are left. -/
def skipRows (i : Issue) (n : Nat) (w : Walk) : Except RpErr Walk :=
  match n with
  | 0 => .ok { w with st := { w.st with st := .ended } }
  | k + 1 =>
    match rpRead i w (w.st.row.toNat + 1) with
    | .error e => .error e
    | .ok (w1, x) =>
      if x = w.st.pos.toNat then skipRows i k { w1 with st := { w1.st with row := w.st.row + 1, rbeg := w.st.pos } }
      else if x < w.st.pos.toNat ∨ x = 0xFFFFFFFF then .ok { w1 with st := { w1.st with st := .error } }
      else .ok w1

/-- R307: the four results of a lane. -/
abbrev Quad := Word × Word × Word × Word

/-- R307: the results of an idle lane. -/
def idleQuad : Quad := (0xFFFFFFFF, 0xFFFFFFFF, 0, 0)

/-- R307: one lane takes the next element. -/
def nextElem (i : Issue) (w : Walk) (first : Bool) : Except RpErr (Walk × Option Quad) :=
  if w.st.st ≠ .openSt then .ok (w, none) else
  match skipRows i (w.st.rend.toNat - w.st.row.toNat) w with
  | .error e => .error e
  | .ok w1 =>
    if w1.st.st ≠ .openSt then .ok (w1, none) else
    match rpRead i w1 (w1.st.row.toNat + 1) with
    | .error e => .error e
    | .ok (w2, x) =>
      let y := w2.st
      let start := decide (y.pos = y.rbeg)
      .ok ({ w2 with st := { y with pos := y.pos + 1 } },
        some (y.pos, y.row, if first ∨ start then 1 else 0,
          (if start then 1 else 0) + (if y.pos.toNat + 1 = x then 2 else 0)))

/-- R307: the active lanes in ascending order. -/
def nextLanes (i : Issue) (ls : List Nat) (w : Walk) (first : Bool) (out : List (Nat × Quad)) :
    Except RpErr (Walk × List (Nat × Quad)) :=
  match ls with
  | [] => .ok (w, out)
  | l :: r =>
    match nextElem i { w with lane := l } first with
    | .error e => .error e
    | .ok (w1, none) => nextLanes i r w1 first (out ++ [(l, idleQuad)])
    | .ok (w1, some q) => nextLanes i r w1 false (out ++ [(l, q)])

/-- R306 to R308: a stream instruction that could not read: the address trap, or the group parks. -/
def streamStop (t : State) (e : Env) (x : RpErr) : State × After :=
  match x with
  | .addr a => trapAll t e 0x02 0 (addrField a)
  | .page f => parkAll t e .read 0 f

/-- R306: SOPEN. -/
def execSopen (r : R3) (s : State) : Out :=
  perIssueOp (r.raw 0x60#7 0#3) s (fun e t =>
    let base := pr e.a 0 e.low
    if badGlobal 4 4 base.toNat then trapAll t e 0x02 0 (addrField base.toNat) else
    match startRow e.i { s := t, lane := e.low, st := { streamD (fibIs t e.i) r.d.toNat with
        base := base, row := wd e.b 0 e.low, rend := wd e.b 1 e.low } } with
    | .error x => streamStop t e x
    | .ok w => (setStream w.s e.i r.d.toNat w.st, .advance))

/-- R307: SNEXT. -/
def execSnext (r : R3) (s : State) : Out :=
  let w := r.raw 0x60#7 1#3
  perIssueOp w s (fun e t =>
    match nextLanes e.i e.act { s := t, lane := e.low, st := streamD (fibIs t e.i) r.a.toNat } true [] with
    | .error x => streamStop t e x
    | .ok (k, qs) =>
      let q (l : Nat) : Quad := ((qs.find? (fun p => p.1 == l)).map (·.2)).getD idleQuad
      let t1 := setStream k.s e.i r.a.toNat k.st
      let t2 := wrD w e 3 (fun l => (q l).2.2.2) (wrD w e 2 (fun l => (q l).2.2.1)
        (wrD w e 1 (fun l => (q l).2.1) (wrD w e 0 (fun l => (q l).1) t1)))
      ((List.range 4).foldl (fun u j => poisonArch u e.i.blk e.i.slot (archReg e.wb (r.d.toNat + j))
        (if k.bad then e.act else [])) t2, .advance))

/-- R308: the code of a stream's state as STEND returns it. -/
def stendCode (x : StreamSt) : Word :=
  match x with
  | .openSt => 0
  | .ended => 1
  | .error => 2
  | .closed => 3

/-- R308: STEND. -/
def execStend (r : R3) (s : State) : Out :=
  aluOp (r.raw 0x60#7 2#3) s (fun e _ => stendCode (streamD (fibIs s e.i) r.a.toNat).st)

/-- R308: SCLOSE. -/
def execSclose (r : R3) (s : State) : Out :=
  perIssueOp (r.raw 0x60#7 3#3) s (fun e t =>
    (setStream t e.i r.a.toNat { streamD (fibIs t e.i) r.a.toNat with st := .closed }, .advance))

/-- R308: SSKIP. -/
def execSskip (r : R3) (s : State) : Out :=
  perIssueOp (r.raw 0x60#7 4#3) s (fun e t =>
    let x := streamD (fibIs t e.i) r.a.toNat
    if x.st ≠ .openSt then (t, .advance) else
    let row := min (x.row.toNat + (wd e.b 0 e.low).toNat) x.rend.toNat
    match startRow e.i { s := t, lane := e.low, st := { x with row := BitVec.ofNat 32 row } } with
    | .error f => streamStop t e f
    | .ok w => (setStream w.s e.i r.a.toNat w.st, .advance))

/-- R308: SPOS. -/
def execSpos (r : R3) (s : State) : Out :=
  let w := r.raw 0x60#7 5#3
  perIssueOp w s (fun e t =>
    let x := streamD (fibIs t e.i) r.a.toNat
    (wrD w e 1 (fun _ => x.pos) (wrD w e 0 (fun _ => if x.st = .ended then x.rend else x.row) t), .advance))

end Sys2Proof.Machine
end

