-- ==== Sys2Proof/Machine/Base.lean ====
section
/-!
DEFINITION. Instructions that run another one: the repeat prefix (R159 to R163) and dictionary parcels (R155 to R157), with the
meaning of raw words by opcode and function (R165).
-/

namespace Sys2Proof.Machine

/-- R167: an illegal encoding traps with its reason and has no other effect. -/
def illegalAt (s : State) (i : Issue) (reason : Nat) : State :=
  { trapFibre s i 0x01 reason i.lanes [] with choice := s.choice + 1, cur := none }

/-- Raw words that R165 does not map. -/
def trapRaw (s : State) (reason : Nat) : Out :=
  match s.cur with
  | none => .fault .noIssuer
  | some i => .next (illegalAt s i reason)

/-- R165: the meanings of the one-word opcodes from 0x60 up. -/
def runHigh (r : Raw) (s : State) : Out :=
  let r3 : R3 := ⟨r.s, r.d, r.a, r.b⟩
  match r.op.toNat, r.f.toNat with
  | 0x60, 0 => execSopen r3 s
  | 0x60, 1 => execSnext r3 s
  | 0x60, 2 => execStend r3 s
  | 0x60, 3 => execSclose r3 s
  | 0x60, 4 => execSskip r3 s
  | 0x60, 5 => execSpos r3 s
  | 0x64, 0 => execBinc r3 s
  | 0x64, 1 => execBins r3 s
  | 0x64, 2 => execBinr r3 s
  | 0x7C, 0 => execCtxnew r3 s
  | 0x7C, 1 => execCtxgrant r3 s
  | 0x7C, 2 => execCtxtake r3 s
  | 0x7C, 3 => execCtxrun r3 s
  | 0x7C, 4 => execCtxstop r3 s
  | 0x7C, 5 => execCtxrevoke r3 s
  | 0x7C, 6 => execCtxqry r3 s
  | 0x7C, 7 => execCtxmap r3 s
  | 0x7D, 0 => execTrapret r3 s
  | 0x7D, 1 => execTrapfwd r3 s
  | 0x7D, 2 => execTrapinfo r3 s
  | 0x7E, 0 => execTlbinv r3 s
  | 0x7E, 1 => execIcinv r3 s
  | 0x7E, 2 => execDctinv r3 s
  | 0x7E, 3 => execProfOpen r3 s
  | 0x7E, 4 => execTrialStart r3 s
  | 0x7F, 0 => execSrw r3 s
  | 0x7F, 1 => execSrr r3 s
  | _, _ => trapRaw s 0x02

/-- R165: the meanings of the one-word opcodes 0x30 to 0x3F. -/
def runMid (r : Raw) (s : State) : Out :=
  let r3 : R3 := ⟨r.s, r.d, r.a, r.b⟩
  match r.op.toNat, r.f.toNat with
  | 0x30, 0 => execFence r3 s
  | 0x30, 1 => execAcqx r3 s
  | 0x30, 2 => execAcqs r3 s
  | 0x30, 3 => execRel r3 s
  | 0x30, 4 => execBind r3 s
  | 0x30, 5 => execUnbind r3 s
  | 0x32, 0 => execSmap r3 s
  | 0x32, 1 => execSunmap r3 s
  | 0x32, 2 => execSfill r3 s
  | 0x32, 3 => execSclean r3 s
  | 0x32, 4 => execSdrop r3 s
  | 0x32, 5 => execSquery r3 s
  | 0x32, 6 => execSadopt r3 s
  | 0x33, 0 => execHwait r3 s
  | 0x33, 1 => execHstate r3 s
  | 0x33, 2 => execHdrain r3 s
  | 0x33, 3 => execHfree r3 s
  | 0x33, 4 => execHtry r3 s
  | 0x34, 0 => execQput r3 s
  | 0x34, 1 => execQget r3 s
  | 0x34, 2 => execQputn r3 s
  | 0x34, 3 => execQgetn r3 s
  | 0x34, 4 => execQcount r3 s
  | 0x34, 5 => execQclose r3 s
  | 0x35, 0 => execWaitc r3 s
  | 0x35, 1 => execRdc r3 s
  | 0x36, 0 => execRet r3 s
  | 0x36, 1 => execExit r3 s
  | 0x39, 0 => execJoin r3 s
  | 0x39, 1 => execLeave r3 s
  | 0x39, 2 => execWaitm r3 s
  | 0x39, 3 => execMset r3 s
  | 0x39, 4 => execMand r3 s
  | 0x39, 5 => execMor r3 s
  | 0x39, 6 => execMclr r3 s
  | 0x39, 7 => execMnot r3 s
  | 0x3B, 0 => execBararv r3 s
  | 0x3B, 1 => execBarwait r3 s
  | 0x3B, 2 => execBarsync r3 s
  | 0x3B, 3 => execBartry r3 s
  | 0x3B, 4 => execQbar r3 s
  | 0x3B, 5 => execDbar r3 s
  | 0x3B, 6 => execPbar r3 s
  | 0x3D, 0 => execWin r3 s
  | 0x3D, 1 => execFyield r3 s
  | 0x3D, 2 => execFspawn r3 s
  | 0x3D, 3 => execFstop r3 s
  | 0x3D, 4 => execFbar r3 s
  | 0x3D, 5 => execKill r3 s
  | 0x3D, 6 => execNop r3 s
  | 0x3F, 0 => execSpawn r3 s
  | 0x3F, 1 => execJoinc r3 s
  | 0x3F, 2 => execTaskend r3 s
  | 0x3F, 3 => execVdist r3 s
  | 0x3F, 4 => execVdinfo r3 s
  | 0x3F, 5 => execTrap r3 s
  | 0x3F, 6 => execBrk r3 s
  | _, _ => runHigh r s

/-- R165: the meanings of the one-word opcodes below 0x28. -/
def runLow (r : Raw) (s : State) : Out :=
  let r3 : R3 := ⟨r.s, r.d, r.a, r.b⟩
  let r3f : R3F := ⟨r.s, r.d, r.a, r.b, r.f⟩
  match r.op.toNat, r.f.toNat with
  | 0x00, 0 => execIadd r3 s
  | 0x00, 1 => execIsub r3 s
  | 0x00, 2 => execIadds r3 s
  | 0x00, 3 => execIsubs r3 s
  | 0x00, 4 => execIaddns r3 s
  | 0x00, 5 => execIsubns r3 s
  | 0x00, 6 => execIabsd r3 s
  | 0x00, 7 => execIneg r3 s
  | 0x02, 0 => execImul r3 s
  | 0x02, 1 => execImulhi r3 s
  | 0x02, 2 => execImulhin r3 s
  | 0x02, 3 => execImulw r3 s
  | 0x02, 4 => execImulwn r3 s
  | 0x04, 0 => execIdiv r3 s
  | 0x04, 1 => execIdivn r3 s
  | 0x04, 2 => execIrem r3 s
  | 0x04, 3 => execIremn r3 s
  | 0x05, 0 => execAdd64 r3 s
  | 0x05, 1 => execSub64 r3 s
  | 0x05, 2 => execNeg64 r3 s
  | 0x05, 3 => execIcmp64Eq r3 s
  | 0x05, 4 => execIcmp64Lt r3 s
  | 0x05, 5 => execIcmp64Ltn r3 s
  | 0x05, 6 => execMov64 r3 s
  | 0x08, 0 => execAnd r3 s
  | 0x08, 1 => execOr r3 s
  | 0x08, 2 => execXor r3 s
  | 0x08, 3 => execAndn r3 s
  | 0x08, 4 => execOrn r3 s
  | 0x08, 5 => execXnor r3 s
  | 0x08, 6 => execNot r3 s
  | 0x08, 7 => execMov r3 s
  | 0x0A, 0 => execShl r3 s
  | 0x0A, 1 => execShr r3 s
  | 0x0A, 2 => execSar r3 s
  | 0x0A, 3 => execRotl r3 s
  | 0x0A, 4 => execRotr r3 s
  | 0x0A, 5 => execShl64 r3 s
  | 0x0A, 6 => execShr64 r3 s
  | 0x0A, 7 => execSar64 r3 s
  | 0x0B, 0 => execShli r3 s
  | 0x0B, 1 => execShri r3 s
  | 0x0B, 2 => execSari r3 s
  | 0x0B, 3 => execRotli r3 s
  | 0x0B, 4 => execRotri r3 s
  | 0x0B, 5 => execShli64 r3 s
  | 0x0B, 6 => execShri64 r3 s
  | 0x0B, 7 => execSari64 r3 s
  | 0x0C, 0 => execPopc r3 s
  | 0x0C, 1 => execClz r3 s
  | 0x0C, 2 => execCtz r3 s
  | 0x0C, 3 => execBrev r3 s
  | 0x0C, 4 => execSext8 r3 s
  | 0x0C, 5 => execSext16 r3 s
  | 0x0C, 6 => execZext8 r3 s
  | 0x0C, 7 => execZext16 r3 s
  | 0x0E, 0 => execImin r3 s
  | 0x0E, 1 => execImax r3 s
  | 0x0E, 2 => execIminn r3 s
  | 0x0E, 3 => execImaxn r3 s
  | 0x0F, _ => execIcmp r3f s
  | 0x14, 0 => execFadd r3 s
  | 0x14, 1 => execFsub r3 s
  | 0x14, 2 => execFmul r3 s
  | 0x14, 3 => execFmin r3 s
  | 0x14, 4 => execFmax r3 s
  | 0x14, 5 => execFminp r3 s
  | 0x14, 6 => execFmaxp r3 s
  | 0x17, 0 => execFrcp r3 s
  | 0x17, 1 => execFrsq r3 s
  | 0x17, 2 => execFsqrt r3 s
  | 0x17, 3 => execFex2 r3 s
  | 0x17, 4 => execFlg2 r3 s
  | 0x17, 5 => execFsin r3 s
  | 0x17, 6 => execFcos r3 s
  | 0x17, 7 => execFtanh r3 s
  | 0x18, 0 => execFcmpEq r3 s
  | 0x18, 1 => execFcmpNe r3 s
  | 0x18, 2 => execFcmpLt r3 s
  | 0x18, 3 => execFcmpLe r3 s
  | 0x18, 4 => execFcmpUn r3 s
  | 0x18, 5 => execFclass r3 s
  | 0x19, 0 => execDadd r3 s
  | 0x19, 1 => execDsub r3 s
  | 0x19, 2 => execDmul r3 s
  | 0x19, 3 => execDmin r3 s
  | 0x19, 4 => execDmax r3 s
  | 0x1B, 0 => execDsqrt r3 s
  | 0x1B, 1 => execDrcp r3 s
  | 0x1B, 2 => execDrsq r3 s
  | 0x1C, 0 => execHadd2 r3 s
  | 0x1C, 1 => execHsub2 r3 s
  | 0x1C, 2 => execHmul2 r3 s
  | 0x1C, 3 => execHmin2 r3 s
  | 0x1C, 4 => execHmax2 r3 s
  | 0x1D, 0 => execBadd2 r3 s
  | 0x1D, 1 => execBsub2 r3 s
  | 0x1D, 2 => execBmul2 r3 s
  | 0x1D, 3 => execBmin2 r3 s
  | 0x1D, 4 => execBmax2 r3 s
  | 0x23, 0 => execVoteall r3 s
  | 0x23, 1 => execVoteany r3 s
  | 0x23, 2 => execVoteuni r3 s
  | 0x23, 3 => execBallot r3 s
  | 0x23, 4 => execMatchw r3 s
  | 0x23, 5 => execMread r3 s
  | 0x23, 6 => execMwrite r3 s
  | 0x24, 0 => execSrd r3 s
  | 0x24, 1 => execSrd64 r3 s
  | 0x25, 0 => execRedadd r3 s
  | 0x25, 1 => execRedmin r3 s
  | 0x25, 2 => execRedmax r3 s
  | 0x25, 3 => execRedminn r3 s
  | 0x25, 4 => execRedmaxn r3 s
  | 0x25, 5 => execRedand r3 s
  | 0x25, 6 => execRedor r3 s
  | 0x25, 7 => execRedxor r3 s
  | 0x26, 0 => execSegadd r3 s
  | 0x26, 1 => execSegaddi r3 s
  | 0x26, 2 => execScanadd r3 s
  | 0x26, 3 => execScanaddi r3 s
  | _, _ => runMid r s

/-- R165: the meanings of the opcodes of length (X). -/
def runX (r : Raw) (x : Xc) (s : State) : Out :=
  let rx : RX := ⟨r.s, r.d, r.a, r.b, x⟩
  let rxf : RXF := ⟨r.s, r.d, r.a, r.b, r.f, x⟩
  match r.op.toNat, r.f.toNat with
  | 0x03, 0 => execImad rx s
  | 0x03, 1 => execImadw rx s
  | 0x03, 2 => execImadwn rx s
  | 0x06, _ => execLea rxf s
  | 0x07, _ => execLean rxf s
  | 0x0D, 0 => execBfx rx s
  | 0x0D, 1 => execBfxi rx s
  | 0x0D, 2 => execBfi rx s
  | 0x11, 0 => execSel rx s
  | 0x15, 0 => execFaddx rx s
  | 0x15, 1 => execFsubx rx s
  | 0x15, 2 => execFmulx rx s
  | 0x16, 0 => execFfma rx s
  | 0x1A, 0 => execDfma rx s
  | 0x1E, 0 => execHfma2 rx s
  | 0x1E, 1 => execBfma2 rx s
  | 0x1E, 2 => execHdot2 rx s
  | 0x1E, 3 => execBdot2 rx s
  | 0x1F, 0 => execCvt rx s
  | 0x1F, 1 => execFrnd rx s
  | 0x20, 0 => execPack8 rx s
  | 0x20, 1 => execUnpack8 rx s
  | 0x20, 2 => execPack4 rx s
  | 0x20, 3 => execUnpack4 rx s
  | 0x20, 4 => execBscale rx s
  | 0x22, _ => execShfl rxf s
  | 0x28, _ => execLd rxf s
  | 0x29, _ => execSt rxf s
  | 0x2A, _ => execLdl rxf s
  | 0x2B, _ => execStl rxf s
  | 0x2C, _ => execAtom rxf s
  | 0x2D, _ => execAtomb rxf s
  | 0x2E, _ => execAtoml rxf s
  | 0x2F, _ => execRed rxf s
  | 0x31, _ => execPref rxf s
  | 0x37, 0 => execColl rx s
  | 0x37, 1 => execCollt rx s
  | 0x3C, 0 => execTryw rx s
  | 0x3C, 1 => execTrywl rx s
  | 0x61, _ => execGath rxf s
  | 0x62, 0 => execScata rx s
  | 0x62, 1 => execScatai rx s
  | 0x62, 2 => execScatab rx s
  | 0x62, 3 => execScatal rx s
  | 0x62, 4 => execScatali rx s
  | 0x62, 5 => execScat rx s
  | 0x62, 6 => execScatmin rx s
  | 0x63, 0 => execEmbl rx s
  | 0x63, 1 => execEmbu rx s
  | 0x63, 2 => execEmbq rx s
  | 0x63, 3 => execEmbv rx s
  | _, _ => trapRaw s 0x02

/-- The meaning of the raw words of a lane instruction of length (1) or (X). -/
def runRaw (r : Raw) (s : State) : Out :=
  match r.x with
  | some x => runX r x s
  | none => runLow r s

/-! ### What a dictionary parcel or a REP names (R157, R161) -/

/-- A target: illegal with a reason and its word, held as unreadable, still to be read again, or raw words with their length in parcels and
the words of a record. -/
inductive Target
  | bad (reason : Nat) (insn : Word)
  | unread (i : FaultInfo)
  | later
  | ok (r : Raw) (n : Nat) (insn ext : Word)
  deriving DecidableEq, Repr

/-- R157: an entry of length (1) in the lane stream. -/
def entryLegal (w : Word) : Bool :=
  match Forms.opInfo (w.extractLsb' 25 7).toNat with
  | some (.one, _) => !Forms.isM (w.extractLsb' 25 7).toNat
  | _ => false

/-- R155: the dictionary entry that a parcel names. -/
def dictIndex (p : Parcel16) : Option Nat :=
  if p.extractLsb' 14 2 = 0b10#2 ∧ p.extractLsb' 10 3 = 0#3 then some (p.extractLsb' 0 10).toNat else none

/-- R156: a dictionary entry as the section holds it now, whole, where it can be read. -/
def freshEntry (s : State) (i : Issue) (k : Nat) : Option Word :=
  let va := ((blkD s i.blk).kd.dict + 4 * k) % 2 ^ 64
  let core := coreOf (blkD s i.blk) 0
  match xlate s (ctxIs s i) core va .fetch, xlate s (ctxIs s i) core ((va + 2) % 2 ^ 64) .fetch with
  | .ok a, .ok b => some (parcelAt s a ++ parcelAt s b)
  | _, _ => none

/-- R156: the entry that an issue of a dictionary parcel uses: the one that it has begun with; else the one held, or where the section has
changed since, the new one. -/
def entryOf (s : State) (i : Issue) (k : Nat) : Option DictEnt :=
  match mget i.entries k with
  | some w => some (.word w)
  | none => ((blkD s i.blk).dict[k]?).map (fun e =>
      match e, freshEntry s i k with
      | .word v, some w => if v = w ∨ pick s k 1 2 = 0 then e else .word w
      | .unreadable _, some w => if pick s k 1 2 = 0 then e else .word w
      | _, _ => e)

/-- R156: the issue keeps the entry that a parcel of it has named. -/
def Issue.took (i : Issue) (p : Parcel16) (w : Word) : Issue :=
  match dictIndex p with
  | some k => { i with entries := mset i.entries k w }
  | none => i

/-- R155 to R157: what a dictionary parcel executes: the entry word with bit 13 of the parcel ORed into its bit S. -/
def dictTarget (s : State) (i : Issue) (p : Parcel16) : Target :=
  match entryOf s i (p.extractLsb' 0 10).toNat with
  | none => .bad 0x07 0
  | some (.unreadable f) => .unread f
  | some .pending => .later
  | some (.word w) =>
    let w0 := rawWord w none none
    let r : Raw := { w0 with s := w0.s || p.getLsbD 13 }
    match Forms.least (Forms.reasons false r ++ (if entryLegal w then [] else [0x07])) with
    | some k => .bad k w
    | none => .ok r 1 w (p.setWidth 32)

/-- R145, R161: what the parcels after a REP hold. BRK16 is no legal target. -/
def targetOf (s : State) (i : Issue) (ps : List Parcel16) : Target :=
  let p := par ps 0
  if p.extractLsb' 14 2 = 0b10#2 then
    match (p.extractLsb' 10 3).toNat with
    | 0 => dictTarget s i p
    | 7 => .bad (if p.getLsbD 13 then 0x03 else 0x08) 0
    | _ => .bad 0x06 0
  else match frame (wordOf (par ps 0) (par ps 1)) (wordOf (par ps 2) (par ps 3)) with
    | none => .bad 0x01 0
    | some (r, n) =>
      match Forms.check false r with
      | some k => .bad k 0
      | none => .ok r n (wordOf (par ps 0) (par ps 1)) (wordOf (par ps 2) (par ps 3))

/-- R162: the reason of a REP that breaks a rule itself, with that of its target where it is lower. -/
def repReason (s : State) (i : Issue) (a : DWord) (e : Nat) : Nat :=
  match fetchCode s (coreIs s i) (ctxIs s i) a.toNat .lane with
  | .error _ => e
  | .ok (t, ps) =>
    match targetOf t i ps with
    | .bad k _ => min e k
    | _ => e

/-! ### REP (R159 to R163) -/

/-- R159: the fields of a REP: the last repetition, and the steps of fields D, A, B and C. -/
structure RepWord where
  last : Nat
  sd : Nat
  sa : Nat
  sb : Nat
  sc : Nat
  deriving DecidableEq, Repr

/-- R159: the fields of a REP. -/
def repOf (r : Raw) : RepWord :=
  { last := r.d.toNat % 64, sd := r.a.toNat / 16, sa := r.a.toNat / 2 % 8, sb := r.b.toNat / 16, sc := r.b.toNat / 2 % 8 }

/-- R160: the target of repetition `k`. -/
def stepRaw (q : RepWord) (t : Raw) (k : Nat) : Raw :=
  { t with s := t.s && decide (k = q.last), d := t.d + BitVec.ofNat 7 (k * q.sd), a := t.a + BitVec.ofNat 7 (k * q.sa),
           b := t.b + BitVec.ofNat 7 (k * q.sb), x := t.x.map (fun x => { x with c := x.c + BitVec.ofNat 7 (k * q.sc) }) }

/-- R161: the opcodes that are no target. -/
def repExcluded (op : Nat) : Bool := decide (op = 0x36) || decide (0x38 ≤ op ∧ op ≤ 0x3F) || decide (0x70 ≤ op)

/-- R162: a step of a field that is not read as a v register, or that leaves the names. -/
def stepBad (u : Use) (name step last : Nat) : Bool := decide (step ≠ 0) && (!Forms.isV u || decide (127 < name + last * step))

/-- R162: a REP whose target is legal by itself breaks a rule. -/
def repBad (q : RepWord) (t : Raw) : Bool :=
  let fm := Forms.ofRaw t
  let c := match t.x with
    | some x => x.c.toNat
    | none => 0
  t.i.isSome || repExcluded t.op.toNat || stepBad fm.d t.d.toNat q.sd q.last || stepBad fm.a t.a.toNat q.sa q.last ||
  stepBad fm.b t.b.toNat q.sb q.last || stepBad fm.c c q.sc q.last || (t.x.isNone && decide (q.sc ≠ 0)) ||
  (List.range (q.last + 1)).any (fun k => (Forms.check false (stepRaw q t k)).isSome)

/-- R156, R147: lanes that meet an unreadable entry park where they stand. -/
def parkEntry (s : State) (i : Issue) (f : FaultInfo) : State :=
  { updIs s i (fun x => updLanes x i.lanes (fun _ y => { y with st := .parked (.fault f) })) with choice := s.choice + 1, cur := none }

/-! ### Orders (R123 to R125, R131) -/

/-- R123 to R125, R131: an instruction of the lane stream that orders nothing beyond what its own meaning says: plain accesses, atomics,
FENCE and the object instructions, what acts on registers and control flow alone, streams and engines; and REP, whose target orders for
itself. -/
def ordersNothing (r : Raw) : Bool :=
  let op := r.op.toNat
  decide (op ≤ 0x31) || [0x36, 0x38, 0x39, 0x3A, 0x3C, 0x3E].contains op || (decide (0x60 ≤ op) && decide (op ≤ 0x64)) ||
  (decide (op = 0x3F) && decide (r.f = 1))

/-- R124, R125: every store is visible to all, and the accesses in flight of the lanes that issue have been performed. -/
def orderAll (s : State) : State :=
  match s.cur with
  | none => showStores s
  | some i => landLanes (showStores s) i i.lanes

/-- R124, R125: the state in which an instruction of raw fields runs: another one of the lane stream finds every store visible. -/
def orderRaw (r : Raw) (s : State) : State := if ordersNothing r || Forms.isM r.op.toNat then s else orderAll s

/-- R156: an entry that a parcel names, once its new read has come. -/
def settleEntryOf (s : State) (i : Issue) (p : Parcel16) : State := ((dictIndex p).map (settleEntry s i.blk)).getD s

/-- R159 to R163: one repetition of the instruction at `a`. Each repetition is an issue of its own, whose target is fetched and checked
afresh; while it waits it keeps the target: the model's choice (log entry 44). -/
def repAt (r : Raw) (i : Issue) (a : DWord) (s : State) : Out :=
  let k := (laneD (fibIs s i) (lowest i.lanes)).rep
  let q := repOf r
  match (if i.target.isEmpty then fetchCode s (coreIs s i) (ctxIs s i) a.toNat .lane else .ok (s, i.target)) with
  | .error e => .next { parkFetch s i.blk i.slot i.fib i.lanes e with choice := s.choice + 1, cur := none }
  | .ok (s0, ps) =>
    let s1 := settleEntryOf s0 i (par ps 0)
    match targetOf s1 i ps with
    | .bad e _ => .next (illegalAt s1 i (min e 0x08))
    | .unread f => .next (parkEntry s1 i f)
    | .later => .next { s1 with choice := s.choice + 1, cur := none }
    | .ok t n insn ext =>
      if repBad q t then .next (illegalAt s1 i 0x08) else
      let i1 := { i.took (par ps 0) insn with insn := insn, ext := ext, target := ps }
      let j := if k < q.last then { i1 with next := i.pc, repNext := k + 1 }
        else { i1 with next := a + BitVec.ofNat 64 (2 * n), repNext := 0 }
      let u := stepRaw q t (min k q.last)
      runRaw u (orderRaw u { s1 with cur := some j })

/-- R159: REP; its target follows it. -/
def execRep (r : R3) (s : State) : Out :=
  match s.cur with
  | none => .fault .noIssuer
  | some i => repAt (r.raw 0x3E#7 0#3) i (i.pc + 4) s

/-! ### Dictionary parcels (R155 to R157) -/

/-- R155: the parcel of a dictionary parcel's fields. -/
def parcelOf (r : Parcel) : Parcel16 := (0b10#2) ++ BitVec.ofBool r.s ++ (0b000#3) ++ r.index

/-- R157: a dictionary parcel runs its entry word; a REP there prefixes the instruction after the parcel. -/
def execDictionaryParcel (r : Parcel) (s : State) : Out :=
  match s.cur with
  | none => .fault .noIssuer
  | some i0 =>
    let p := parcelOf r
    let u := settleEntryOf s i0 p
    match dictTarget u i0 p with
    | .bad e w =>
      let i := { i0 with insn := w, ext := p.setWidth 32 }
      .next (illegalAt u i (if w.extractLsb' 25 7 = 0x3E#7 then repReason u i (i.pc + 2) e else e))
    | .unread f => .next (parkEntry u i0 f)
    | .later => .next { u with choice := s.choice + 1, cur := none }
    | .ok t _ w x =>
      let i := { i0.took p w with insn := w, ext := x }
      if t.op = 0x3E#7 then repAt t i (i.pc + 2) { u with cur := some i } else runRaw t (orderRaw t { u with cur := some i })

end Sys2Proof.Machine
end

