-- ==== Sys2Proof/Machine/Revoke.lean ====
section
/-!
DEFINITION. Revocation (R397), retagging (R496), and function level reset (R396, R445).
-/

namespace Sys2Proof.Machine

/-! ### Work that ends with no save (R397 step 2, R445 step 1) -/

/-- R397: an operation in flight is performed or discarded, a free choice: of several elements, a first part. -/
def endOp (s : State) (id : Nat) : State := if pick s id 7 2 = 0 then s else landOp s id

/-- The blocks of some contexts, saved ones too. -/
def blocksIn (s : State) (cs : List Nat) : List (Nat × Block) := s.blocks.filter (fun p => cs.contains p.2.ctx)

/-- R297: the collective members of some contexts end. -/
def endWhistles (s : State) (cs : List Nat) : State := { s with whistles := s.whistles.filter (fun w => !cs.contains w.ctx) }

/-- R397, R445: the blocks of some contexts are gone, with everything that was theirs and their queued tasks; their stores in flight
are performed or not. -/
def dropBlocks (s : State) (cs : List Nat) : State :=
  let bs := (blocksIn s cs).map (·.1)
  let t := bs.foldl dropRings (showParts (cutStores s (fun p => bs.contains p.blk)) (fun p _ => bs.contains p.blk))
  { endWhistles t cs with
    blocks := t.blocks.filter (fun p => !bs.contains p.1)
    ops := t.ops.filter (fun p => !cs.contains p.2.ctx)
    windows := t.windows.filter (fun p => !bs.contains p.2.blk)
    acqs := t.acqs.filter (fun a => !bs.contains a.blk)
    stores := t.stores.filter (fun a => !bs.contains a.blk)
    flights := t.flights.filter (fun a => !bs.contains a.blk)
    replays := t.replays.filter (fun a => !bs.contains a.blk)
    launches := t.launches.filter (fun p => !cs.contains p.2.ctx)
    pushes := t.pushes.filter (fun p => !cs.contains p.ctx) }

/-- R397 step 3: the traps raised in some contexts, and the tickets that they hold, are deleted; a continuation that a ticket
stood for is a discarded push (R472). -/
def dropTickets (s : State) (cs : List Nat) : State :=
  let gone := s.tickets.filter (fun p => cs.contains p.2.ctx || (p.2.holder.map cs.contains).getD false)
  let t := gone.foldl (fun u p => match p.2.src with
    | .cont c _ _ => schedErr u c
    | _ => u) s
  { t with tickets := t.tickets.filter (fun p => !gone.any (fun q => q.1 == p.1)) }

/-! ### Revocation (R397) -/

/-- R104, R397 step 4: the banks of a stash mapping are scrubbed. -/
def scrubBanks (s : State) (m : Mapping) : State :=
  let lo := m.lbase / 0x4000 * 0x4000
  let n := (m.lbase + 64 * m.lines.length + 0x3FFF) / 0x4000 * 0x4000 - lo
  { s with sram := Memory.zero s.sram (sramKey m.core lo) n
           sramPoison := s.sramPoison.filter (fun w => !(decide (sramKey m.core lo / 8 ≤ w) && decide (w < (sramKey m.core lo + n) / 8))) }

/-- R397 step 4: the stash mappings of some contexts, orphans too. -/
def discardMaps (s : State) (cs : List Nat) : State :=
  (s.mappings.filter (fun p => cs.contains p.2.ctx)).foldl (fun t p => scrubBanks (deleteMapping t p.1 false) p.2) s

/-- R397 step 6: a frame is written to zero. Its lines in the caches are discarded. -/
def scrubFrame (s : State) (frame : Nat) : State :=
  { dropPoison s ((List.range 1024).map (frame * 1024 + ·)) with
    mem := Memory.zero s.mem (frame * 65536) 65536
    msc := s.msc.filter (fun l => l.line / 1024 != frame)
    l2 := s.l2.filter (fun l => l.line / 1024 != frame)
    tlb := s.tlb.filter (fun t => !t.nodes.any (fun a => a / 65536 == frame)) }

/-- R397 step 6: the frames that came into some contexts from outside by XFER, with their givers. -/
def xferFrames (s : State) (cs : List Nat) : List (Nat × Nat) :=
  cs.flatMap (fun c => (ctxD s c).s2.flatMap (fun e => match e.giver with
    | some g => if e.xfer ∧ !cs.contains g then (List.range e.n).map (fun k => (g, e.frame + k)) else []
    | none => []))

/-- R397 step 6: those frames are scrubbed, and their givers have their access back. -/
def returnFrames (s : State) (cs : List Nat) : State :=
  (xferFrames s cs).foldl (fun t p => setHeld (scrubFrame t p.2) p.1 p.2 false) s

/-- R427: the TDIs of some virtual functions that are locked or run go into error. -/
def failTdis (s : State) (vfs : List Nat) : State :=
  updKen s (fun k => { k with tdis := k.tdis.map (fun p =>
    if vfs.contains p.1 ∧ (p.2 = .locked ∨ p.2 = .run) then (p.1, .error) else p) })

/-- R397 step 7: what the members of a subtree hold returns to a parent; lent quads are taken back from their borrowers. -/
def returnHoldings (s : State) (cs : List Nat) (p : Nat) : State :=
  let vfs := cs.flatMap (fun c => (ctxD s c).vfs)
  let t := cs.foldl (fun u c => (List.range 4).foldl (fun v d => reclaimQuads v d ((ctxD v c).lent.getD d 0)) u) s
  let u := cs.foldl (fun v c => (List.range 4).foldl (fun w d =>
    let m := (ctxD w c).quads.getD d 0
    if m = 0 then w else updCtx w p (fun x => addQuads (bindDie x d) d m)) v) (failTdis t vfs)
  updCtx u p (fun x => { x with vfs := x.vfs ++ vfs })

/-- R397 step 8: a number becomes Free and keeps its generation; its lines in the memory-side cache are to be retagged (R496). -/
def freeCtx (x : Ctx) (heir : Nat) : Ctx :=
  { gen := x.gen, st := .free, parent := x.parent, depth := x.depth, part := x.part, retag := true, heir := heir }

/-- Numbers in ascending order. -/
def ascending (l : List Nat) : List Nat := (List.range 4096).filter (fun n => l.contains n)

/-- R397 step 8: the numbers of a subtree. -/
def freeNumbers (s : State) (cs : List Nat) (p : Nat) : State :=
  { cs.foldl (fun t c => updCtx t c (fun x => freeCtx x p)) s with freed := s.freed ++ ascending cs }

/-- R476, R480: sessions and experiments of some contexts end. -/
def endProfiles (s : State) (cs : List Nat) : State :=
  { s with sessions := s.sessions.filter (fun p => !cs.contains p.2.root && !cs.contains p.2.owner)
           trials := s.trials.map (fun p => if cs.contains p.2.root then (p.1, endTrial s p.2) else p) }

/-- R397 steps 2 to 8, for a context whose parent is not Revoking. -/
def revokeTree (s : State) (c : Nat) : State :=
  let cs := subtree s c
  let p := (ctxD s c).parent % 4096
  let ids := (s.ops.filter (fun q => cs.contains q.2.ctx)).map (·.1)
  let s2 := dropBlocks (ids.foldl endOp s) cs
  let s3 := dropTickets s2 cs
  let s4 := discardMaps s3 cs
  let s5 := dropTlb s4 cs
  let s6 := returnFrames s5 cs
  let s7 := endProfiles (returnHoldings s6 cs p) cs
  let s8 := freeNumbers s7 cs p
  { s8 with
    migs := s8.migs.filter (fun m => !(namers s8 m.frame).isEmpty)
    ctxs := s8.ctxs.map (fun q => (q.1, { q.2 with tenant := q.2.tenant.filter (fun t => !cs.contains t.2) })) }

/-- R397: a revocation that may proceed: that of a context that is Revoking under a parent that is not. -/
def mayRevoke (s : State) (c : Nat) : Bool :=
  !halted s c && decide ((ctxD s c).st = .revoking) && !(ctxD s c).root && decide ((ctxD s ((ctxD s c).parent % 4096)).st ≠ .revoking)

/-- R397: REVOCATION. -/
def execRevocation (ctx : Nat) (s : State) : Out := event s (fun t => if mayRevoke t ctx then revokeTree t ctx else t)

/-! ### Retagging (R496) -/

/-- R496: the number that takes a line over: the nearest recorded parent that is not Free. -/
def heirOf (s : State) (n c : Nat) : Nat :=
  match n with
  | 0 => c
  | k + 1 => if (ctxD s c).st = .free ∧ !(ctxD s c).root then heirOf s k (ctxD s c).heir else c

/-- R496: the lines of a Free number are retagged, and CTXNEW may reuse it. -/
def retagLines (s : State) (c : Nat) : State :=
  if (ctxD s c).st ≠ .free ∨ !(ctxD s c).retag then s else
  let p := heirOf s 8 (ctxD s c).heir
  updCtx { s with msc := s.msc.map (fun l => if l.owner = c then { l with owner := p } else l) } c (fun x => { x with retag := false })

/-- R496: MSC_RETAG. -/
def execMscRetag (ctx : Nat) (s : State) : Out := event s (fun t => retagLines t ctx)

/-! ### Function level reset (R396, R445) -/

/-- R445: a window at the reset: what has been applied of it, and what is discarded. -/
def appliedOf (s : State) (k : Nat) (w : Window) : List Elem × List Elem :=
  if windowHeld s k w ∨ !w.ready then ([], w.elems) else someSpots s k w

/-- An operation that a function reset interrupts: what its record holds (R431, R445). -/
structure CutOp where
  pc : Nat
  insn : Nat
  task : Nat
  spot : Nat
  applied : Nat
  discarded : Nat
  deriving DecidableEq, Repr

/-- R431, R445: an interrupted operation with its elements applied and discarded; WHERE is that of its block's slot 0. -/
def cutOp (s : State) (id applied discarded : Nat) : Option CutOp :=
  (mget s.ops id).map (fun o => { pc := o.pc.toNat, insn := o.insn.toNat, task := (blkD s o.blk).task,
                                  spot := whereWord s o.blk 0 0, applied := applied, discarded := discarded })

/-- R445: a window at the reset: its part is applied; the operations it interrupts. -/
def resetWindow (s : State) (k : Nat) (w : Window) : State × List CutOp :=
  let (els, rest) := appliedOf s k w
  let t := windowPart s k w els rest
  -- An embedding window that met a fault has applied nothing.
  let left := if ((mget t.windows k).map (·.elems)).getD [] = w.elems then w.elems else rest
  let count (l : List Elem) (id : Nat) : Nat := (l.filter (fun x => x.op == id)).length
  (t, w.ops.filterMap (fun id => if count left id = 0 then none else cutOp s id (count w.elems id - count left id) (count left id)))

/-- R431, R445: the record of a function reset, or of a scatter operation that it interrupts. -/
def resetRecord (s : State) (c vf : Nat) (x : Option CutOp) : State :=
  newTicket s c .note (ancestors s c) ([(0, 0x0C + 16777216 * 4), (19, vf)] ++ (match x with
    | none => []
    | some o => [(4, o.task), (5, o.spot), (8, o.pc % 2 ^ 32), (9, o.pc / 2 ^ 32), (10, o.insn), (17, o.applied), (18, o.discarded)]))

/-- R445: the records that stand in a context's queue are discarded: HEAD meets TAIL. A queue whose header does not translate keeps
what it holds (log entry 61). -/
def emptyQueue (c : Nat) (s : State) (q : Nat) : State :=
  match kRead s c (hvaOf s c q) 64 with
  | (t, none) => t
  | (t, some (bs, _)) => (kWrite t c ((hvaOf t c q + 12) % 2 ^ 64) (natLe 4 (hdrOf bs).tail)).1

/-- R445: the queued tasks of some contexts are discarded. -/
def emptyQueues (s : State) (cs : List Nat) : State :=
  cs.foldl (fun t c => (((ctxD t c).qdesc.map (·.1)).filter (qEnabled t c)).foldl (emptyQueue c) t) s

/-- R445: the reset of a virtual function that a context holds. -/
def resetFunction (s : State) (c vf : Nat) : State :=
  let cs := (subtree s c).filter (fun d => decide ((ctxD s d).st ≠ .revoking))
  let ws := s.windows.filter (fun p => cs.contains (blkD s p.2.blk).ctx)
  let (s1, cut) := ws.foldl (fun (q : State × List CutOp) p =>
    let (t, l) := resetWindow q.1 p.1 p.2
    (t, q.2 ++ l)) (s, [])
  let ids := (s1.ops.filter (fun q => cs.contains q.2.ctx && decide (q.2.kind = .atomic))).map (·.1)
  let s2 := dropBlocks (ids.foldl endOp s1) cs
  let s3 := (s2.mappings.filter (fun p => cs.contains p.2.ctx)).foldl (fun t p => deleteMapping t p.1 true) s2
  let s4 := emptyQueues (dropTickets s3 cs) cs
  let s5 := cs.foldl (fun t d => updCtx t d (fun x => unbindFallen { x with
    st := if d = c then .created else .stopped, force := false, waitList := [], waitHeads := 0, bound := [] })) s4
  let s6 := cut.foldl (fun t x => resetRecord t c vf (some x)) s5
  resetRecord s6 c vf none

/-- R396: the context that holds a virtual function. -/
def vfHolder (s : State) (vf : Nat) : Option Nat :=
  (s.ctxs.find? (fun p => decide (p.2.st ≠ .free) && p.2.vfs.contains vf)).map (·.1)

/-- R427, R445: FUNCTION_LEVEL_RESET: the TDI of the function, then its holder. -/
def execFunctionLevelReset (vf : Nat) (s : State) : Out :=
  event s (fun t =>
    let u := failTdis t [vf]
    match vfHolder u vf with
    | some c => if (ctxD u c).st = .revoking then u else resetFunction u c vf
    | none => u)

end Sys2Proof.Machine
end

