-- ==== Sys2Proof/Machine/Time.lean ====
section
/-!
DEFINITION. The passing of time (R66, R389, R444, R454, R458, R468, R478, R481, R513, R514), the events that fall when a clock
reaches a value, and what comes before an issue: its clk, its group, and the stores that it finds visible.
-/

namespace Sys2Proof.Machine

/-- R505: the clocks run. -/
def clocked (s : State) : Bool :=
  match s.ken.phase with
  | .bringUp => false
  | .recovery => false
  | .off => false
  | _ => true

/-- R389, R412: CTIME rises with uclk by the cores on which a context has a resident block. -/
def addCtime (s : State) (n : Nat) : State :=
  { s with ctxs := s.ctxs.map (fun p => (p.1, { p.2 with
      ctime := p.2.ctime + n * (nub ((s.blocks.filter (fun q => decide (q.2.ctx = p.1) && q.2.resident)).flatMap
        (fun q => blockCores q.2))).length })) }

/-- R444: a page's lock holds something off. -/
def Mig.held (m : Mig) : Bool := m.remote || m.devHold || m.hostHold

/-- R444: 2 ms after a conflict the remote mapping of a frame ends, and the loser may ask again. -/
def expireMig (s : State) (f : Nat) : State :=
  let m := migOf s f
  let t := updMig s f (fun m => { m with
    remote := false, devHold := false, hostHold := false, hostHas := m.hostHas && !isHost (f * 65536) })
  if m.remote ∧ isHost (f * 65536) then mapRemote (invalidate t (namers t f) [f]) f false else t

/-- R444: the hold-offs that are over end. -/
def expireMigs (s : State) : State :=
  (s.migs.filter (fun m => m.held && decide (m.till ≤ s.uclk))).foldl (fun t m => expireMig t m.frame) s

/-- R511, R513: no owner remains. -/
def noOwner (s : State) : State :=
  updKen s (fun k => { k with
    owner := none, ownerDown := none, pending := none, evring := 0
    phase := if k.phase = .awaitCommit then .awaitOwner else k.phase })

/-- R513: ownership lapses where the owner's link has stayed down for 1 s. -/
def lapseOwner (s : State) : State :=
  match s.ken.ownerDown with
  | some d => if d + 2400000000 ≤ s.uclk then noOwner s else s
  | none => s

/-- R514: a pending handover ends after 10 s. -/
def lapsePending (s : State) : State :=
  if s.ken.pending.isSome ∧ s.ken.pendingAt + 24000000000 < s.uclk then updKen s (fun k => { k with pending := none }) else s

/-- Some clk and uclk pass: epochs end and samples are taken (R478, R481), CTIME rises (R389), the waiting blocks age (R454), the
slice boundaries that uclk crosses fall (R458), and rendezvous limits, hold-offs, ownership and handovers end (R444, R468, R513,
R514). -/
def elapse (s : State) (n u : Nat) : State :=
  if clocked s then
    let t := passClk (n + 1) s n
    let v := crossSlices (addWaits (addCtime { t with uclk := t.uclk + u } u) u) s.uclk
    lapsePending (lapseOwner (expireMigs (lateWhistles v)))
  else s

/-- Time passes after a step: clk and uclk rise by any amounts (log entry 7), but not while the pipes of a block issue in the clk of
its TASKEND (R224). -/
def passTime (s : State) : State :=
  if s.blocks.any (fun p => p.2.ending.isSome) then s
  else elapse s (Config.clkGap s.choice) (Config.uclkGap s.choice)

/-- R214: TRYW_TIMEOUT: the clk comes at which a lane's timeout elapses. -/
def execTrywTimeout (blk slot fib lane : Nat) (s : State) : Out :=
  event s (fun t => readAgain (elapse t (timeoutAt t blk slot fib lane - t.clk) 0) blk slot fib)

/-- R454: the uclk passes at which a waiting block has waited for 2 ms more. -/
def ageBlock (s : State) (n task : Nat) : State :=
  match waitedOf s n task with
  | none => s
  | some w => elapse s (Config.clkGap s.choice) (agePeriod - w % agePeriod)

/-- R454: PRIORITY_AGING. -/
def execPriorityAging (launch task : Nat) (s : State) : Out := event s (fun t => ageBlock t launch task)

/-- R458: sr.uclk reaches the next slice boundary of a context. -/
def nextSlice (s : State) (c : Nat) : State :=
  if sliceLen s c = 0 then s else elapse s (Config.clkGap s.choice) (sliceLen s c - s.uclk % sliceLen s c)

/-- The clk comes at which something is due; nothing where nothing is. -/
def reachClk (s : State) (due : Option Nat) : State :=
  match due with
  | none => s
  | some m => elapse s (m - s.clk) (Config.uclkGap s.choice)

/-- R481: TRIAL_EPOCH_END: the clk comes at which an experiment's epoch ends. -/
def execTrialEpochEnd (slice : Nat) (s : State) : Out :=
  event s (fun t => reachClk t ((mget t.trials slice).bind (fun x => x.due t.clk)))

/-- R478: PROFILE_SAMPLE: the clk comes at which a core with a slot of a session's subtree takes its next sample. -/
def execProfileSample (sid core : Nat) (s : State) : Out :=
  event s (fun t => reachClk t ((mget t.sessions sid).bind (fun x =>
    if (coresUnder t x.root).contains core then x.due t.clk else none)))

/-- R513: OWNER_LAPSE: the uclk comes at which the owner's link has stayed down for 1 s. -/
def execOwnerLapse (s : State) : Out :=
  event s (fun t => match t.ken.ownerDown with
    | some d => elapse t (Config.clkGap t.choice) (d + 2400000000 - t.uclk)
    | none => t)

/-- R514: HANDOVER_TIMEOUT: the uclk comes at which more than 10 s have passed since the HANDOVER. -/
def execHandoverTimeout (s : State) : Out :=
  event s (fun t => if t.ken.pending.isNone then t else elapse t (Config.clkGap t.choice) (t.ken.pendingAt + 24000000001 - t.uclk))

/-- R468: sr.uclk reaches the rendezvous limit of a step. -/
def nextLimit (s : State) (gid step : Nat) : State :=
  match s.whistles.findSome? (fun w => if w.gid = gid ∧ w.step = step then whistleDue s w else none) with
  | none => s
  | some d => elapse s (Config.clkGap s.choice) (d - s.uclk)

/-- R468: WHISTLE_TIMEOUT. -/
def execWhistleTimeout (gid step : Nat) (s : State) : Out := event s (fun t => nextLimit t gid step)

/-- R458: SLICE_BOUNDARY. -/
def execSliceBoundary (ctx : Nat) (s : State) : Out := event s (fun t => nextSlice t ctx)

/-! ### What comes before an issue (R31, R33, R36, R123 to R125, R162, R224) -/

/-- R36: the group selected before still stands together. -/
def keepsGroup (x : Fibre) : Bool :=
  match x.group with
  | l :: r => (l :: r).all (fun j => issuable x j && sameGroup x l j)
  | [] => false

/-- R36: the fibre that issues a group. -/
def takeGroup (x : Fibre) : Fibre :=
  { x with group := selectGroup x, gcount := if keepsGroup x then x.gcount else 0 }

/-- R31, R33, R224: the clk of an issue: one in which its pipe has not issued. An issue of another fibre than the slot's last
begins a count, and in the clk of a TASKEND the pipe issues no more. -/
def nextClk (s : State) (b k f : Nat) : State :=
  let x := slotD s b k
  let c := (pipeSlots s b k).foldl (fun m p => max m (slotD s p.1 p.2).issuedAt) s.clk
  let t := passClk (c - s.clk) s (c - s.clk)
  updFib (updBlk t b (fun y => { y with ending := y.ending.map (fun ps => ps.filter (· != pipeOf y k)) })) b k f
    (fun y => { y with since := if x.cur = f then y.since else 0 })

/-- R167, R162: the reason of words that decode to no instruction; a REP counts its target's too. -/
def badReason (s : State) (i : Issue) (e : Nat) : Nat :=
  if (par i.code 0).extractLsb' 9 7 = 0x3E#7 then repReason s i (i.pc + 4) e else e

/-- R117, R124: what makes no store visible to more agents than it says itself: a dictionary parcel, whose entry orders for itself,
and some events; beside them every event finds all stores visible (log entry 4). -/
def leavesStores (i : Instr) : Bool :=
  match i with
  | .dictionaryParcel _ => true
  | .registerResultReturn _ _ _ | .chunkRefillComplete _ _ _ | .forcedSwitch _ _ _ | .groupSelect _ _ _ | .tlbMissWalk _ _ _ _
  | .faultExamine _ _ _ | .stashFillReturn _ _ | .stashOwnershipGrant _ _ | .stashInvalidate _ _ | .stashRecall _ _
  | .retrieverOpComplete _ | .atomicUpdateComplete _ | .stashOpComplete _ | .binningComplete _ | .scatterWindowClose _ _ _
  | .scatterWindowApply _ | .trywRecheck _ _ _ | .trywPoll _ _ _ | .trywTimeout _ _ _ _ | .forcedPreemption _
  | .functionLevelReset _ | .hostWrite _ | .hostRead _ | .hostCompletion _ _ | .peerRequest _ | .profileSample _ _ | .trialEpochEnd _
  | .accessPerformed _ | .inputCopyComplete _ _ | .outputDrainComplete _ _ => true
  | _ => false

/-- R124, R125: the state in which an instruction runs: an ordering one finds every store visible. -/
def orderFor (i : Instr) (s : State) : State :=
  match rawOf i with
  | some r => orderRaw r s
  | none => if leavesStores i then s else showStores s

end Sys2Proof.Machine
end

