-- ==== Sys2Proof/Machine/Migrate.lean ====
section
/-!
DEFINITION. Frames that move: migration (R442 to R444) and page retirement (R497, R498).
-/

namespace Sys2Proof.Machine

/-! ### A frame is moved (R443) -/

/-- R443 step 3: the 64 KiB of a frame, with its poison. -/
def copyFrame (s : State) (old new : Nat) : State :=
  let t : State := { s with
    mem := Memory.wrN s.mem (new * 65536) (Memory.rdN s.mem (old * 65536) 65536)
    memPoison := s.memPoison.filter (fun l => l / 1024 != new) ++
      (s.memPoison.filter (fun l => l / 1024 == old)).map (fun l => new * 1024 + l % 1024)
    msc := s.msc.filter (fun l => l.line / 1024 != old)
    l2 := s.l2.filter (fun l => l.line / 1024 != old)
    icache := s.icache.filterMap (fun x => if x.pa / 65536 = old then some { x with pa := new * 65536 + x.pa % 65536 }
      else if x.pa / 65536 = new then none else some x)
    tails := s.tails.map (fun w => if w.pa / 65536 = old then { w with pa := new * 65536 + w.pa % 65536 } else w) }
  dropNodes t ((List.range 1024).map (new * 1024 + ·))

/-- R443 step 4: every leaf that names a frame names another. -/
def repoint (s : State) (old new : Nat) (g : Nat → S2 → S2) : State :=
  (namers s old).foldl (fun t c => (leavesOf t c old).foldl (fun u e => updLeaf u c e.page (fun x => g c { x with frame := new })) t) s

/-- R443: the frame `old` becomes `new`, all steps in one. -/
def moveFrame (s : State) (old new : Nat) (g : Nat → S2 → S2) : State :=
  let cs := namers s old
  repoint (copyFrame (invalidate s cs [old]) old new) old new g

/-! ### Migration (R442 to R444) -/

/-- No leaf names a frame, and it has not been retired. -/
def frameFree (s : State) (f : Nat) : Bool :=
  (namers s f).isEmpty && !s.ken.retired.contains f && !s.ken.reserve.any (fun p => p.2 == f) && !s.ken.due.contains f

/-- R420: the requester ID of a context's host pages: its first virtual function, else the physical function. -/
def ridOf (s : State) (c : Nat) : Nat := ((ctxD s c).vfs.head?).getD 0x7FF

/-- R497, R504: a frame that a migration has filled receives the markers of the old one, and is to be retired in its place. -/
def newFrame (s : State) (old new : Nat) : State :=
  if s.ken.due.contains old ∨ s.memPoison.any (fun l => l / 1024 == new) then dueFrames s [new] else s

/-- R442, R443: one page of a context migrates: toward HBM on a grant, toward host memory on the host's request. -/
def migrate (s : State) (c page frame : Nat) : State :=
  match leafAt s c page with
  | none => s
  | some e =>
    let m := migOf s e.frame
    let done (u : State) : State := newFrame { u with migs := u.migs.filter (fun m => m.frame != e.frame && m.frame != frame) } e.frame frame
    if !e.migr ∨ (ctxD s c).st = .free ∨ !frameFree s frame then s
    else if isHost (e.frame * 65536) ∧ isHbm (frame * 65536) ∧ m.granted then
      done (moveFrame s e.frame frame (fun _ x => { x with valid := true, rid := 0 }))
    else if isHbm (e.frame * 65536) ∧ isHost (frame * 65536) ∧ m.hostHas then
      done (moveFrame s e.frame frame (fun d x => { x with valid := false, rid := ridOf s d }))
    else s

/-- R443: MIGRATION. -/
def execMigration (ctx page frame : Nat) (s : State) : Out := event s (fun t => migrate t ctx page frame)

/-- R444: the uclk comes at which the hold-off of a page's conflict ends. -/
def nextExpiry (s : State) (c page : Nat) : State :=
  match frameOf s c page with
  | none => s
  | some f => if (migOf s f).held then elapse s (Config.clkGap s.choice) ((migOf s f).till - s.uclk) else s

/-- R444: REMOTE_MAP_EXPIRY. -/
def execRemoteMapExpiry (ctx page : Nat) (s : State) : Out := event s (fun t => nextExpiry t ctx page)

/-! ### Retirement (R497, R498) -/

/-- The hard partition of a die: that of a slice record with quads there. -/
def hardOfDie (s : State) (d : Nat) : Option Nat :=
  (s.ken.slices.find? (fun r => r.en && decide (r.quads.getD d 0 ≠ 0))).map (·.hard)

/-- The hard partition of a frame: that of a context that maps it, else that of its home. -/
def hardOfFrame (s : State) (f : Nat) : Nat :=
  match namers s f with
  | c :: _ => (sliceOf s c).hard
  | [] => (hardOfDie s (homeDie (f * 65536))).getD 4

/-- R498: the spare frame for a frame: one of the reserve that is not itself to be retired. -/
def spareFor (s : State) (f : Nat) : Option Nat :=
  (s.ken.reserve.find? (fun p => p.1 == hardOfFrame s f && p.2 != f && !s.ken.due.contains p.2)).map (·.2)

/-- R498: a revocation in progress will scrub a frame. -/
def willScrub (s : State) (f : Nat) : Bool :=
  (namers s f).any (fun c => decide ((ctxD s c).st = .revoking) && (leavesOf s c f).any (fun e => e.xfer && (match e.giver with
    | some g => decide ((ctxD s g).st ≠ .revoking)
    | none => false)))

/-- R498, R501: the records that name a line of a retired frame. -/
def noteRetired (f spare : Nat) (l : List ErrRec) : List ErrRec :=
  l.map (fun r => if r.addr / 65536 = f ∧ r.addr ≠ 0 then { r with action := r.action ||| 4, aux := spare * 65536 } else r)

/-- R497, R498: a frame that is due is retired; with an empty reserve it stays. A frame of the reserve, which no leaf names, only leaves
it. -/
def retireFrame (s : State) (f : Nat) : State :=
  if !s.ken.due.contains f then s else
  let s1 := updKen s (fun k => { k with due := k.due.filter (· != f) })
  if s.ken.reserve.any (fun p => p.2 == f) then
    updKen s1 (fun k => { k with retired := k.retired ++ [f], reserve := k.reserve.filter (fun p => p.2 != f) })
  else match spareFor s f with
  | none => s1
  | some sp =>
    let t := if willScrub s1 f then
        repoint (scrubFrame (invalidate s1 (namers s1 f) [f]) sp) f sp (fun _ x => x)
      else moveFrame s1 f sp (fun _ x => x)
    updKen t (fun k => { k with
      retired := k.retired ++ [f], moved := k.moved ++ [(f, sp)], reserve := k.reserve.filter (fun p => p.2 != sp),
      errs := noteRetired f sp k.errs, folds := noteRetired f sp k.folds })

/-- R498: PAGE_RETIRE. -/
def execPageRetire (frame : Nat) (s : State) : Out := event s (fun t => retireFrame t frame)

end Sys2Proof.Machine
end

