-- ==== Sys2Proof/Machine/Errors.lean ====
section
/-!
DEFINITION. Errors: their detection (R488, R489, R493), the bearer of a loss (R494, R495), way quarantine (R499), stops beyond a
context (R500), records and their delivery (R501 to R503), links.
-/

namespace Sys2Proof.Machine

/-! ### Stops beyond a context (R500) -/

/-- The contexts of a hard partition. -/
def hardCtxs (s : State) (h : Nat) : List Nat :=
  (s.ctxs.filter (fun p => decide (p.2.st ≠ .free) && decide ((s.ken.slices.getD p.2.part {}).hard = h))).map (·.1)

/-- The dies of a hard partition. -/
def hardDies (s : State) (h : Nat) : List Nat := (List.range 4).filter (fun d => decide (hardOfDie s d = some h))

/-- R461: an edge closes: it drops and counts the flits on it, any number, and logs the first ever. -/
def closeEdge (choice n : Nat) (e : Edge) : Edge :=
  if !e.ctl.getLsbD 0 then e else
  let d := Config.droppedFlits choice n
  { e with ctl := e.ctl &&& ~~~1
           drop := BitVec.ofNat 32 (min 0xFFFFFFFF (e.drop.toNat + d.1))
           log := if e.drop = 0 ∧ d.1 ≠ 0 then d.2 else e.log }

/-- R500: the edges of some dies close. -/
def closeEdges (s : State) (ds : List Nat) : State :=
  updKen s (fun k => { k with edges := k.edges.mapIdx (fun n e => if ds.contains (n / 2) then closeEdge s.choice n e else e) })

/-- R500: the dirty lines homed in a hard partition are lost: poisoned, and gone from the caches. -/
def loseLines (s : State) (ds : List Nat) : State :=
  let mine := s.msc.filter (fun l => ds.contains l.die)
  let t : State := { s with msc := s.msc.filter (fun l => !ds.contains l.die), l2 := s.l2.filter (fun l => !ds.contains l.die) }
  addPoison t ((mine.filter (·.dirty)).map (·.line))

/-- R494, R500: the memory lines of which a stash mapping holds bytes that stand nowhere else. -/
def dirtyLines (m : Mapping) : List Nat :=
  m.lines.flatMap (fun l => nub (((List.range l.pas.length).filter (fun j => l.dirty.testBit j && decide (l.pas.getD j 0 < 2 ^ 52))).map
    (fun j => l.pas.getD j 0 / 64)))

/-- R500: a hard partition stops: no block of it issues again, nothing of it is in flight, its stash mappings are lost. -/
def hardStop (s : State) (h : Nat) : State :=
  if s.ken.hstops.contains h then s else
  let cs := hardCtxs s h
  let ds := hardDies s h
  let bs := (blocksIn s cs).map (·.1)
  let t : State := { showParts s (fun p _ => bs.contains p.blk) with
    ops := s.ops.filter (fun p => !cs.contains p.2.ctx)
    windows := s.windows.filter (fun p => !bs.contains p.2.blk)
    acqs := s.acqs.filter (fun a => !bs.contains a.blk)
    stores := (showParts s (fun p _ => bs.contains p.blk)).stores.filter (fun a => !bs.contains a.blk)
    flights := s.flights.filter (fun a => !bs.contains a.blk)
    replays := s.replays.filter (fun a => !bs.contains a.blk) }
  let lost := t.mappings.filter (fun p => cs.contains p.2.ctx)
  let u := addPoison (lost.foldl (fun v p => deleteMapping v p.1 false) t) (lost.flatMap (fun p => dirtyLines p.2))
  updKen (closeEdges (loseLines u ds) ds) (fun k => { k with hstops := k.hstops ++ [h] })

/-- R500: a hard-partition stop with its record of class 4. -/
def hardFatal (s : State) (unit loc die : Nat) : State :=
  match hardOfDie s die with
  | some h => noteError (hardStop s h) { cls := 4, unit := unit, action := 16, loc := loc, ctx := 0, addr := 0 }
  | none => noteError s { cls := 4, unit := unit, action := 0, loc := loc, ctx := 0, addr := 0 }

/-- R500: package fatal: every partition stops, and the kennel die keeps the mailbox and the event ring. -/
def packageFatal (s : State) : State :=
  let t := [0, 1, 2, 3].foldl hardStop s
  noteError (updKen t (fun k => { k with phase := .fatal })) { cls := 5, unit := 13, action := 32, loc := 0, ctx := 0, addr := 0 }

/-! ### The memory-side cache (R494, R495, R499) -/

/-- R499: a way leaves allocation and is to be swept. -/
def quarantineWay (s : State) (die way : Nat) : State :=
  if s.ken.quarantine.contains (die, way) then s else
  updKen s (fun k => { k with quarantine := k.quarantine ++ [(die, way)], sweeping := k.sweeping ++ [(die, way)] })

/-- R494: a line that the memory-side cache has lost, through its data or a tag, is poisoned and invalidated, and the kennel die
hears of it. -/
def loseLine (unit : Nat) (s : State) (l : MscLine) : State :=
  let t := addPoison { s with msc := s.msc.filter (fun x => x.line != l.line) } [l.line]
  let lost : Loss := { unit := unit, line := l.line, tag := l.owner, die := l.die, way := l.way, uclk := s.uclk,
                       pages := framePages s (l.line / 1024) }
  updKen t (fun k => { k with losses := k.losses ++ [lost] })

/-- R462: the root of the slice partition whose ways hold a line. -/
def rootOfWay (s : State) (die way : Nat) : Nat :=
  ((List.range s.ken.slices.length).find? (fun p =>
    (s.ken.slices.getD p {}).en && ((s.ken.slices.getD p {}).mscw.getD die 0).testBit way)).getD 0

/-- R494, R495: the kennel die acts on the bearer of its oldest report. -/
def examineLoss (s : State) : State :=
  match s.ken.losses with
  | [] => s
  | l :: r =>
    let t := updKen s (fun k => { k with losses := r })
    let e : ErrRec := { cls := 2, unit := l.unit, action := 9, loc := l.die * 16384 + l.way, ctx := 0, addr := l.line * 64,
                        uclk := l.uclk, pages := l.pages }
    if (ctxD t l.tag).st = .free then noteError t e else bearLoss t l.tag e

/-- R495: MSC_LOSS_EXAMINE. -/
def execMscLossExamine (s : State) : Out := event s examineLoss

/-- R464: a line stands in a way that its partition no longer has. -/
def outOfWays (s : State) (l : MscLine) : Bool := !((sliceOf s l.owner).mscw.getD l.die 0).testBit l.way

/-- R464, R499: the lines of a way that the sweeper has to clear. -/
def toSweep (s : State) (die way : Nat) (l : MscLine) : Bool :=
  decide (l.die = die) && decide (l.way = way) && (s.ken.sweeping.contains (die, way) || outOfWays s l)

/-- R464: the sweeper clears the lowest way of a die that has to be cleared; every dirty line is written back. -/
def sweepWay (s : State) (die way : Nat) : State :=
  if (List.range way).any (fun w => s.ken.sweeping.contains (die, w) || s.msc.any (toSweep s die w)) then s else
  updKen { s with msc := s.msc.filter (fun l => !toSweep s die way l) } (fun k =>
    { k with sweeping := k.sweeping.filter (fun p => p != (die, way)) })

/-- R464, R499: SWEEPER_WAY_CLEAR. -/
def execSweeperWayClear (die way : Nat) (s : State) : Out := event s (fun t => sweepWay t die way)

/-! ### Detection (R488, R493) -/

/-- R501: UNIT. -/
def unitCode (u : ErrUnit) : Nat :=
  match u with
  | .regFile => 1
  | .sram => 2
  | .cleanCopy => 3
  | .l2Data => 4
  | .mscData => 5
  | .mscTag => 6
  | .l2Tag => 7
  | .hbm => 8
  | .matrix => 9
  | .kennel => 13
  | .stage2 => 14
  | .firmware => 13
  | .ucie => 10
  | .fabric => 11
  | .hostLink => 12

/-- R501: LOC of an error. -/
def locOf (e : MemErr) : Nat :=
  match e.unit with
  | .regFile => e.die * 16384 + e.core % 64 / 4 * 1024 + e.core % 4 * 256
  | .sram => e.die * 16384 + e.core % 64 / 4 * 1024 + e.core % 4 * 256 + e.addr / 0x4000 % 64
  | .matrix => e.die * 16384 + e.core % 64 / 4 * 1024 + e.core % 4 * 256
  | .mscData => e.die * 16384 + e.way % 16
  | .mscTag => e.die * 16384 + e.way % 16
  | .hbm => locHbm e.addr
  | .l2Data => e.die * 16384
  | .l2Tag => e.die * 16384
  | .cleanCopy => e.die * 16384
  | .ucie => e.die * 16384 + e.way % 2
  | .fabric => e.way % 16
  | _ => 0

/-- R501: the owner's ADDR of an error: the line in memory. -/
def addrOf (e : MemErr) : Nat :=
  match e.unit with
  | .hbm => e.addr / 64 * 64
  | .l2Data => e.addr / 64 * 64
  | .mscData => e.addr / 64 * 64
  | .mscTag => e.addr / 64 * 64
  | _ => 0

/-! ### Links (R488, R513) -/

/-- R488: a link fails: a UCIe link stops the hard partition of its die, the others refuse what is sent through them. The time runs
in which the owner may lose its ownership (R513). -/
def linkDown (s : State) (l : LinkId) : State :=
  if s.ken.linksDown.contains l then s else
  let t := updKen s (fun k => { k with
    linksDown := k.linksDown ++ [l], ownerDown := if some l = k.owner.map .master then some s.uclk else k.ownerDown })
  match l with
  | .edge d e => hardFatal t 10 (d * 16384 + e) d
  | .fabric w => noteError t { cls := 2, unit := 11, action := 0, loc := w % 16, ctx := 0, addr := 0 }
  | .host => noteError t { cls := 2, unit := 12, action := 0, loc := 0, ctx := 0, addr := 0 }
  | .master _ => t

/-- R488: LINK_DOWN. -/
def execLinkDown (l : LinkId) (s : State) : Out := event s (fun t => linkDown t l)

/-- R513: LINK_UP. -/
def execLinkUp (l : LinkId) (s : State) : Out :=
  event s (fun t => updKen t (fun k => { k with
    linksDown := k.linksDown.filter (· != l), ownerDown := if some l = k.owner.map .master then none else k.ownerDown }))

/-! ### Corrections and fates (R488, R493) -/

/-- R497: a corrected error in a line of HBM; the third line of a frame makes it due. -/
def countLine (s : State) (line : Nat) : State :=
  let f := line / 1024
  let t := updKen s (fun k => { k with corrLines := if k.corrLines.contains (f, line) then k.corrLines else k.corrLines ++ [(f, line)] })
  if decide (3 ≤ (t.ken.corrLines.filter (fun p => p.1 == f)).length) then dueFrames t [f] else t

/-- R499: a corrected error in a set of a way; the sixteenth set quarantines it. -/
def countSet (s : State) (die way set : Nat) : State × Bool :=
  let old := s.ken.corrSets
  let t := updKen s (fun k => { k with corrSets := if old.contains (die, way, set) then old else old ++ [(die, way, set)] })
  if 16 ≤ (t.ken.corrSets.filter (fun p => p.1 == die && p.2.1 == way)).length ∧ !t.ken.quarantine.contains (die, way) then
    (quarantineWay t die way, true) else (t, false)

/-- R499: a corrected error in the data or a tag of a set of a way. -/
def correctedSet (s : State) (e : MemErr) (r : ErrRec) : State :=
  let (t, q) := countSet s e.die e.way (setOf (e.addr / 64))
  noteError t (if q then { r with action := 8 } else r)

/-- R488: a corrected error: the value stands, and one corrected event is counted. -/
def corrected (s : State) (e : MemErr) : State :=
  let r : ErrRec := { cls := 1, unit := unitCode e.unit, action := 0, loc := locOf e, ctx := 0, addr := addrOf e }
  match e.unit with
  | .hbm => noteError (countLine s (e.addr / 64)) r
  | .mscData => correctedSet s e r
  | .mscTag => correctedSet s e r
  | .matrix => s
  | .stage2 => s
  | .firmware => s
  | _ => noteError s r

/-- R488, R490, R499: an uncorrectable error that loses no value: its way is quarantined, and the record has class 1. -/
def harmlessError (s : State) (unit die way addr : Nat) : State :=
  noteError (quarantineWay s die way) { cls := 1, unit := unit, action := 8, loc := die * 16384 + way, ctx := 0, addr := addr }

/-- R488, R499: an uncorrectable error in the data of the memory-side cache. -/
def mscDataError (s : State) (e : MemErr) : State :=
  match s.msc.find? (fun l => l.line == e.addr / 64) with
  | none => harmlessError s 5 e.die (e.way % 16) (addrOf e)
  | some l =>
    if l.dirty then loseLine 5 (quarantineWay s l.die l.way) l else
    harmlessError { s with msc := s.msc.filter (fun x => x.line != l.line) } 5 l.die l.way (l.line * 64)

/-- R488: the ways of a set that a bad tag entry could name: its own, and any others, a free choice. -/
def namedWays (s : State) (e : MemErr) : List Nat :=
  (List.range 16).filter (fun w => decide (w = e.way % 16) || (Config.freePick s.choice e.addr 14).testBit w)

/-- R488, R499: an uncorrectable error in a tag: the lines of its set in every way that the entry could name are lost, and each such way is
quarantined. -/
def mscTagError (s : State) (e : MemErr) : State :=
  let ws := namedWays s e
  let ls := s.msc.filter (fun l => decide (l.die = e.die) && ws.contains l.way && decide (setOf l.line = setOf (e.addr / 64)))
  let t := ws.foldl (fun u w => quarantineWay u e.die w) s
  if ls.isEmpty then harmlessError t 6 e.die (e.way % 16) (addrOf e) else ls.foldl (loseLine 6) t

/-- R62, R63, R66: an uncorrectable error in a register word: it is poisoned in each lane that owns it. In the
uniform form every lane owns the one word; in the forms of deltas every lane owns the lane-0 word, and whether an error of lane 0
lies in that word or in its delta is a free choice. -/
def wordError (s : State) (e : MemErr) : State :=
  match mget (slotD s e.blk e.slot).regs e.addr with
  | none => s
  | some r =>
    let l := e.lane % 32
    let uniform := r.vals.all (fun w => w == r.vals.getD 0 0)
    let near := r.vals.all (fun w => decide ((w - r.vals.getD 0 0).toInt < 2 ^ 15) && decide (-(2 ^ 15) ≤ (w - r.vals.getD 0 0).toInt))
    let ls := if uniform ∨ (near ∧ l = 0 ∧ pick s e.addr 6 2 = 0) then lanes32 else [l]
    updSlot (poisonArch s e.blk e.slot e.addr ls) e.blk e.slot (fun x => { x with poisons := (x.poisons + ls.length) % 2 ^ 32 })

/-- R493: the cell of a matrix unit that an error names. -/
def cellOf (e : MemErr) : Option MatrixCell :=
  if e.tile < 8 then some (.tile e.tile (e.addr % 4096))
  else if e.tile < 12 then some (.slot (e.tile - 8) (e.addr % 65536))
  else if 16 ≤ e.tile ∧ e.tile < 48 then some (.q (e.tile - 16))
  else none

/-- R488: the fate of an uncorrectable error. Of a line in L2, the clean case and the dirty one are a free choice. -/
def uncorrected (s : State) (e : MemErr) : State :=
  let r : ErrRec := { cls := 2, unit := unitCode e.unit, action := 1, loc := locOf e, ctx := 0, addr := addrOf e }
  match e.unit with
  | .regFile => noteError (wordError s e) r
  | .sram => noteError (addSramPoison s [sramKey e.core (e.addr % 2 ^ 20) / 8]) r
  | .cleanCopy => noteError s { r with cls := 1, action := 0 }
  | .l2Data => if pick s e.addr 4 2 = 0 then noteError s { r with cls := 1, action := 0 } else noteError (addPoison s [e.addr / 64]) r
  | .l2Tag => hardFatal s 7 (locOf e) e.die
  | .mscData => mscDataError s e
  | .mscTag => mscTagError s e
  | .hbm => noteError (addPoison s [e.addr / 64]) r
  | .matrix => updSeq s e.blk (fun q => { q with lost := q.lost ++ (cellOf e).toList.filter (fun c => !q.lost.contains c) })
  | .kennel => packageFatal s
  | .stage2 => updLeaf s e.blk e.addr (fun x => { x with bad := true })
  | .firmware => noteError s { r with cls := 6, action := 0 }
  | .ucie => linkDown s (.edge e.die (e.way % 2))
  | .fabric => linkDown s (.fabric e.way)
  | .hostLink => linkDown s .host

/-- R488: MEMORY_ERROR_DETECT. -/
def execMemoryErrorDetect (e : MemErr) (s : State) : Out :=
  event s (fun t => if e.corrected then corrected t e else uncorrected t e)

/-- R489: the error that a scrub of a line may find: in the memory-side cache where the line stands there, else in HBM. -/
def scrubError (s : State) (line : Nat) (corrected : Bool) : MemErr :=
  let e : MemErr := { unit := .hbm, corrected := corrected, die := homeDie (line * 64), core := 0, blk := 0, slot := 0, fib := 0, lane := 0,
                      way := 0, tile := 0, addr := line * 64 }
  match s.msc.find? (fun l => l.line == line) with
  | some l => { e with unit := .mscData, die := l.die, way := l.way }
  | none => e

/-- R489: a scrub reads a line of HBM and finds no error, one that it corrects, or an uncorrectable one, a free choice. -/
def scrubLine (s : State) (line : Nat) : State :=
  if !isHbm (line * 64) then s else
  match pick s line 9 3 with
  | 0 => s
  | 1 => corrected s (scrubError s line true)
  | _ => uncorrected s (scrubError s line false)

/-- R489: PATROL_SCRUB. -/
def execPatrolScrub (line : Nat) (s : State) : Out := event s (fun t => scrubLine t line)

/-! ### Records (R501, R502) -/

/-- R501: the bytes of a record for a recipient. -/
def recordBytes (r : ErrRec) (addr loc aux : Nat) (lost : Bool) : List Byte :=
  natLe 8 aux ++ List.replicate 20 0 ++ natLe 1 r.cls ++ natLe 1 r.unit ++ natLe 2 loc ++
    natLe 2 (r.action ||| (if lost then 64 else 0)) ++ natLe 2 0 ++ natLe 4 r.count ++ natLe 4 r.seq ++ natLe 4 r.ctx ++ natLe 8 addr ++
    natLe 8 r.uclk

/-- R497, R502: every action of a record has completed. -/
def settled (s : State) (r : ErrRec) : Bool :=
  (r.addr == 0 || !s.ken.due.contains (r.addr / 65536)) &&
  (!r.action.testBit 1 || !current s r.ctx) &&
  (!r.action.testBit 3 || !s.ken.sweeping.contains (r.loc / 16384, r.loc % 16))

/-- R501: the frames that a record names: the line's, and the spare's. -/
def recFrames (r : ErrRec) : List Nat := (if r.addr = 0 then [] else [r.addr / 65536]) ++ (if r.aux = 0 then [] else [r.aux / 65536])

/-- R502: the contexts that had some names and still have them. -/
def stillNamed (s : State) (names : List Nat) : List Nat := (names.filter (current s)).map (· % 4096)

/-- R502: the contexts that a record goes to. -/
def recipients (s : State) (r : ErrRec) : List Nat :=
  let roots (p : Ctx → Bool) : List Nat := (s.ctxs.filter (fun q => q.2.root && decide (q.2.st ≠ .free) && p q.2)).map (·.1)
  let cs := match r.cls with
    | 1 => []
    | 2 => if r.ctx ≠ 0 then stillNamed s r.kin
      else if r.unit = 4 ∨ r.unit = 8 then nub ((recFrames r).flatMap (namers s))
      else if r.unit = 5 ∨ r.unit = 6 then [rootOfWay s (r.loc / 16384) (r.loc % 16)] else []
    | 4 => roots (fun x => decide (some ((s.ken.slices.getD x.part {}).hard) = hardOfDie s (r.loc / 16384)))
    | 5 => roots (fun _ => true)
    | _ => stillNamed s r.kin
  cs.filter (fun c => decide ((ctxD s c).st ≠ .revoking) && decide ((ctxD s c).st ≠ .free) && decide ((ctxD s c).errring ≠ 0))

/-- R416: the global pages that reach an intermediate page, by the walk of stage-1 tables. -/
def globalsOf (s : State) (x : Ctx) (page n node lvl va : Nat) : Option Nat :=
  match n with
  | 0 => none
  | k + 1 =>
    (List.range (if lvl = 0 then 32 else 512)).findSome? (fun i =>
      let e := leNat (match stage2 x (node + 8 * i) .read 5 with
        | .ok pa => Memory.rdN s.mem pa 8
        | _ => [])
      let a := va + i * pageSize lvl
      if !e.testBit 0 ∨ malformed e lvl then none
      else if lvl = 0 ∨ e.testBit 1 then
        let p := bits e 51 16
        if p ≤ page ∧ page < p + pageSize lvl / 65536 then some (a + 65536 * (page - p)) else none
      else globalsOf s x page k (entryAddr e) (lvl - 1) a)

/-- R88: the canonical address of 57 bits. -/
def canon57 (a : Nat) : Nat := if a < 2 ^ 56 then a else a + (2 ^ 64 - 2 ^ 57)

/-- R501: the global address at which a context maps a line of a frame, or mapped it at detection; 0 where it maps none. -/
def ownAddr (s : State) (c : Nat) (r : ErrRec) : Nat :=
  let now := (recFrames r).findSome? (fun f => ((leavesOf s c f).head?).map (·.page))
  match (if now.isSome then now else ((r.pages.find? (fun p => p.1 == ctxName s c)).map (·.2))) with
  | none => 0
  | some page =>
    let x := ctxD s c
    let base := if x.s1root = 0 then some (page * 65536) else globalsOf s x page 5 x.s1root.toNat 4 0
    match base with
    | some a => canon57 (a + r.addr % 65536)
    | none => 0

/-- R503: an error-ring header. -/
structure RingHdr where
  ring : Nat
  tail : Nat
  head : Nat
  log2n : Nat
  lost : Nat
  bad : Bool
  deriving DecidableEq, Repr

/-- R503: a header from its bytes. -/
def ringHdrOf (bs : List Byte) : RingHdr :=
  let x := leNat bs
  let ring := bits x 63 0
  let n := bits x 132 128
  { ring := ring, tail := bits x 95 64, head := bits x 127 96, log2n := n, lost := bits x 191 160
    bad := decide (bits x 511 192 ≠ 0) || decide (bits x 159 133 ≠ 0) || decide (n = 0) || decide (12 < n) || !canonical ring ||
      decide (ring % 64 ≠ 0) }

/-- R503: the entries of a ring that stand unread. -/
def RingHdr.held (h : RingHdr) : Nat := (h.tail + 2 ^ 32 - h.head) % 2 ^ 32

/-- R503: a record that a context does not receive: LOST rises, and its next record says so. -/
def loseRecord (s : State) (c hdr lost : Nat) : State :=
  let t := updCtx s c (fun x => { x with lostrec := true })
  (kWrite t c (hdr + 20) (natLe 4 (min 0xFFFFFFFF (lost + 1)))).1

/-- R502, R503: a record to one context's ring. -/
def deliverTo (r : ErrRec) (s : State) (c : Nat) : State :=
  let hdr := (ctxD s c).errring.toNat
  match kRead s c hdr 64 with
  | (t, none) => updCtx t c (fun x => { x with lostrec := true })
  | (t, some (bs, bad)) =>
    let h := ringHdrOf bs
    if h.bad ∨ bad ∨ 2 ^ h.log2n ≤ h.held then loseRecord t c hdr h.lost else
    match kWrite t c ((h.ring + 64 * (h.tail % 2 ^ h.log2n)) % 2 ^ 64) (recordBytes r (ownAddr s c r) 0 0 (ctxD s c).lostrec) with
    | (u, false) => loseRecord u c hdr h.lost
    | (u, true) =>
      let v := updCtx u c (fun x => { x with lostrec := false })
      (kWrite v c (hdr + 8) (natLe 4 ((h.tail + 1) % 2 ^ 32))).1

/-- R502: a record to the owner and to its contexts. -/
def deliver (s : State) (r : ErrRec) : State :=
  (recipients s r).foldl (deliverTo r) (postEvent s 0x22 (recordBytes r r.addr r.loc r.aux false))

/-- R502: the oldest record whose actions have completed is delivered. -/
def deliverNext (s : State) : State :=
  match s.ken.errs.find? (settled s) with
  | none => s
  | some r => deliver (updKen s (fun k => { k with errs := k.errs.filter (fun x => x.seq != r.seq) })) r

/-- R502: ERROR_RECORD_DELIVERY. -/
def execErrorRecordDelivery (s : State) : Out := event s deliverNext

/-- R502: the place of a record's unit and location in the log of records. -/
def foldKey (r : ErrRec) : Nat := r.unit * 65536 + r.loc % 65536

/-- R502: a second has passed since the last record of a unit and location. -/
def foldDue (s : State) (r : ErrRec) : Bool :=
  match mget s.ken.foldLog (foldKey r) with
  | none => true
  | some u => decide (u + 2400000000 ≤ s.uclk)

/-- R502: the corrected events of one unit and location become one record, at most once a second. -/
def foldNext (s : State) : State :=
  match s.ken.folds.find? (fun r => settled s r && foldDue s r) with
  | none => s
  | some r =>
    let same := s.ken.folds.filter (fun x => x.unit == r.unit && x.loc == r.loc && settled s x)
    let one := { r with count := same.length, action := same.foldl (fun a x => a ||| x.action) 0,
                        aux := (same.findSome? (fun x => if x.aux = 0 then none else some x.aux)).getD 0 }
    deliver (updKen s (fun k => { k with
      folds := k.folds.filter (fun x => !same.any (fun y => y.seq == x.seq)), foldLog := mset k.foldLog (foldKey r) s.uclk })) one

/-- R502: CORRECTED_EVENT_FOLD. -/
def execCorrectedEventFold (s : State) : Out := event s foldNext

end Sys2Proof.Machine
end

