-- ==== Sys2Proof/Machine/Host.lean ====
section
/-!
DEFINITION. Requests from outside the package: the host aperture and CXL.mem (R141, R469), completions of the host (R426), and
the fabric window requests of a peer module (R471).
-/

namespace Sys2Proof.Machine

/-- R491: the lines that a request covers whole. -/
def wholeLines (pas : List Nat) : List Nat :=
  (nub (pas.map (· / 64))).filter (fun l => decide (64 ≤ (pas.filter (fun a => a / 64 == l)).length))

/-- R491, R141: a write from outside on behalf of a context: it clears the poison of the lines that it covers whole. -/
def outerWrite (s : State) (c : Nat) (pas : List Nat) (bs : List Byte) : State :=
  gWrite (dropPoison s (wholeLines pas)) c pas bs

/-! ### The host (R141, R469) -/

/-- R427, R469, R500: the context whose global space a virtual function reaches, where its requests are served. -/
def vfServed (s : State) (vf : Nat) : Option Nat :=
  match vfHolder s vf with
  | none => none
  | some c =>
    if mgetD s.ken.tdis vf .unlocked = .error ∨ s.ken.hstops.contains (sliceOf s c).hard ∨ s.ken.linksDown.contains .host then none
    else some c

/-- R469: a request through an aperture of 64 GiB: the context and the physical bytes; none where it is refused. -/
def aperture (s : State) (vf o n : Nat) (k : AccKind) : Option (Nat × List Nat) :=
  match vfServed s vf with
  | none => none
  | some c =>
    if 2 ^ 36 < o + n then none else
    match kWalk s c (((ctxD s c).apbase.toNat + o) % 2 ^ 64) n k with
    | .ok pas => some (c, pas)
    | .error _ => none

/-- R439, R469: a frame of a partition: a root holds it, or it is of the partition's save pool. -/
def rootHolds (s : State) (f : Nat) : Bool :=
  s.ctxs.any (fun p => p.2.root && decide (p.2.st ≠ .free) && !(leavesOf s p.1 f).isEmpty) ||
  s.ken.slices.any (fun r => r.en && decide (r.spbase / 65536 ≤ f) && decide (f < r.spbase / 65536 + r.spcnt))

/-- R427: a request without the T bit meets a private range of a function in RUN. -/
def tRefused (s : State) (q : HostReq) (v n : Nat) : Bool :=
  !q.t && decide (mgetD s.ken.tdis v .unlocked = .run) && (List.range n).any (fun k => Config.privateRange v (q.addr + k))

/-- What becomes of a host request (R427, R469): performed for a context, or for none through CXL.mem, at physical bytes; at frames
of a partition; refused. -/
inductive HostFate
  | served (c : Option Nat) (pas : List Nat) | partitioned | refused
  deriving DecidableEq, Repr

/-- R427, R469: what becomes of a host request for `n` bytes. -/
def hostFate (s : State) (q : HostReq) (n : Nat) (k : AccKind) : HostFate :=
  match q.vf with
  | some v =>
    if tRefused s q v n then .refused else
    match aperture s v q.addr n k with
    | some (c, pas) => .served (some c) pas
    | none => .refused
  | none =>
    let pas := (List.range n).map (q.addr + ·)
    if s.ken.linksDown.contains .host ∨ pas.any (fun p => !isHbm p) then .refused
    else if pas.any (fun p => rootHolds s (p / 65536)) then .partitioned
    else .served none pas

/-- R420: a malformed stage-2 entry that the walk of a request through an aperture meets is reported. -/
def noteAperture (s : State) (q : HostReq) (n : Nat) (k : AccKind) : State :=
  match q.vf with
  | none => s
  | some v =>
    match vfServed s v with
    | none => s
    | some c =>
      if tRefused s q v n ∨ 2 ^ 36 < q.addr + n then s else
      match kWalk s c (((ctxD s c).apbase.toNat + q.addr) % 2 ^ 64) n k with
      | .ok _ => s
      | .error e => noteBadLeaf s c e.1 k

/-- R141, R469: a host write; one that is not served is dropped. -/
def hostWrite (s : State) (q : HostReq) : State :=
  match hostFate s q q.data.length .write with
  | .served (some c) pas => outerWrite s c pas q.data
  | .served none pas => physWrite (dropPoison s (wholeLines pas)) q.addr q.data
  | .partitioned => s
  | .refused => noteAperture s q q.data.length .write

/-- R141: HOST_WRITE. -/
def execHostWrite (q : HostReq) (s : State) : Out := event s (fun t => hostWrite t q)

/-- R104, R141, R492: a read of an agent outside the package is served at the directory: dirty stash bytes are recalled, and the newest
bytes are the answer, with their poison. -/
def outerRead (s : State) (agent : Nat) (pas : List Nat) : State :=
  let t := seeLocs (recalls s none false pas) agent pas
  { t with answer := some (.data (pas.map (Memory.rd t.mem)) (anyPoison t pas)) }

/-- R141, R469: a host read; of a partition's frames CXL.mem returns poisoned data. -/
def hostRead (s : State) (q : HostReq) : State :=
  match hostFate s q q.len .read with
  | .served _ pas => outerRead s (hostAgent q.rid) pas
  | .partitioned => { s with answer := some (.data (List.replicate q.len 0) true) }
  | .refused => { noteAperture s q q.len .read with answer := some .unsupported }

/-- R141: HOST_READ. -/
def execHostRead (q : HostReq) (s : State) : Out := event s (fun t => hostRead t q)

/-- R426, R491: the host completes a device request at a physical address of the host range: the accesses of its page succeed or are
refused; a poisoned completion poisons the line. -/
def hostAnswers (s : State) (pa : Nat) (how : Completion) : State :=
  let page := pa / 65536
  if !isHost pa then s else
  match how with
  | .ok => dropPoison { s with hostBad := s.hostBad.filter (· != page) } [pa / 64]
  | .refused => { s with hostBad := if s.hostBad.contains page then s.hostBad else s.hostBad ++ [page] }
  | .poisoned => noteError (addPoison s [pa / 64]) { cls := 2, unit := 0x0C, action := 1, loc := 0, ctx := 0, addr := pa / 64 * 64 }

/-- R426: HOST_COMPLETION. -/
def execHostCompletion (pa : Nat) (how : Completion) (s : State) : Out := event s (fun t => hostAnswers t pa how)
/-- R426: COMPLETION_TIMEOUT. -/
def execCompletionTimeout (pa : Nat) (s : State) : Out := event s (fun t => hostAnswers t pa .refused)

/-! ### A peer module (R471) -/

/-- R471: the root of the partition that exposes a range to a tenant: the range lies in what is exposed of its hard partition, and
every frame of it is held by that root. -/
def exposes (s : State) (tenant : DWord) (a n : Nat) : Option Nat :=
  let fs := nub ((List.range n).map (fun k => (a + k) / 65536))
  (s.ctxs.find? (fun p =>
    let r := sliceOf s p.1
    let w := s.ken.exposed.getD r.hard (0, 0)
    p.2.root && decide (p.2.st ≠ .free) && decide (r.tenant = tenant) && decide (w.1 ≤ a) && decide (a + n ≤ w.1 + w.2) &&
    !s.ken.hstops.contains r.hard && fs.all (fun f => isHbm (f * 65536) && !(leavesOf s p.1 f).isEmpty))).map (·.1)

/-- R471: a request of a peer module; one of another tenant, or of a range that is not exposed, returns cause 0x07 there. -/
def peerRequest (s : State) (q : PeerReq) : State :=
  let n := (q.data.map List.length).getD q.len
  match exposes s q.tenant q.addr n with
  | none => { s with answer := some .refused }
  | some c =>
    let pas := (List.range n).map (q.addr + ·)
    match q.data with
    | some bs => outerWrite s c pas bs
    | none => outerRead s (peerAgent q.win) pas

/-- R471: PEER_REQUEST. -/
def execPeerRequest (q : PeerReq) (s : State) : Out := event s (fun t => peerRequest t q)

end Sys2Proof.Machine
end

