-- ==== Sys2Proof/Machine/Kennel.lean ====
section
/-!
DEFINITION. The kennel die: bring-up (R505 to R509), the event ring (R517), ownership (R513, R514), power and heat (R519, R520), and
the frame of a mailbox command (R510, R511).
-/

namespace Sys2Proof.Machine

/-! ### The image (R506) -/

/-- R506: some bytes of an image as a number. -/
def imageNum (img : List Byte) (lo n : Nat) : Nat := leNat ((img.drop lo).take n)

/-- R506: the length of an image with its header. -/
def imageLen (img : List Byte) : Nat := 5184 + imageNum img 8 4

/-- R506: what the boot ROM accepts, for a fused minimum. -/
def imageOk (img : List Byte) (minSvn : Nat) : Bool :=
  decide (imageNum img 0 4 = 0x51474B31) && decide (1 ≤ imageNum img 8 4) && decide (imageNum img 8 4 ≤ 2 ^ 26) &&
  decide (img.length = imageLen img) && decide (imageNum img 4639 1 = 0) && ((img.drop 4640).take 544).all (fun b => decide (b = 0)) &&
  Config.sigVerify ((img.drop 12).take 4627) (img.take 12 ++ img.drop 5184) && decide (minSvn ≤ imageNum img 4 4)

/-! ### Bring-up (R505, R509) -/

/-- R3: the cores of a die that are enabled as shipped: at least 60. -/
def fusedCores (d : Nat) : Nat :=
  let m := Config.dieCores d % 2 ^ 64
  if 60 ≤ popcount m then m else 2 ^ 64 - 1

/-- R509: what self-test of a die comes to: the repairs made, oldest first, and the failures that no spare covers. -/
structure Repairs where
  made : List Nat := []
  bare : List Nat := []
  deriving DecidableEq, Repr

/-- R508: the repairs of a die that the fused map and the repair log hold. -/
def knownRepairs (s : State) (d : Nat) : List Nat :=
  Config.fusedMap d ++ (s.ken.repairLog.filter (fun p => p.1 == d)).map (·.2)

/-- R509: self-test of a die whose arrays hold some repairs: each new failure takes a spare, while one is left for it. -/
def selfTest (n d : Nat) (loaded : List Nat) : Repairs :=
  ((Config.selfTest n d).filter (fun f => !loaded.contains f)).foldl (fun (r : Repairs) f =>
    if r.made.contains f ∨ r.bare.contains f then r
    else if Config.spareLeft d (loaded ++ r.made) f then { r with made := r.made ++ [f] }
    else { r with bare := r.bare ++ [f] }) {}

/-- R509: the cores in which some failures lie; a failure of the L2 array lies in none (log entry 54). -/
def coresOf (fs : List Nat) : Nat := fs.foldl (fun m f => if f % 65 = 64 then m else m ||| 2 ^ (f % 65)) 0

/-- R509, R520: a die after a reset and repair: the cores with a failure that no spare covers are off, and fewer than 60 keep it in
reset. Its heat and its throttle stay. -/
def freshDie (x : Die) (d : Nat) (loaded : List Nat) (r : Repairs) : Die :=
  let cores := fusedCores d &&& (2 ^ 64 - 1 - coresOf r.bare)
  { up := decide (60 ≤ popcount cores), cores := cores, repairs := loaded ++ r.made, temp := x.temp, throttled := x.throttled }

/-- R509: one die is reset and repaired; the repairs join the log, and the owner hears of a core that self-test has disabled: the die
and its disabled cores. -/
def resetDie (s : State) (d : Nat) : State :=
  let loaded := knownRepairs s d
  let r := selfTest s.choice d loaded
  let t := updKen s (fun k => { k with
    dies := k.dies.modify d (fun x => freshDie x d loaded r), repairLog := k.repairLog ++ r.made.map (fun f => (d, f)) })
  if coresOf r.bare = 0 then t else postEvent t 0x24 (natLe 8 d ++ natLe 8 (2 ^ 64 - 1 - (t.ken.dies.getD d {}).cores))

/-- R509: some dies are reset and repaired. -/
def resetDies (s : State) (ds : List Nat) : State := ds.foldl resetDie s

/-- R520: the trips logged in flash are reported. -/
def reportTrips (s : State) : State :=
  updKen (s.ken.tripLog.foldl (fun t p => postEvent t 0x25 (natLe 8 p.1 ++ natLe 8 p.2)) s) (fun k => { k with tripLog := [] })

/-- What outlives a package reset: the flash with its logs, the fused minimum, the heat of the dies (R520), what lies outside the
package or in its HBM, and the model's own fields. A flash write that the reset cuts short leaves the slot invalid (R507). -/
def coldState (s : State) (ph : Phase) : State :=
  { State.reset with
    ken := { phase := ph, flash := s.ken.flash, minSvn := s.ken.minSvn, repairLog := s.ken.repairLog, tripLog := s.ken.tripLog
             dies := s.ken.dies.map (fun d => { temp := d.temp, throttled := d.throttled })
             retiredPast := nub (s.ken.retiredPast ++ s.ken.retired)
             linksDown := s.ken.linksDown.filter (fun l => match l with
               | .master _ => true
               | .host => true
               | _ => false) }
    mem := s.mem, memPoison := s.memPoison, hostBad := s.hostBad
    agenda := s.agenda, choice := s.choice, turn := s.turn }

/-- R505: bring-up, to the wait for an owner, or to recovery (R507). -/
def bringUp (s : State) : State :=
  if !imageOk s.ken.flash s.ken.minSvn then updKen s (fun k => { k with phase := .recovery })
  else
    let svn := imageNum s.ken.flash 4 4
    reportTrips (resetDies (updKen { s with clk := 0, uclk := 0 } (fun k =>
      { k with phase := .awaitOwner, minSvn := svn, booted := k.flash })) [0, 1, 2, 3])

/-- R505: PACKAGE_RESET: the package is reset and brought up. -/
def execPackageReset (s : State) : Out := event s (fun t => bringUp (coldState t .bringUp))

/-- R507, R520: power is removed. -/
def powerOff (s : State) : State := coldState s .off

/-- R507: POWER_LOSS. -/
def execPowerLoss (s : State) : Out := event s powerOff

/-- R507: a flash write ends: the slot holds the image, and in recovery the package is reset. -/
def finishFlash (s : State) : State :=
  match s.ken.writing with
  | none => s
  | some (img, again) =>
    let t := updKen s (fun k => { k with writing := none, flash := img })
    if again then coldState t .bringUp else t

/-! ### The owner's event ring (R517) -/

/-- R415: a host address as a physical address. -/
def hostPa (a : Nat) : Nat := 0x8000000000000 + a

/-- R517: the bytes of an event. -/
def eventBytes (e : Event) (lost : Bool) : List Byte :=
  let b := natLe 4 (e.code % 65536 + (if lost then 65536 else 0)) ++ natLe 4 e.seq ++ List.replicate 56 0 ++ e.payload
  (b ++ List.replicate 256 0).take 256

/-- R503, R517: one event to the ring, or to LOST. -/
def ringEvent (s : State) (e : Event) : State :=
  let hdr := hostPa s.ken.evring
  let h := ringHdrOf (Memory.rdN s.mem hdr 64)
  let drop' (t : State) : State := updKen t (fun k => { k with evLost := true })
  if h.bad ∨ 2 ^ h.log2n ≤ h.held then drop' (physWrite s (hdr + 20) (natLe 4 (min 0xFFFFFFFF (h.lost + 1))))
  else
    let t := physWrite s (hostPa (h.ring + 256 * (h.tail % 2 ^ h.log2n))) (eventBytes e s.ken.evLost)
    updKen (physWrite t (hdr + 8) (natLe 4 ((h.tail + 1) % 2 ^ 32))) (fun k => { k with evLost := false })

/-- R517: bit 16 of the first of some events, where events were dropped before it. -/
def markLost (lost : Bool) (es : List Event) : List Event :=
  match lost, es with
  | true, e :: r => { e with code := e.code % 65536 + 65536 } :: r
  | _, l => l

/-- R517: the events held go to the owner: to its ring, or for master 3 as messages. -/
def flushEvents (s : State) : State :=
  match s.ken.owner with
  | none => s
  | some m =>
    if s.ken.held.isEmpty then s
    else if m = 3 then updKen s (fun k => { k with sentMctp := k.sentMctp ++ markLost k.evLost k.held, held := [], evLost := false })
    else if s.ken.evring = 0 ∨ s.ken.linksDown.contains .host then s
    else s.ken.held.foldl ringEvent (updKen s (fun k => { k with held := [] }))

/-! ### Mailboxes (R510, R511) -/

/-- R510: bits of OPS, numbered in the request. -/
def ops (r : Mbx) (hi lo : Nat) : Nat := bits r.ops.toNat (hi - 64) (lo - 64)

/-- R510: RES with a value at a bit of the response. -/
def res (lo v : Nat) : Nat := v * 2 ^ (lo - 64)

/-- R510: the answer to a request: its status and RES. -/
def answer (s : State) (r : Mbx) (cmd st rs : Nat) : State :=
  updKen s (fun k => { k with mbox := k.mbox.modify r.m (fun b => { b with
    req := BitVec.ofNat 512 (r.ops.toNat * 2 ^ 64 + r.len % 2 ^ 32 * 2 ^ 32 + r.tag % 65536 * 65536 + cmd)
    resp := BitVec.ofNat 512 (rs % 2 ^ 448 * 2 ^ 64 + st * 2 ^ 32 + r.tag % 65536 * 65536 + cmd)
    win := r.win.take 4096 ++ b.win.drop r.win.length }) })

/-- R507: in recovery the loader's commands are accepted, and anyone's until there is one. -/
def recoveryTakes (s : State) (r : Mbx) (cmd : Nat) : Bool :=
  (cmd == 5 || cmd == 6 || cmd == 7) && (match s.ken.loader with
    | none => true
    | some l => decide (l = r.m))

/-- R507, R500, R511: the status with which a command is turned away before its own rules; none where it is taken. -/
def turnedAway (s : State) (r : Mbx) (cmd : Nat) (any : Bool) : Option Nat :=
  match s.ken.phase with
  | .recovery => if recoveryTakes s r cmd then none else some 1
  | .fatal => if cmd = 5 ∨ cmd = 0x0A ∨ cmd = 0x0D then (if any ∨ s.ken.owner = some r.m then none else some 3) else some 1
  | _ => if any ∨ s.ken.owner = some r.m then none else some 3

/-- R505, R510: the mailbox of a master is open. -/
def mailboxOpen (s : State) (m : Nat) : Bool :=
  decide (m < 4) && decide (s.ken.phase ≠ .bringUp) && decide (s.ken.phase ≠ .off) && !s.ken.linksDown.contains (.master m)

/-- R510, R511: a request's CMD that names no command: the migration commands of R470 stand at 0x10 to 0x13. -/
def unknownCmd (r : Mbx) : Option Nat := r.cmd.filter (fun c => decide (c = 0) || decide (0x15 < c))

/-- R510, R511: a mailbox command: `body` answers its status, RES and the state after it. A CMD that names no command gets status 4. The
answer to PRESET stands in the mailbox that the reset has emptied (log entry 33). -/
def command (cmd : Nat) (any : Bool) (r : Mbx) (s : State) (body : State → Nat × Nat × State) : Out :=
  event s (fun t =>
    if !mailboxOpen t r.m then t else
    match unknownCmd r with
    | some c => answer t r (c % 65536) 4 0
    | none =>
    match turnedAway t r cmd any with
    | some st => answer t r cmd st 0
    | none =>
      let (st, rs, u) := body t
      answer u r cmd st rs)

/-! ### Ownership (R511, R513, R514) -/

/-- R513, R514, R517: a master becomes owner; the event ring is cleared. -/
def newOwner (s : State) (m : Nat) : State :=
  postEvent (updKen s (fun k => { k with
    owner := some m, ownerDown := none, pending := none, evring := 0
    phase := if k.phase = .awaitOwner then .awaitCommit else k.phase })) 0x23 (natLe 8 m)

/-- R513: CLAIM. Among the CLAIMs of one uclk that of the lowest master comes first, so that another one comes in a later uclk. -/
def execClaim (r : Mbx) (s : State) : Out :=
  command 0x01 true r s (fun t => if t.ken.owner.isSome then (1, 0, t) else (0, 0, elapse (newOwner t r.m) 0 1))

/-- R514: HANDOVER. -/
def execHandover (r : Mbx) (s : State) : Out :=
  command 0x02 false r s (fun t => (0, 0, updKen t (fun k => { k with pending := some (ops r 65 64), pendingAt := t.uclk })))

/-- R514: ACCEPT. -/
def execAccept (r : Mbx) (s : State) : Out :=
  command 0x03 true r s (fun t => if t.ken.pending = some r.m then (0, 0, newOwner t r.m) else (1, 0, t))

/-- R511: RELEASE. -/
def execRelease (r : Mbx) (s : State) : Out := command 0x04 false r s (fun t => (0, 0, noOwner t))

/-- R511: the code of a phase. -/
def phaseCode (p : Phase) : Nat :=
  match p with
  | .recovery => 0
  | .awaitOwner => 1
  | .awaitCommit => 2
  | .fatal => 4
  | _ => 3

/-- R511: STATUSQ; the places in RES are those of log entry 31. -/
def execStatusq (r : Mbx) (s : State) : Out :=
  command 0x05 true r s (fun t => (0,
    res 64 (phaseCode t.ken.phase) + res 72 (t.ken.owner.getD 15) + res 80 (t.ken.pending.getD 15) + res 96 (imageNum t.ken.booted 4 4), t))

/-! ### The image loader (R507, R511) -/

/-- R507: the loader of a recovery: the first master whose IMGLOAD names offset 0. -/
def becomeLoader (s : State) (m off : Nat) : State :=
  if s.ken.phase = .recovery ∧ s.ken.loader = none ∧ off = 0 then updKen s (fun k => { k with loader := some m }) else s

/-- R507: IMGLOAD. -/
def execImgload (r : Mbx) (s : State) : Out :=
  command 0x06 (decide (s.ken.phase = .recovery)) r s (fun t =>
    let off := ops r 95 64
    let u := becomeLoader t r.m off
    if u.ken.phase = .recovery ∧ u.ken.loader ≠ some r.m then (1, 0, u)
    else if 4096 < r.len ∨ r.win.length < r.len ∨ 5184 + 2 ^ 26 < off + r.len then (2, 0, u)
    else (0, 0, updKen u (fun k => { k with
      load := Memory.wrN k.load off (r.win.take r.len), loadLen := max k.loadLen (off + r.len) })))

/-- R507: the image that has been loaded. -/
def loadedImage (s : State) : List Byte :=
  let all := Memory.rdN s.ken.load 0 (min s.ken.loadLen 5184)
  Memory.rdN s.ken.load 0 (min s.ken.loadLen (imageLen all))

/-- R507: IMGCOMMIT: the slot is invalid while it is being written. -/
def execImgcommit (r : Mbx) (s : State) : Out :=
  command 0x07 (decide (s.ken.phase = .recovery)) r s (fun t =>
    let img := loadedImage t
    if imageOk img t.ken.minSvn then
      (0, 0, updKen t (fun k => { k with writing := some (img, decide (k.phase = .recovery)), flash := [] }))
    else (2, 0, t))

/-! ### Events, limits, telemetry, resets (R517 to R520) -/

/-- R517: EVRING; the header's host address stands in OPS bits 127:64 (log entry 31). -/
def execEvring (r : Mbx) (s : State) : Out :=
  command 0x0A false r s (fun t =>
    let a := ops r 127 64
    if a % 64 ≠ 0 ∨ 2 ^ 51 ≤ a + 64 then (2, 0, t) else (0, 0, flushEvents (updKen t (fun k => { k with evring := a }))))

/-- R519, R520: the clk of a die in MHz. -/
def dieClk (s : State) (d : Nat) : Nat := if (s.ken.dies.getD d {}).throttled then 1200 else 50 * s.ken.clkStep

/-- R518: TELEM: by die its temperature, power and clk (log entry 31). -/
def execTelem (r : Mbx) (s : State) : Out :=
  command 0x0B true r s (fun t => (0, sumNat ((List.range 4).map (fun d =>
    res (64 + 64 * d) ((t.ken.dies.getD d {}).temp % 65536 + Config.telemPower t.choice d % 65536 * 65536 + dieClk t d * 2 ^ 32))), t))

/-- R519: PLIMIT; the limit in W stands in OPS bits 95:64 (log entry 31). -/
def execPlimit (r : Mbx) (s : State) : Out :=
  command 0x0C false r s (fun t =>
    let w := ops r 95 64
    if 1000 ≤ w ∧ w ≤ 4200 then (0, 0, updKen t (fun k => { k with plimit := w })) else (2, 0, t))

/-- R511: PRESET. -/
def execPreset (r : Mbx) (s : State) : Out := command 0x0D false r s (fun t => (0, 0, coldState t .bringUp))

/-- R519: POWER_CONTROL: firmware sets clk in steps of 50 MHz from 1.2 GHz to 3.6 GHz. -/
def execPowerControl (steps : Nat) (s : State) : Out :=
  event s (fun t => updKen t (fun k => { k with clkStep := max 24 (min 72 steps) }))

/-- R520: a die's temperature, in 0.125 °C, with its throttle. -/
def heat (s : State) (d temp : Nat) (g : Bool → Bool) : State :=
  updKen s (fun k => { k with dies := k.dies.modify d (fun x => { x with temp := temp, throttled := g x.throttled }) })

/-- R520: a die comes to a temperature: at 115 °C power is removed, and the trip is logged in flash; at 105 °C the die runs at 1.2 GHz, and
the owner hears of it; at 95 °C or below it runs at its clk again. -/
def thermal (s : State) (d temp : Nat) : State :=
  if 920 ≤ temp then powerOff (updKen (heat s d temp id) (fun k => { k with tripLog := k.tripLog ++ [(d, temp)] }))
  else if 840 ≤ temp ∧ !(s.ken.dies.getD d {}).throttled then
    postEvent (heat s d temp (fun _ => true)) 0x25 (natLe 8 d ++ natLe 8 temp)
  else heat s d temp (fun b => b && decide (760 < temp))

/-- R520: THERMAL_THROTTLE: at 105 °C. -/
def execThermalThrottle (die temp : Nat) (s : State) : Out := event s (fun t => thermal t die temp)
/-- R520: THERMAL_RECOVER: a throttled die at 95 °C or below. -/
def execThermalRecover (die temp : Nat) (s : State) : Out := event s (fun t => thermal t die temp)
/-- R520: THERMAL_TRIP: at 115 °C. -/
def execThermalTrip (die temp : Nat) (s : State) : Out := event s (fun t => thermal t die temp)

end Sys2Proof.Machine
end

