-- ==== Sys2Proof/Machine/Owner.lean ====
section
/-!
DEFINITION. What the owner does through its mailbox: configuration (R515, R516), partition registers (R521), hard-partition reset and
slice records (R511), traps that no context holds (R512), and migration (R470).
-/

namespace Sys2Proof.Machine

/-! ### Configuration entries (R515) -/

/-- R515: the entries of a window. -/
def entriesOf (bs : List Byte) (n : Nat) : List (List Byte) := (List.range n).map (fun k => (bs.drop (64 * k)).take 64)

/-- R515: an entry with an unknown KIND or a nonzero unused bit. -/
def entryBad (bs : List Byte) : Bool :=
  let x := leNat bs
  let z (hi lo : Nat) : Bool := decide (bits x hi lo = 0)
  match bits x 7 0 with
  | 1 => false
  | 2 => !(z 31 13 && z 511 112)
  | 3 => !(z 63 13 && z 511 227)
  | 4 => !(z 63 10 && z 511 160)
  | 5 => !(z 15 10 && z 31 17 && z 39 34 && z 511 42)
  | 6 => !(z 31 13 && z 63 60 && z 511 128)
  | _ => true

/-- R515: CONFIG, in state 2. -/
def execConfig (r : Mbx) (s : State) : Out :=
  command 0x08 false r s (fun t =>
    if t.ken.phase ≠ .awaitCommit then (1, 0, t) else
    let es := entriesOf r.win (r.len / 64)
    if 4096 < r.len ∨ r.len % 64 ≠ 0 ∨ r.win.length < r.len ∨ es.any entryBad then (2, 0, t)
    else (0, 0, updKen t (fun k => { k with config := k.config ++ es })))

/-- R515: the entries of a KIND as numbers. -/
def ofKind (s : State) (kind : Nat) : List Nat := (s.ken.config.map leNat).filter (fun x => decide (bits x 7 0 = kind))

/-- R462: a slice record. -/
def sliceRecOf (x : Nat) : SliceRec :=
  let four (lo : Nat) : List Nat := (List.range 4).map (fun d => bits x (lo + 16 * d + 15) (lo + 16 * d))
  { colours := bits x 511 448, pcg := bits x 447 384, mscw := four 320, quads := four 256
    tenant := BitVec.ofNat 64 (bits x 255 192), spcnt := bits x 191 160, misscap := bits x 159 152, hard := bits x 147 146
    slice := bits x 145 143, en := bit x 128, spbase := bits x 127 64, fwin := bits x 63 48 }

/-- The number of a slice partition: hard × 8 + slice. -/
def SliceRec.index (r : SliceRec) : Nat := r.hard * 8 + r.slice

/-- R515: the slice partition that an entry names. -/
def sliceIdx (x : Nat) : Nat := bits x 9 8 * 8 + bits x 12 10

/-- R515, R462: the slice records of a configuration by number; a later record of one number replaces an earlier. -/
def slicesOf (s : State) : List SliceRec :=
  (List.range 32).map (fun n => (((ofKind s 1).map sliceRecOf).reverse.find? (fun r => decide (r.index = n))).getD
    { hard := n / 8, slice := n % 8 })

/-- A range of frames of a configuration: its hard partition, first frame and length. -/
structure Span where
  hard : Nat
  base : Nat
  n : Nat
  deriving DecidableEq, Repr

/-- R460, R515: the frames of KIND 3 and KIND 4 entries, and of the save pools of the slice records. -/
def spansOf (s : State) : List Span :=
  (ofKind s 3 ++ ofKind s 4).map (fun x => { hard := bits x 9 8, base := bits x 127 64, n := bits x 159 128 }) ++
  ((slicesOf s).filter (fun r => r.en && decide (r.spcnt ≠ 0))).map (fun r => { hard := r.hard, base := r.spbase, n := r.spcnt })

/-- Two ranges meet. -/
def meetRanges (a n b m : Nat) : Bool := decide (a < b + m) && decide (b < a + n) && decide (0 < n) && decide (0 < m)

/-- A property of two different places of a list. -/
def anyTwo {α : Type} (l : List α) (p : α → α → Bool) : Bool :=
  match l with
  | [] => false
  | x :: r => r.any (p x) || anyTwo r p

/-! ### COMMIT (R516) -/

/-- The dies on which a hard partition has quads. -/
def recDies (rs : List SliceRec) (h : Nat) : List Nat :=
  (List.range 4).filter (fun d => rs.any (fun r => r.en && decide (r.hard = h) && decide (r.quads.getD d 0 ≠ 0)))

/-- R17, R516: the dies of a hard partition are connected by their edges. -/
def connected (ds : List Nat) : Bool :=
  match ds with
  | [] => true
  | d :: _ =>
    let near (l : List Nat) : List Nat := ds.filter (fun x => l.contains x || l.any (fun y => decide (x = y ^^^ 1) || decide (x = y ^^^ 2)))
    ds.all (fun x => (near (near (near [d]))).contains x)

/-- R516: masks by die overlap. -/
def masksMeet (a b : List Nat) : Bool := (List.range 4).any (fun d => decide (a.getD d 0 &&& b.getD d 0 ≠ 0))

/-- R515: the virtual functions of a KIND 2 entry: first and count. -/
def vfRange (x : Nat) : Nat × Nat := (bits x 95 80, bits x 111 96)

/-- R516: a range of frames that is misaligned, lies outside its hard partition's HBM, or was retired before. -/
def spanWrong (s : State) (rs : List SliceRec) (p : Span) : Bool :=
  decide (p.base % 65536 ≠ 0) || (List.range p.n).any (fun k =>
    let f := p.base / 65536 + k
    !isHbm (f * 65536) || !(recDies rs p.hard).contains (homeDie (f * 65536)) || s.ken.retiredPast.contains f)

/-- R460: a die has quads of two hard partitions. -/
def dieShared (rs : List SliceRec) : Bool := anyTwo [0, 1, 2, 3] (fun h g => (recDies rs h).any (recDies rs g).contains)

/-- R460, R516: the causes of status 2, but for the root registers (log entry 50). -/
def configBad (s : State) : Bool :=
  let rs := slicesOf s
  let en := rs.filter (·.en)
  let sp := spansOf s
  !([0, 1, 2, 3].all (fun h => connected (recDies rs h))) || dieShared rs ||
  anyTwo en (fun a b => masksMeet a.quads b.quads || masksMeet a.mscw b.mscw) ||
  anyTwo sp (fun a b => meetRanges a.base (65536 * a.n) b.base (65536 * b.n)) ||
  anyTwo ((ofKind s 2).map vfRange) (fun a b => meetRanges a.1 a.2 b.1 b.2) || sp.any (spanWrong s rs) ||
  (ofKind s 3).any (fun x => decide (bits x 223 160 % 65536 ≠ 0) || decide (2 ^ 57 < bits x 223 160 + 65536 * bits x 159 128)) ||
  (ofKind s 6).any (fun x => !(rs.getD (sliceIdx x) {}).en)

/-- R516 step 1: the registers of the edges of some dies, locked. -/
def setEdges (s : State) (ds : List Nat) : State :=
  let es := ofKind s 5
  updKen s (fun k => { k with edges := k.edges.mapIdx (fun n e =>
    if !ds.contains (n / 2) then e else
    match es.reverse.find? (fun x => decide (bits x 9 8 * 2 + bits x 16 16 = n)) with
    | none => { ctl := 2 }
    | some x => { ctl := if bits x 33 32 = bits x 41 40 then 3 else 2, part := BitVec.ofNat 32 (bits x 33 32 + 256 * bits x 41 40) }) })

/-- R516 steps 2 and 3: the root of a slice partition. -/
def rootOf (s : State) (n : Nat) (r : SliceRec) : Ctx :=
  let b := ((ofKind s 2).find? (fun x => decide (sliceIdx x = n))).getD 0
  let s2 := ((ofKind s 3).filter (fun x => decide (sliceIdx x = n))).map (fun x =>
    ({ page := bits x 223 160 / 65536, n := bits x 159 128, frame := bits x 127 64 / 65536, r := bit x 224, w := bit x 225,
       x := bit x 226 } : S2))
  { gen := 1, st := .running, root := true, quads := r.quads
    dies := (List.range 4).filter (fun d => decide (r.quads.getD d 0 ≠ 0) && (s.ken.dies.getD d {}).up)
    frames := sumNat (s2.map (·.n)), sbank := 64, ceil := 47, queues := bits b 63 32, callow := bits b 79 64
    vfs := (List.range (vfRange b).2).map ((vfRange b).1 + ·), tshare := 4096, s2 := s2, part := n }

/-- R516 steps 2 and 3: the roots of the enabled slice records of some hard partitions. -/
def makeRoots (s : State) (hs : List Nat) : State :=
  (List.range 32).foldl (fun t n =>
    let r := s.ken.slices.getD n {}
    if r.en ∧ hs.contains r.hard then { t with ctxs := mset t.ctxs n (rootOf s n r) } else t) s

/-- R516 step 5, R521: the root registers of some hard partitions, and whether every write gave status 0. -/
def writeRoots (s : State) (hs : List Nat) : Bool × State :=
  ((ofKind s 6).filter (fun x => hs.contains (bits x 9 8))).foldl (fun (p : Bool × State) x =>
    let (st, t) := writeSys p.2 (sliceIdx x) (bits x 63 32) (BitVec.ofNat 64 (bits x 127 64))
    (p.1 && decide (st = 0), t)) (true, s)

/-- R471: the fabric windows as the owner configures them. -/
def ownWindows (s : State) : Map FWin :=
  (List.range 16).filterMap (fun w => (Config.fabricWindow s.choice w).map (fun x =>
    (w, { peer := x.1, base := x.2.1, len := x.2.2.1, links := x.2.2.2.1, tenant := x.2.2.2.2 })))

/-- R516: the partitions of a configuration, with whether it is accepted. -/
def commitAll (s : State) : Bool × State :=
  if configBad s then (false, s) else
  let rs := slicesOf s
  let t := updKen (setEdges s [0, 1, 2, 3]) (fun k => { k with
    slices := rs, committed := true, phase := .running, windows := ownWindows s
    exposed := (List.range 4).map (Config.exposedRange s.choice)
    reserve := (ofKind s 4).flatMap (fun x => (List.range (bits x 159 128)).map (fun n => (bits x 9 8, bits x 127 64 / 65536 + n))) })
  writeRoots (makeRoots t [0, 1, 2, 3]) [0, 1, 2, 3]

/-- R516: COMMIT. -/
def execCommit (r : Mbx) (s : State) : Out :=
  command 0x09 false r s (fun t =>
    if t.ken.phase ≠ .awaitCommit ∨ t.ken.committed then (1, 0, t) else
    let (ok, u) := commitAll t
    if ok then (0, 0, u) else (2, 0, t))

/-! ### HRESET and SLICESET (R511) -/

/-- R2: the compute dies of some contexts keep nothing of theirs over a reset: no code, no translation. -/
def forgetCode (s : State) (cs : List Nat) : State :=
  { s with icache := dropOlds s.icache (fun _ _ n => cs.contains (n % 4096)) }

/-- R511: the contexts of a hard partition and all that is theirs are gone; numbers of descendants become Free. -/
def clearHard (s : State) (h : Nat) : State :=
  let cs := hardCtxs s h
  let kids := cs.filter (fun c => !(ctxD s c).root)
  let t := endProfiles (dropTickets (dropBlocks s cs) cs) cs
  let u := (t.mappings.filter (fun p => cs.contains p.2.ctx)).foldl (fun v p => deleteMapping v p.1 false) t
  let v := failTdis (forgetCode (dropTlb u cs) cs) (cs.flatMap (fun c => (ctxD s c).vfs))
  { kids.foldl (fun w c => updCtx w c (fun x => freeCtx x x.part)) v with
    freed := v.freed ++ ascending kids, migs := v.migs.filter (fun m => !(namers v m.frame).all (cs.contains ·)) }

/-- R498: every frame retired since package reset keeps its spare: a leaf of a rebuilt partition that would name the one names the
other. -/
def keepSpares (s : State) : State := s.ken.moved.foldl (fun t p => repoint t p.1 p.2 (fun _ x => x)) s

/-- R511, R500, R509: the compute dies of a hard partition are reset, and its partitions rebuilt from the configuration. -/
def hardReset (s : State) (h : Nat) : State :=
  let ds := hardDies s h
  let t := clearHard s h
  let u := updKen (setEdges (resetDies t ds) ds) (fun k => { k with
    hstops := k.hstops.filter (· != h), migconf := k.migconf.filter (fun p => p.1 / 8 != h)
    slices := k.slices.mapIdx (fun n r => if r.hard = h then (slicesOf s).getD n r else r)
    linksDown := k.linksDown.filter (fun l => match l with
      | .edge d _ => !ds.contains d
      | _ => true) })
  (writeRoots (keepSpares (makeRoots u [h])) [h]).2

/-- R511: HRESET. -/
def execHreset (r : Mbx) (s : State) : Out :=
  command 0x0E false r s (fun t =>
    let h := ops r 65 64
    if !t.ken.committed then (1, 0, t)
    else if (hardDies t h).isEmpty then (2, 0, t)
    else (0, 0, hardReset t h))

/-- R511, R462: SLICESET; its operands are those of log entry 31. -/
def execSliceset (r : Mbx) (s : State) : Out :=
  command 0x0F false r s (fun t =>
    let n := ops r 65 64 * 8 + ops r 68 66
    let x := t.ken.slices.getD n {}
    let ways := (List.range 4).map (fun d => ops r (128 + 16 * d + 15) (128 + 16 * d))
    if !t.ken.committed then (1, 0, t)
    else if !x.en ∨ (List.range 32).any (fun k =>
        decide (k ≠ n) && (t.ken.slices.getD k {}).en && masksMeet ways (t.ken.slices.getD k {}).mscw)
      then (2, 0, t)
    else (0, 0, updKen t (fun k => { k with slices := k.slices.set n { x with mscw := ways, misscap := ops r 79 72 } })))

/-! ### ROOTSR (R521) -/

/-- R521: ROOTSR. -/
def rootsr (r : Mbx) (s : State) : Out :=
  command 0x15 false r s (fun t =>
    let n := ops r 65 64 * 8 + ops r 68 66
    let sel := ops r 127 96
    if !t.ken.committed then (1, 0, t)
    else if ops r 71 69 ≠ 0 ∨ ops r 95 73 ≠ 0 ∨ ops r 511 192 ≠ 0 ∨ sel / 2 ^ 28 ≠ 0 ∨ !(t.ken.slices.getD n {}).en then (2, 0, t)
    else if ops r 72 72 = 1 then
      let (st, u) := writeSys t n sel (BitVec.ofNat 64 (ops r 191 128))
      (0, res 64 st, u)
    else match readSys t n sel with
      | some v => (0, res 128 v, t)
      | none => (0, res 64 4, t))

/-- R521: ROOTSR with W = 1, which its operands select. -/
def execRootsrWrite (r : Mbx) (s : State) : Out := rootsr r s
/-- R521: ROOTSR with W = 0, which its operands select. -/
def execRootsrRead (r : Mbx) (s : State) : Out := rootsr r s

/-! ### MTRAP (R512) -/

/-- R512: the outstanding ticket that the owner holds. -/
def ownerTicket (s : State) (id : Nat) : Option Ticket := (mget s.tickets id).filter (fun t => t.holder.isNone)

/-- R512: the number of the owner-held ticket that follows a place in issue order; 0 where none does. -/
def nextTicket' (s : State) (id : Nat) : Nat :=
  ((s.tickets.filter (fun p => p.2.holder.isNone && decide (id < p.1))).map (·.2.num)).headD 0

/-- R512: the record of a ticket in the master's window. -/
def showRecord (s : State) (m : Nat) (t : Ticket) : State :=
  updKen s (fun k => { k with mbox := k.mbox.modify m (fun b => { b with
    win := wordBytes t.words ++ b.win.drop 128
    req := BitVec.ofNat 512 (b.req.toNat / 2 ^ 64 * 2 ^ 64 + 128 * 2 ^ 32 + b.req.toNat % 2 ^ 32) }) })

/-- R512: MTRAP up to its action: the state, its status and RES. -/
def mtrapDo (t : State) (r : Mbx) : Nat × Nat × State :=
  let id := ticketKey t (ops r 127 96)
  match ops r 67 64 with
  | 3 => (0, res 64 (nextTicket' t id), t)
  | a =>
    match ownerTicket t id with
    | none => (2, 0, t)
    | some k =>
      match a with
      | 0 => (0, 0, resumeTicket t id)
      | 1 => if (ctxD t k.ctx).root then (1, 0, t)
        else (0, 0, if (ctxD t k.ctx).st = .revoking then t else startRevoke t k.ctx)
      | 2 => (0, 0, t)
      | _ => (2, 0, t)

/-- R512: MTRAP; a read that is performed also fills the window. -/
def mtrap (r : Mbx) (s : State) : Out :=
  event s (fun t =>
    if !mailboxOpen t r.m then t else
    match unknownCmd r with
    | some c => answer t r (c % 65536) 4 0
    | none =>
    match turnedAway t r 0x14 false with
    | some st => answer t r 0x14 st 0
    | none =>
      let (st, rs, u) := mtrapDo t r
      let v := answer u r 0x14 st rs
      if ops r 67 64 = 2 then ((ownerTicket t (ticketKey t (ops r 127 96))).map (showRecord v r.m)).getD v else v)

/-- R512: MTRAP with action 0, which its operands select. -/
def execMtrapResume (r : Mbx) (s : State) : Out := mtrap r s
/-- R512: MTRAP with action 1, which its operands select. -/
def execMtrapEnd (r : Mbx) (s : State) : Out := mtrap r s
/-- R512: MTRAP with action 2, which its operands select. -/
def execMtrapRead (r : Mbx) (s : State) : Out := mtrap r s
/-- R512: MTRAP with action 3, which its operands select. -/
def execMtrapNext (r : Mbx) (s : State) : Out := mtrap r s

/-! ### Migration commands (R470) -/

/-- R470: the context of a command and its first page, by log entry 31; none where the name is not current. -/
def pageOps (s : State) (r : Mbx) : Option (Nat × Nat) :=
  let name := ops r 159 128
  let a := ops r 127 64
  if current s name ∧ a % 65536 = 0 then some (name % 4096, a / 65536) else none

/-- R470: MIGDECL and MIGUNDECL. -/
def migSet (cmd : Nat) (v : Bool) (r : Mbx) (s : State) : Out :=
  command cmd false r s (fun t =>
    match pageOps t r with
    | none => (2, 0, t)
    | some (c, p) =>
      let ps := (List.range (ops r 191 160)).map (p + ·)
      if ps.isEmpty ∨ ps.any (fun q => (leafAt t c q).isNone) then (2, 0, t)
      else
        let u := if v then invalidate t [c] (ps.filterMap (frameOf t c)) else t
        (0, 0, ps.foldl (fun w q => updLeaf w c q (fun e => { e with
          migr := v, valid := e.valid && !(v && isHost (e.frame * 65536)) })) u))

/-- R470: MIGDECL. -/
def execMigdecl (r : Mbx) (s : State) : Out := migSet 0x10 true r s
/-- R470: MIGUNDECL. -/
def execMigundecl (r : Mbx) (s : State) : Out := migSet 0x11 false r s

/-- R444: the host wins against the device's request for a page: the page is mapped where it lies. -/
def hostWins (s : State) (c f : Nat) : State :=
  countConflict (mapRemote (updMig s f (fun m => { m with
    want := false, granted := false, hostHas := true, remote := true, devHold := true, till := s.uclk + holdOff })) f true) c

/-- R444, R470: MIGREQ: the device's request that stands wins, and the host holds off, but a request of the same uclk loses; else the
host's is taken. -/
def execMigreq (r : Mbx) (s : State) : Out :=
  command 0x12 false r s (fun t =>
    match (pageOps t r).bind (fun q => (leafAt t q.1 q.2).map (fun e => (q, e))) with
    | none => (2, 0, t)
    | some ((c, _), e) =>
      let m := migOf t e.frame
      if !e.migr then (2, 0, t)
      else if m.hostHold then (1, 0, t)
      else if m.want ∧ m.wantAt = t.uclk then (0, 0, hostWins t c e.frame)
      else if m.want then (1, 0, countConflict (updMig t e.frame (fun m => { m with hostHold := true, till := t.uclk + holdOff })) c)
      else (0, 0, updMig t e.frame (fun m => { m with hostHas := true })))

/-- R442, R470: MIGGRANT. -/
def execMiggrant (r : Mbx) (s : State) : Out :=
  command 0x13 false r s (fun t =>
    match (pageOps t r).bind (fun q => leafAt t q.1 q.2) with
    | none => (2, 0, t)
    | some e =>
      if e.migr ∧ (migOf t e.frame).want then (0, 0, updMig t e.frame (fun m => { m with granted := true })) else (2, 0, t))

end Sys2Proof.Machine
end

