-- ==== Sys2Proof/Machine/Attest.lean ====
section
/-!
DEFINITION. Identity and attestation: SPDM (R518) and TDISP (R427).
-/

namespace Sys2Proof.Machine

/-! ### SPDM (R518) -/

/-- R518: the connection and session of a requester. -/
def spdmD (s : State) (m : Nat) : Spdm := s.ken.spdm.getD m {}

/-- The state with a requester's SPDM state changed. -/
def updSpdm (s : State) (m : Nat) (g : Spdm → Spdm) : State := updKen s (fun k => { k with spdm := k.spdm.modify m g })

/-- R505: SPDM is answered from step 4 of bring-up. -/
def spdmOpen (s : State) (m : Nat) : Bool := mailboxOpen s m && decide (s.ken.phase ≠ .recovery) && decide (s.ken.phase ≠ .fatal)

/-- The answer to a request out of its turn: one byte of log entry 32. -/
def spdmRefuse (x : Spdm) : Spdm := { x with resp := [0x7F] }

/-- R518: a request of a master: what it does where a condition on its SPDM state holds. -/
def spdmDo (m : Nat) (s : State) (ok : Spdm → Bool) (g : State → Spdm → Spdm) : Out :=
  event s (fun t => if !spdmOpen t m then t else updSpdm t m (fun x => if ok x then g t x else spdmRefuse x))

/-- R518: GET_VERSION: SPDM 1.3; the connection starts anew. -/
def execGetVersion (r : SpdmReq) (s : State) : Out :=
  spdmDo r.m s (fun _ => true) (fun _ _ => { version := true, resp := [0x13] })

/-- R518: GET_CAPABILITIES. -/
def execGetCapabilities (r : SpdmReq) (s : State) : Out :=
  spdmDo r.m s (·.version) (fun _ x => { x with resp := Config.spdmCaps })

/-- R518: the algorithms offered, each by a byte of log entry 32: SHA3-512, ML-DSA-87, ML-KEM-1024, AES-256-GCM. -/
def algorithms : List Byte := [1, 2, 3, 4]

/-- R518: NEGOTIATE_ALGORITHMS. -/
def execNegotiateAlgorithms (r : SpdmReq) (s : State) : Out :=
  spdmDo r.m s (·.version) (fun _ x => { x with algs := true, resp := algorithms })

/-- R518: the certificate chain of slot 0 or 1. -/
def chainOf (s : State) (slot : Nat) : List Byte :=
  if slot = 0 then Config.identityChain else Config.aliasChain (Config.sha3 s.ken.booted)

/-- R518: a signature with the key of slot 0 or 1. -/
def signOf (s : State) (slot : Nat) (msg : List Byte) : List Byte :=
  if slot = 0 then Config.identitySign msg else Config.aliasSign (Config.sha3 s.ken.booted) msg

/-- R518: GET_DIGESTS: the digests of the chains of slots 0 and 1. -/
def execGetDigests (r : SpdmReq) (s : State) : Out :=
  spdmDo r.m s (·.algs) (fun t x => { x with resp := Config.sha3 (chainOf t 0) ++ Config.sha3 (chainOf t 1) })

/-- R518: GET_CERTIFICATE of slot 0 or 1. -/
def execGetCertificate (r : SpdmReq) (s : State) : Out :=
  spdmDo r.m s (fun x => x.algs && decide (r.idx < 2)) (fun t x => { x with resp := chainOf t r.idx })

/-- R518: CHALLENGE of slot 0 or 1. -/
def execChallenge (r : SpdmReq) (s : State) : Out :=
  spdmDo r.m s (fun x => x.algs && decide (r.idx < 2)) (fun t x => { x with resp := signOf t r.idx r.data })

/-- R518: the repair log and the disabled cores of each die as bytes. -/
def repairBytes (s : State) : List Byte :=
  s.ken.repairLog.flatMap (fun p => natLe 8 p.1 ++ natLe 8 p.2) ++
  s.ken.dies.flatMap (fun d => natLe 8 (2 ^ 64 - 1 - d.cores % 2 ^ 64))

/-- R518: a measurement. -/
def measurement (s : State) (k : Nat) : List Byte :=
  match k with
  | 1 => Config.romDigest
  | 2 => Config.sha3 s.ken.booted
  | 3 => natLe 4 (imageNum s.ken.booted 4 4)
  | 4 => repairBytes s
  | 5 => if s.ken.committed then Config.sha3 s.ken.config.flatten else List.replicate 64 0
  | _ => []

/-- R518: GET_MEASUREMENTS of an index 1 to 5. -/
def execGetMeasurements (r : SpdmReq) (s : State) : Out :=
  spdmDo r.m s (fun x => x.algs && decide (1 ≤ r.idx) && decide (r.idx ≤ 5)) (fun t x => { x with resp := measurement t r.idx })

/-- R518: KEY_EXCHANGE. -/
def execKeyExchange (r : SpdmReq) (s : State) : Out :=
  spdmDo r.m s (·.algs) (fun _ x => { x with keyed := true, finished := false, keyGen := 0, beats := 0, resp := Config.kemReply r.data })

/-- R518: FINISH. -/
def execFinish (r : SpdmReq) (s : State) : Out :=
  spdmDo r.m s (fun x => x.keyed && Config.finishOk r.data) (fun _ x => { x with finished := true, resp := [] })

/-- R518: HEARTBEAT. -/
def execHeartbeat (r : SpdmReq) (s : State) : Out :=
  spdmDo r.m s (·.finished) (fun _ x => { x with beats := x.beats + 1, resp := [] })

/-- R518: KEY_UPDATE. -/
def execKeyUpdate (r : SpdmReq) (s : State) : Out :=
  spdmDo r.m s (·.finished) (fun _ x => { x with keyGen := x.keyGen + 1, resp := [] })

/-- R518: END_SESSION. -/
def execEndSession (r : SpdmReq) (s : State) : Out :=
  spdmDo r.m s (·.finished) (fun _ x => { x with keyed := false, finished := false, resp := [] })

/-! ### TDISP (R427) -/

/-- R427: the requester in whose SPDM session a TDISP request travels. -/
def tdispVia (s : State) : Option Nat := (List.range 4).find? (fun m => spdmOpen s m && (spdmD s m).finished)

/-- R427: a TDISP request of a virtual function, within a session: the states it is taken in, and its answer. -/
def tdisp (vf : Nat) (s : State) (ok : TdiSt → Bool) (g : State → State) (resp : State → List Byte) : Out :=
  event s (fun t => match tdispVia t with
    | none => t
    | some m =>
      if 1024 ≤ vf ∨ !ok (mgetD t.ken.tdis vf .unlocked) then updSpdm t m spdmRefuse
      else let u := g t; updSpdm u m (fun x => { x with resp := resp u }))

/-- The state with a TDI's state set. -/
def setTdi (vf : Nat) (x : TdiSt) (s : State) : State := updKen s (fun k => { k with tdis := mset k.tdis vf x })

/-- R427: the code of a TDI state. -/
def tdiCode (x : TdiSt) : Byte :=
  match x with
  | .unlocked => 0
  | .locked => 1
  | .run => 2
  | .error => 3

/-- R427: GET_TDISP_VERSION: TDISP 1.0. -/
def execGetTdispVersion (vf : Nat) (s : State) : Out := tdisp vf s (fun _ => true) id (fun _ => [0x10])
/-- R427: GET_TDISP_CAPABILITIES: the requests that the device accepts. -/
def execGetTdispCapabilities (vf : Nat) (s : State) : Out := tdisp vf s (fun _ => true) id (fun _ => [0x7F, 0])
/-- R427: LOCK_INTERFACE_REQUEST. -/
def execLockInterfaceRequest (vf : Nat) (s : State) : Out :=
  tdisp vf s (fun x => decide (x = .unlocked)) (setTdi vf .locked) (fun _ => [])
/-- R427: GET_DEVICE_INTERFACE_REPORT, of a locked or running TDI. -/
def execGetDeviceInterfaceReport (vf : Nat) (s : State) : Out :=
  tdisp vf s (fun x => decide (x = .locked) || decide (x = .run)) id (fun _ => Config.tdiReport vf)
/-- R427: GET_DEVICE_INTERFACE_STATE. -/
def execGetDeviceInterfaceState (vf : Nat) (s : State) : Out :=
  tdisp vf s (fun _ => true) id (fun t => [tdiCode (mgetD t.ken.tdis vf .unlocked)])
/-- R427: START_INTERFACE_REQUEST. -/
def execStartInterfaceRequest (vf : Nat) (s : State) : Out :=
  tdisp vf s (fun x => decide (x = .locked)) (setTdi vf .run) (fun _ => [])
/-- R427: STOP_INTERFACE_REQUEST. -/
def execStopInterfaceRequest (vf : Nat) (s : State) : Out :=
  tdisp vf s (fun _ => true) (setTdi vf .unlocked) (fun _ => [])

end Sys2Proof.Machine
end

