-- ==== Sys2Proof/Machine/Walker.lean ====
section
/-!
DEFINITION. The walker (R418, R422, R424): the TLBs of the cores and of the shape-walk engine, the walkers' own entries, and how far the
engine walks ahead (R425).
-/

namespace Sys2Proof.Machine

/-! ### Cached translations (R422) -/

/-- R419: the size of the largest page of a range of a stage 2, of those of R416, that holds an intermediate page and lies wholly
in the range. -/
def leafSize (e : S2) (page : Nat) : Nat :=
  let fits (n : Nat) : Bool :=
    let p := page / n * n
    decide (e.page ≤ p) && decide (p + n ≤ e.page + e.n) && decide ((e.frame + (p - e.page)) % n = 0)
  if fits 16384 then 2 ^ 30 else if fits 32 then 2 ^ 21 else 2 ^ 16

/-- R422: the composed translation that a holder caches of the page that both stages share, of 64 KiB, 2 MiB or 1 GiB; none where
the walk fails. -/
def walkEntry (s : State) (who c va : Nat) (k : AccKind) : Option Tlb :=
  let x := ctxD s c
  match walk s c (if who = shapeWho then none else some (who / 64)) va k, stage1 s c va k with
  | .ok pa, .ok l =>
    (leafOf x (l.ia / 65536)).map (fun e =>
      let n := min l.size (leafSize e (l.ia / 65536))
      { core := who, name := ctxName s c, va := va / n * n, size := n, pa := pa / n * n, rid := e.rid,
        r := l.r && e.r, w := l.w && e.w, x := l.x && e.x, nodes := l.nodes })
  | _, _ => none

/-- R422, R425: the entries of a holder's TLB. -/
def tlbSize (who : Nat) : Nat := if who = shapeWho then 8192 else 1024

/-- R422: an entry joins a holder's TLB; of a full one the oldest goes. -/
def addTlb (l : List Tlb) (t : Tlb) : List Tlb :=
  let rest := l.filter (fun u => !(u.core == t.core && u.name == t.name && u.va == t.va))
  if tlbSize t.core ≤ (rest.filter (fun u => u.core == t.core)).length then
    match rest.find? (fun u => u.core == t.core) with
    | some v => rest.erase v ++ [t]
    | none => rest ++ [t]
  else rest ++ [t]

/-- R422: what the walkers keep of a walk: the stage-1 entries that it has read, and the stage-2 leaves behind their addresses and behind
the page itself. `nodes` lists the physical addresses of the entries from the leaf, which ends the walk at a page size, up to the root. -/
def keepNodes (s : State) (c va : Nat) (k : AccKind) (nodes : List Nat) : List WalkNode :=
  let n := nodes.length
  let spread (lvl : Nat) (pa val : Nat) (s2 : Bool) : WalkNode :=
    { name := ctxName s c, pa := pa, val := val, va := va / pageSize lvl * pageSize lvl, size := pageSize lvl, s2 := s2 }
  let one := (List.range n).map (fun j => spread (5 - n + j) (nodes.getD j 0) (nodeWord s c (nodes.getD j 0)).1 false)
  let reads := readsOf s c va k
  let two := (List.range reads.length).map (fun j =>
    let ia := (reads.getD j (0, 0)).1
    spread (max (4 - j) (5 - n)) (ia / 65536 * 65536) (leafCode (ctxD s c) ia) true)
  let new := one ++ two.filter (fun h => !one.contains h)
  s.wcache.filter (fun h => !new.any (fun g => g.name == h.name && g.pa == h.pa && g.s2 == h.s2)) ++ new

/-! ### Walking ahead (R425) -/

/-- R425: the page of an address as a walk finds it: its base and size. -/
def pageAt (s : State) (c va : Nat) (k : AccKind) : Nat × Nat :=
  match walkEntry s shapeWho c va k with
  | some t => (t.va, t.size)
  | none => (va / 65536 * 65536, 65536)

/-- R425: the distinct pages that the units of a transfer reach, in their order, up to that of the oldest and 64 beyond it. `n` units
remain, the next of them `i`; `f` gives the addresses of a unit. -/
def aheadPages (s : State) (c : Nat) (k : AccKind) (f : Nat → List Nat) (n i : Nat) (acc : List (Nat × Nat)) : List (Nat × Nat) :=
  match n with
  | 0 => acc.take 65
  | m + 1 =>
    if 65 ≤ acc.length then acc.take 65 else
    aheadPages s c k f m (i + 1) ((f i).foldl (fun a va =>
      let p := pageAt s c va k
      if a.contains p then a else a ++ [p]) acc)

/-- R339, R425: the addresses that an element of a shape asks for: that of its row-map word, then its own. -/
def spotVas (s : State) (c : Nat) (h : Shape) (is : List Nat) : List Nat :=
  let own (js : List Nat) : List Nat := match h.spot js with
    | .at va _ => [va]
    | .absent => []
  if h.map = 0 then own is else
  let w := (h.map + 4 * is.getD 1 0) % 2 ^ 64
  match kWalk s c w 4 .read with
  | .ok pas =>
    let k := leNat (newBytes s (pas.headD 0) 4).1
    w :: (if dropped k h.mrows then [] else own (is.set 1 k))
  | .error _ => [w]

/-- R112, R425: the addresses of a unit of a declared copy. -/
def unitVas (s : State) (c : Nat) (d : Decl) (k : Nat) : List Nat :=
  match (copyUnit d.layout d.shape k).piece with
  | .elem is => spotVas s c d.shape is
  | .scale va => [va]
  | _ => []

/-- The newest bytes of a context's global range; none where it does not translate. -/
def peekBytes (s : State) (c va n : Nat) : Option (List Byte) :=
  match kWalk s c va n .read with
  | .ok pas => some (pas.map (fun pa => (newByte s pa).1))
  | .error _ => none

/-- A transfer that the shape-walk engine has before it: the units that remain, and the addresses of each. -/
structure Ahead where
  n : Nat
  vas : Nat → List Nat

/-- R425: the declared copies of a block that are under way. -/
def copyAhead (s : State) (x : Block) : List Ahead :=
  (x.handles.filter (fun h => decide (h.2.st = .filling) || decide (h.2.st = .draining))).map (fun h =>
    { n := copyCount h.2.decl.layout h.2.decl.shape - h.2.copied
      vas := fun j => unitVas s x.ctx h.2.decl (h.2.copied + j) })

/-- R340, R425: the tile that a KIND 1 record of a sequencer names, its shape record first. -/
def tileAhead (s : State) (b a : Nat) : List Ahead :=
  let i : Issue := { blk := b, seq := true }
  let r := mrec s i a
  let q := seqD s b
  if r.bad ∨ r.kind ≠ 1 ∨ r.shape % 64 ≠ 0 then [] else
  { n := 1, vas := fun _ => [r.shape] } ::
  (match peekBytes s (blkD s b).ctx r.shape 128 with
    | none => []
    | some bs =>
      let h := shapeOf bs
      let org := (qReg s i (a + 1)).toNat
      [{ n := q.m * q.n + 1
         vas := fun j =>
           if j = q.m * q.n then (if h.ver = 0 then [] else [h.ver]) else
           let co := org % 2 ^ 32 + j % q.n
           let ro := org / 2 ^ 32 + j / q.n
           if h.ext 0 ≤ co ∨ h.ext 1 ≤ ro then [] else
           spotVas s (blkD s b).ctx h (h.dims.mapIdx (fun d _ => if d = 0 then co else if d = 1 then ro else 0)) }])

/-- R302, R425: the table reads, the overflow entries and the shape records of an operation in flight. -/
def opAhead (s : State) (id : Nat) (o : Op) : List Ahead :=
  match o.kind with
  | .coll =>
    let d := cdescOf o.y
    { n := 2, vas := fun j => [if j = 0 then d.src else d.dst] } ::
    ((s.whistles.flatMap (fun w => (w.shapes.filter (fun p => p.1 == id)).flatMap (fun p => [p.2.1, p.2.2]))).map (fun h =>
      { n := h.count, vas := fun j => spotVas s o.ctx h (h.indexes j) }))
  | .bin =>
    let h := penHead s o.core o.x
    [{ n := o.elems.length, vas := fun j => [(h.ovf + 8 * (h.ovcnt + j)) % 2 ^ 64] }]
  | .embLoad | .embUpdate =>
    let els := match o.win.bind (mget s.windows) with
      | some w => w.elems
      | none => o.elems
    match peekBytes s o.ctx o.x 64 with
    | none => [{ n := 1, vas := fun _ => [o.x] }]
    | some bs =>
      let tb := tableOf bs
      [{ n := els.length + 1
         vas := fun j =>
           if j = 0 then [o.x] else
           let ea := (tb.popmap + 4 * (els.getD (j - 1) { lane := 0 }).val) % 2 ^ 64
           match peekBytes s o.ctx ea 4 with
           | none => [ea]
           | some ws =>
             let cls := leNat ws / 2 ^ 30
             let va := tb.bases.getD cls 0 + leNat ws % 2 ^ 30 * rowPitch cls tb.dim
             if 2 ^ 64 ≤ va then [ea] else [ea, va] }]
  | _ => []

/-- R425: the transfers that the engine has before it for a context. -/
def engineAhead (s : State) (c : Nat) : List Ahead :=
  (s.blocks.filter (fun p => p.2.ctx == c && p.2.resident)).flatMap (fun p =>
    copyAhead s p.2 ++ (match p.2.seqr with
      | some q => if q.st = .running then (List.range 31).flatMap (tileAhead s p.1) else []
      | none => [])) ++
  (s.ops.filter (fun p => p.2.ctx == c)).flatMap (fun p => opAhead s p.1 p.2)

/-- R425: an address lies on one of the pages that the engine may walk now. -/
def walksAhead (s : State) (c va : Nat) (k : AccKind) : Bool :=
  (engineAhead s c).any (fun a => (aheadPages s c k a.vas a.n 0 []).any (fun p => decide (p.1 ≤ va) && decide (va < p.1 + p.2)))

/-- R422, R425: a holder of a TLB translates an address for a context: a core that its blocks hold, or the shape-walk engine for a page
within its reach. -/
def walksFor (s : State) (c who va : Nat) (k : AccKind) : Bool :=
  if who = shapeWho then walksAhead s c va k else ctxOnCore s c who

/-- R418, R422: a walk for a miss of a TLB. -/
def walkMiss (s : State) (who c va : Nat) (k : AccKind) : State :=
  if (ctxD s c).st = .free ∨ (ctxD s c).st = .revoking ∨ !canonical va ∨ !walksFor s c who va k then s else
  match walkEntry s who c va k with
  | some t => { s with tlb := addTlb s.tlb t, wcache := keepNodes s c va k t.nodes }
  | none => s

/-- R418: TLB_MISS_WALK. -/
def execTlbMissWalk (core ctx : Nat) (va : DWord) (kind : AccKind) (s : State) : Out :=
  event s (fun t => walkMiss t core ctx va.toNat kind)

end Sys2Proof.Machine
end

