-- ==== Sys2Proof/Machine/Dispatch.lean ====
section
/-!
DEFINITION. One arm per constructor of `Instr`.
-/

namespace Sys2Proof.Machine

/-- The meaning of every row of the opcode table. -/
def exec (i : Instr) (s : State) : Host.Outcome State Fault Refusal :=
  match i with
  | .iadd r => Sys2Proof.Machine.execIadd r s
  | .isub r => Sys2Proof.Machine.execIsub r s
  | .iadds r => Sys2Proof.Machine.execIadds r s
  | .isubs r => Sys2Proof.Machine.execIsubs r s
  | .iaddns r => Sys2Proof.Machine.execIaddns r s
  | .isubns r => Sys2Proof.Machine.execIsubns r s
  | .iabsd r => Sys2Proof.Machine.execIabsd r s
  | .ineg r => Sys2Proof.Machine.execIneg r s
  | .iaddi r => Sys2Proof.Machine.execIaddi r s
  | .irsubi r => Sys2Proof.Machine.execIrsubi r s
  | .imul r => Sys2Proof.Machine.execImul r s
  | .imulhi r => Sys2Proof.Machine.execImulhi r s
  | .imulhin r => Sys2Proof.Machine.execImulhin r s
  | .imulw r => Sys2Proof.Machine.execImulw r s
  | .imulwn r => Sys2Proof.Machine.execImulwn r s
  | .imad r => Sys2Proof.Machine.execImad r s
  | .imadw r => Sys2Proof.Machine.execImadw r s
  | .imadwn r => Sys2Proof.Machine.execImadwn r s
  | .idiv r => Sys2Proof.Machine.execIdiv r s
  | .idivn r => Sys2Proof.Machine.execIdivn r s
  | .irem r => Sys2Proof.Machine.execIrem r s
  | .iremn r => Sys2Proof.Machine.execIremn r s
  | .add64 r => Sys2Proof.Machine.execAdd64 r s
  | .sub64 r => Sys2Proof.Machine.execSub64 r s
  | .neg64 r => Sys2Proof.Machine.execNeg64 r s
  | .icmp64Eq r => Sys2Proof.Machine.execIcmp64Eq r s
  | .icmp64Lt r => Sys2Proof.Machine.execIcmp64Lt r s
  | .icmp64Ltn r => Sys2Proof.Machine.execIcmp64Ltn r s
  | .mov64 r => Sys2Proof.Machine.execMov64 r s
  | .lea r => Sys2Proof.Machine.execLea r s
  | .lean r => Sys2Proof.Machine.execLean r s
  | .and r => Sys2Proof.Machine.execAnd r s
  | .or r => Sys2Proof.Machine.execOr r s
  | .xor r => Sys2Proof.Machine.execXor r s
  | .andn r => Sys2Proof.Machine.execAndn r s
  | .orn r => Sys2Proof.Machine.execOrn r s
  | .xnor r => Sys2Proof.Machine.execXnor r s
  | .not r => Sys2Proof.Machine.execNot r s
  | .mov r => Sys2Proof.Machine.execMov r s
  | .andi r => Sys2Proof.Machine.execAndi r s
  | .ori r => Sys2Proof.Machine.execOri r s
  | .xori r => Sys2Proof.Machine.execXori r s
  | .movi r => Sys2Proof.Machine.execMovi r s
  | .shl r => Sys2Proof.Machine.execShl r s
  | .shr r => Sys2Proof.Machine.execShr r s
  | .sar r => Sys2Proof.Machine.execSar r s
  | .rotl r => Sys2Proof.Machine.execRotl r s
  | .rotr r => Sys2Proof.Machine.execRotr r s
  | .shl64 r => Sys2Proof.Machine.execShl64 r s
  | .shr64 r => Sys2Proof.Machine.execShr64 r s
  | .sar64 r => Sys2Proof.Machine.execSar64 r s
  | .shli r => Sys2Proof.Machine.execShli r s
  | .shri r => Sys2Proof.Machine.execShri r s
  | .sari r => Sys2Proof.Machine.execSari r s
  | .rotli r => Sys2Proof.Machine.execRotli r s
  | .rotri r => Sys2Proof.Machine.execRotri r s
  | .shli64 r => Sys2Proof.Machine.execShli64 r s
  | .shri64 r => Sys2Proof.Machine.execShri64 r s
  | .sari64 r => Sys2Proof.Machine.execSari64 r s
  | .popc r => Sys2Proof.Machine.execPopc r s
  | .clz r => Sys2Proof.Machine.execClz r s
  | .ctz r => Sys2Proof.Machine.execCtz r s
  | .brev r => Sys2Proof.Machine.execBrev r s
  | .sext8 r => Sys2Proof.Machine.execSext8 r s
  | .sext16 r => Sys2Proof.Machine.execSext16 r s
  | .zext8 r => Sys2Proof.Machine.execZext8 r s
  | .zext16 r => Sys2Proof.Machine.execZext16 r s
  | .bfx r => Sys2Proof.Machine.execBfx r s
  | .bfxi r => Sys2Proof.Machine.execBfxi r s
  | .bfi r => Sys2Proof.Machine.execBfi r s
  | .imin r => Sys2Proof.Machine.execImin r s
  | .imax r => Sys2Proof.Machine.execImax r s
  | .iminn r => Sys2Proof.Machine.execIminn r s
  | .imaxn r => Sys2Proof.Machine.execImaxn r s
  | .icmp r => Sys2Proof.Machine.execIcmp r s
  | .icmpi r => Sys2Proof.Machine.execIcmpi r s
  | .sel r => Sys2Proof.Machine.execSel r s
  | .fadd r => Sys2Proof.Machine.execFadd r s
  | .fsub r => Sys2Proof.Machine.execFsub r s
  | .fmul r => Sys2Proof.Machine.execFmul r s
  | .fmin r => Sys2Proof.Machine.execFmin r s
  | .fmax r => Sys2Proof.Machine.execFmax r s
  | .fminp r => Sys2Proof.Machine.execFminp r s
  | .fmaxp r => Sys2Proof.Machine.execFmaxp r s
  | .faddx r => Sys2Proof.Machine.execFaddx r s
  | .fsubx r => Sys2Proof.Machine.execFsubx r s
  | .fmulx r => Sys2Proof.Machine.execFmulx r s
  | .ffma r => Sys2Proof.Machine.execFfma r s
  | .frcp r => Sys2Proof.Machine.execFrcp r s
  | .frsq r => Sys2Proof.Machine.execFrsq r s
  | .fsqrt r => Sys2Proof.Machine.execFsqrt r s
  | .fex2 r => Sys2Proof.Machine.execFex2 r s
  | .flg2 r => Sys2Proof.Machine.execFlg2 r s
  | .fsin r => Sys2Proof.Machine.execFsin r s
  | .fcos r => Sys2Proof.Machine.execFcos r s
  | .ftanh r => Sys2Proof.Machine.execFtanh r s
  | .fcmpEq r => Sys2Proof.Machine.execFcmpEq r s
  | .fcmpNe r => Sys2Proof.Machine.execFcmpNe r s
  | .fcmpLt r => Sys2Proof.Machine.execFcmpLt r s
  | .fcmpLe r => Sys2Proof.Machine.execFcmpLe r s
  | .fcmpUn r => Sys2Proof.Machine.execFcmpUn r s
  | .fclass r => Sys2Proof.Machine.execFclass r s
  | .dadd r => Sys2Proof.Machine.execDadd r s
  | .dsub r => Sys2Proof.Machine.execDsub r s
  | .dmul r => Sys2Proof.Machine.execDmul r s
  | .dmin r => Sys2Proof.Machine.execDmin r s
  | .dmax r => Sys2Proof.Machine.execDmax r s
  | .dfma r => Sys2Proof.Machine.execDfma r s
  | .dsqrt r => Sys2Proof.Machine.execDsqrt r s
  | .drcp r => Sys2Proof.Machine.execDrcp r s
  | .drsq r => Sys2Proof.Machine.execDrsq r s
  | .hadd2 r => Sys2Proof.Machine.execHadd2 r s
  | .hsub2 r => Sys2Proof.Machine.execHsub2 r s
  | .hmul2 r => Sys2Proof.Machine.execHmul2 r s
  | .hmin2 r => Sys2Proof.Machine.execHmin2 r s
  | .hmax2 r => Sys2Proof.Machine.execHmax2 r s
  | .badd2 r => Sys2Proof.Machine.execBadd2 r s
  | .bsub2 r => Sys2Proof.Machine.execBsub2 r s
  | .bmul2 r => Sys2Proof.Machine.execBmul2 r s
  | .bmin2 r => Sys2Proof.Machine.execBmin2 r s
  | .bmax2 r => Sys2Proof.Machine.execBmax2 r s
  | .hfma2 r => Sys2Proof.Machine.execHfma2 r s
  | .bfma2 r => Sys2Proof.Machine.execBfma2 r s
  | .hdot2 r => Sys2Proof.Machine.execHdot2 r s
  | .bdot2 r => Sys2Proof.Machine.execBdot2 r s
  | .cvt r => Sys2Proof.Machine.execCvt r s
  | .frnd r => Sys2Proof.Machine.execFrnd r s
  | .pack8 r => Sys2Proof.Machine.execPack8 r s
  | .unpack8 r => Sys2Proof.Machine.execUnpack8 r s
  | .pack4 r => Sys2Proof.Machine.execPack4 r s
  | .unpack4 r => Sys2Proof.Machine.execUnpack4 r s
  | .bscale r => Sys2Proof.Machine.execBscale r s
  | .shfl r => Sys2Proof.Machine.execShfl r s
  | .voteall r => Sys2Proof.Machine.execVoteall r s
  | .voteany r => Sys2Proof.Machine.execVoteany r s
  | .voteuni r => Sys2Proof.Machine.execVoteuni r s
  | .ballot r => Sys2Proof.Machine.execBallot r s
  | .matchw r => Sys2Proof.Machine.execMatchw r s
  | .mread r => Sys2Proof.Machine.execMread r s
  | .mwrite r => Sys2Proof.Machine.execMwrite r s
  | .srd r => Sys2Proof.Machine.execSrd r s
  | .srd64 r => Sys2Proof.Machine.execSrd64 r s
  | .redadd r => Sys2Proof.Machine.execRedadd r s
  | .redmin r => Sys2Proof.Machine.execRedmin r s
  | .redmax r => Sys2Proof.Machine.execRedmax r s
  | .redminn r => Sys2Proof.Machine.execRedminn r s
  | .redmaxn r => Sys2Proof.Machine.execRedmaxn r s
  | .redand r => Sys2Proof.Machine.execRedand r s
  | .redor r => Sys2Proof.Machine.execRedor r s
  | .redxor r => Sys2Proof.Machine.execRedxor r s
  | .segadd r => Sys2Proof.Machine.execSegadd r s
  | .segaddi r => Sys2Proof.Machine.execSegaddi r s
  | .scanadd r => Sys2Proof.Machine.execScanadd r s
  | .scanaddi r => Sys2Proof.Machine.execScanaddi r s
  | .ld r => Sys2Proof.Machine.execLd r s
  | .st r => Sys2Proof.Machine.execSt r s
  | .ldl r => Sys2Proof.Machine.execLdl r s
  | .stl r => Sys2Proof.Machine.execStl r s
  | .atom r => Sys2Proof.Machine.execAtom r s
  | .atomb r => Sys2Proof.Machine.execAtomb r s
  | .atoml r => Sys2Proof.Machine.execAtoml r s
  | .red r => Sys2Proof.Machine.execRed r s
  | .fence r => Sys2Proof.Machine.execFence r s
  | .acqx r => Sys2Proof.Machine.execAcqx r s
  | .acqs r => Sys2Proof.Machine.execAcqs r s
  | .rel r => Sys2Proof.Machine.execRel r s
  | .bind r => Sys2Proof.Machine.execBind r s
  | .unbind r => Sys2Proof.Machine.execUnbind r s
  | .pref r => Sys2Proof.Machine.execPref r s
  | .smap r => Sys2Proof.Machine.execSmap r s
  | .sunmap r => Sys2Proof.Machine.execSunmap r s
  | .sfill r => Sys2Proof.Machine.execSfill r s
  | .sclean r => Sys2Proof.Machine.execSclean r s
  | .sdrop r => Sys2Proof.Machine.execSdrop r s
  | .squery r => Sys2Proof.Machine.execSquery r s
  | .sadopt r => Sys2Proof.Machine.execSadopt r s
  | .hwait r => Sys2Proof.Machine.execHwait r s
  | .hstate r => Sys2Proof.Machine.execHstate r s
  | .hdrain r => Sys2Proof.Machine.execHdrain r s
  | .hfree r => Sys2Proof.Machine.execHfree r s
  | .htry r => Sys2Proof.Machine.execHtry r s
  | .qput r => Sys2Proof.Machine.execQput r s
  | .qget r => Sys2Proof.Machine.execQget r s
  | .qputn r => Sys2Proof.Machine.execQputn r s
  | .qgetn r => Sys2Proof.Machine.execQgetn r s
  | .qcount r => Sys2Proof.Machine.execQcount r s
  | .qclose r => Sys2Proof.Machine.execQclose r s
  | .waitc r => Sys2Proof.Machine.execWaitc r s
  | .rdc r => Sys2Proof.Machine.execRdc r s
  | .coll r => Sys2Proof.Machine.execColl r s
  | .collt r => Sys2Proof.Machine.execCollt r s
  | .ret r => Sys2Proof.Machine.execRet r s
  | .exit r => Sys2Proof.Machine.execExit r s
  | .bra r => Sys2Proof.Machine.execBra r s
  | .bnz r => Sys2Proof.Machine.execBnz r s
  | .bz r => Sys2Proof.Machine.execBz r s
  | .call r => Sys2Proof.Machine.execCall r s
  | .brx r => Sys2Proof.Machine.execBrx r s
  | .callx r => Sys2Proof.Machine.execCallx r s
  | .join r => Sys2Proof.Machine.execJoin r s
  | .leave r => Sys2Proof.Machine.execLeave r s
  | .waitm r => Sys2Proof.Machine.execWaitm r s
  | .mset r => Sys2Proof.Machine.execMset r s
  | .mand r => Sys2Proof.Machine.execMand r s
  | .mor r => Sys2Proof.Machine.execMor r s
  | .mclr r => Sys2Proof.Machine.execMclr r s
  | .mnot r => Sys2Proof.Machine.execMnot r s
  | .meet r => Sys2Proof.Machine.execMeet r s
  | .meetclr r => Sys2Proof.Machine.execMeetclr r s
  | .bararv r => Sys2Proof.Machine.execBararv r s
  | .barwait r => Sys2Proof.Machine.execBarwait r s
  | .barsync r => Sys2Proof.Machine.execBarsync r s
  | .bartry r => Sys2Proof.Machine.execBartry r s
  | .qbar r => Sys2Proof.Machine.execQbar r s
  | .dbar r => Sys2Proof.Machine.execDbar r s
  | .pbar r => Sys2Proof.Machine.execPbar r s
  | .tryw r => Sys2Proof.Machine.execTryw r s
  | .trywl r => Sys2Proof.Machine.execTrywl r s
  | .win r => Sys2Proof.Machine.execWin r s
  | .fyield r => Sys2Proof.Machine.execFyield r s
  | .fspawn r => Sys2Proof.Machine.execFspawn r s
  | .fstop r => Sys2Proof.Machine.execFstop r s
  | .fbar r => Sys2Proof.Machine.execFbar r s
  | .kill r => Sys2Proof.Machine.execKill r s
  | .nop r => Sys2Proof.Machine.execNop r s
  | .rep r => Sys2Proof.Machine.execRep r s
  | .spawn r => Sys2Proof.Machine.execSpawn r s
  | .joinc r => Sys2Proof.Machine.execJoinc r s
  | .taskend r => Sys2Proof.Machine.execTaskend r s
  | .vdist r => Sys2Proof.Machine.execVdist r s
  | .vdinfo r => Sys2Proof.Machine.execVdinfo r s
  | .trap r => Sys2Proof.Machine.execTrap r s
  | .brk r => Sys2Proof.Machine.execBrk r s
  | .dictionaryParcel r => Sys2Proof.Machine.execDictionaryParcel r s
  | .brk16 r => Sys2Proof.Machine.execBrk16 r s
  | .sopen r => Sys2Proof.Machine.execSopen r s
  | .snext r => Sys2Proof.Machine.execSnext r s
  | .stend r => Sys2Proof.Machine.execStend r s
  | .sclose r => Sys2Proof.Machine.execSclose r s
  | .sskip r => Sys2Proof.Machine.execSskip r s
  | .spos r => Sys2Proof.Machine.execSpos r s
  | .gath r => Sys2Proof.Machine.execGath r s
  | .scata r => Sys2Proof.Machine.execScata r s
  | .scatai r => Sys2Proof.Machine.execScatai r s
  | .scatab r => Sys2Proof.Machine.execScatab r s
  | .scatal r => Sys2Proof.Machine.execScatal r s
  | .scatali r => Sys2Proof.Machine.execScatali r s
  | .scat r => Sys2Proof.Machine.execScat r s
  | .scatmin r => Sys2Proof.Machine.execScatmin r s
  | .embl r => Sys2Proof.Machine.execEmbl r s
  | .embu r => Sys2Proof.Machine.execEmbu r s
  | .embq r => Sys2Proof.Machine.execEmbq r s
  | .embv r => Sys2Proof.Machine.execEmbv r s
  | .binc r => Sys2Proof.Machine.execBinc r s
  | .bins r => Sys2Proof.Machine.execBins r s
  | .binr r => Sys2Proof.Machine.execBinr r s
  | .mshape r => Sys2Proof.Machine.execMshape r s
  | .mfmt r => Sys2Proof.Machine.execMfmt r s
  | .mqadd r => Sys2Proof.Machine.execMqadd r s
  | .mqset r => Sys2Proof.Machine.execMqset r s
  | .mwld r => Sys2Proof.Machine.execMwld r s
  | .mma r => Sys2Proof.Machine.execMma r s
  | .mmz r => Sys2Proof.Machine.execMmz r s
  | .mmas r => Sys2Proof.Machine.execMmas r s
  | .mst r => Sys2Proof.Machine.execMst r s
  | .mstadd r => Sys2Proof.Machine.execMstadd r s
  | .mstatom r => Sys2Proof.Machine.execMstatom r s
  | .mldt r => Sys2Proof.Machine.execMldt r s
  | .mzero r => Sys2Proof.Machine.execMzero r s
  | .marv r => Sys2Proof.Machine.execMarv r s
  | .mwait r => Sys2Proof.Machine.execMwait r s
  | .mjmp r => Sys2Proof.Machine.execMjmp r s
  | .mloop r => Sys2Proof.Machine.execMloop r s
  | .mend r => Sys2Proof.Machine.execMend r s
  | .mscale r => Sys2Proof.Machine.execMscale r s
  | .mact r => Sys2Proof.Machine.execMact r s
  | .mrowmax r => Sys2Proof.Machine.execMrowmax r s
  | .mrowsum r => Sys2Proof.Machine.execMrowsum r s
  | .ctxnew r => Sys2Proof.Machine.execCtxnew r s
  | .ctxgrant r => Sys2Proof.Machine.execCtxgrant r s
  | .ctxtake r => Sys2Proof.Machine.execCtxtake r s
  | .ctxrun r => Sys2Proof.Machine.execCtxrun r s
  | .ctxstop r => Sys2Proof.Machine.execCtxstop r s
  | .ctxrevoke r => Sys2Proof.Machine.execCtxrevoke r s
  | .ctxqry r => Sys2Proof.Machine.execCtxqry r s
  | .ctxmap r => Sys2Proof.Machine.execCtxmap r s
  | .ctxmapUnmap r => Sys2Proof.Machine.execCtxmapUnmap r s
  | .trapret r => Sys2Proof.Machine.execTrapret r s
  | .trapfwd r => Sys2Proof.Machine.execTrapfwd r s
  | .trapinfo r => Sys2Proof.Machine.execTrapinfo r s
  | .tlbinv r => Sys2Proof.Machine.execTlbinv r s
  | .icinv r => Sys2Proof.Machine.execIcinv r s
  | .dctinv r => Sys2Proof.Machine.execDctinv r s
  | .profOpen r => Sys2Proof.Machine.execProfOpen r s
  | .profRead r => Sys2Proof.Machine.execProfRead r s
  | .profClose r => Sys2Proof.Machine.execProfClose r s
  | .profExport r => Sys2Proof.Machine.execProfExport r s
  | .profImport r => Sys2Proof.Machine.execProfImport r s
  | .trialStart r => Sys2Proof.Machine.execTrialStart r s
  | .trialRead r => Sys2Proof.Machine.execTrialRead r s
  | .trialAbort r => Sys2Proof.Machine.execTrialAbort r s
  | .srw r => Sys2Proof.Machine.execSrw r s
  | .srr r => Sys2Proof.Machine.execSrr r s
  | .qdescWrite ctx q v => Sys2Proof.Machine.execQdescWrite ctx q v s
  | .lendWrite ctx k v => Sys2Proof.Machine.execLendWrite ctx k v s
  | .groupWrite ctx g v => Sys2Proof.Machine.execGroupWrite ctx g v s
  | .handlerTaskPush => Sys2Proof.Machine.execHandlerTaskPush s
  | .queueEntryExamine ctx q => Sys2Proof.Machine.execQueueEntryExamine ctx q s
  | .queueHeaderPoll ctx q => Sys2Proof.Machine.execQueueHeaderPoll ctx q s
  | .blockPlacement launch task => Sys2Proof.Machine.execBlockPlacement launch task s
  | .inputCopyComplete blk h => Sys2Proof.Machine.execInputCopyComplete blk h s
  | .blockStart blk => Sys2Proof.Machine.execBlockStart blk s
  | .registerResultReturn blk slot reg => Sys2Proof.Machine.execRegisterResultReturn blk slot reg s
  | .chunkRefillComplete blk slot chunk => Sys2Proof.Machine.execChunkRefillComplete blk slot chunk s
  | .forcedSwitch blk slot fib => Sys2Proof.Machine.execForcedSwitch blk slot fib s
  | .groupSelect blk slot fib => Sys2Proof.Machine.execGroupSelect blk slot fib s
  | .blockRetire blk => Sys2Proof.Machine.execBlockRetire blk s
  | .outputDrainComplete blk h => Sys2Proof.Machine.execOutputDrainComplete blk h s
  | .continuationPush => Sys2Proof.Machine.execContinuationPush s
  | .tlbMissWalk core ctx va kind => Sys2Proof.Machine.execTlbMissWalk core ctx va kind s
  | .faultExamine blk slot fib => Sys2Proof.Machine.execFaultExamine blk slot fib s
  | .stashFillReturn core line => Sys2Proof.Machine.execStashFillReturn core line s
  | .stashOwnershipGrant core line => Sys2Proof.Machine.execStashOwnershipGrant core line s
  | .stashInvalidate core line => Sys2Proof.Machine.execStashInvalidate core line s
  | .stashRecall core line => Sys2Proof.Machine.execStashRecall core line s
  | .stashCapacityEviction core line => Sys2Proof.Machine.execStashCapacityEviction core line s
  | .retrieverOpComplete op => Sys2Proof.Machine.execRetrieverOpComplete op s
  | .atomicUpdateComplete op => Sys2Proof.Machine.execAtomicUpdateComplete op s
  | .stashOpComplete op => Sys2Proof.Machine.execStashOpComplete op s
  | .collectiveStepComplete op => Sys2Proof.Machine.execCollectiveStepComplete op s
  | .binningComplete op => Sys2Proof.Machine.execBinningComplete op s
  | .scatterWindowClose blk slot fib => Sys2Proof.Machine.execScatterWindowClose blk slot fib s
  | .scatterWindowApply win => Sys2Proof.Machine.execScatterWindowApply win s
  | .trywRecheck blk slot fib => Sys2Proof.Machine.execTrywRecheck blk slot fib s
  | .trywPoll blk slot fib => Sys2Proof.Machine.execTrywPoll blk slot fib s
  | .trywTimeout blk slot fib lane => Sys2Proof.Machine.execTrywTimeout blk slot fib lane s
  | .forcedPreemption blk => Sys2Proof.Machine.execForcedPreemption blk s
  | .blockSave blk => Sys2Proof.Machine.execBlockSave blk s
  | .sliceBoundary ctx => Sys2Proof.Machine.execSliceBoundary ctx s
  | .priorityAging launch task => Sys2Proof.Machine.execPriorityAging launch task s
  | .quadReclaim ctx vd quad => Sys2Proof.Machine.execQuadReclaim ctx vd quad s
  | .revocation ctx => Sys2Proof.Machine.execRevocation ctx s
  | .mscRetag ctx => Sys2Proof.Machine.execMscRetag ctx s
  | .functionLevelReset vf => Sys2Proof.Machine.execFunctionLevelReset vf s
  | .migration ctx page frame => Sys2Proof.Machine.execMigration ctx page frame s
  | .remoteMapExpiry ctx page => Sys2Proof.Machine.execRemoteMapExpiry ctx page s
  | .pageRetire frame => Sys2Proof.Machine.execPageRetire frame s
  | .memoryErrorDetect e => Sys2Proof.Machine.execMemoryErrorDetect e s
  | .mscLossExamine => Sys2Proof.Machine.execMscLossExamine s
  | .sweeperWayClear die way => Sys2Proof.Machine.execSweeperWayClear die way s
  | .patrolScrub line => Sys2Proof.Machine.execPatrolScrub line s
  | .errorRecordDelivery => Sys2Proof.Machine.execErrorRecordDelivery s
  | .correctedEventFold => Sys2Proof.Machine.execCorrectedEventFold s
  | .linkDown l => Sys2Proof.Machine.execLinkDown l s
  | .hostWrite q => Sys2Proof.Machine.execHostWrite q s
  | .hostRead q => Sys2Proof.Machine.execHostRead q s
  | .hostCompletion page ok => Sys2Proof.Machine.execHostCompletion page ok s
  | .peerRequest q => Sys2Proof.Machine.execPeerRequest q s
  | .whistleFlit w => Sys2Proof.Machine.execWhistleFlit w s
  | .whistleGo gid step data => Sys2Proof.Machine.execWhistleGo gid step data s
  | .whistleAbort gid step code => Sys2Proof.Machine.execWhistleAbort gid step code s
  | .whistleTimeout gid step => Sys2Proof.Machine.execWhistleTimeout gid step s
  | .profileSample sid core => Sys2Proof.Machine.execProfileSample sid core s
  | .trialEpochEnd slice => Sys2Proof.Machine.execTrialEpochEnd slice s
  | .packageReset => Sys2Proof.Machine.execPackageReset s
  | .ownerLapse => Sys2Proof.Machine.execOwnerLapse s
  | .handoverTimeout => Sys2Proof.Machine.execHandoverTimeout s
  | .powerControl steps => Sys2Proof.Machine.execPowerControl steps s
  | .thermalThrottle die temp => Sys2Proof.Machine.execThermalThrottle die temp s
  | .thermalRecover die temp => Sys2Proof.Machine.execThermalRecover die temp s
  | .thermalTrip die temp => Sys2Proof.Machine.execThermalTrip die temp s
  | .claim r => Sys2Proof.Machine.execClaim r s
  | .handover r => Sys2Proof.Machine.execHandover r s
  | .accept r => Sys2Proof.Machine.execAccept r s
  | .release r => Sys2Proof.Machine.execRelease r s
  | .statusq r => Sys2Proof.Machine.execStatusq r s
  | .imgload r => Sys2Proof.Machine.execImgload r s
  | .imgcommit r => Sys2Proof.Machine.execImgcommit r s
  | .config r => Sys2Proof.Machine.execConfig r s
  | .commit r => Sys2Proof.Machine.execCommit r s
  | .evring r => Sys2Proof.Machine.execEvring r s
  | .telem r => Sys2Proof.Machine.execTelem r s
  | .plimit r => Sys2Proof.Machine.execPlimit r s
  | .preset r => Sys2Proof.Machine.execPreset r s
  | .hreset r => Sys2Proof.Machine.execHreset r s
  | .sliceset r => Sys2Proof.Machine.execSliceset r s
  | .mtrapResume r => Sys2Proof.Machine.execMtrapResume r s
  | .mtrapEnd r => Sys2Proof.Machine.execMtrapEnd r s
  | .mtrapRead r => Sys2Proof.Machine.execMtrapRead r s
  | .mtrapNext r => Sys2Proof.Machine.execMtrapNext r s
  | .rootsrWrite r => Sys2Proof.Machine.execRootsrWrite r s
  | .rootsrRead r => Sys2Proof.Machine.execRootsrRead r s
  | .migdecl r => Sys2Proof.Machine.execMigdecl r s
  | .migundecl r => Sys2Proof.Machine.execMigundecl r s
  | .migreq r => Sys2Proof.Machine.execMigreq r s
  | .miggrant r => Sys2Proof.Machine.execMiggrant r s
  | .getVersion r => Sys2Proof.Machine.execGetVersion r s
  | .getCapabilities r => Sys2Proof.Machine.execGetCapabilities r s
  | .negotiateAlgorithms r => Sys2Proof.Machine.execNegotiateAlgorithms r s
  | .getDigests r => Sys2Proof.Machine.execGetDigests r s
  | .getCertificate r => Sys2Proof.Machine.execGetCertificate r s
  | .challenge r => Sys2Proof.Machine.execChallenge r s
  | .getMeasurements r => Sys2Proof.Machine.execGetMeasurements r s
  | .keyExchange r => Sys2Proof.Machine.execKeyExchange r s
  | .finish r => Sys2Proof.Machine.execFinish r s
  | .heartbeat r => Sys2Proof.Machine.execHeartbeat r s
  | .keyUpdate r => Sys2Proof.Machine.execKeyUpdate r s
  | .endSession r => Sys2Proof.Machine.execEndSession r s
  | .getTdispVersion vf => Sys2Proof.Machine.execGetTdispVersion vf s
  | .getTdispCapabilities vf => Sys2Proof.Machine.execGetTdispCapabilities vf s
  | .lockInterfaceRequest vf => Sys2Proof.Machine.execLockInterfaceRequest vf s
  | .getDeviceInterfaceReport vf => Sys2Proof.Machine.execGetDeviceInterfaceReport vf s
  | .getDeviceInterfaceState vf => Sys2Proof.Machine.execGetDeviceInterfaceState vf s
  | .startInterfaceRequest vf => Sys2Proof.Machine.execStartInterfaceRequest vf s
  | .stopInterfaceRequest vf => Sys2Proof.Machine.execStopInterfaceRequest vf s
  | .completionTimeout page => Sys2Proof.Machine.execCompletionTimeout page s
  | .accessPerformed id => Sys2Proof.Machine.execAccessPerformed id s
  | .powerLoss => Sys2Proof.Machine.execPowerLoss s
  | .linkUp l => Sys2Proof.Machine.execLinkUp l s

end Sys2Proof.Machine
end

