-- ==== Sys2Proof/Machine/Step.lean ====
section
/-!
DEFINITION. One step of the machine: which issue or event comes next, the fetch and decoding of what issues, and the counts
that follow. The functions that build an `Instr` are marked noncomputable, as in `Sys2Proof.Decode`.
-/

namespace Sys2Proof.Machine

/-! ### What may happen next -/

/-- What a step may do: a fibre issues, a waiting fibre's blocking instruction is examined again, a sequencer issues, or an event
of the opcode table. -/
inductive Act
  | issue (b k f : Nat)
  | retry (b k f : Nat)
  | seq (b : Nat)
  | event (i : Instr)
  deriving DecidableEq, Repr

/-- R487: the hard partition of a block's context has not been stopped. -/
def notStopped (s : State) (x : Block) : Bool := !s.ken.hstops.contains (sliceOf s x.ctx).hard

/-- A block whose fibres may issue. -/
def mayRun (s : State) (x : Block) : Bool := decide (x.st = .running) && notStopped s x

/-- R22, R23: a block whose sequencer may issue: it runs on while its block retires. -/
def maySeq (s : State) (x : Block) : Bool := (decide (x.st = .running) || decide (x.st = .retiring)) && notStopped s x

/-- R481: the group that a fibre would issue is delayed by an experiment. -/
def groupDelayed (s : State) (b k f : Nat) : Bool :=
  let x := fibD s b k f
  delayed s b (coreOf (blkD s b) k) (laneD x (lowest (selectGroup x))).pc.toNat false

/-- R31, R48: the fibre of a slot that issues: the one that issued last while it is ready, else the next ready one. While an
experiment delays it, it uses its slot's turns without issuing. -/
def nextFib (s : State) (b k : Nat) : Option Nat :=
  (((List.range 4).map (fun j => ((slotD s b k).cur + j) % 4)).find? (fun f => fibReady (fibD s b k f))).filter
    (fun f => !groupDelayed s b k f)

/-- R224: a slot of a block may issue: in the clk of a TASKEND, only on a pipe that has not issued in it. -/
def mayIssue (x : Block) (k : Nat) : Bool :=
  match x.ending with
  | none => true
  | some ps => ps.contains (pipeOf x k)

/-- The fibres of a block that may issue. -/
def issueActs (s : State) (b : Nat) (x : Block) : List Act :=
  if mayRun s x then
    ((List.range x.slots.length).filter (mayIssue x)).filterMap (fun k => (nextFib s b k).map (fun f => Act.issue b k f))
  else []

/-- R224: a block whose TASKEND has issued ends once no other pipe of it can issue in that clk. -/
def settleEnding (s : State) : State :=
  s.blocks.foldl (fun t p =>
    let x := blkD t p.1
    if x.ending.isSome ∧ (issueActs t p.1 x).isEmpty then endBlock t p.1 else t) s

/-- The sequencer of a block, where it may issue. -/
def seqActs (s : State) (b : Nat) (x : Block) : List Act :=
  match x.seqr with
  | some q => if maySeq s x ∧ q.st = .running ∧ !delayed s b (coreOf x 0) q.mpc.toNat true then [.seq b] else []
  | none => []

/-- The fibres of a block that wait in a blocking instruction. -/
def retryActs (s : State) (b : Nat) (x : Block) : List Act :=
  if mayRun s x then
    (fibIds x).filterMap (fun p => match (((x.slots.getD p.1 {}).fibs.getD p.2 {}).wait) with
      | some w => if w.kind = .retry then some (.retry b p.1 p.2) else none
      | none => none)
  else []

/-- The events of a block that its own progress brings. -/
noncomputable def blockEvents (b : Nat) (x : Block) : List Instr :=
  (match x.st with
    | .loading => .blockStart b :: (x.handles.filter (fun h => decide (h.2.st = .filling))).map (fun h => .inputCopyComplete b h.1)
    | .quiescing => [.blockSave b]
    | .retiring => [.blockRetire b]
    | .running => []
    | .saved => []) ++
  (if x.resident then
    (x.handles.filter (fun h => decide (h.2.st = .draining))).map (fun h => .outputDrainComplete b h.1) ++
    (x.handles.filter (fun h => decide (h.2.st = .filling) && decide (x.st ≠ .loading))).map (fun h => .inputCopyComplete b h.1) ++
    (if x.handles.any (fun h => h.2.fault.isSome) || x.joinFault.isSome || (x.seqr.map (fun q => q.fault.isSome)).getD false
      then [.faultExamine b 16 0] else [])
   else [])

/-- The events of the slots of a running block. -/
noncomputable def slotEvents (s : State) (b : Nat) (x : Block) : List Instr :=
  if x.st ≠ .running then [] else
  (List.range x.slots.length).flatMap (fun k =>
    let y := x.slots.getD k {}
    (y.regs.filter (fun r => !r.2.stale.isEmpty)).map (fun r => .registerResultReturn b k r.1) ++
    (y.chunks.filter (fun c => decide (c.2.st = .refilling))).map (fun c => .chunkRefillComplete b k c.1) ++
    ((List.range 4).filter (fun f => !(faultLanes (y.fibs.getD f {})).isEmpty)).map (fun f => .faultExamine b k f) ++
    ((List.range 4).filter (fun f => ((y.fibs.getD f {}).window).isSome)).map (fun f => .scatterWindowClose b k f) ++
    ((List.range 4).filter (fun f => match (y.fibs.getD f {}).wait with
      | some w => decide (w.kind = .retry)
      | none => false)).map (fun f => .trywPoll b k f) ++
    (List.range 4).flatMap (fun f => (lanes32.filter (fun l => decide (timeoutAt s b k f l ≠ 0))).map (fun l => .trywTimeout b k f l)))

/-- R133: the completion of an operation, by its class, and the examination of its fault. -/
noncomputable def opEvents (id : Nat) (o : Op) : List Instr :=
  (match o.kind with
    | .atomic => [.atomicUpdateComplete id]
    | .smap => [.stashOpComplete id]
    | .sunmap => [.stashOpComplete id]
    | .sfill => [.stashOpComplete id]
    | .sclean => [.stashOpComplete id]
    | .sdrop => [.stashOpComplete id]
    | .coll => [.collectiveStepComplete id]
    | .idle => [if o.cls = 4 then .collectiveStepComplete id else .retrieverOpComplete id]
    | .bin => [.binningComplete id]
    | _ => [.retrieverOpComplete id]) ++
  (if o.fault.isSome then [.faultExamine o.blk o.slot o.fib] else [])

/-- R104: the lines of a mapping whose fill or upgrade returns. -/
noncomputable def stashEvents (m : Mapping) : List Instr :=
  (List.range m.lines.length).flatMap (fun j => match (m.lines.getD j {}).st with
    | .filling => [.stashFillReturn m.core (m.lbase / 64 + j)]
    | .upgrading => [.stashOwnershipGrant m.core (m.lbase / 64 + j)]
    | _ => [])

/-- The events of a context: its queues, its lent quads, its revocation. -/
noncomputable def ctxEvents (c : Nat) (x : Ctx) : List Instr :=
  (if x.st = .free then [] else
    (x.qdesc.filter (fun q => q.2.getLsbD 0 || (mget x.errDue q.1).isSome)).flatMap (fun q => [.queueEntryExamine c q.1, .queueHeaderPoll c q.1]) ++
    (List.range x.dies.length).flatMap (fun vd =>
      ((List.range 16).filter (fun q => (x.lent.getD (x.dies.getD vd 0) 0).testBit q)).map (fun q => .quadReclaim c vd q))) ++
  (if x.st = .revoking then [.revocation c] else []) ++ (if x.retag then [.mscRetag c] else [])

/-- The blocks that wait for a place. -/
noncomputable def placeEvents (s : State) : List Instr :=
  s.launches.flatMap (fun p => p.2.waiting.map (fun w => .blockPlacement p.1 w.task)) ++
  (s.blocks.filter (fun p => decide (p.2.st = .saved))).map (fun p => .blockPlacement p.2.launch p.2.task)

/-- The events of the kennel die's own work. -/
noncomputable def kennelEvents (s : State) : List Instr :=
  (if s.tickets.any (fun t => t.2.push) then [.handlerTaskPush] else []) ++
  (if s.pushes.isEmpty then [] else [.continuationPush]) ++
  s.ken.due.map (fun f => .pageRetire f) ++
  (if s.ken.losses.isEmpty then [] else [.mscLossExamine]) ++
  (s.ken.sweeping ++ (s.msc.filter (outOfWays s)).map (fun l => (l.die, l.way))).map (fun p => .sweeperWayClear p.1 p.2) ++
  (if s.ken.errs.isEmpty then [] else [.errorRecordDelivery]) ++
  (if s.ken.folds.isEmpty then [] else [.correctedEventFold])

/-- The events that the machine's own progress brings, whichever comes first. -/
noncomputable def ownEvents (s : State) : List Instr :=
  (s.blocks.filter (fun p => notStopped s p.2)).flatMap (fun p => blockEvents p.1 p.2 ++ slotEvents s p.1 p.2) ++ s.ops.flatMap (fun p => opEvents p.1 p.2) ++
  (s.windows.filter (fun p => p.2.shut)).map (fun p => .scatterWindowApply p.1) ++ s.mappings.flatMap (fun p => stashEvents p.2) ++
  s.stores.map (fun p => .accessPerformed p.id) ++ placeEvents s ++
  (s.ctxs.filter (fun p => !halted s p.1)).flatMap (fun p => ctxEvents p.1 p.2) ++ kennelEvents s

/-- What may happen next, the issues first; in the clk of a TASKEND only the block's other pipes (R224). During bring-up only
the reset goes on (R505); under package fatal only the delivery of records (R500); without power nothing does (R520). -/
noncomputable def acts (s : State) : List Act :=
  match s.ken.phase with
  | .bringUp => [.event .packageReset]
  | .off => []
  | .fatal => if s.ken.errs.isEmpty then [] else [.event .errorRecordDelivery]
  | _ =>
    match s.blocks.find? (fun p => p.2.ending.isSome) with
    | some p => issueActs s p.1 p.2
    | none => s.blocks.flatMap (fun p => issueActs s p.1 p.2) ++ s.blocks.flatMap (fun p => seqActs s p.1 p.2) ++
      s.blocks.flatMap (fun p => retryActs s p.1 p.2) ++ (ownEvents s).map .event

/-! ### Issue of a group (R31, R33, R36, R145 to R147, R167) -/

/-- The issue of some lanes at an address, before its decoding. -/
def issueOf (b k f : Nat) (g : List Nat) (pc : DWord) (ps : List Parcel16) : Issue :=
  { blk := b, slot := k, fib := f, lanes := g, pc := pc, next := pc, insn := (recordWords ps).1, ext := (recordWords ps).2, code := ps }

/-- The instruction of an issue's parcels runs. -/
noncomputable def runIssue (i : Issue) (s : State) : Out :=
  match decode4 false (par i.code 0) (par i.code 1) (par i.code 2) (par i.code 3) with
  | .error e => .next (illegalAt s i (badReason s i e))
  | .ok (n, k) => exec n { orderFor n s with cur := some { i with next := i.pc + BitVec.ofNat 64 (2 * k) } }

/-- R36, R145: a fibre issues its group. -/
noncomputable def issueGroup (b k f : Nat) (s0 : State) : Out :=
  let s := updFib (nextClk s0 b k f) b k f takeGroup
  let x := fibD s b k f
  let g := x.group
  let pc := (laneD x (lowest g)).pc
  if pc.toNat % 2 ≠ 0 then .next (illegalAt s (issueOf b k f g pc []) 0x0D) else
  match fetchCode s (coreOf (blkD s b) k) (blkD s b).ctx pc.toNat .lane with
  | .error e => .next { parkFetch s b k f g e with choice := s.choice + 1 }
  | .ok (t, ps) => runIssue (issueOf b k f g pc ps) t

/-- R33, R36: the issue of a fibre, or the switch that is due before it; where none can be, the counts restart. -/
noncomputable def issueFib (b k f : Nat) (s : State) : Out :=
  let x := fibD s b k f
  if 64 ≤ x.since ∧ otherReady s b k f then exec (.forcedSwitch b k f) s
  else if 64 ≤ x.gcount ∧ keepsGroup x ∧ (readyLanes x).any (fun l => !(selectGroup x).contains l) then exec (.groupSelect b k f) s
  else issueGroup b k f (groupSelect (forcedSwitch s b k f) b k f)

/-- R32: the blocking instruction of a waiting fibre is examined again. -/
noncomputable def retryFib (b k f : Nat) (s : State) : Out :=
  match ((fibD s b k f).wait).bind (·.env) with
  | none => .next { s with choice := s.choice + 1 }
  | some e =>
    match decode4 false (par e.i.code 0) (par e.i.code 1) (par e.i.code 2) (par e.i.code 3) with
    | .error _ => .next { s with choice := s.choice + 1 }
    | .ok (n, _) => exec n { s with cur := some e.i }

/-- R331, R340, R342: a sequencer issues: a fetch fault holds it, an illegal encoding traps. -/
noncomputable def issueSeq (b : Nat) (s : State) : Out :=
  let x := blkD s b
  let pc := (seqD s b).mpc
  let i0 : Issue := { blk := b, pc := pc, next := pc, seq := true }
  if pc.toNat % 2 ≠ 0 then .next { trapSeq s i0 0x01 0x0D [] with choice := s.choice + 1 } else
  match fetchCode s (coreOf x 0) x.ctx pc.toNat .mstream with
  | .error (a, .fault c st lv) =>
    .next { updSeq s b (fun q => { q with st := .faulted, fault := some (mkFault s x.ctx .fetch 3 a c st lv) })
      with choice := s.choice + 1 }
  | .error (_, _) => .next { s with choice := s.choice + 1 }
  | .ok (t, ps) =>
    let i := { i0 with insn := (recordWords ps).1, ext := (recordWords ps).2, code := ps }
    match decode4 true (par ps 0) (par ps 1) (par ps 2) (par ps 3) with
    | .error e => .next { trapSeq t i 0x01 e [] with choice := s.choice + 1 }
    | .ok (n, k) => exec n { t with cur := some { i with next := pc + BitVec.ofNat 64 (2 * k) } }

/-- What an act does. -/
noncomputable def runAct (a : Act) (s : State) : Out :=
  match a with
  | .issue b k f => issueFib b k f s
  | .retry b k f => retryFib b k f s
  | .seq b => issueSeq b s
  | .event i => exec i (orderFor i s)

/-! ### After a step (R69, R389, R477 to R482, R507, R517) -/

/-- The issue of a blocking instruction that has waited and now completes, for the counts of profiling. -/
def retriedOf (s t : State) (b k f : Nat) : Option Issued :=
  match ((fibD s b k f).wait).bind (·.env) with
  | none => none
  | some e =>
    if (fibD s b k f).icount < (fibD t b k f).icount then
      some { ctx := (blkD s b).ctx, pc := e.i.pc.toNat, core := coreOf (blkD s b) k, seq := false, act := !e.act.isEmpty }
    else none

/-- The issue of an act, for the counts of profiling: the instruction that `s` issued, where its fibre's count rose in `t`. -/
def issuedOf (a : Option Act) (s t : State) : Option Issued :=
  match a with
  | some (.issue b k f) =>
    if (fibD s b k f).icount < (fibD t b k f).icount then
      let x := takeGroup (fibD s b k f)
      some { ctx := (blkD s b).ctx, pc := (laneD x (lowest x.group)).pc.toNat, core := coreOf (blkD s b) k, seq := false,
             act := (slotD t b k).acted }
    else none
  | some (.retry b k f) => retriedOf s t b k f
  | some (.event (.trywRecheck b k f)) => retriedOf s t b k f
  | some (.event (.trywPoll b k f)) => retriedOf s t b k f
  | some (.event (.trywTimeout b k f _)) => retriedOf s t b k f
  | some (.seq b) =>
    if (seqD s b).issued < (seqD t b).issued then
      some { ctx := (blkD s b).ctx, pc := (seqD s b).mpc.toNat, core := coreOf (blkD s b) 0, seq := true, act := true }
    else none
  | _ => none

/-- What follows every step from `s` to `t`. -/
def tick (a : Option Act) (s t : State) : State :=
  let u := reclaimDue (settleEnding (replayAll (settle t)))
  let t1 := tallyEvents s (passTime (((issuedOf a s t).map (tallyIssue u)).getD u))
  let t2 := if s.ken.writing.isSome then finishFlash t1 else t1
  { flushEvents t2 with turn := Config.freePick t.choice 0 1 }

/-- An outcome with what follows it. -/
def withTick (a : Option Act) (s : State) (o : Out) : Out :=
  match o with
  | .next t => .next (tick a s t)
  | .fault e => .fault e
  | .refused e => .refused e

/-- The rows of the opcode table that are events: neither words nor parcels of a program. -/
def isEvent (i : Instr) : Bool :=
  match i with
  | .dictionaryParcel _ => false
  | .brk16 _ => false
  | j => (rawOf j).isNone

/-- One step: an event of the agenda where there is one, else one of the acts, a free choice (log entry 1); where nothing can
happen, time passes. -/
noncomputable def step (s : State) : Host.Outcome State Fault Refusal :=
  match s.agenda with
  | i :: r =>
    if isEvent i then withTick (some (.event i)) s (exec i { orderFor i s with agenda := r })
    else .next { s with agenda := r, choice := s.choice + 1 }
  | [] =>
    match (acts s)[s.turn % (acts s).length]? with
    | some a => withTick (some a) s (runAct a s)
    | none => .next (tick none s { s with choice := s.choice + 1 })

/-! ### A state that runs one instruction -/

/-- The parcels of an opcode-table row's bits. -/
def rowParcels (nbits w : Nat) : List Parcel16 :=
  if nbits ≤ 16 then [BitVec.ofNat 16 w]
  else parcelsOf (BitVec.ofNat 32 w) ++ parcelsOf (BitVec.ofNat 32 (w / 2 ^ 32))

/-- The address at which `withFetchWord` places an instruction. -/
def rowAddr : Nat := 0x1000

/-- R6: the bytes of parcels. -/
def parcelBytes (ps : List Parcel16) : List Byte := ps.flatMap (fun p => natLe 2 p.toNat)

/-- The block of `withFetchWord`: one fibre of one lane at the instruction, or its sequencer there. -/
def rowBlock (m : Bool) : Block :=
  { launch := 0, task := 0, ctx := 0, st := .running
    spots := [0]
    kd := { code := rowAddr, codelen := 4, mstr := if m then rowAddr else 0, mslen := if m then 4 else 0 }
    slots := [{ fibs := [if m then {} else startFib (BitVec.ofNat 64 rowAddr) 1 0 1, {}, {}, {}] }]
    seqr := if m then some { mpc := BitVec.ofNat 64 rowAddr } else none }

/-- The context of `withFetchWord`: a partition root without stage 1, with sixteen frames of its own. -/
def rowCtx : Ctx :=
  { st := .running, root := true, quads := [1, 0, 0, 0], dies := [0], frames := 16, sbank := 16
    s2 := [{ page := 0, n := 16, frame := 0, r := true, w := true, x := true }] }

/-- The state with an instruction placed where the next step fetches: in memory, under a running block of one lane (or of a
sequencer) on core 0 of die 0, as a task launch leaves it. -/
def State.withFetchWord (s : State) (nbits w : Nat) : State :=
  let ps := rowParcels nbits w
  let m := decide (16 < nbits) && Forms.isM ((BitVec.ofNat 32 w).extractLsb' 25 7).toNat
  let bs := (parcelBytes ps ++ List.replicate 8 0).take 8
  { s with
    ken := { s.ken with phase := .running, committed := true, hstops := []
                        dies := s.ken.dies.set 0 { up := true, cores := 2 ^ 64 - 1 } }
    ctxs := mset s.ctxs 0 rowCtx
    launches := mset s.launches 0 { ctx := 0, queue := 0, tr := {}, kd := (rowBlock m).kd }
    blocks := mset s.blocks 0 (rowBlock m)
    mem := Memory.wrN s.mem rowAddr bs
    memPoison := s.memPoison.filter (· != rowAddr / 64)
    icache := [], tlb := [], wcache := [], tails := [], stores := [], pubs := [], flights := [],
    replays := [], trials := [], mappings := [], tickets := [], agenda := [], turn := 0, cur := none }

end Sys2Proof.Machine
end

