-- ==== Sys2Proof/Safety.lean ====
section
/-!
DEFINITION. The vocabulary of the statements: when a group can issue, what an issue leaves as it was, and the results that the
manual gives the instructions, written from their rules.
-/

namespace Sys2Proof.Safety

open Sys2Proof.Machine

/-! ### An issue that goes ahead -/

/-- The group `i` of a live fibre issues: its block, slot and fibre exist, the fibre waits for nothing and is not asked to stop,
and its lanes, one or more in ascending order, are issuable (R31, R36, R45). -/
def issuing (i : Issue) (s : State) : Bool :=
  decide (s.cur = some i) && (mget s.blocks i.blk).isSome && decide (i.slot < (blkD s i.blk).slots.length) &&
  decide (i.fib < (slotD s i.blk i.slot).fibs.length) && decide ((fibIs s i).st = .live) && (fibIs s i).wait.isNone &&
  !(fibIs s i).stopReq && decide ((fibIs s i).lanes.length = 32) &&
  (decide (i.lanes ≠ [] ∧ lanes32.filter (fun l => i.lanes.contains l) = i.lanes) &&
    i.lanes.all (fun l => decide (l < 32) && decide ((laneD (fibIs s i) l).st = .issuable)))

/-- The operands of an instruction as its issue reads them. -/
abbrev ops (r : Raw) (i : Issue) (s : State) : Env := mkEnv r i s

/-- No register of the instruction is spilled (R61), those that it writes have or find a physical chunk (R59), and no word that it
reads is poisoned (R63). -/
def readable (r : Raw) (i : Issue) (s : State) : Bool :=
  (spilled s i.blk i.slot (touched r (fibIs s i).wb)).isEmpty &&
  !lacksRoom s i.blk i.slot (destRegs r (fibIs s i).wb ++ linkRegs r (fibIs s i).wb) && (poisonHit r (ops r i s) s).isNone

/-- The group can issue the instruction. -/
def ready (r : Raw) (i : Issue) (s : State) : Bool := issuing i s && readable r i s

/-- The state in which an instruction traps, waits or parks: the chunks of its registers are used (R59), the accesses in flight whose
results it reads have been performed (R34), and none of its marked registers is dead yet (R41, R429). -/
def touch (r : Raw) (i : Issue) (s : State) : State := touchRegs r (ops r i s) s

/-- The accesses in flight whose results an instruction reads have been performed (R34), and nothing else has changed. -/
def landed (r : Raw) (i : Issue) (s : State) : State := { s with stores := (touch r i s).stores, flights := (touch r i s).flights }

/-- The state in which an instruction makes its effect: the chunks of its registers used (R59), and the registers that it marks as
read for the last time dead (R57). -/
def prep (r : Raw) (i : Issue) (s : State) : State :=
  killArch (touchRegs r (ops r i s) s) i.blk i.slot (markedRegs r (fibIs s i).wb)

/-! ### Frames -/

/-- The register of a slot. -/
def reg (s : State) (b k a : Nat) : Option Reg := mget (slotD s b k).regs a

/-- R131: a part of a store after some lanes of the fibre of group `i` have met: it is the same, and no agent but its lanes sees it anew. -/
def Seen (i : Issue) (x y : Shard) : Prop :=
  y = { x with seen := y.seen } ∧ (∀ a ∈ x.seen, a ∈ y.seen) ∧
    ∀ a ∈ y.seen, a ∈ x.seen ∨ ∃ l, l < 32 ∧ a = laneAgent i.blk i.slot i.fib l

/-- The stores that are not yet performed are the same, but that lanes of the fibre which have met see more of them (R131). -/
def Views (i : Issue) (s t : State) : Prop :=
  List.Forall₂ (fun p q => q = { p with pieces := q.pieces } ∧ List.Forall₂ (Seen i) p.pieces q.pieces) s.stores t.stores

/-- What an issue of group `i` leaves as it was, registers and its own fibre apart: everything but blocks, windows, what the fibre's
lanes have seen (R131), and the model's own fields; every block but for its slots; every other slot but for the residence of its chunks
(R59, R60); every other fibre; and of the issuing slot all but its registers, chunks and counts. -/
structure Within (i : Issue) (s t : State) : Prop where
  world : t = { s with blocks := t.blocks, windows := t.windows, stores := t.stores, choice := t.choice, cur := t.cur }
  views : Views i s t
  present : ∀ b, (mget t.blocks b).isSome = (mget s.blocks b).isSome
  block : ∀ b, blkD t b = { blkD s b with slots := (blkD t b).slots }
  count : ∀ b, (blkD t b).slots.length = (blkD s b).slots.length
  others : ∀ b k, ¬(b = i.blk ∧ k = i.slot) → slotD t b k =
    { slotD s b k with chunks := (slotD t b k).chunks, spbank := (slotD t b k).spbank, spl2 := (slotD t b k).spl2 }
  slot : let y := slotD t i.blk i.slot
    y = { slotD s i.blk i.slot with regs := y.regs, chunks := y.chunks, issues := y.issues, issuedAt := y.issuedAt, cur := y.cur,
                                    spbank := y.spbank, spl2 := y.spl2, last := y.last, acted := y.acted,
                                    switches := y.switches, fibs := y.fibs }
  places : (slotD t i.blk i.slot).fibs.length = (slotD s i.blk i.slot).fibs.length
  fibres : ∀ f, f ≠ i.fib → fibD t i.blk i.slot f = fibD s i.blk i.slot f

/-- A fibre after an issue whose own effect leaves it as `x`: masks, streams, counters, window base, generator, seed, drops and
pending barriers are those of `x`; states, program counters and counts follow the issue. -/
def FibreAfter (x y : Fibre) : Prop :=
  y = { x with st := y.st, wait := y.wait, lanes := y.lanes, wstack := y.wstack, icount := y.icount, since := y.since,
               group := y.group, gcount := y.gcount, stopReq := y.stopReq, window := y.window, winIdle := y.winIdle }

/-- What the end of an issue makes of a lane (R38, R39, R207): nothing; a WAITM that has completed lets it go on; a meeting that has
completed makes it issuable. -/
def Settles (y z : Lane) : Prop :=
  z.depth = y.depth ∧ z.meet = y.meet ∧
  ((z.st = y.st ∧ z.pc = y.pc ∧ z.rep = y.rep) ∨
   (∃ m n, y.st = .held (.waitm m) n ∧ z.pc = n ∧ z.rep = 0 ∧ (z.st = .issuable ∨ z.st = .held .meeting n)) ∨
   (∃ n, y.st = .held .meeting n ∧ z.st = .issuable ∧ z.pc = y.pc ∧ z.rep = y.rep))

/-- The lanes of a fibre that has not been asked to stop, after an issue that leaves them as `g` says. -/
def LanesAfter (x y : Fibre) (g : Nat → Lane → Lane) : Prop :=
  x.stopReq = false → ∀ l, l < x.lanes.length → Settles (g l (laneD x l)) (laneD y l)

/-- A lane of the issue that is issuable goes to the next address, with the next repeat index (R39, R163). -/
def goesOn (i : Issue) (l : Nat) (y : Lane) : Lane := if l ∈ i.lanes ∧ y.st = .issuable then y.goto i.next i.repNext else y

/-- The issue of an instruction that goes on to the next one (R32, R33, R57, R66, R154): its fibre as the instruction's effect
leaves it is `x`; the registers `dst` are written; the registers with a last-use mark die; the lanes of the issue stand at the
next address; everything else is as before. -/
structure Advances (r : Raw) (i : Issue) (x : Fibre) (dst : List Nat) (s t : State) : Prop where
  within : Within i (landed r i s) t
  idle : t.cur = none
  fibre : FibreAfter x (fibIs t i)
  counted : (fibIs t i).icount = (fibIs s i).icount + 1
  lanes : ∀ l ∈ i.lanes, (laneD (fibIs t i) l).pc = i.next
  settled : LanesAfter x (fibIs t i) (goesOn i)
  regs : ∀ a, a ∉ dst → a ∉ markedRegs r (fibIs s i).wb → reg t i.blk i.slot a = reg s i.blk i.slot a
  dead : ∀ a, a ∉ dst → a ∈ markedRegs r (fibIs s i).wb → reg t i.blk i.slot a = none

/-- The issue of an instruction whose own effect leaves the machine as `v`: what follows is only the end of the issue (R32, R33,
R66): counts, program counters, the states of the fibre's lanes. The lanes that the effect leaves issuable stand at the next
address. -/
structure Issued (i : Issue) (v t : State) : Prop where
  within : Within i v t
  idle : t.cur = none
  fibre : FibreAfter (fibIs v i) (fibIs t i)
  counted : (fibIs t i).icount = (fibIs v i).icount + 1
  regs : ∀ b k a, reg t b k a = reg v b k a
  lanes : ∀ l ∈ i.lanes, (laneD (fibIs v i) l).st = .issuable → (laneD (fibIs t i) l).pc = i.next
  settled : LanesAfter (fibIs v i) (fibIs t i) (goesOn i)

/-- As `Issued`, of an instruction that sets the program counters itself. -/
structure Jumped (i : Issue) (v t : State) : Prop where
  within : Within i v t
  idle : t.cur = none
  fibre : FibreAfter (fibIs v i) (fibIs t i)
  counted : (fibIs t i).icount = (fibIs v i).icount + 1
  regs : ∀ b k a, reg t b k a = reg v b k a
  settled : LanesAfter (fibIs v i) (fibIs t i) (fun _ y => y)

/-- The architectural register that field D names, with an offset (R50, R52). -/
def dstReg (r : Raw) (i : Issue) (s : State) (k : Nat) : Nat := archReg (fibIs s i).wb (r.d.toNat + k)

/-- Register `k` of field D receives `g` in the active lanes; its other lanes keep their words, or read 0 where the instruction
marked the register as read for the last time (R55 to R57, R151). -/
def Receives (r : Raw) (i : Issue) (s t : State) (k : Nat) (g : Nat → Word) : Prop :=
  ∀ l, l < 32 → regWord t i.blk i.slot (dstReg r i s k) l =
    if l ∈ (ops r i s).act then g l
    else if dstReg r i s k ∈ markedRegs r (fibIs s i).wb then 0 else regWord s i.blk i.slot (dstReg r i s k) l

/-! ### Results of the integer instructions (R178 to R193) -/

/-- A row of a table of results: opcode, function, and the word of a lane from the operands. -/
structure Row (α : Type) where
  op : Nat
  f : Nat
  val : Env → Nat → α

/-- The word of field A in a lane. -/
abbrev wa (e : Env) (l : Nat) : Word := wd e.a 0 l
/-- The word of field B in a lane. -/
abbrev wb (e : Env) (l : Nat) : Word := wd e.b 0 l
/-- The word of field C in a lane. -/
abbrev wc (e : Env) (l : Nat) : Word := wd e.c 0 l
/-- The pair of field A in a lane (R52). -/
abbrev pa (e : Env) (l : Nat) : DWord := pr e.a 0 l
/-- The pair of field B in a lane (R52). -/
abbrev pb (e : Env) (l : Nat) : DWord := pr e.b 0 l
/-- The pair of field C in a lane (R52). -/
abbrev pc (e : Env) (l : Nat) : DWord := pr e.c 0 l

/-- R178: a predicate word. -/
def truth (p : Prop) [Decidable p] : Word := if p then 1#32 else 0#32

/-- R179, R180: sums and differences. -/
def addRow (ins : Instr) : Option (Row Word) :=
  match ins with
  | .iadd _ => some ⟨0x00, 0, fun e l => .ofNat 32 ((wa e l).toNat + (wb e l).toNat)⟩
  | .isub _ => some ⟨0x00, 1, fun e l => .ofInt 32 ((wa e l).toNat - (wb e l).toNat : Int)⟩
  | .iadds _ => some ⟨0x00, 2, fun e l => .ofInt 32 (max (-2 ^ 31) (min (2 ^ 31 - 1) ((wa e l).toInt + (wb e l).toInt)))⟩
  | .isubs _ => some ⟨0x00, 3, fun e l => .ofInt 32 (max (-2 ^ 31) (min (2 ^ 31 - 1) ((wa e l).toInt - (wb e l).toInt)))⟩
  | .iaddns _ => some ⟨0x00, 4, fun e l => .ofNat 32 (min ((wa e l).toNat + (wb e l).toNat) 0xFFFFFFFF)⟩
  | .isubns _ => some ⟨0x00, 5, fun e l => .ofInt 32 (max ((wa e l).toNat - (wb e l).toNat : Int) 0)⟩
  | .iabsd _ => some ⟨0x00, 6, fun e l => .ofNat 32 ((wa e l).toInt - (wb e l).toInt).natAbs⟩
  | .ineg _ => some ⟨0x00, 7, fun e l => .ofInt 32 (-((wa e l).toNat : Int))⟩
  | .iaddi r => some ⟨0x01, 0, fun e l => .ofNat 32 ((wa e l).toNat + r.imm.toNat)⟩
  | .irsubi r => some ⟨0x01, 1, fun e l => .ofInt 32 (r.imm.toNat - (wa e l).toNat : Int)⟩
  | _ => none

/-- R181, R182, R183: one-word products, quotients and remainders. -/
def mulRow (ins : Instr) : Option (Row Word) :=
  match ins with
  | .imul _ => some ⟨0x02, 0, fun e l => .ofNat 32 ((wa e l).toNat * (wb e l).toNat)⟩
  | .imulhi _ => some ⟨0x02, 1, fun e l => .ofInt 32 ((wa e l).toInt * (wb e l).toInt / 2 ^ 32)⟩
  | .imulhin _ => some ⟨0x02, 2, fun e l => .ofNat 32 ((wa e l).toNat * (wb e l).toNat / 2 ^ 32)⟩
  | .imad _ => some ⟨0x03, 0, fun e l => .ofNat 32 ((wa e l).toNat * (wb e l).toNat + (wc e l).toNat)⟩
  | .idiv _ => some ⟨0x04, 0, fun e l =>
      if wb e l = 0 then 0xFFFFFFFF#32
      else if (wa e l).toInt = -2 ^ 31 ∧ (wb e l).toInt = -1 then 0x80000000#32
      else .ofInt 32 ((wa e l).toInt.tdiv (wb e l).toInt)⟩
  | .idivn _ => some ⟨0x04, 1, fun e l =>
      if wb e l = 0 then 0xFFFFFFFF#32 else .ofNat 32 ((wa e l).toNat / (wb e l).toNat)⟩
  | .irem _ => some ⟨0x04, 2, fun e l =>
      if wb e l = 0 then wa e l
      else if (wa e l).toInt = -2 ^ 31 ∧ (wb e l).toInt = -1 then 0#32
      else .ofInt 32 ((wa e l).toInt.tmod (wb e l).toInt)⟩
  | .iremn _ => some ⟨0x04, 3, fun e l =>
      if wb e l = 0 then wa e l else .ofNat 32 ((wa e l).toNat % (wb e l).toNat)⟩
  | _ => none

/-- R181, R182, R184, R185, R187, R188: results that are pairs. -/
def pairRow (ins : Instr) : Option (Row DWord) :=
  match ins with
  | .imulw _ => some ⟨0x02, 3, fun e l => .ofInt 64 ((wa e l).toInt * (wb e l).toInt)⟩
  | .imulwn _ => some ⟨0x02, 4, fun e l => .ofNat 64 ((wa e l).toNat * (wb e l).toNat)⟩
  | .imadw _ => some ⟨0x03, 1, fun e l => .ofInt 64 ((wa e l).toInt * (wb e l).toInt + (pc e l).toNat)⟩
  | .imadwn _ => some ⟨0x03, 2, fun e l => .ofNat 64 ((wa e l).toNat * (wb e l).toNat + (pc e l).toNat)⟩
  | .add64 _ => some ⟨0x05, 0, fun e l => .ofNat 64 ((pa e l).toNat + (pb e l).toNat)⟩
  | .sub64 _ => some ⟨0x05, 1, fun e l => .ofInt 64 ((pa e l).toNat - (pb e l).toNat : Int)⟩
  | .neg64 _ => some ⟨0x05, 2, fun e l => .ofInt 64 (-((pa e l).toNat : Int))⟩
  | .mov64 _ => some ⟨0x05, 6, pa⟩
  | .lea r => some ⟨0x06, r.f.toNat, fun e l =>
      .ofInt 64 ((pa e l).toNat + (wb e l).toInt * 2 ^ r.f.toNat + r.x.imm.toInt)⟩
  | .lean r => some ⟨0x07, r.f.toNat, fun e l =>
      .ofInt 64 ((pa e l).toNat + (wb e l).toNat * 2 ^ r.f.toNat + r.x.imm.toInt)⟩
  | .shl64 _ => some ⟨0x0A, 5, fun e l =>
      if 64 ≤ (wb e l).toNat then 0#64 else .ofNat 64 ((pa e l).toNat * 2 ^ (wb e l).toNat)⟩
  | .shr64 _ => some ⟨0x0A, 6, fun e l =>
      if 64 ≤ (wb e l).toNat then 0#64 else .ofNat 64 ((pa e l).toNat / 2 ^ (wb e l).toNat)⟩
  | .sar64 _ => some ⟨0x0A, 7, fun e l =>
      if 64 ≤ (wb e l).toNat then (if (pa e l).toInt < 0 then .allOnes 64 else 0#64)
      else .ofInt 64 ((pa e l).toInt / 2 ^ (wb e l).toNat)⟩
  | .shli64 r => some ⟨0x0B, 5, fun e l => .ofNat 64 ((pa e l).toNat * 2 ^ r.b.toNat)⟩
  | .shri64 r => some ⟨0x0B, 6, fun e l => .ofNat 64 ((pa e l).toNat / 2 ^ r.b.toNat)⟩
  | .sari64 r => some ⟨0x0B, 7, fun e l => .ofInt 64 ((pa e l).toInt / 2 ^ r.b.toNat)⟩
  | _ => none

/-- R192: the conditions of ICMP and ICMPI. -/
def condition (f : Nat) (a b : Word) : Word :=
  match f with
  | 0 => truth (a = b)
  | 1 => truth (a ≠ b)
  | 2 => truth (a.toInt < b.toInt)
  | 3 => truth (a.toInt ≤ b.toInt)
  | 4 => truth (a.toNat < b.toNat)
  | 5 => truth (a.toNat ≤ b.toNat)
  | 6 => truth (a &&& b ≠ 0)
  | _ => truth (a &&& b = 0)

/-- R184, R186, R191, R192, R193: logic, moves, the lesser and the greater, comparisons and selection. -/
def logicRow (ins : Instr) : Option (Row Word) :=
  match ins with
  | .and _ => some ⟨0x08, 0, fun e l => wa e l &&& wb e l⟩
  | .or _ => some ⟨0x08, 1, fun e l => wa e l ||| wb e l⟩
  | .xor _ => some ⟨0x08, 2, fun e l => wa e l ^^^ wb e l⟩
  | .andn _ => some ⟨0x08, 3, fun e l => wa e l &&& ~~~wb e l⟩
  | .orn _ => some ⟨0x08, 4, fun e l => wa e l ||| ~~~wb e l⟩
  | .xnor _ => some ⟨0x08, 5, fun e l => ~~~(wa e l ^^^ wb e l)⟩
  | .not _ => some ⟨0x08, 6, fun e l => ~~~wa e l⟩
  | .mov _ => some ⟨0x08, 7, wa⟩
  | .andi r => some ⟨0x09, 0, fun e l => wa e l &&& r.imm⟩
  | .ori r => some ⟨0x09, 1, fun e l => wa e l ||| r.imm⟩
  | .xori r => some ⟨0x09, 2, fun e l => wa e l ^^^ r.imm⟩
  | .movi r => some ⟨0x09, 3, fun _ _ => r.imm⟩
  | .imin _ => some ⟨0x0E, 0, fun e l => .ofInt 32 (min (wa e l).toInt (wb e l).toInt)⟩
  | .imax _ => some ⟨0x0E, 1, fun e l => .ofInt 32 (max (wa e l).toInt (wb e l).toInt)⟩
  | .iminn _ => some ⟨0x0E, 2, fun e l => .ofNat 32 (min (wa e l).toNat (wb e l).toNat)⟩
  | .imaxn _ => some ⟨0x0E, 3, fun e l => .ofNat 32 (max (wa e l).toNat (wb e l).toNat)⟩
  | .icmp r => some ⟨0x0F, r.f.toNat, fun e l => condition r.f.toNat (wa e l) (wb e l)⟩
  | .icmpi r => some ⟨0x10, r.f.toNat, fun e l => condition r.f.toNat (wa e l) r.imm⟩
  | .sel _ => some ⟨0x11, 0, fun e l => if wc e l ≠ 0 then wa e l else wb e l⟩
  | .icmp64Eq _ => some ⟨0x05, 3, fun e l => truth (pa e l = pb e l)⟩
  | .icmp64Lt _ => some ⟨0x05, 4, fun e l => truth ((pa e l).toInt < (pb e l).toInt)⟩
  | .icmp64Ltn _ => some ⟨0x05, 5, fun e l => truth ((pa e l).toNat < (pb e l).toNat)⟩
  | _ => none

/-- R187: the five one-word shifts by an amount. -/
def shiftWord (k : Nat) (a : Word) (n : Nat) : Word :=
  match k with
  | 0 => if 32 ≤ n then 0#32 else .ofNat 32 (a.toNat * 2 ^ n)
  | 1 => if 32 ≤ n then 0#32 else .ofNat 32 (a.toNat / 2 ^ n)
  | 2 => if 32 ≤ n then (if a.toInt < 0 then 0xFFFFFFFF#32 else 0#32) else .ofInt 32 (a.toInt / 2 ^ n)
  | 3 => .ofNat 32 (a.toNat * 2 ^ (n % 32) + a.toNat / 2 ^ (32 - n % 32))
  | _ => .ofNat 32 (a.toNat / 2 ^ (n % 32) + a.toNat * 2 ^ (32 - n % 32))

/-- R187, R188: shifts and rotations of a word. -/
def shiftRow (ins : Instr) : Option (Row Word) :=
  match ins with
  | .shl _ => some ⟨0x0A, 0, fun e l => shiftWord 0 (wa e l) (wb e l).toNat⟩
  | .shr _ => some ⟨0x0A, 1, fun e l => shiftWord 1 (wa e l) (wb e l).toNat⟩
  | .sar _ => some ⟨0x0A, 2, fun e l => shiftWord 2 (wa e l) (wb e l).toNat⟩
  | .rotl _ => some ⟨0x0A, 3, fun e l => shiftWord 3 (wa e l) (wb e l).toNat⟩
  | .rotr _ => some ⟨0x0A, 4, fun e l => shiftWord 4 (wa e l) (wb e l).toNat⟩
  | .shli r => some ⟨0x0B, 0, fun e l => shiftWord 0 (wa e l) r.b.toNat⟩
  | .shri r => some ⟨0x0B, 1, fun e l => shiftWord 1 (wa e l) r.b.toNat⟩
  | .sari r => some ⟨0x0B, 2, fun e l => shiftWord 2 (wa e l) r.b.toNat⟩
  | .rotli r => some ⟨0x0B, 3, fun e l => shiftWord 3 (wa e l) r.b.toNat⟩
  | .rotri r => some ⟨0x0B, 4, fun e l => shiftWord 4 (wa e l) r.b.toNat⟩
  | _ => none

/-- R190: the specification of a lane: bits 9:0 of IMM13, or of its word of register C where bit 12 is 1. -/
def spec (x : Xc) (e : Env) (l : Nat) : Nat := if x.imm.getLsbD 12 then (wc e l).toNat % 1024 else x.imm.toNat % 1024
/-- R190: POS. -/
def pos (k : Nat) : Nat := k % 32
/-- R190: the length LEN + 1. -/
def len (k : Nat) : Nat := k / 32 + 1

/-- R189, R190: bit counts, extensions and bit fields. -/
def bitRow (ins : Instr) : Option (Row Word) :=
  match ins with
  | .popc _ => some ⟨0x0C, 0, fun e l => .ofNat 32 ((List.range 32).countP (wa e l).getLsbD)⟩
  | .clz _ => some ⟨0x0C, 1, fun e l => if wa e l = 0 then 32#32 else .ofNat 32 (31 - (wa e l).toNat.log2)⟩
  | .ctz _ => some ⟨0x0C, 2, fun e l => .ofNat 32 (((List.range 32).find? (wa e l).getLsbD).getD 32)⟩
  | .brev _ => some ⟨0x0C, 3, fun e l =>
      .ofNat 32 (((List.range 32).map (fun j => if (wa e l).getLsbD j then 2 ^ (31 - j) else 0)).sum)⟩
  | .sext8 _ => some ⟨0x0C, 4, fun e l =>
      .ofInt 32 (if (wa e l).toNat % 256 < 128 then ((wa e l).toNat % 256 : Int) else (wa e l).toNat % 256 - 256)⟩
  | .sext16 _ => some ⟨0x0C, 5, fun e l =>
      .ofInt 32 (if (wa e l).toNat % 65536 < 32768 then ((wa e l).toNat % 65536 : Int) else (wa e l).toNat % 65536 - 65536)⟩
  | .zext8 _ => some ⟨0x0C, 6, fun e l => .ofNat 32 ((wa e l).toNat % 256)⟩
  | .zext16 _ => some ⟨0x0C, 7, fun e l => .ofNat 32 ((wa e l).toNat % 65536)⟩
  | .bfx r => some ⟨0x0D, 0, fun e l =>
      .ofNat 32 ((wa e l).toNat / 2 ^ pos (spec r.x e l) % 2 ^ len (spec r.x e l))⟩
  | .bfxi r => some ⟨0x0D, 1, fun e l =>
      let f := (wa e l).toNat / 2 ^ pos (spec r.x e l) % 2 ^ len (spec r.x e l)
      .ofInt 32 (if f < 2 ^ (len (spec r.x e l) - 1) then (f : Int) else f - 2 ^ len (spec r.x e l))⟩
  | .bfi r => some ⟨0x0D, 2, fun e l =>
      let m : Word := .ofNat 32 ((2 ^ len (spec r.x e l) - 1) * 2 ^ pos (spec r.x e l))
      (wa e l &&& ~~~m) ||| (.ofNat 32 ((wb e l).toNat * 2 ^ pos (spec r.x e l)) &&& m)⟩
  | _ => none

/-! ### Results of the floating-point and conversion instructions (R228 to R250) -/

/-- R79: a fibre after an issue in a rounding mode: one step of the generator in mode .rs. -/
def drawn (rm : Rm) (x : Fibre) : Fibre := if rm = .rs then { x with gen := stepGen x.gen } else x

/-- R78, R230: the random number of element `k` of lane `l`; 0 in every other mode. -/
def draw (rm : Rm) (x : Fibre) (l k : Nat) : Nat := if rm = .rs then (laneWord (stepGen x.gen) l k).toNat else 0

/-- A row of a table of rounded results: its mode, and the encoding of a lane from the random numbers and the operands. -/
structure FRow where
  rm : Rm
  val : (Nat → Nat → Nat) → Env → Nat → Nat

/-- R228: f(a), f(b), f(c). -/
abbrev fa (e : Env) (l : Nat) : Val := f32.decode (wa e l).toNat
/-- R228: f(b). -/
abbrev fb (e : Env) (l : Nat) : Val := f32.decode (wb e l).toNat
/-- R228: f(c). -/
abbrev fc (e : Env) (l : Nat) : Val := f32.decode (wc e l).toNat
/-- R70, R228: the half `j` of a word as a number of a 16-bit format. -/
abbrev half (f : Fmt) (w : Word) (j : Nat) : Val := f.decode (w.toNat / 2 ^ (16 * j) % 2 ^ 16)
/-- R74, R83: round_T of a sum. -/
def roundSum (f : Fmt) (rm : Rm) (u : Nat) (vs : List Val) : Nat := f.rnd rm u (Val.sum (decide (rm = .rd)) vs)
/-- R70: two halves as a word. -/
def twoHalves (g : Nat → Nat) : Nat := g 0 + g 1 * 2 ^ 16
/-- R229: the mode of an X form. -/
def modeOf (x : Xc) : Rm := rmOf (x.imm.toNat % 8)

/-- R232 to R234: FP32 results. -/
def fp32Row (ins : Instr) : Option FRow :=
  match ins with
  | .fadd _ => some ⟨.rn, fun _ e l => roundSum f32 .rn 0 [fa e l, fb e l]⟩
  | .fsub _ => some ⟨.rn, fun _ e l => roundSum f32 .rn 0 [fa e l, (fb e l).neg]⟩
  | .fmul _ => some ⟨.rn, fun _ e l => f32.rnd .rn 0 ((fa e l).mul (fb e l))⟩
  | .fmin _ => some ⟨.rn, fun _ e l => f32.pickMin false false (wa e l).toNat (wb e l).toNat⟩
  | .fmax _ => some ⟨.rn, fun _ e l => f32.pickMin false true (wa e l).toNat (wb e l).toNat⟩
  | .fminp _ => some ⟨.rn, fun _ e l => f32.pickMin true false (wa e l).toNat (wb e l).toNat⟩
  | .fmaxp _ => some ⟨.rn, fun _ e l => f32.pickMin true true (wa e l).toNat (wb e l).toNat⟩
  | .faddx r => some ⟨modeOf r.x, fun u e l => roundSum f32 (modeOf r.x) (u l 0) [fa e l, fb e l]⟩
  | .fsubx r => some ⟨modeOf r.x, fun u e l => roundSum f32 (modeOf r.x) (u l 0) [fa e l, (fb e l).neg]⟩
  | .fmulx r => some ⟨modeOf r.x, fun u e l => f32.rnd (modeOf r.x) (u l 0) ((fa e l).mul (fb e l))⟩
  | .ffma r => some ⟨modeOf r.x, fun u e l => roundSum f32 (modeOf r.x) (u l 0) [(fa e l).mul (fb e l), fc e l]⟩
  | _ => none

/-- R242, R243: results of packed FP16 and BF16 operands. -/
def packedRow (ins : Instr) : Option FRow :=
  let add (f : Fmt) : FRow := ⟨.rn, fun _ e l => twoHalves (fun j => roundSum f .rn 0 [half f (wa e l) j, half f (wb e l) j])⟩
  let sub (f : Fmt) : FRow := ⟨.rn, fun _ e l => twoHalves (fun j => roundSum f .rn 0 [half f (wa e l) j, (half f (wb e l) j).neg])⟩
  let mul (f : Fmt) : FRow := ⟨.rn, fun _ e l => twoHalves (fun j => f.rnd .rn 0 ((half f (wa e l) j).mul (half f (wb e l) j)))⟩
  let pick (f : Fmt) (mx : Bool) : FRow := ⟨.rn, fun _ e l => twoHalves (fun j =>
    f.pickMin false mx ((wa e l).toNat / 2 ^ (16 * j) % 2 ^ 16) ((wb e l).toNat / 2 ^ (16 * j) % 2 ^ 16))⟩
  let fma (f : Fmt) (rm : Rm) : FRow := ⟨rm, fun u e l => twoHalves (fun j =>
    roundSum f rm (u l j) [(half f (wa e l) j).mul (half f (wb e l) j), half f (wc e l) j])⟩
  let dot (f : Fmt) (rm : Rm) : FRow := ⟨rm, fun u e l => roundSum f32 rm (u l 0)
    [(half f (wa e l) 0).mul (half f (wb e l) 0), (half f (wa e l) 1).mul (half f (wb e l) 1), fc e l]⟩
  match ins with
  | .hadd2 _ => some (add f16)
  | .hsub2 _ => some (sub f16)
  | .hmul2 _ => some (mul f16)
  | .hmin2 _ => some (pick f16 false)
  | .hmax2 _ => some (pick f16 true)
  | .badd2 _ => some (add bf16)
  | .bsub2 _ => some (sub bf16)
  | .bmul2 _ => some (mul bf16)
  | .bmin2 _ => some (pick bf16 false)
  | .bmax2 _ => some (pick bf16 true)
  | .hfma2 r => some (fma f16 (modeOf r.x))
  | .bfma2 r => some (fma bf16 (modeOf r.x))
  | .hdot2 r => some (dot f16 (modeOf r.x))
  | .bdot2 r => some (dot bf16 (modeOf r.x))
  | _ => none

/-- R239, R240: FP64 results. -/
def fp64Row (ins : Instr) : Option FRow :=
  let da (e : Env) (l : Nat) : Val := f64.decode (pa e l).toNat
  let db (e : Env) (l : Nat) : Val := f64.decode (pb e l).toNat
  let dc (e : Env) (l : Nat) : Val := f64.decode (pc e l).toNat
  match ins with
  | .dadd _ => some ⟨.rn, fun _ e l => roundSum f64 .rn 0 [da e l, db e l]⟩
  | .dsub _ => some ⟨.rn, fun _ e l => roundSum f64 .rn 0 [da e l, (db e l).neg]⟩
  | .dmul _ => some ⟨.rn, fun _ e l => f64.rnd .rn 0 ((da e l).mul (db e l))⟩
  | .dmin _ => some ⟨.rn, fun _ e l => f64.pickMin false false (pa e l).toNat (pb e l).toNat⟩
  | .dmax _ => some ⟨.rn, fun _ e l => f64.pickMin false true (pa e l).toNat (pb e l).toNat⟩
  | .dfma r => some ⟨modeOf r.x, fun u e l => roundSum f64 (modeOf r.x) (u l 0) [(da e l).mul (db e l), dc e l]⟩
  | _ => none

/-- R235: two values as FCMP compares them. -/
def ordered (a b : Val) : Bool := !a.isNan && !b.isNan

/-- R235, R236: comparisons and the class of a word. -/
def compareRow (ins : Instr) : Option (Row Word) :=
  match ins with
  | .fcmpEq _ => some ⟨0x18, 0, fun e l => truth (ordered (fa e l) (fb e l) ∧ ¬(fa e l).lt (fb e l) ∧ ¬(fb e l).lt (fa e l))⟩
  | .fcmpNe _ => some ⟨0x18, 1, fun e l => truth (¬(ordered (fa e l) (fb e l) ∧ ¬(fa e l).lt (fb e l) ∧ ¬(fb e l).lt (fa e l)))⟩
  | .fcmpLt _ => some ⟨0x18, 2, fun e l => truth (ordered (fa e l) (fb e l) ∧ (fa e l).lt (fb e l))⟩
  | .fcmpLe _ => some ⟨0x18, 3, fun e l => truth (ordered (fa e l) (fb e l) ∧ ¬(fb e l).lt (fa e l))⟩
  | .fcmpUn _ => some ⟨0x18, 4, fun e l => truth (¬ordered (fa e l) (fb e l))⟩
  | .fclass r => some ⟨0x18, 5, fun e l => .ofNat 32 (
      let (f, x) : Fmt × Nat := match r.b.toNat with
        | 0 => (f32, (wa e l).toNat)
        | 1 => (f64, (pa e l).toNat)
        | 2 => (f16, (wa e l).toNat % 2 ^ 16)
        | _ => (bf16, (wa e l).toNat % 2 ^ 16)
      let neg := x.testBit (f.eb + f.mb)
      match f.decode x with
      | .nan => if x.testBit (f.mb - 1) then 2 ^ 9 else 2 ^ 8
      | .inf n => if n then 2 ^ 0 else 2 ^ 7
      | .fin _ 0 _ => if neg then 2 ^ 3 else 2 ^ 4
      | .fin _ m _ => if m < 2 ^ f.mb then (if neg then 2 ^ 2 else 2 ^ 5) else (if neg then 2 ^ 1 else 2 ^ 6))⟩
  | _ => none

/-- R238: the special inputs of OP 0x17 as words, with their results; none where R237 governs. -/
def specialWord (k : Nat) (x : Word) : Option Word :=
  let nan : Word := 0x7FC00000#32
  let inf : Word := 0x7F800000#32
  let ninf : Word := 0xFF800000#32
  let one : Word := 0x3F800000#32
  if 0x7F800000 < x.toNat % 2 ^ 31 then some nan
  else if x = 0#32 then [inf, inf, 0#32, one, ninf, 0#32, one, 0#32][k]?
  else if x = 0x80000000#32 then [ninf, ninf, x, one, ninf, x, one, x][k]?
  else if x = inf then [0#32, 0#32, inf, inf, inf, nan, nan, one][k]?
  else if x = ninf then [0x80000000#32, nan, nan, 0#32, nan, nan, nan, 0xBF800000#32][k]?
  else if x.msb ∧ (k = 1 ∨ k = 2 ∨ k = 4) then some nan
  else if k = 0 ∧ x.toNat % 2 ^ 31 ≤ 0x00200000 then some (if x.msb then ninf else inf)
  else if k = 3 ∧ !x.msb ∧ 0x43000000 ≤ x.toNat then some inf
  else if k = 3 ∧ 0xC3150000 < x.toNat then some 0#32
  else if k = 7 ∧ !x.msb ∧ 0x43000000 ≤ x.toNat then some one
  else if k = 7 ∧ 0xC3150000 < x.toNat then some 0xBF800000#32
  else none

/-- The value of an FP32 word where it is finite. -/
def value32 (w : Word) : Option Rat :=
  match f32.decode w.toNat with
  | .fin n m e => some (Val.rat (.fin n m e))
  | _ => none

/-- The value of an FP64 word where it is finite. -/
def value64 (w : DWord) : Option Rat :=
  match f64.decode w.toNat with
  | .fin n m e => some (Val.rat (.fin n m e))
  | _ => none

/-- R87: a result within 1 ulp of 1 / √x, compared in squares: `u` is the ulp there. -/
def nearRoot (f : Fmt) (x r : Rat) : Prop :=
  let u := pow2 (max (ratLog (1 / x) / 2) (1 - (f.bias : Int)) - f.mb)
  (r ≤ u ∨ (r - u) * (r - u) ≤ 1 / x) ∧ 0 ≤ r + u ∧ 1 / x ≤ (r + u) * (r + u)

/-- R237: a result within the bound of a function of OP 0x17 at a finite input, FSQRT apart; outside the domain of FSIN and FCOS a
magnitude of at most 1. The values of 2^x, log2 x, sin x, cos x and tanh x are those of log entry 10. -/
def inBound (k : Nat) (x r : Rat) : Prop :=
  match k with
  | 0 => |r - 1 / x| ≤ ulp f32 (1 / x)
  | 1 => nearRoot f32 x r
  | 3 => |r - exp2R x| ≤ 2 * ulp f32 (exp2R x)
  | 4 => |r - log2R x| ≤ if 1 / 2 ≤ x ∧ x ≤ 2 then 1 / 2 ^ 22 else 2 * ulp f32 (log2R x)
  | 5 => if |x| ≤ 1024 then |r - sinR x| ≤ 1 / 2 ^ 22 else |r| ≤ 1
  | 6 => if |x| ≤ 1024 then |r - cosR x| ≤ 1 / 2 ^ 22 else |r| ≤ 1
  | _ => |r - tanhR x| ≤ 2 * ulp f32 (tanhR x)

/-- R237: the exact value of FRCP, FRSQ, FSQRT, FEX2 of an integer and FLG2 of a power of two. -/
def exactly (k : Nat) (x v : Rat) : Prop :=
  match k with
  | 0 => v * x = 1
  | 1 => 0 < v ∧ v * v * x = 1
  | 2 => 0 ≤ v ∧ v * v = x
  | 3 => ∃ n : Int, x = n ∧ v = pow2 n
  | 4 => ∃ n : Int, x = pow2 n ∧ v = n
  | _ => False

/-- R237, R241: a result is √x rounded to nearest: no finite word of another value `v` is nearer. -/
def roundedRoot (x r v : Rat) : Prop :=
  (v < r → ((v + r) / 2) * ((v + r) / 2) ≤ x) ∧ (r < v → x ≤ ((v + r) / 2) * ((v + r) / 2))

/-- R237, R238: FRCP to FTANH: the word of R238 where it gives one, else the fixed word of the function. -/
def unitRow (ins : Instr) : Option (Row Word) :=
  let row (k : Nat) : Option (Row Word) := some ⟨0x17, k, fun e l => (specialWord k (wa e l)).getD (transcend k (wa e l))⟩
  match ins with
  | .frcp _ => row 0
  | .frsq _ => row 1
  | .fsqrt _ => row 2
  | .fex2 _ => row 3
  | .flg2 _ => row 4
  | .fsin _ => row 5
  | .fcos _ => row 6
  | .ftanh _ => row 7
  | _ => none

/-- R241 with R238 in FP64: the special inputs of DSQRT, DRCP and DRSQ, with the FP64 threshold of DRCP, 2^-1024. -/
def special64 (k : Nat) (x : DWord) : Option DWord :=
  let nan : DWord := 0x7FF8000000000000#64
  let inf : DWord := 0x7FF0000000000000#64
  let ninf : DWord := 0xFFF0000000000000#64
  if 0x7FF0000000000000 < x.toNat % 2 ^ 63 then some nan
  else if x = 0#64 then [0#64, inf, inf][k]?
  else if x = 0x8000000000000000#64 then [x, ninf, ninf][k]?
  else if x = inf then [inf, 0#64, 0#64][k]?
  else if x = ninf then [nan, 0x8000000000000000#64, nan][k]?
  else if x.msb ∧ k ≠ 1 then some nan
  else if k = 1 ∧ x.toNat % 2 ^ 63 ≤ 0x0004000000000000 then some (if x.msb then ninf else inf)
  else none

/-- R241 with R238 in FP64: DSQRT, DRCP and DRSQ: the special word where there is one, else the fixed word of the function. -/
def unit64Row (ins : Instr) : Option (Row DWord) :=
  let row (k : Nat) : Option (Row DWord) := some ⟨0x1B, k, fun e l => (special64 k (pa e l)).getD (transcend64 k (pa e l))⟩
  match ins with
  | .dsqrt _ => row 0
  | .drcp _ => row 1
  | .drsq _ => row 2
  | _ => none

/-- R70, R244: element `k` of the source of CVT and FRND, by the code of its type. -/
def sourceOf (st k : Nat) (e : Env) (l : Nat) : Nat :=
  if st = 0 then (pa e l).toNat else (wa e l).toNat / 2 ^ ((etyOf st).width * k) % 2 ^ (etyOf st).width

/-- R246: CVT and FRND; the result type is FP64 where the second component is true. -/
def convertRow (ins : Instr) : Option (FRow × Bool) :=
  match ins with
  | .cvt r =>
    let m := r.x.imm.toNat
    some (⟨rmOf (m % 8), fun u e l => convert (etyOf (m / 256 % 16)) (m.testBit 3) (rmOf (m % 8)) (u l 0)
      ((etyOf (m / 16 % 16)).value (sourceOf (m / 16 % 16) r.b.toNat e l))⟩, decide (m / 256 % 16 = 0))
  | .frnd r =>
    let m := r.x.imm.toNat
    some (⟨rmOf (m % 8), fun u e l => convert (etyOf (m / 16 % 16)) false .rz 0
      (integral (rmOf (m % 8)) (u l 0) ((etyOf (m / 16 % 16)).value (sourceOf (m / 16 % 16) r.b.toNat e l)))⟩,
      decide (m / 16 % 16 = 0))
  | _ => none

/-- R249: the elements of PACK8 (`n` = 4, `w` = 8) and PACK4 (`n` = 8, `w` = 4). -/
def packedElems (x : Xc) (n w : Nat) (u : Nat → Nat → Nat) (e : Env) (l : Nat) : Nat :=
  let m := x.imm.toNat
  ((List.range n).map (fun j =>
    let v := (wd e.a j l).toNat
    let s : Nat := (wd e.c (j / 4) l).toNat / 2 ^ (8 * (j % 4)) % 2 ^ 8
    (if m.testBit 7 then v % 2 ^ w
     else if s = 0xFF then 0
     else convert (.flt (mxFmt m)) (m.testBit 6) (rmOf (m % 8)) (u l j) ((f32.decode v).scale (127 - (s : Int)))) * 2 ^ (w * j))).sum

/-- R249: PACK8 and PACK4. -/
def packRow (ins : Instr) : Option FRow :=
  match ins with
  | .pack8 r => some ⟨modeOf r.x, packedElems r.x 4 8⟩
  | .pack4 r => some ⟨modeOf r.x, packedElems r.x 8 4⟩
  | _ => none

/-- R250: the word of register `j` that UNPACK8 and UNPACK4 write. -/
def unpackedWord (x : Xc) (w : Nat) (e : Env) (l j : Nat) : Word :=
  let m := x.imm.toNat
  let v := (wa e l).toNat / 2 ^ (w * j) % 2 ^ w
  let s : Nat := (wd e.c (j / 4) l).toNat / 2 ^ (8 * (j % 4)) % 2 ^ 8
  if m.testBit 7 then .ofNat 32 v
  else if s = 0xFF then 0x7FC00000#32
  else .ofNat 32 (f32.rnd .rn 0 (((mxFmt m).decode v).scale ((s : Int) - 127)))

/-- R248, R73: the scale byte of register `j` of BSCALE, over the active lanes. -/
def scaleByteOf (x : Xc) (e : Env) (j : Nat) : Nat :=
  blockScale (mxFmt x.imm.toNat) (e.act.map (fun l => f32.decode (wd e.a j l).toNat))

/-! ### Results of the lane operations (R194 to R198) -/

/-- R194: SHFL's source position, as an integer. -/
def shflSource (f : Nat) (l k : Nat) : Int :=
  match f with
  | 0 => k
  | 1 => (l : Int) - k
  | 2 => l + k
  | _ => (l ^^^ k : Nat)

/-- R194: SHFL. `live`: m0 of the fibre. -/
def shflResult (r : RXF) (live : List Nat) (e : Env) (l : Nat) : Word :=
  let k := if r.x.imm.getLsbD 12 then (wb e l).toNat % 32 else r.x.imm.toNat % 32
  let j := shflSource r.f.toNat l k
  if j < 0 ∨ 31 < j then (if r.x.imm.getLsbD 11 then wc e l else wa e l)
  else if j.toNat ∈ e.act ∨ j.toNat ∈ live then wa e j.toNat
  else 0#32

/-- R198: the active lanes of a lane's segment: those between which and it, upwards from the lower, no head lies. -/
def segment (e : Env) (l : Nat) : List Nat :=
  e.act.filter (fun j => e.act.all (fun h => !(decide (min j l < h) && decide (h ≤ max j l) && decide (wb e h ≠ 0))))

/-- The sum of field A over some lanes, modulo 2^32. -/
def total (e : Env) (ls : List Nat) : Word := .ofNat 32 ((ls.map (fun l => (wa e l).toNat)).sum)

/-- The words of field A in the active lanes. -/
def actives (e : Env) : List Word := e.act.map (wa e)

/-- R17, R225: the hops between two virtual dies of a die table, the bits in which the numbers of their dies differ. -/
def distance (dies : List Nat) (x y : Nat) : Word :=
  match dies[x]?, dies[y]? with
  | some a, some b => .ofNat 32 ((if a % 2 = b % 2 then 0 else 1) + (if a / 2 % 2 = b / 2 % 2 then 0 else 1))
  | _, _ => 0xFFFFFFFF#32

/-- R195 to R198, R225: lane operations that write one word. -/
def laneRow (ins : Instr) (s : State) (i : Issue) : Option (Row Word) :=
  match ins with
  | .shfl r => some ⟨0x22, r.f.toNat, shflResult r (m0 (fibIs s i))⟩
  | .voteall _ => some ⟨0x23, 0, fun e _ => truth ((actives e).all (fun a => decide (a ≠ 0)))⟩
  | .voteany _ => some ⟨0x23, 1, fun e _ => truth ((actives e).any (fun a => decide (a ≠ 0)))⟩
  | .voteuni _ => some ⟨0x23, 2, fun e _ => truth ((actives e).all (fun a => (actives e).all (fun b => decide (a = b))))⟩
  | .ballot _ => some ⟨0x23, 3, fun e _ =>
      .ofNat 32 (((e.act.filter (fun j => decide (wa e j ≠ 0))).map (2 ^ ·)).sum)⟩
  | .matchw _ => some ⟨0x23, 4, fun e l =>
      let same := e.act.filter (fun j => decide (wa e j = wa e l))
      .ofNat 32 (same.headD 0 + same.length * 2 ^ 8 + (same.filter (fun j => decide (j < l))).length * 2 ^ 16)⟩
  | .mread r => some ⟨0x23, 5, fun _ _ =>
      .ofNat 32 (((maskLanes (fibIs s i) r.a.toNat).map (2 ^ ·)).sum)⟩
  | .srd r => some ⟨0x24, 0, fun _ l => .ofNat 32 (specialReg s i r.a.toNat l)⟩
  | .redadd _ => some ⟨0x25, 0, fun e _ => total e e.act⟩
  | .redmin _ => some ⟨0x25, 1, fun e _ => .ofInt 32 (((actives e).map (·.toInt)).foldl min (2 ^ 31 - 1))⟩
  | .redmax _ => some ⟨0x25, 2, fun e _ => .ofInt 32 (((actives e).map (·.toInt)).foldl max (-2 ^ 31))⟩
  | .redminn _ => some ⟨0x25, 3, fun e _ => .ofNat 32 (((actives e).map (·.toNat)).foldl min (2 ^ 32 - 1))⟩
  | .redmaxn _ => some ⟨0x25, 4, fun e _ => .ofNat 32 (((actives e).map (·.toNat)).foldl max 0)⟩
  | .redand _ => some ⟨0x25, 5, fun e _ => (actives e).foldl (· &&& ·) (.allOnes 32)⟩
  | .redor _ => some ⟨0x25, 6, fun e _ => (actives e).foldl (· ||| ·) 0#32⟩
  | .redxor _ => some ⟨0x25, 7, fun e _ => (actives e).foldl (· ^^^ ·) 0#32⟩
  | .segadd _ => some ⟨0x26, 0, fun e l => total e (segment e l)⟩
  | .segaddi _ => some ⟨0x26, 1, fun e l => total e ((segment e l).filter (fun j => decide (j ≤ l)))⟩
  | .scanadd _ => some ⟨0x26, 2, fun e l => total e (e.act.filter (fun j => decide (j < l)))⟩
  | .scanaddi _ => some ⟨0x26, 3, fun e l => total e (e.act.filter (fun j => decide (j ≤ l)))⟩
  | .vdist _ => some ⟨0x3F, 3, fun e l => distance (ctxD s (ctxIs s i)).dies (wa e l).toNat (wb e l).toNat⟩
  | .vdinfo _ => some ⟨0x3F, 4, fun e l => match (ctxD s (ctxIs s i)).dies[(wa e l).toNat]? with
      | none => 0#32
      | some d => .ofNat 32 (heldQuads s (ctxIs s i) d * 2 ^ 16 + heldCores s (ctxIs s i) d)⟩
  | _ => none

/-! ### What a table of results says -/

/-- One word per active lane: where the group can issue the instruction it does, under the opcode and function of the table; every
active lane receives the word of the rule, and all else is as the frame says. -/
def OneWord (table : Instr → Option (Row Word)) : Prop :=
  ∀ (ins : Instr) (r : Raw) (g : Row Word) (i : Issue) (s : State), table ins = some g → rawOf ins = some r → wf ins = true →
    ready r i s = true →
    r.op.toNat = g.op ∧ r.f.toNat = g.f ∧
    ∃ t, exec ins s = .next t ∧ Advances r i (fibIs s i) [dstReg r i s 0] s t ∧ Receives r i s t 0 (g.val (ops r i s))

/-- One pair per active lane, low word first (R52). -/
def OnePair (table : Instr → Option (Row DWord)) : Prop :=
  ∀ (ins : Instr) (r : Raw) (g : Row DWord) (i : Issue) (s : State), table ins = some g → rawOf ins = some r → wf ins = true →
    ready r i s = true →
    r.op.toNat = g.op ∧ r.f.toNat = g.f ∧
    ∃ t, exec ins s = .next t ∧ Advances r i (fibIs s i) [dstReg r i s 0, dstReg r i s 1] s t ∧
      Receives r i s t 0 (fun l => (g.val (ops r i s) l).extractLsb' 0 32) ∧
      Receives r i s t 1 (fun l => (g.val (ops r i s) l).extractLsb' 32 32)

/-- One rounded word per active lane; an issue in mode .rs steps the generator once and draws the words of R78 from it (R230). -/
def Rounded (table : Instr → Option FRow) : Prop :=
  ∀ (ins : Instr) (r : Raw) (g : FRow) (i : Issue) (s : State), table ins = some g → rawOf ins = some r → wf ins = true →
    ready r i s = true →
    ∃ t, exec ins s = .next t ∧ Advances r i (drawn g.rm (fibIs s i)) [dstReg r i s 0] s t ∧
      Receives r i s t 0 (fun l => .ofNat 32 (g.val (draw g.rm (fibIs s i)) (ops r i s) l))

/-- One rounded pair per active lane. -/
def RoundedPair (table : Instr → Option FRow) : Prop :=
  ∀ (ins : Instr) (r : Raw) (g : FRow) (i : Issue) (s : State), table ins = some g → rawOf ins = some r → wf ins = true →
    ready r i s = true →
    ∃ t, exec ins s = .next t ∧ Advances r i (drawn g.rm (fibIs s i)) [dstReg r i s 0, dstReg r i s 1] s t ∧
      Receives r i s t 0 (fun l => (BitVec.ofNat 64 (g.val (draw g.rm (fibIs s i)) (ops r i s) l)).extractLsb' 0 32) ∧
      Receives r i s t 1 (fun l => (BitVec.ofNat 64 (g.val (draw g.rm (fibIs s i)) (ops r i s) l)).extractLsb' 32 32)

/-! ### Control (R199 to R220) -/

/-- Lane `l` is in mask `k` of a fibre; m0 is the live lanes (R64). -/
def inMask (x : Fibre) (k l : Nat) : Bool := if k = 0 then (laneD x l).live else (x.masks.getD k 0).getLsbD l

/-- The mask word of the lanes that a predicate names. -/
def bitsOf (p : Nat → Bool) : Word := .ofNat 32 (((List.range 32).map (fun l => if p l then 2 ^ l else 0)).sum)

/-- R206, R195: the mask that an instruction writes and the lanes of its new word. -/
def maskRow (ins : Instr) (x : Fibre) (e : Env) : Option (Nat × (Nat → Bool)) :=
  match ins with
  | .join r => some (r.d.toNat, fun l => inMask x r.d.toNat l || decide (l ∈ e.act))
  | .leave r => some (r.d.toNat, fun l => inMask x r.d.toNat l && !decide (l ∈ e.act))
  | .mset r => some (r.d.toNat, fun l => decide (l ∈ e.act))
  | .mand r => some (r.d.toNat, fun l => inMask x r.a.toNat l && inMask x r.b.toNat l)
  | .mor r => some (r.d.toNat, fun l => inMask x r.a.toNat l || inMask x r.b.toNat l)
  | .mclr r => some (r.d.toNat, fun _ => false)
  | .mnot r => some (r.d.toNat, fun l => inMask x 0 l && !inMask x r.a.toNat l)
  | .mwrite r => some (r.d.toNat, fun l => (wa e (lowest e.act)).getLsbD l)
  | _ => none

/-- R146: an address and a signed parcel offset. -/
def parcelsFrom (pc : DWord) (imm : Word) : DWord := .ofInt 64 (pc.toNat + 2 * imm.toInt)

/-- R199: the program counters that BRA, BNZ and BZ give the active lanes. -/
def branchRow (ins : Instr) (i : Issue) (e : Env) : Option (Nat → DWord) :=
  match ins with
  | .bra r => some (fun _ => parcelsFrom i.pc r.imm)
  | .bnz r => some (fun l => if wa e l ≠ 0 then parcelsFrom i.pc r.imm else i.next)
  | .bz r => some (fun l => if wa e l = 0 then parcelsFrom i.pc r.imm else i.next)
  | _ => none

/-- R210 to R213, R219: the barrier at which an instruction holds its lanes, and whether it goes on to a wait. -/
def arriveRow (ins : Instr) : Option (Nat × Bool) :=
  match ins with
  | .bararv r => some (r.a.toNat, false)
  | .barsync r => some (r.a.toNat, true)
  | .fbar _ => some (32, false)
  | .qbar _ => some (33, false)
  | .dbar _ => some (34, false)
  | .pbar _ => some (35, false)
  | _ => none

/-- R211, R212: the fibre after a BARWAIT that completes: the pending phase cleared, or one completion more. -/
def waited (x : Fibre) (n : Nat) : Fibre :=
  if n < 16 then { x with pend := x.pend.set n none } else { x with mwaits := x.mwaits.modify (n - 16) (· + 1) }

/-! ### Traps (R42, R408, R431) -/

/-- A trap of the issuing fibre: it freezes, its registers and memory stand as before the instruction, and a new ticket holds the
record: kind and detail, task, lanes, repeat index of the lowest, address and words of the instruction, and the fields `more`. -/
structure Traps (i : Issue) (kind detail : Nat) (ls : List Nat) (more : List (Nat × Nat)) (s t : State) : Prop where
  frozen : (fibIs t i).st = .frozen ∧ (fibIs t i).wait = none
  regs : ∀ b k a, reg t b k a = reg s b k a
  memory : t.mem = s.mem ∧ t.sram = s.sram ∧ t.ops = s.ops ∧ t.mappings = s.mappings ∧ t.ctxs = s.ctxs
  fibres : ∀ b k f, ¬(b = i.blk ∧ k = i.slot ∧ f = i.fib) → fibD t b k f = fibD s b k f
  idle : t.cur = none
  ticket : ∃ k, mget t.tickets s.nextTicket = some k ∧ t.nextTicket = s.nextTicket + 1 ∧
    k.src = .fibre i.blk i.slot i.fib ∧ k.ctx = (blkD s i.blk).ctx ∧ k.words.length = 32 ∧
    k.words[0]? = some (BitVec.ofNat 32 (kind + 65536 * detail)) ∧ k.num = ticketNum s ∧ k.words[1]? = some (BitVec.ofNat 32 k.num) ∧
    k.words[4]? = some (BitVec.ofNat 32 (blkD s i.blk).task) ∧ k.words[6]? = some (BitVec.ofNat 32 (maskOf ls)) ∧
    k.words[8]? = some (i.pc.extractLsb' 0 32) ∧ k.words[9]? = some (i.pc.extractLsb' 32 32) ∧
    k.words[10]? = some i.insn ∧ k.words[11]? = some i.ext ∧
    ∀ p ∈ more, 12 ≤ p.1 ∧ p.1 < 32 → (more.filter (fun q => q.1 == p.1)).length = 1 → k.words[p.1]? = some (BitVec.ofNat 32 p.2)

/-- R341, R431: a trap of a block's sequencer: it stops at the instruction, the machine stands as before it, and a new ticket holds the
record: kind and detail, agent 1, task, address and words of the instruction. -/
structure SeqTraps (i : Issue) (kind detail : Nat) (s t : State) : Prop where
  stopped : seqD t i.blk = { seqD s i.blk with st := .frozen }
  fibres : ∀ b k f, fibD t b k f = fibD s b k f
  regs : ∀ b k a, reg t b k a = reg s b k a
  memory : t.mem = s.mem ∧ t.sram = s.sram ∧ t.ops = s.ops ∧ t.mappings = s.mappings ∧ t.ctxs = s.ctxs
  ticket : ∃ k, mget t.tickets s.nextTicket = some k ∧ t.nextTicket = s.nextTicket + 1 ∧
    k.src = .seqr i.blk ∧ k.ctx = (blkD s i.blk).ctx ∧ k.words.length = 32 ∧
    k.words[0]? = some (BitVec.ofNat 32 (kind + 65536 * detail + 0x01000000)) ∧ k.words[1]? = some (BitVec.ofNat 32 k.num) ∧
    k.words[4]? = some (BitVec.ofNat 32 (blkD s i.blk).task) ∧ k.words[6]? = some 0 ∧ k.words[7]? = some 0 ∧
    k.words[8]? = some (i.pc.extractLsb' 0 32) ∧ k.words[9]? = some (i.pc.extractLsb' 32 32) ∧
    k.words[10]? = some i.insn ∧ k.words[11]? = some i.ext

/-! ### The course of a lane instruction -/

/-- What a wait keeps: the lanes that have parked and so do not wait, those whose condition already holds, and the words read (R214). -/
structure Held where
  parked : List Nat := []
  done : List Nat := []
  last : List Word := []
  deriving DecidableEq, Repr

/-- The operands with which a waiting instruction is examined again: those of its issue, of the lanes that have not parked. -/
def heldOps (r : Raw) (i : Issue) (s : State) (h : Held) : Env :=
  let e := ops r i s
  if h.parked = [] then e else
  { e with i := { i with lanes := i.lanes.filter (· ∉ h.parked) }, act := e.act.filter (· ∉ h.parked) }

/-- The registers of a fibre that waits in an instruction (R35, R57, R214): its operands have been read, so the marked ones are dead
unless a lane has parked, whose retry reads them (log entry 25), and the waiting lanes of its destinations await the result. -/
def awaited (r : Raw) (e : Env) (h : Held) (v : State) : State :=
  (destRegs r e.wb).foldl (fun u a => awaitArch u e.i.blk e.i.slot e.i.fib a v.nextId e.act)
    (if h.parked = [] then killArch v e.i.blk e.i.slot (markedRegs r e.wb) else v)

/-- The fibre waits in the instruction (R214): it is examined again with the operands of its issue, and nothing else has changed
since the state `v` that the examination left, but that its result is awaited. -/
structure Waits (r : Raw) (i : Issue) (s v : State) (h : Held) (t : State) : Prop where
  within : Within i { v with nextId := v.nextId + 1 } t
  idle : t.cur = none
  regs : ∀ b k a, reg t b k a = reg (awaited r (heldOps r i s h) h v) b k a
  fibre : FibreAfter (fibIs v i) (fibIs t i)
  lanes : (fibIs t i).lanes = (fibIs v i).lanes
  stores : t.stores = v.stores
  wait : ∃ w, (fibIs t i).wait = some w ∧ w.kind = .retry ∧ w.lanes = (heldOps r i s h).i.lanes ∧
    w.env = some (heldOps r i s h) ∧ w.id = v.nextId ∧ w.start = v.clk ∧ w.done = h.done ∧ w.last = h.last

/-- Nothing issues at this step, and nothing but residence has changed (R424, R33). -/
structure Stays (i : Issue) (s t : State) : Prop where
  within : Within i s t
  idle : t.cur = none
  regs : ∀ b k a, reg t b k a = reg s b k a
  fibres : ∀ b k f, fibD t b k f = fibD s b k f
  stores : t.stores = s.stores

/-- What an instruction of a group that can issue does: it goes on, its own effect leaving the machine as a state; it sets the
program counters itself; some of its lanes park and the others go on; it traps; it waits, its examination leaving the machine as
a state; it does not issue yet; or it does not issue yet, and what it has asked for meanwhile, or counted of its stall, leaves the
machine as a state. -/
inductive Course
  | goes (v : State)
  | jumps (v : State)
  | parts (v : State)
  | traps (kind detail : Nat) (lanes : List Nat) (more : List (Nat × Nat))
  | waits (v : State) (h : Held := {})
  | stays
  | asks (v : State)

/-- The step follows the course. -/
def Follows (r : Raw) (i : Issue) (s : State) (o : Out) (c : Course) : Prop :=
  ∃ t, o = .next t ∧
    match c with
    | .goes v => Issued i v t
    | .jumps v => Jumped i v t
    | .parts v => Issued i v t
    | .traps kind detail ls more => Traps i kind detail ls more s t ∧ (fibIs t i).lanes = (fibIs s i).lanes
    | .waits v h => Waits r i s v h t
    | .stays => Stays i (landed r i s) t
    | .asks v => Stays i v t

/-- A table of courses: from an instruction, the group, the operands of the issue, the state that the effect is made in (`prep`)
and the state in which it traps or parks (`touch`). -/
abbrev Courses := Instr → Issue → Env → State → State → Option Course

/-- Every instruction of a table follows its course, wherever its group can issue it. -/
def Keeps (table : Courses) : Prop :=
  ∀ (ins : Instr) (r : Raw) (i : Issue) (s : State) (c : Course), rawOf ins = some r → wf ins = true → ready r i s = true →
    table ins i (ops r i s) (prep r i s) (touch r i s) = some c → Follows r i s (exec ins s) c

/-! ### Courses of control (R200 to R226) -/

/-- Registers of the link under a window base (R202, R204). -/
def link (w : Nat) : List Nat := [archReg w 110, archReg w 111]

/-- Every active lane of a register receives a word, as a result of the issue. -/
def gives (e : Env) (a : Nat) (g : Nat → Word) (u : State) : State := writeArch u e.i.blk e.i.slot e.i.fib a e.lat e.act g

/-- The lanes `ls` of the issuing fibre become what `g` says. -/
def lanesTo (e : Env) (ls : List Nat) (g : Nat → Lane → Lane) (u : State) : State := updIs u e.i (fun x => updLanes x ls g)

/-- R200: an entry that raises the jump-table trap: its parcel index at or beyond the parcels of the code, its bytes 7:6 nonzero, or for
CALLX a budget that is no multiple of 8 from 8 to 112. -/
def entryWrong (kd : KDesc) (x : Bool) (j : JEntry) : Bool :=
  decide (kd.codelen ≤ j.index ∨ j.rsvd ≠ 0) || (x && decide (¬(j.budget % 8 = 0 ∧ 8 ≤ j.budget ∧ j.budget ≤ 112)))

/-- R200: BRX and CALLX up to their entries: the trap of an offset that is no multiple of 8, of the first lane whose entry lies outside
the section, or of the first whose entry is wrong (log entry 64); a stall; else what the lanes that have read an entry do, and whether it
parks a lane, the lanes whose entry could not be read parking with their faults (R147). -/
def jumpCourse (e : Env) (u w : State) (x : Bool) (imm : Word)
    (eff : State → List (Nat × JEntry) → State × Bool) : Option Course :=
  let kd := (blkD u e.i.blk).kd
  if imm.toNat % 8 ≠ 0 then some (.traps 0x06 0 e.act []) else
  match e.act.find? (fun l => decide (kd.jtlen < imm.toNat + 8 * (wa e l).toNat + 8)) with
  | some l => some (.traps 0x06 0 [l] [])
  | none =>
    match (readEntries u e imm).2.got.find? (fun p => entryWrong kd x p.2) with
    | some p => some (.traps 0x06 0 [p.1] [])
    | none =>
      if (readEntries u e imm).2.stall then some .stays else
      let run (v : State) : State × Bool :=
        let m := readEntries v e imm
        let p := eff m.1 m.2.got
        (parkBad p.1 e.i m.2.bad, p.2 || !m.2.bad.isEmpty)
      some (.jumps (if (run u).2 then (run w).1 else (run u).1))

/-- R200 to R205, R207, R208, R211, R212, R215 to R220, R226: control instructions. -/
def controlCourse : Courses := fun ins i e u w0 =>
  let x := fibIs u i
  let b := blkD u i.blk
  match ins with
  | .call r =>
    if depthOf x = 63 ∨ 896 < e.wb + 8 * r.d.toNat then some (.traps 0x05 2 e.act [])
    else
      let w := e.wb + 8 * r.d.toNat
      let back : DWord := i.pc + 8
      some (.jumps (updIs (gives e (archReg w 111) (fun _ => back.extractLsb' 32 32)
          (gives e (archReg w 110) (fun _ => back.extractLsb' 0 32) u)) i
        (fun x => updLanes { x with wstack := x.wb :: x.wstack, wb := w } e.act
          (fun _ y => { y with depth := y.depth + 1, st := .issuable }.goto (parcelsFrom i.pc r.imm) 0))))
  | .ret _ =>
    if depthOf x = 0 then some (.traps 0x05 4 e.act [])
    else
      let lo := readArch u i.blk i.slot (archReg e.wb 110)
      let hi := readArch u i.blk i.slot (archReg e.wb 111)
      some (.jumps (updIs u i (fun x => settleDepth (updLanes x e.act
        (fun l y => { y with depth := y.depth - 1 }.goto (hi.getD l 0 ++ lo.getD l 0) 0)))))
  | .exit _ => some (.jumps (updIs u i (fun x => exitLanes x e.act)))
  | .brx r => jumpCourse e u w0 false r.imm (fun v got =>
      (got.foldl (fun v q => lanesTo e [q.1] (fun _ y => y.goto (.ofNat 64 (b.kd.code + 2 * q.2.index)) 0) v) v, false))
  | .callx r =>
    let w := e.wb + 8 * r.d.toNat
    if depthOf x = 63 ∨ 896 < w then some (.traps 0x05 2 e.act [])
    else jumpCourse e u w0 true r.imm (fun v got =>
      let dear := (got.filter (fun q => decide (8 * r.d.toNat < q.2.budget))).map (·.1)
      let v1 := parkLanes v i dear (fun _ => .budget i.insn i.ext)
      match got.filter (fun q => decide (q.2.budget ≤ 8 * r.d.toNat)) with
      | [] => (v1, true)
      | (l, j) :: rest =>
        let ls := (((l, j) :: rest).filter (fun q => decide (q.2.index = j.index))).map (·.1)
        (enterCall e v1 ls (8 * r.d.toNat) (.ofNat 64 (b.kd.code + 2 * j.index)), !dear.isEmpty))
  | .waitm r => some (.jumps (lanesTo e e.act (fun _ y => { y with st := .held (.waitm r.a.toNat) i.next }) u))
  | .meet r => some (.goes (lanesTo e e.act (fun _ y => { y with meet := parcelsFrom i.pc r.imm }) u))
  | .meetclr _ => some (.goes (lanesTo e e.act (fun _ y => { y with meet := 0 }) u))
  | .barwait r =>
    if noBarrier u i r.a.toNat then some (.traps 0x04 0 e.act [])
    else if barOpen u i r.a.toNat then some (.goes (updIs u i (fun x => waited x r.a.toNat)))
    else some (.jumps (lanesTo e e.act (fun _ y =>
      { y with st := .held (.phase r.a.toNat ((x.pend.getD r.a.toNat none).getD 0)) i.next }) u))
  | .bartry r =>
    if noBarrier u i r.a.toNat then some (.traps 0x04 0 e.act [])
    else some (.goes (gives e (archReg e.wb r.d.toNat) (fun _ => truth (barOpen u i r.a.toNat = true)) u))
  | .win r =>
    if 112 < r.d.toNat then some (.traps 0x05 1 e.act [])
    else some (.goes (updIs (fadeArch u i.blk i.slot (leftBehind u i (8 * r.d.toNat) e.wb)) i
      (fun x => { x with wb := 8 * r.d.toNat })))
  | .fyield _ => some (.goes u)
  | .nop _ => some (.goes u)
  | .fspawn r =>
    let l := lowest e.act
    let give (v : Word) := gives e (archReg e.wb r.d.toNat) (fun _ => v)
    if (wd e.b 1 l).toNat % 8 ≠ 0 ∨ 896 < (wd e.b 1 l).toNat then some (.traps 0x05 1 e.act [])
    else if wd e.b 0 l = 0 then some (.goes (give 0xFFFFFFFE u))
    else match (List.range 4).find? (fun f => decide ((fibD u i.blk i.slot f).st = .empty)) with
      | none => some (.goes (give 0xFFFFFFFF u))
      | some f => some (.goes (give (.ofNat 32 f) (updFib u i.blk i.slot f (fun _ =>
          startFib (pr e.a 0 l) (wd e.b 0 l) (wd e.b 1 l).toNat (fibSeed u i.blk i.slot f)))))
  | .fstop _ =>
    let f := (wa e (lowest e.act)).toNat
    let y := fibD u i.blk i.slot f
    if 3 < f ∨ ¬(y.st = .live ∨ y.st = .frozen) then some (.goes u)
    else if y.st = .live ∧ (f = i.fib ∨ y.wait = none) then
      some (.goes (updFib (closeWindow u i.blk i.slot f) i.blk i.slot f stopFib))
    else some (.goes (updFib u i.blk i.slot f (fun y => { y with stopReq := true })))
  | .kill r => some (.goes (killArch u i.blk i.slot ((List.range (r.a.toNat + 1)).map (fun j => archReg e.wb (r.d.toNat + j)))))
  | .brk r => some (.traps 0x09 0 e.act [(15, r.d.toNat * 2 ^ 14 + r.a.toNat * 2 ^ 7 + r.b.toNat)])
  | _ => none

/-- R195, R199, R206, R210 to R213, R219: masks, branches and arrivals. -/
def flowCourse : Courses := fun ins i e u _ =>
  match maskRow ins (fibIs u i) e with
  | some p => some (.goes (updIs u i (fun x => { x with masks := x.masks.set p.1 (bitsOf p.2) })))
  | none => match branchRow ins i e with
    | some g => some (.jumps (lanesTo e e.act (fun l y => y.goto (g l) 0) u))
    | none => match arriveRow ins with
      | some p =>
        if noBarrier u i p.1 then some (.traps 0x04 0 e.act [])
        else some (.jumps (lanesTo e e.act (fun _ y => { y with st := .held (.arrive p.1 p.2) i.next }) u))
      | none => none

/-! ### Courses of memory instructions (R253 to R272, R223) -/

/-- R254: a per-lane global access of `n` bytes: the trap of the lowest lane with a misaligned address or one outside the
canonical ranges (R88); a locked page (R424) or the miss cap (R465) holds the issue; lanes with a page fault park; the others perform
`eff`, and their requests go to L2 under a policy of retention (R258, R463). -/
def globalCourse (q : Retain) (i : Issue) (e : Env) (u w : State) (k : AccKind) (al n : Nat) (ea : Nat → Nat)
    (eff : State → List GLane → State) : Option Course :=
  match e.act.find? (fun l => decide (ea l % al ≠ 0) || (spanOf (ea l) n).any (fun a => !canonical a)) with
  | some l => some (.traps 0x02 0 [l] [(12, ea l % 2 ^ 32), (13, ea l / 2 ^ 32)])
  | none =>
    let met (v : State) : Met := gMeet v i k n ea e.act
    let run (v : State) : State := sendAll q i (coreIs v i) k v.nextId (eff (met v).s (met v).ok) ((met v).ok.flatMap (·.2))
    if (met w).stall then some (.asks (met w).s)
    else if (met w).bad = [] then some (.goes (run u))
    else some (.parts (parkBad (run w) i (met w).bad))

/-- R254, R93: a per-lane local access of `n` bytes; lanes whose stash line does not serve it park (R104). -/
def localCourse (i : Issue) (e : Env) (u w : State) (store : Bool) (al n : Nat) (la : Nat → Nat)
    (eff : State → List (Nat × Nat × Nat) → State) : Option Course :=
  match e.act.find? (fun l => decide (la l % al ≠ 0) || decide (localOk u (ctxIs u i) (coreIs u i) (la l) n store = none)) with
  | some l => some (.traps 0x03 0 [l] [(12, la l % 2 ^ 32), (13, la l / 2 ^ 32)])
  | none =>
    let met (v : State) : State × LMet := lMeet v i store n la e.act
    let run (v : State) : State := eff (capFree (met v).1 i) (met v).2.ok
    if (met w).2.stall then some (.asks (stallLocal (met w).1 i (met w).2))
    else if (met w).2.park = [] then some (.goes (run u))
    else some (.parts (parkLocal (run w) i (met w).2.park))

/-- R261, R263: a returning update at the homes, lane by lane in ascending order. -/
def returning (r : Raw) (e : Env) (n : Nat) (v : State) (ls : List GLane) : State :=
  updateLanes r e n (Forms.immOf r / 4 % 8) (Forms.immOf r % 4) v (ls.map (fun l => (l.1, .glob l.2))) (fun l => (pa e l).toNat)
    (fun l => if n = 8 then (pb e l).toNat else (wb e l).toNat) (fun l => if n = 8 then (pc e l).toNat else (wc e l).toNat)

/-- R261, R133, R265: an update without a return value is an operation of class A, which holds the operands, and with order .rel what
each lane has seen. -/
def posting (r : Raw) (i : Issue) (e : Env) (n : Nat) (v : State) (ls : List GLane) : State :=
  if ls = [] ∧ e.act ≠ [] then v
  else startOp (if Forms.immOf r % 4 = 2 then ls.foldl (fun t l => joinView t (agentOf i l.1) (releaseView (32 * v.nextId + l.1))) v
      else v) i 2 .atomic (fun o => { o with
    code := 8 * r.op.toNat + r.f.toNat, w := n, x := Forms.immOf r % 4, scope := (Forms.immOf r) / 4 % 8
    elems := ls.map (fun l => { lane := l.1, va := (pa e l.1).toNat, pa := l.2.headD 0,
                                val := if n = 8 then (pb e l.1).toNat else (wb e l.1).toNat,
                                val2 := if n = 8 then (pc e l.1).toNat else (wc e l.1).toNat }) })

/-- R261: ATOM, ATOMB and RED. -/
def updateCourse (r : Raw) (posts : Bool) (n : Nat) (i : Issue) (e : Env) (u w : State) : Option Course :=
  if posts ∧ 63 ≤ (fibIs u i).ctrs.getD 2 0 then some .stays
  else globalCourse .usual i e u w .atomic n n (fun l => (pa e l).toNat) (fun v ls =>
    if posts then posting r i e n v ls else returning r e n v ls)

/-- R256 to R265, R267, R272, R223. -/
def memoryCourse : Courses := fun ins i e u w =>
  match ins with
  | .ld r =>
    let n := Forms.loadWidth r.f.toNat
    globalCourse (retainOf r.b.toNat) i e u w .read 1 n (globalEa e r.x.imm.toInt) (fun v ls =>
      let p := gReadLanesBy (retainOf r.b.toNat) v i ls
      fly (writeLoad (r.raw 0x28#7) e r.f.toNat n p.2 p.1) (ls.map (fun l =>
        { flightOf (r.raw 0x28#7) e r.f.toNat n p.1 false l.1 (globalEa e r.x.imm.toInt l.1) l.2 0 0 with pol := r.b.toNat })))
  | .st r =>
    let n := Forms.storeWidth r.f.toNat
    globalCourse (retainOf r.b.toNat) i e u w .write 1 n (globalEa e r.x.imm.toInt) (fun v ls =>
      ls.foldl (fun t l => gStore (retainOf r.b.toNat) t i v.nextId l.1 (globalEa e r.x.imm.toInt l.1) l.2 (storeBytes e n l.1))
        (addStore v i 3 .plain))
  | .ldl r =>
    let n := Forms.loadWidth r.f.toNat
    localCourse i e u w false 1 n (localEa e r.x.imm.toInt) (fun v ls =>
      let p := lReadLanes v i n (localEa e r.x.imm.toInt) ls
      fly (writeLoad (r.raw 0x2A#7) e r.f.toNat n p.2 p.1) (ls.map (fun l =>
        flightOf (r.raw 0x2A#7) e r.f.toNat n p.1 true l.1 (localEa e r.x.imm.toInt l.1) (localLocs p.1 l.2.1 l.2.2 n) 0 0)))
  | .stl r =>
    let n := Forms.storeWidth r.f.toNat
    localCourse i e u w true 1 n (localEa e r.x.imm.toInt) (fun v ls =>
      ls.foldl (fun t l => lStore t i v.nextId l.1 (localEa e r.x.imm.toInt l.1) l.2.1 l.2.2 (storeBytes e n l.1))
        (addStore v i 3 .plain))
  | .atom r => updateCourse (r.raw 0x2C#7) (r.x.imm.getLsbD 5) 4 i e u w
  | .atomb r => updateCourse (r.raw 0x2D#7) (r.x.imm.getLsbD 5) (if 6 ≤ r.f.toNat then 8 else 4) i e u w
  | .red r => updateCourse (r.raw 0x2F#7) true 4 i e u w
  | .atoml r =>
    localCourse i e u w true 4 4 (fun l => (wa e l).toNat) (fun v ls =>
      updateLanes (r.raw 0x2E#7) e 4 (r.x.imm.toNat / 4 % 8) (r.x.imm.toNat % 4) v (ls.map (fun l => (l.1, .loc l.2.1 l.2.2)))
        (fun l => (wa e l).toNat) (fun l => (wb e l).toNat) (fun l => (wc e l).toNat))
  | .joinc r =>
    globalCourse .usual i e u w .atomic 4 4 (fun l => (pa e l).toNat) (fun v ls =>
      updateLanes (r.raw 0x3F#7 1#3) e 4 3 2 v (ls.map (fun l => (l.1, .glob l.2))) (fun l => (pa e l).toNat)
        (fun l => (wb e l).toNat) (fun _ => 0))
  | .fence r => some (.goes (e.act.foldl (fun v l => fenceBy v r.b.toNat (agentOf i l)) (landLanes u i e.act)))
  | .pref r =>
    some (.goes (e.act.foldl (fun v l =>
      let a := globalEa e r.x.imm.toInt l
      if canonical a = false then v else
      match xlate v (ctxIs v i) (coreIs v i) a .read with
      | .ok p => if r.f = 1 then touchMsc v (ctxIs v i) false [p] else touchL2 .usual v (coreIs v i / 64) false (p / 64)
      | _ => noteBadLeaf v (ctxIs v i) a .read) u))
  | _ => none

/-! ### Courses of synchronisation (R126 to R130, R214, R266 to R292) -/

/-- R252: a status word to every active lane of field D. -/
def status (e : Env) (r : R3) (w : Word) (u : State) : State := gives e (archReg e.wb r.d.toNat) (fun _ => w) u

/-- R266, R268: the object instructions: the trap of the lowest lane, else each acting set in order of its lowest lane. -/
def objectCourse (i : Issue) (e : Env) (u w : State) (act : State → List Nat → List Nat → State) : Option Course :=
  match e.act.find? (fun l => decide ((pa e l).toNat % 8 ≠ 0) || (spanOf (pa e l).toNat 8).any (fun a => !canonical a)) with
  | some l => some (.traps 0x02 0 [l] [(12, (pa e l).toNat % 2 ^ 32), (13, (pa e l).toNat / 2 ^ 32)])
  | none =>
    let sets := (actingSets e).map (fun p => (p.2, xlSpan u i .atomic p.1 8))
    let run (v : State) : State := sets.foldl (fun v p => match p.2 with
      | .ok pas => act (asked v i .atomic (spanOf (pa e (lowest p.1)).toNat 8) pas) p.1 pas
      | .error (va, .fault c st lv) => parkLanes v i p.1 (fun _ => .fault (faultInfo v i .atomic 2 va c st lv))
      | .error _ => v) v
    match sets.find? (fun p => match p.2 with
        | .error (_, .locked) => true
        | .error (_, .ok _) => true
        | _ => false) with
    | some (_, .error (_, .ok _)) => some (.asks (capHold w i))
    | some _ => some .stays
    | none => if sets.all (fun p => p.2.toOption.isSome) then some (.goes (run u)) else some (.parts (run w))

/-- R130: an acquire by an acting set. The object word holds HOLD in bits 31:0 and RCNT in bits 63:32. A free object that none waits for is
taken: HOLD becomes 0xFFFFFFFF, or of a shared acquire one more, and the lanes receive RCNT and what the object's releases have
published. Else the lanes wait at the object's home, behind those that came before (log entry 59). A poisoned word gives its lanes
poison and is left as it is (R492). -/
def acquires (r : Raw) (excl : Bool) (i : Issue) (e : Env) (v : State) (ls pas : List Nat) : State :=
  let at' := pas.headD 0
  let word := newBytes v at' 8
  let hold := leNat word.1 % 2 ^ 32
  let rcnt : Word := .ofNat 32 (leNat word.1 / 2 ^ 32)
  let d := archReg e.wb r.d.toNat
  let free := if excl then hold = 0 else hold < 0xFFFFFFFE
  let read : State := (gRead v (ctxIs v i) ((List.range 8).map (at' + ·))).1
  let seen (t : State) : State := ls.foldl (fun t l => acquireAt t [at'] (agentOf i l) r.b.toNat true) t
  let give (t : State) : State := writeArch (seen t) i.blk i.slot i.fib d e.lat ls (fun _ => rcnt)
  if word.2 then poisonArch (give read) i.blk i.slot d ls
  else if free ∧ v.acqs.all (fun a => decide (a.pa ≠ at') || decide (v.nextId ≤ a.id) || acqFrozen v a) = true then
    give (gWrite read (ctxIs v i) ((List.range 4).map (at' + ·)) (natLe 4 (if excl then 0xFFFFFFFF else hold + 1)))
  else
    updIs (awaitArch { v with nextId := v.nextId + 1, acqs := v.acqs ++ [
        { id := v.nextId, blk := i.blk, slot := i.slot, fib := i.fib, lanes := ls, va := (pa e (lowest ls)).toNat, pa := at', excl := excl,
          reg := d, scope := r.b.toNat, next := i.next, rep := i.repNext }] } i.blk i.slot i.fib d v.nextId ls) i
      (fun x => updLanes x ls (fun _ y => { y with st := .held .object i.next }))

/-- R129: a release by an acting set, in one update of the object word: RCNT rises by 1 modulo 2^32, and HOLD falls by 1, or to 0 from
0xFFFFFFFF; HOLD 0 stays. What some lane of the set has seen of the bound regions is published there. A poisoned word is left as it is,
with a deferred record (R492). -/
def releasesTo (scope : Nat) (i : Issue) (e : Env) (v : State) (ls pas : List Nat) : State :=
  let p := rmwAt v (ctxIs v i) pas (fun w =>
    let hold := w % 2 ^ 32
    some ((w / 2 ^ 32 + 1) % 2 ^ 32 * 2 ^ 32 + (if hold = 0xFFFFFFFF then 0 else hold - 1)))
  if p.2.2 then deferredRec p.1 (ctxIs v i) 8 (pas.headD 0)
  else publishBound p.1 i scope (pa e (lowest ls)).toNat (pas.headD 0) ls

/-- R287: a ring instruction traps where its address names no ring; its fibre may already wait in it. -/
def ringCourse (i : Issue) (e : Env) (u : State) (body : Nat → Nat → Ring → Option Course) : Option Course :=
  let a := (wa e (lowest e.act)).toNat
  if (fibIs u i).wait ≠ none then none else
  match ringAt u (ctxIs u i) (coreIs u i) a with
  | none => some (.traps 0x03 0 e.act [(12, a % 2 ^ 32), (13, a / 2 ^ 32)])
  | some (key, n) => body key n (ringD u key n)

/-- R288: a blocked fibre joins the waiters of its ring, in arrival order. -/
def queues (w : State) (i : Issue) (key : Nat) (q : Ring) (put : Bool) : State :=
  { w with rings := mset w.rings key { q with waiters := q.waiters ++ [(i.blk, 4 * i.slot + i.fib, put)] } }

/-- R288: QPUT and QPUTN. -/
def putCourse (r : R3) (block : Bool) (i : Issue) (e : Env) (u w : State) : Option Course :=
  ringCourse i e u (fun key n q =>
    if q.closed then some (.goes (status e r 1 u))
    else if q.tail - q.head = q.cap then (if block then some (.waits (queues w i key q true)) else some (.goes (status e r 2 u)))
    else some (.goes (status e r 0 (serveRing (putEntry u key q (fun l => if l ∈ e.act then wb e l else 0)) key n))))

/-- R288: QGET and QGETN. -/
def getCourse (r : R3) (block : Bool) (i : Issue) (e : Env) (u w : State) : Option Course :=
  let pair (g : Nat → Word) (st : Word) (v : State) : State :=
    gives e (archReg e.wb (r.d.toNat + 1)) (fun _ => st) (gives e (archReg e.wb r.d.toNat) g v)
  ringCourse i e u (fun key n q =>
    if 0 < q.tail - q.head then
      some (.goes (poisonArch (pair (headWord u key q) 0 (serveRing { u with rings := mset u.rings key { q with head := q.head + 1 } } key n))
        i.blk i.slot (archReg e.wb r.d.toNat) (e.act.filter (headBad u key q))))
    else if q.closed then some (.goes (pair (fun _ => 0) 1 u))
    else if block then some (.waits (queues w i key q false)) else some (.goes (pair (fun _ => 0) 2 u)))

/-- R214: TRYW and TRYWL at their first read. `read`: the state after the read of the lanes and the parking of those that met a fault or
an absent line, with the lanes that have read, those that have parked, and what was read. A lane completes where its condition holds; once
every lane that has read completes, its destination takes the word read, else they wait. -/
def tryCourse (r : RX) (i : Issue) (e : Env) (u w : State) (read : State → State × List Nat × List Nat × List Got) : Option Course :=
  let word (gs : List Got) (l : Nat) : Word := .ofNat 32 (leNat (gotBytes gs l))
  let done (v : State) : State :=
    let p := read v
    poisonArch (writeArch p.1 i.blk i.slot i.fib (archReg e.wb r.d.toNat) e.lat p.2.1 (word p.2.2.2)) i.blk i.slot
      (archReg e.wb r.d.toNat) (p.2.1.filter (gotAnyBad p.2.2.2))
  let p := read w
  let holds (l : Nat) : Bool := decide (word p.2.2.2 l = wb e l) == r.x.imm.getLsbD 0
  if (fibIs u i).wait ≠ none then none
  else if p.2.1.all holds then some (if p.2.2.1 = [] then .goes (done u) else .parts (done w))
  else some (.waits p.1 { parked := p.2.2.1, done := p.2.1.filter holds
                          last := lanes32.map (fun l => if l ∈ p.2.1 then word p.2.2.2 l else 0) ++
                            [.ofNat 32 (maskOf (lanes32.filter (fun l => decide (l ∈ p.2.1) && gotAnyBad p.2.2.2 l)))] })

/-- R129, R130, R214, R270, R281 to R284, R287 to R291. -/
def syncCourse : Courses := fun ins i e u w =>
  let b := blkD u i.blk
  let l := lowest e.act
  match ins with
  | .acqx r => objectCourse i e u w (acquires (r.raw 0x30#7 1#3) true i e)
  | .acqs r => objectCourse i e u w (acquires (r.raw 0x30#7 2#3) false i e)
  | .rel r => objectCourse i e u w (releasesTo r.b.toNat i e)
  | .bind r =>
    let o := (pa e l).toNat
    let base := (pb e l).toNat
    let len := (wd e.b 2 l).toNat
    if o % 8 ≠ 0 ∨ !canonical o then some (.traps 0x02 0 e.act [(12, o % 2 ^ 32), (13, o / 2 ^ 32)])
    else if !canonical base then some (.traps 0x02 0 e.act [(12, base % 2 ^ 32), (13, base / 2 ^ 32)])
    else if 32 ≤ b.binds.length ∨ base % 64 ≠ 0 ∨ len % 64 ≠ 0 ∨ len = 0 ∨ 2 ^ 30 < len ∨
        (if base < 2 ^ 63 then 2 ^ 56 < base + len else 2 ^ 64 < base + len) then some (.goes (status e r 1 u))
    else some (.goes (status e r 0 (updBlk u i.blk (fun b => { b with binds := b.binds ++ [⟨o, base, len⟩] }))))
  | .unbind r =>
    let o := (pa e l).toNat
    if o % 8 ≠ 0 ∨ !canonical o then some (.traps 0x02 0 e.act [(12, o % 2 ^ 32), (13, o / 2 ^ 32)])
    else some (.goes (status e r (.ofNat 32 (b.binds.filter (fun x => decide (x.obj = o))).length)
      (updBlk u i.blk (fun b => { b with binds := b.binds.filter (fun x => decide (x.obj ≠ o)) }))))
  | .hwait r =>
    if handleSt u i.blk r.a.toNat = .filling ∨ handleSt u i.blk r.a.toNat = .draining then some (.waits w) else some (.goes u)
  | .hstate r =>
    some (.goes (status e r (match handleSt u i.blk r.a.toNat with
      | .free => 0
      | .filling => 1
      | .full => 2
      | .draining => 3) u))
  | .htry r =>
    some (.goes (status e r (truth (handleSt u i.blk r.a.toNat = .free ∨ handleSt u i.blk r.a.toNat = .full)) u))
  | .hdrain r =>
    match mget b.handles r.a.toNat with
    | none => some (.goes (status e r 1 u))
    | some h =>
      if h.decl.out = false then some (.goes (status e r 1 u))
      else if h.st = .full then some (.goes (status e r 0 (setHandle u i.blk r.a.toNat .draining)))
      else some (.goes (status e r 2 u))
  | .hfree r =>
    if handleSt u i.blk r.a.toNat = .full then some (.goes (status e r 0 (setHandle u i.blk r.a.toNat .free)))
    else some (.goes (status e r 1 u))
  | .qput r => putCourse r true i e u w
  | .qputn r => putCourse r false i e u w
  | .qget r => getCourse r true i e u w
  | .qgetn r => getCourse r false i e u w
  | .qcount r => ringCourse i e u (fun _ _ q =>
      some (.goes (status e r (.ofNat 32 ((if q.closed then 2 ^ 31 else 0) + (q.tail - q.head))) u)))
  | .qclose _ => ringCourse i e u (fun key n q =>
      some (.goes (serveRing { u with rings := mset u.rings key { q with closed := true } } key n)))
  | .waitc r =>
    let close (v : State) : State := if r.a = 0 then closeWindow v i.blk i.slot i.fib else v
    if 63 ≤ r.b.toNat ∨ (fibIs u i).ctrs.getD r.a.toNat 0 ≤ r.b.toNat then some (.goes (close u)) else some (.waits (close w))
  | .rdc r => some (.goes (status e r (.ofNat 32 ((fibIs u i).ctrs.getD r.a.toNat 0)) u))
  | .tryw r =>
    let ea (l : Nat) := (pa e l).toNat
    match e.act.find? (fun l => decide (ea l % 4 ≠ 0) || (spanOf (ea l) 4).any (fun a => !canonical a)) with
    | some l => some (.traps 0x02 0 [l] [(12, ea l % 2 ^ 32), (13, ea l / 2 ^ 32)])
    | none =>
      let met (v : State) : Met := gMeet v i .read 4 ea e.act
      if (met w).stall ∧ (fibIs u i).wait = none then some (.asks (met w).s) else
      tryCourse r i e u w (fun v =>
        let m := met v
        let p := gReadLanes m.s i m.ok
        (parkBad (sendAll .usual i (coreIs v i) .read v.nextId p.1 (m.ok.flatMap (·.2))) i m.bad, m.ok.map (·.1), m.bad.map (·.1), p.2))
  | .trywl r =>
    let la (l : Nat) := (wa e l).toNat
    match e.act.find? (fun l => decide (la l % 4 ≠ 0) || decide (localOk u (ctxIs u i) (coreIs u i) (la l) 4 false = none)) with
    | some l => some (.traps 0x03 0 [l] [(12, la l % 2 ^ 32), (13, la l / 2 ^ 32)])
    | none =>
      let met (v : State) : State × LMet := lMeet v i false 4 la e.act
      if (met w).2.stall ∧ (fibIs u i).wait = none then some (.asks (stallLocal (met w).1 i (met w).2)) else
      tryCourse r i e u w (fun v =>
        let m := met v
        let p := lReadLanes m.1 i 4 la m.2.ok
        (parkLocal p.1 i m.2.park, m.2.ok.map (·.1), m.2.park.map (·.1), p.2))
  | _ => none

/-- R102: what makes SMAP raise the local-access trap: a descriptor that describes no packed range, banks that are not the
block's in STASH mode, a range that a mapping or a handle buffer already has, or a full table. -/
def smapIllegal (u : State) (b core : Nat) (d : Desc) : Bool :=
  let n := 64 * d.lines
  let maps := (u.mappings.map (·.2)).filter (fun m => decide (m.core = core))
  decide (d.fwid = 0) || decide (d.count = 0) || (decide (1 < d.count) && decide (d.stride < d.foff + d.fwid)) ||
  decide (d.lbase % 64 ≠ 0) || decide (0x100000 ≤ d.lbase) || d.beyond || !banksStash (blkD u b) d.lbase n ||
  maps.any (fun m => m.blk.isSome && m.meets d.lbase n) || meetsHandle (blkD u b) core d.lbase n ||
  (decide (128 ≤ maps.length) && maps.all (fun m => m.blk.isSome))

/-- R273 to R279. -/
def stashCourse : Courses := fun ins i e u w =>
  let core := coreIs u i
  let l := lowest e.act
  let full := decide (63 ≤ (fibIs u i).ctrs.getD 3 0)
  let range (kind : OpKind) : Option Course :=
    let a := (wa e l).toNat
    let n := (wb e l).toNat
    if rangeTrap u i.blk core a n then some (.traps 0x03 0 e.act [(12, a % 2 ^ 32), (13, a / 2 ^ 32)])
    else if full = true then some .stays
    else
      let lns := rangeLines a n
      let fill (v : State) := if kind = .sfill then fillLines v core lns else .ok (v, false)
      match fill u with
      | .ok (v, cap) =>
        if cap = true ∧ v.misses = u.misses then some (.asks (capHold w i)) else
        some (.goes (startOp (capFree v i) i 3 kind (fun o => { o with elems := lns.map (fun ln =>
          { lane := 0, ok := kind = .sfill && isPresent (lineSt v core ln), loc := ln }) })))
      | .error (va, .fault c st lv) =>
        some (.parts (parkLanes w i e.act (fun _ => .fault (faultInfo w i .read 4 va c st lv))))
      | .error _ => some .stays
  match ins with
  | .smap _ =>
    let d := descOf e
    if !canonical d.gbase.toNat then some (.traps 0x02 0 e.act [(12, d.gbase.toNat % 2 ^ 32), (13, d.gbase.toNat / 2 ^ 32)])
    else if smapIllegal u i.blk core d then some (.traps 0x03 0 e.act [(12, d.lbase % 2 ^ 32), (13, d.lbase / 2 ^ 32)])
    else if full then some .stays
    else
      let v := smapReclaim u core d.lbase (64 * d.lines)
      some (.goes (startOp (createMapping v i.blk core (ctxIs u i) (wa e l) d false) i 3 .smap (fun o => { o with x := v.nextId })))
  | .sunmap _ =>
    let a := (wa e l).toNat
    match mappingAt u i.blk core a with
    | none => some (.traps 0x03 0 e.act [(12, a % 2 ^ 32), (13, a / 2 ^ 32)])
    | some m =>
      if full then some .stays
      else some (.goes (startOp { u with mappings := mupd u.mappings m (fun x => { x with unmapping := true }) } i 3 .sunmap
        (fun o => { o with x := m })))
  | .sfill _ => range .sfill
  | .sclean _ => range .sclean
  | .sdrop _ => range .sdrop
  | .squery r => some (.goes (gives e (archReg e.wb r.d.toNat) (fun l => squeryWord u i.blk core (wa e l).toNat) u))
  | .sadopt r =>
    match adoptable u i.blk core (wa e l) with
    | none => some (.goes (status e r 0xFFFFFFFF u))
    | some m => some (.goes (status e r (.ofNat 32 (((mget u.mappings m).map (·.lbase)).getD 0))
        { u with mappings := mupd u.mappings m (fun x => { x with blk := some i.blk }) }))
  | _ => none

/-! ### Courses of streams, gathers, scatters, tables and binning (R300 to R327) -/

/-- R424, R465: what a request meets that does not go out: a locked page holds the issue, and so does the miss cap, which counts it. -/
def heldBack (i : Issue) (w : State) (x : Xl) : Course :=
  match x with
  | .ok _ => .asks (capHold w i)
  | _ => .stays

/-- R306 to R308: a stream instruction whose read of a row pointer fails: the address trap, or every lane parks. -/
def stopCourse (i : Issue) (e : Env) (w : State) (x : RpErr) : Option Course :=
  match x with
  | .addr a => some (.traps 0x02 0 e.act [(12, a % 2 ^ 32), (13, a / 2 ^ 32)])
  | .page (va, .fault c st lv) => some (.parts (parkLanes w i e.act (fun _ => .fault (faultInfo w i .read 0 va c st lv))))
  | .page (_, x) => some (heldBack i w x)

/-- R304 to R309. -/
def streamCourse : Courses := fun ins i e u w =>
  let l := lowest e.act
  let stream (k : Nat) := (fibIs u i).streams.getD k {}
  let put (k : Nat) (x : Stream) (v : State) : State := updIs v i (fun y => { y with streams := y.streams.set k x })
  match ins with
  | .sopen r =>
    let base := pa e l
    if base.toNat % 4 ≠ 0 ∨ (spanOf base.toNat 4).any (fun a => !canonical a) then
      some (.traps 0x02 0 e.act [(12, base.toNat % 2 ^ 32), (13, base.toNat / 2 ^ 32)])
    else match startRow i { s := u, lane := l, st := { stream r.d.toNat with base := base, row := wb e l, rend := wd e.b 1 l } } with
      | .error x => stopCourse i e w x
      | .ok k => some (.goes (put r.d.toNat k.st k.s))
  | .snext r =>
    match nextLanes i e.act { s := u, lane := l, st := stream r.a.toNat } true [] with
    | .error x => stopCourse i e w x
    | .ok (k, qs) =>
      let q (l : Nat) : Quad := ((qs.find? (fun p => p.1 == l)).map (·.2)).getD (0xFFFFFFFF, 0xFFFFFFFF, 0, 0)
      let reg (j : Nat) := archReg e.wb (r.d.toNat + j)
      let v := gives e (reg 3) (fun l => (q l).2.2.2) (gives e (reg 2) (fun l => (q l).2.2.1)
        (gives e (reg 1) (fun l => (q l).2.1) (gives e (reg 0) (fun l => (q l).1) (put r.a.toNat k.st k.s))))
      some (.goes ((List.range 4).foldl (fun v j => poisonArch v i.blk i.slot (reg j) (if k.bad then e.act else [])) v))
  | .stend r =>
    some (.goes (gives e (archReg e.wb r.d.toNat) (fun _ => match (stream r.a.toNat).st with
      | .openSt => 0
      | .ended => 1
      | .error => 2
      | .closed => 3) u))
  | .sclose r => some (.goes (put r.a.toNat { stream r.a.toNat with st := .closed } u))
  | .sskip r =>
    let x := stream r.a.toNat
    if x.st ≠ .openSt then some (.goes u)
    else match startRow i { s := u, lane := l, st := { x with row := .ofNat 32 (min (x.row.toNat + (wb e l).toNat) x.rend.toNat) } } with
      | .error x => stopCourse i e w x
      | .ok k => some (.goes (put r.a.toNat k.st k.s))
  | .spos r =>
    some (.goes (gives e (archReg e.wb (r.d.toNat + 1)) (fun _ => (stream r.a.toNat).pos)
      (gives e (archReg e.wb r.d.toNat) (fun _ =>
        if (stream r.a.toNat).st = .ended then (stream r.a.toNat).rend else (stream r.a.toNat).row) u)))
  | _ => none

/-- R300: the lanes whose index is dropped: the index all ones, or not below the bound. -/
def dropLanes (e : Env) : List Nat := e.act.filter (fun l => decide ((wb e l).toNat = 0xFFFFFFFF ∨ (wc e l).toNat ≤ (wb e l).toNat))

/-- R302, R310, R312: an indexed engine operation of class G: the trap of the lowest lane that has one; a full counter or a
locked page holds the issue; lanes with a page fault park; `start` starts the operation for the others, and `none'` is what the issue
does where all park. -/
def engineCourse (i : Issue) (e : Env) (u w : State) (k : AccKind) (n : Nat) (trap : Nat → Option (Nat × Nat))
    (none' : State → State) (start : State → List GLane → List Nat → State) : Option Course :=
  match e.act.find? (fun l => (trap l).isSome) with
  | some l => (trap l).map (fun p => .traps p.1 0 [l] [(12, p.2 % 2 ^ 32), (13, p.2 / 2 ^ 32)])
  | none =>
    if 63 ≤ (fibIs u i).ctrs.getD 0 0 then some .stays else
    let gone := dropLanes e
    let met (v : State) : Met := engineMeet v i k n (elemAddr e n) (e.act.filter (fun l => !gone.contains l))
    let go (v : State) : State :=
      if (met v).ok = [] ∧ gone = [] ∧ e.act ≠ [] then none' (met v).s else start (met v).s (met v).ok gone
    if (met w).stall then some .stays
    else if (met w).bad = [] then some (.goes (go u)) else some (.parts (parkBad (go w) i (met w).bad))

/-- R312: the global scatters. -/
def scatterCourse (r : RX) (fn : Nat) (i : Issue) (e : Env) (u w : State) : Option Course :=
  let ty := r.x.imm.toNat / 512 % 4
  let n := if fn = 2 then 4 * (r.x.imm.toNat % 512 + 1) else 4
  let l := lowest e.act
  engineCourse i e u w .atomic n (scatTrap u e fn n)
    (fun v => closeUnfit v i fn ty (r.x.imm.toNat % 512) (some ((pa e l).toNat, (wc e l).toNat))) (fun v ok gone =>
    startScatter v e .scatter fn ty (r.x.imm.toNat % 512) (pa e l).toNat (wc e l).toNat gone.length
      (scatElems v e fn ty n ok))

/-- R315: the local scatters. -/
def localScatterCourse (r : RX) (fn : Nat) (i : Issue) (e : Env) (u w : State) : Option Course :=
  let ty := r.x.imm.toNat / 512 % 4
  let gone := dropLanes e
  let la (l : Nat) := ((wa e l).toNat + 4 * (wb e l).toNat) % 2 ^ 32
  match e.act.find? (fun l => decide ((wa e l).toNat % 4 ≠ 0) || (!gone.contains l &&
      decide (localOk u (ctxIs u i) (coreIs u i) (la l) 4 true = none))) with
  | some l => some (.traps 0x03 0 [l] [(12, la l % 2 ^ 32), (13, la l / 2 ^ 32)])
  | none =>
    let f : Env := { e with act := e.act.filter (fun l => !gone.contains l) }
    localCourse i f u w true 4 4 la (fun v ls => addDrops (scatterLocal fn ty f v ls) i.blk i.slot i.fib gone.length)

/-- R318, R319: EMBL and EMBU read the version of their table slot at issue. -/
def tableCourse (i : Issue) (e : Env) (u w : State) (shut : State → State) (eff : State → Nat → State) : Option Course :=
  let full := decide (63 ≤ (fibIs u i).ctrs.getD 0 0)
  if e.act = [] then (if full then some .stays else some (.goes (eff u 0))) else
  let a := (pa e (lowest e.act)).toNat
  if a % 8 ≠ 0 ∨ (spanOf a 8).any (fun x => !canonical x) then some (.traps 0x02 0 e.act [(12, a % 2 ^ 32), (13, a / 2 ^ 32)])
  else if full then some .stays
  else match xlSpan u i .read a 8 with
    | .error (va, .fault c st lv) => some (.parts (parkLanes (shut w) i e.act (fun _ => .fault (faultInfo (shut w) i .read 0 va c st lv))))
    | .error (_, x) => some (heldBack i w x)
    | .ok pas =>
      let p := gRead (asked u i .read (spanOf a 8) pas) (ctxIs u i) pas
      let v := leNat p.2
      if v % 64 ≠ 0 ∨ !canonical v then none
      else some (.goes (eff p.1 v))

/-- R323 to R326: BINC and BINS. -/
def binCourse (item : Bool) (i : Issue) (e : Env) (u : State) : Option Course :=
  let a := (wa e (lowest e.act)).toNat
  let start (off : Nat) : Option Course :=
    if 63 ≤ (fibIs u i).ctrs.getD 5 0 then some .stays
    else some (.goes (startOp u i 5 .bin (fun o => { o with code := if item then 1 else 0, x := off, elems := e.act.map (fun l =>
      { lane := l, val := (wb e l).toNat, val2 := (wd e.d 0 l).toNat }) })))
  if e.act = [] then start 0
  else match penSet u i a with
    | none => some (.traps 0x03 0 e.act [(12, a % 2 ^ 32), (13, a / 2 ^ 32)])
    | some off => start off

/-- R310 to R327. -/
def engineIssueCourse : Courses := fun ins i e u w =>
  let l := lowest e.act
  match ins with
  | .gath r =>
    let n := if r.f = 4 then 4 * (r.x.imm.toNat % 1024 + 1) else 2 ^ r.f.toNat
    engineCourse i e u w .read n (gathTrap u e r.f.toNat n) (fun v => closeWindow v i.blk i.slot i.fib) (fun v ok gone =>
      let v1 := closeWindow v i.blk i.slot i.fib
      if r.f = 4 then gatherRows e n v1 ok gone else gatherRegs (r.raw 0x61#7) e n v1 ok gone)
  | .scata r => scatterCourse r 0 i e u w
  | .scatai r => scatterCourse r 1 i e u w
  | .scatab r => scatterCourse r 2 i e u w
  | .scat r => scatterCourse r 5 i e u w
  | .scatmin r => scatterCourse r 6 i e u w
  | .scatal r => localScatterCourse r 3 i e u w
  | .scatali r => localScatterCourse r 4 i e u w
  | .embl _ =>
    tableCourse i e u w (fun v => closeWindow v i.blk i.slot i.fib) (fun v x =>
      startOp (closeWindow v i.blk i.slot i.fib) i 0 (if e.act = [] then .idle else .embLoad) (fun o =>
      { o with x := x, elems := e.act.map (fun l => { lane := l, loc := (wd e.d 0 l).toNat, val := (wb e l).toNat }) }))
  | .embu _ => tableCourse i e u w (fun v => closeForEmbu v i) (fun v x => startScatter v e .embUpdate 8 0 0 x 0 0 (e.act.map (fun l =>
      { lane := l, loc := (wd e.d 0 l).toNat, val := (wb e l).toNat })))
  | .embq r =>
    if e.act = [] then some (.goes u)
    else some (.goes (updIs (gives e (archReg e.wb r.d.toNat) (fun _ => (fibIs u i).drops) u) i
      (fun x => if r.x.imm.getLsbD 0 then { x with drops := 0 } else x)))
  | .embv r =>
    if e.act = [] then some (.goes u) else
    if (fibIs u i).wait ≠ none then none else
    let ids := boundOps u (ctxIs u i) (pa e l).toNat
    if ids.all (fun k => (mget u.ops k).isNone) then some (.goes (gives e (archReg e.wb r.d.toNat) (fun _ => .ofNat 32 ids.length) u))
    else some (.waits w)
  | .binc _ => binCourse false i e u
  | .bins _ => binCourse true i e u
  | .binr r =>
    let a := (wa e l).toNat
    match penSet u i a with
    | none => some (.traps 0x03 0 e.act [(12, a % 2 ^ 32), (13, a / 2 ^ 32)])
    | some off =>
      if (fibIs u i).ctrs.getD 5 0 ≠ 0 then some (.waits w)
      else if lPoison u (coreIs u i) off 64 then none
      else some (.goes (gives e (archReg e.wb r.d.toNat) (fun _ => .ofNat 32 (leNat ((lRead u (coreIs u i) off 64).drop 20 |>.take 4)))
        (penReset u (ctxIs u i) (coreIs u i) off)))
  | _ => none

/-! ### Courses of the matrix sequencer (R329 to R354) -/

/-- What an instruction of a sequencer does: it goes on to the next address, its own effect leaving the machine as a state; it goes
on at another address; it stalls, the machine left as a state; it traps with a cause of R341 and an address, perhaps in a state that has
reported an error (R493); a page fault holds it (R342); or the sequencer ends (R343). -/
inductive SeqCourse
  | goes (v : State)
  | jumps (v : State) (pc : DWord)
  | stalls (v : State)
  | traps (cause addr : Nat)
  | trapsIn (v : State) (cause addr : Nat)
  | holds (v : State) (f : FaultInfo)
  | ends (v : State)

/-- The state after it: the program counter and the count of the sequencer, its trap, its fault or its end; the model's own fields
move on. -/
def seqAfter (i : Issue) (s : State) (c : SeqCourse) : State :=
  let done (v : State) : State := { v with choice := v.choice + 1, cur := none }
  match c with
  | .goes v => done (updSeq v i.blk (fun q => { q with mpc := i.next, issued := q.issued + 1 }))
  | .jumps v pc => done (updSeq v i.blk (fun q => { q with mpc := pc, issued := q.issued + 1 }))
  | .stalls v => done v
  | .traps cause a => done (trapSeq s i 0x0A cause [(12, a % 2 ^ 32), (13, a / 2 ^ 32)])
  | .trapsIn v cause a => done (trapSeq v i 0x0A cause [(12, a % 2 ^ 32), (13, a / 2 ^ 32)])
  | .holds v f => done (updSeq v i.blk (fun q => { q with st := .faulted, fault := some f }))
  | .ends v => done (endSeq (updSeq v i.blk (fun q => { q with issued := q.issued + 1 })) i.blk)

/-- Every instruction of a table follows its course, wherever a sequencer issues it. -/
def SeqKeeps (table : Instr → Issue → State → Option SeqCourse) : Prop :=
  ∀ (ins : Instr) (i : Issue) (s : State) (c : SeqCourse), wf ins = true → s.cur = some i → i.seq = true →
    table ins i s = some c → exec ins s = .next (seqAfter i s c)

/-- R493, R495: an instruction has read a cell that has failed its parity: the error is reported, a partition root traps, and another
context is ended. -/
def failed (i : Issue) (s : State) : SeqCourse :=
  if (ctxD s (ctxIs s i)).root then .trapsIn (matrixLoss s i.blk) 0x0C 0 else .stalls (matrixLoss s i.blk)

/-- R493: no cell of the matrix unit that an instruction reads has failed its parity. -/
def whole (i : Issue) (s : State) (reads : MatrixCell → Bool) (c : Option SeqCourse) : Option SeqCourse :=
  if (seqD s i.blk).lost.any reads then some (failed i s) else c

/-- What stops a part of an instruction; one that reads poison waits for the end of its context (R492). -/
def stopped (i : Issue) (s : State) (r : SeqRes) : Option SeqCourse :=
  match r with
  | .parity => some (failed i s)
  | .eaten u a => some (.stalls (consumePoison s i.blk u a))
  | .trap c a => some (.traps c a)
  | .stall v => some (.stalls v)
  | .hold v f => some (.holds v f)
  | _ => none

/-- A part of an instruction, then the rest. -/
def andThen {α : Type} (i : Issue) (s : State) (x : SeqM α) (k : α → Option SeqCourse) : Option SeqCourse :=
  match x with
  | .ok a => k a
  | .error r => stopped i s r

/-- R341: the lowest cause, or the rest of the instruction. -/
def barring (c : Option (Nat × Nat)) (k : Option SeqCourse) : Option SeqCourse :=
  match c with
  | some p => some (.traps p.1 p.2)
  | none => k

/-- A q register takes a value; a value written whole has no parity failure. -/
def qTo (i : Issue) (k : Nat) (v : DWord) (s : State) : State :=
  updSeq s i.blk (fun q => { q with q := q.q.set k v, lost := q.lost.filter (fun c => !inQ [k] c) })

/-- A tile takes words by row and column. -/
def tileTo (i : Issue) (t : Nat) (g : Nat → Nat → Nat) (s : State) : State :=
  updSeq s i.blk (fun q => { q with
    tiles := mset q.tiles t ((List.range 4096).map (fun k => BitVec.ofNat 32 (g (k / 64) (k % 64))))
    lost := q.lost.filter (fun c => !inTile t 64 64 c) })

/-- R346, R347, R352, R332, R343: set-up, flow and barriers. -/
def seqControl (ins : Instr) (i : Issue) (s : State) : Option SeqCourse :=
  let q := seqD s i.blk
  let target (imm : Word) (k : DWord → Option SeqCourse) : Option SeqCourse :=
    let a := parcelsFrom i.pc imm
    let kd := (blkD s i.blk).kd
    if kd.mstr ≤ a.toNat ∧ a.toNat < kd.mstr + 2 * kd.mslen then k a else some (.traps 0x0B 0)
  let quiet := s.stores.all (fun p => !(decide (p.blk = i.blk) && decide (p.agent = 64))) &&
    s.replays.all (fun p => !(decide (p.blk = i.blk) && p.tile))
  match ins with
  | .mshape r => whole i s (inQ [r.b.toNat]) (
      let k := (q.q.getD r.b.toNat 0).toNat % 2 ^ 32
      if k = 0 ∨ 65536 < k then some (.traps 0x0A 0)
      else some (.goes (updSeq s i.blk (fun q => { q with m := r.d.toNat + 1, n := r.a.toNat + 1, k := k }))))
  | .mfmt r => some (.goes (updSeq s i.blk (fun q =>
      { q with ta := r.d.toNat, tb := r.a.toNat, sa := r.b.getLsbD 0, sb := r.b.getLsbD 1 })))
  | .mqadd r =>
    let a := r.a.toNat % 32
    let b := r.b.toNat % 32
    whole i s (inQ [a, b]) (some (.goes (qTo i r.d.toNat
      (.ofNat 64 ((q.q.getD a 0).toNat + (q.q.getD b 0).toNat * 2 ^ (r.a.toNat / 32 * 4 + r.b.toNat / 32))) s)))
  | .mqset r =>
    match r.a.toNat with
    | 0 => some (.goes (qTo i r.d.toNat (.ofInt 64 r.imm.toInt) s))
    | 1 => whole i s (inQ [r.d.toNat])
        (some (.goes (qTo i r.d.toNat (.ofNat 64 (r.imm.toNat * 2 ^ 32 + (q.q.getD r.d.toNat 0).toNat % 2 ^ 32)) s)))
    | _ =>
      let a := r.imm.toNat
      barring (spanCause s i a 0x100000 (decide (a % 8 = 0)) false [(a, 8)] [])
        (andThen i s (seqLines s i false [(a, 8)]) (fun v => andThen i s (seqLocal v i a 8) (fun p =>
          some (.goes (qTo i r.d.toNat (.ofNat 64 (leNat p.2)) p.1)))))
  | .mjmp r => target r.imm (fun a => some (.jumps s a))
  | .mloop r => target r.imm (fun a => whole i s (inQ [r.d.toNat]) (
      let v := q.q.getD r.d.toNat 0 - 1
      some (.jumps (qTo i r.d.toNat v s) (if v = 0 then i.pc + 8 else a))))
  | .marv r =>
    if quiet then some (.goes (updSeq (showStores s) i.blk (fun q => { q with marv := q.marv.modify r.a.toNat (· + 1) }))) else some (.stalls s)
  | .mwait r =>
    let here := q.queue.getD r.a.toNat []
    let c := r.b.toNat + 1
    if c ≤ here.length then
      some (.goes ((here.take c).foldl (fun v kf => updFib v i.blk (kf / 4) (kf % 4) (fun x =>
          { x with ctrs := x.ctrs.modify 1 (· - 1) }))
        (updSeq s i.blk (fun q => { q with queue := q.queue.set r.a.toNat (here.drop c) }))))
    else if (blkD s i.blk).slots.all (fun y => y.fibs.all (fun z => !z.takesPart)) then
      (if quiet then some (.ends s) else some (.stalls s))
    else some (.stalls s)
  | .mend _ => if quiet then some (.ends s) else some (.stalls s)
  | _ => none

/-- R348, R349: weights and products. -/
def seqProduct (ins : Instr) (i : Issue) (s : State) : Option SeqCourse :=
  let q := seqD s i.blk
  let kb := (q.k + 31) / 32
  let mul (r : R3) (zero : Bool) : Option SeqCourse :=
    let n := kb * brickSize q.ta 8 q.sa
    let w := mget q.slots r.b.toNat
    barring (lowCause [brickOf s i r.a.toNat n false, slotCause q w]) (
      whole i s (fun c => inQ [r.a.toNat] c || inSlot r.b.toNat (slotBytes q w) c || (!zero && inTile r.d.toNat 64 64 c))
        (andThen i s (readOperand s i (mrec s i r.a.toNat) n) (fun p =>
          w.bind (fun y => some (.goes (updSeq (product p.1 i r.d.toNat zero p.2 y) i.blk (fun q => { q with mmas := q.mmas + kb })))))))
  match ins with
  | .mwld r =>
    let kept := [8, 4, 2].getD r.f.toNat 1
    let n := kb * brickSize q.tb kept q.sb
    barring (lowCause [brickOf s i r.a.toNat n false, if 65536 < n then some (7, 0) else none]) (
      whole i s (inQ [r.a.toNat]) (andThen i s (readOperand s i (mrec s i r.a.toNat) n) (fun p =>
        let y : WSlot := { raw := p.2, tb := q.tb, sb := q.sb, n := kept, kb := kb }
        some (.goes (updSeq p.1 i.blk (fun q => { q with slots := mset q.slots r.d.toNat y,
                                                         lost := q.lost.filter (fun c => !inSlot r.d.toNat 65536 c) }))))))
  | .mma r => mul r false
  | .mmz r => mul r true
  | .mmas r =>
    let na := kb * brickSize q.ta 8 q.sa
    let nb := kb * brickSize q.tb 8 q.sb
    barring (lowCause [brickOf s i r.a.toNat na false, brickOf s i r.b.toNat nb false]) (
      whole i s (fun c => inQ [r.a.toNat, r.b.toNat] c || inTile r.d.toNat 64 64 c)
        (andThen i s (readOperand s i (mrec s i r.a.toNat) na) (fun p => andThen i s (readOperand p.1 i (mrec s i r.b.toNat) nb) (fun o =>
          some (.goes (product o.1 i r.d.toNat false p.2 { raw := o.2, tb := q.tb, sb := q.sb, n := 8, kb := kb }))))))
  | _ => none

/-- R350, R353: the tile that a tile instruction names. -/
def tileField (ins : Instr) : Nat :=
  match rawOf ins with
  | some r => r.d.toNat
  | none => 0

/-- R340, R350, R353, R137, R138: tile transfers and element operations. -/
def seqTile (ins : Instr) (i : Issue) (s : State) : Option SeqCourse :=
  let q := seqD s i.blk
  let word (t m n : Nat) : Nat := ((mgetD q.tiles t []).getD (64 * m + n) 0).toNat
  let mine := inTile (tileField ins) q.m q.n
  let vector (a t : Nat) (g : (Nat → Nat) → Nat → Nat → Nat) : Option SeqCourse :=
    barring (brickOf s i a 256 false) (whole i s (fun c => inQ [a] c || inTile t 64 64 c)
      (andThen i s (readOperand s i (mrec s i a) 256) (fun p =>
        some (.goes (tileTo i t (g (fun k => leNat ((p.2.drop (4 * k)).take 4))) p.1)))))
  let rows (r : R3) (g : List Nat → Nat) : Option SeqCourse :=
    let acc := r.b.getLsbD 0
    let rc := mrec s i r.a.toNat
    barring (brickOf s i r.a.toNat (4 * q.m) true) (whole i s (fun c => inQ [r.a.toNat] c || mine c) (
      andThen i s (if acc then readOperand s i rc (4 * q.m) else .ok (s, [])) (fun p =>
        andThen i s (seqLines p.1 i true [(rc.base, 4 * q.m)]) (fun v =>
          let row (m : Nat) : List Nat := (List.range q.n).map (fun n => word r.d.toNat m n) ++
            (if acc then [leNat ((p.2.drop (4 * m)).take 4)] else [])
          some (.goes (lStoreBy (addStore v i 0 .plain) i v.nextId 0 rc.base (seqCore v i) rc.base (List.replicate q.m 4)
            ((List.range q.m).flatMap (fun m => natLe 4 (g (row m))))))))))
  match ins with
  | .mzero r => some (.goes (tileTo i r.d.toNat (fun _ _ => 0) s))
  | .mst r =>
    let typ := r.b.toNat % 16
    let z := nibbles typ / 2
    if r.b.getLsbD 4 then whole i s (inQ [r.a.toNat]) (
      let rc := mrec s i r.a.toNat
      let p := brickSize typ 8 false
      let bricks (f : Nat → Nat → Nat) : List Byte := (List.range 2).flatMap (fun h => (List.range 64).flatMap (fun m =>
        (List.range 32).flatMap (fun x => natLe z (if m < q.m ∧ 32 * h + x < q.n then f m (32 * h + x) else 0))))
      let bad := decide (rc.bad = true ∨ rc.kind ≠ 0)
      barring (lowCause [if rc.bad then some (2, 0) else none, if rc.kind ≠ 0 then some (6, 0) else none,
          if bad then none else spanCause s i rc.base rc.limit (decide (rc.base % 64 = 0)) rc.v [(rc.base, 2 * p)] [(rc.base, 2 * p)]])
        (whole i s mine (andThen i s (seqLines s i true [(rc.base, 2 * p)]) (fun v =>
          some (.goes (lStoreBy (addStore v i 0 .plain) i v.nextId 0 rc.base (seqCore v i) rc.base (List.replicate 4096 z)
            (bricks (fun m n => storeCode typ (word r.d.toNat m n)))))))))
    else andThen i s (openTile s i r.a.toNat typ .write false) (fun w => whole i s mine (
      some (.goes (w.els.foldl (fun v e =>
        placeStore v i w.s.nextId e.2.2 (natLe z (storeCode typ (word r.d.toNat e.1 e.2.1)))) (addStore w.s i 3 .plain)))))
  | .mstadd r =>
    andThen i s (openTile s i r.a.toNat 1 .atomic false) (fun w => whole i s mine (
      some (.goes (markWhole (w.els.foldl (fun v e => placeRmw v i w.s.nextId r.b.toNat .tileAdd e.2.2
        (fun o => f32.rnd .rn 0 (Val.sum false [f32.decode o, f32.decode (word r.d.toNat e.1 e.2.1)])))
        (addStore w.s i r.b.toNat .tileAdd)) w.s.nextId))))
  | .mstatom r =>
    andThen i s (openTile s i r.a.toNat 1 .atomic true) (fun w => whole i s mine (
      let id := w.s.nextId
      let version (v : State) (ord : Nat) (g : Nat → Nat) : State := match w.ver with
        | some p => placeUpdate v i id r.b.toNat ord .tileAtom p g
        | none => v
      let v := w.els.foldl (fun v e => placeRmw v i id r.b.toNat .tileAtom e.2.2 (fun _ => word r.d.toNat e.1 e.2.1))
        (version (addStore w.s i r.b.toNat .tileAtom) 1 (fun o => o / 2 * 2 + 1))
      some (.goes (markWhole (version v 2 (fun o => (o / 2 * 2 + 2) % 2 ^ 32)) id))))
  | .mldt r =>
    andThen i s (openTile s i r.a.toNat 1 .read false) (fun w => andThen i s (verRead w i) (fun v => andThen i s (readTile i w.els v []) (fun p =>
      some (.goes (tileTo i r.d.toNat (fun m n => ((p.2.find? (fun x => x.1 == 64 * m + n)).map (·.2)).getD 0) p.1)))))
  | .mscale r => vector r.a.toNat r.d.toNat (fun v m n =>
      f32.rnd .rn 0 ((f32.decode (word r.d.toNat m n)).mul (f32.decode (v (if r.b.getLsbD 0 then n else m)))))
  | .mact r =>
    if r.b.getLsbD 2 then vector r.a.toNat r.d.toNat (fun v m n => actWord (r.b.toNat % 4)
      (f32.rnd .rn 0 (Val.sum false [f32.decode (word r.d.toNat m n), (f32.decode (v m)).neg])))
    else whole i s (inTile r.d.toNat 64 64) (some (.goes (tileTo i r.d.toNat (fun m n => actWord (r.b.toNat % 4) (word r.d.toNat m n)) s)))
  | .mrowmax r => rows r maxWords
  | .mrowsum r => rows r (fun xs => f32.rnd .rn 0 (Val.sum false (xs.map f32.decode)))
  | _ => none

/-! ### Courses of the system instructions (R293, R386 to R413, R476, R480, R222, R224) -/

/-- R397: an instruction of a member of a subtree under revocation receives status 3. -/
def unlessRevoked (r : R3) (i : Issue) (e : Env) (u : State) (c : Option Course) : Option Course :=
  if (ctxD u (ctxIs u i)).st = .revoking then some (.goes (status e r 3 u)) else c

/-- R388, R398: the context that field A names, which is a descendant of the executing one; else status 1. -/
def naming (r : R3) (i : Issue) (e : Env) (u : State) (k : Nat → Option Course) : Option Course :=
  unlessRevoked r i e u (match descendant u (ctxIs u i) (wa e (lowest e.act)).toNat with
    | none => some (.goes (status e r 1 u))
    | some n => k n)

/-- R398: a status and the state that comes with it. -/
def result (e : Env) (r : R3) (p : Nat × State) : Option Course := some (.goes (status e r (.ofNat 32 p.1) p.2))

/-- R254: the address trap of a record of `n` bytes aligned to `al`. -/
def recordAt (e : Env) (al n a : Nat) (c : Option Course) : Option Course :=
  if a % al ≠ 0 ∨ (spanOf a n).any (fun x => !canonical x) then some (.traps 0x02 0 e.act [(12, a % 2 ^ 32), (13, a / 2 ^ 32)])
  else c

/-- R398, R254: every active lane parks for a page fault at a record (`what`: 0 a read, 1 a write); a locked page holds the issue, and so
does the miss cap, which counts it (R465). -/
def faulted (i : Issue) (e : Env) (w : State) (k : AccKind) (what : Nat) (f : Nat × Xl) : Option Course :=
  match f.2 with
  | .fault c st lv => some (.parts (parkLanes w i e.act (fun _ => .fault (faultInfo w i k what f.1 c st lv))))
  | .ok _ => some (.asks (capHold w i))
  | _ => some (.asks w)

/-- R398: a record is read; `k` goes on in each of the two states. -/
def recordRead (i : Issue) (e : Env) (u w : State) (a n : Nat) (k : State → State → Nat → Option Course) : Option Course :=
  match xlSpan u i .read a n with
  | .error f => faulted i e w .read 0 f
  | .ok pas =>
    let out (v : State) : State × List Byte := gRead (asked v i .read (spanOf a n) pas) (ctxIs v i) pas
    k (out u).1 (out w).1 (leNat (out u).2)

/-- R398: pieces of a record are written, all or none, with status 0. -/
def recordWrite (r : R3) (i : Issue) (e : Env) (u w : State) (ps : List (Nat × List Byte)) (g : State → State) : Option Course :=
  let vas := ps.flatMap (fun p => spanOf p.1 p.2.length)
  match xlBytes u i .write vas with
  | .error f => faulted i e w .write 1 f
  | .ok all => some (.goes (status e r 0 (g (ps.foldl (fun v p =>
      match xlateAll (fun a => xlate v (ctxIs v i) (coreIs v i) a .write) (spanOf p.1 p.2.length) with
      | .ok pas => gWrite v (ctxIs v i) pas p.2
      | .error _ => v) (asked u i .write vas all)))))

/-- R401 to R405, R407. -/
def contextCourse : Courses := fun ins i e u w =>
  let c := ctxIs u i
  let l := lowest e.act
  let name := (wa e l).toNat
  let budget := budgetOf (wb e l).toNat (wd e.b 1 l).toNat
  let map (r : R3) : Option Course :=
    unlessRevoked r i e u (recordAt e 32 32 (pb e l).toNat (naming r i e u (fun n =>
      recordRead i e u w (pb e l).toNat 32 (fun v _ x =>
        let m := mapRecOf (natLe 32 x)
        if m.bad then some (.goes (status e r 4 v))
        else if (ctxD v n).st = .revoking then some (.goes (status e r 3 v))
        else if m.unmap then
          let frames := (List.range m.len).filterMap (fun k => frameOf v n (m.cia / 65536 + k))
          some (.goes (status e r 0 (unmapRange (invalidate v (subtree v n) frames) n (m.cia / 65536) m.len)))
        else result e r (mapRange v c n m)))))
  match ins with
  | .ctxnew r =>
    unlessRevoked r i e u (match (if name = 0 then some c else descendant u c name) with
      | none => some (.goes (status e r 1 u))
      | some p =>
        let x := ctxD u p
        if x.st = .free ∨ x.st = .revoking then some (.goes (status e r 3 u))
        else if x.depth = 7 then some (.goes (status e r 6 u))
        else if x.callow ≤ callowUsed u p then some (.goes (status e r 2 u))
        else match newNumber u with
          | none => some (.goes (status e r 7 u))
          | some n => result e r (ctxName (makeChild u p n) n, makeChild u p n))
  | .ctxgrant r =>
    unlessRevoked r i e u (match budgetCheck u c name budget with
      | .error n => some (.goes (status e r (.ofNat 32 n) u))
      | .ok (p, n) => result e r (grantKind u p n budget))
  | .ctxtake r =>
    if (fibIs u i).wait ≠ none then none else
    unlessRevoked r i e u (match budgetCheck u c name budget with
      | .error n => some (.goes (status e r (.ofNat 32 n) u))
      | .ok (p, n) =>
        let die := (ctxD u p).dies.getD budget.vd 0
        let bs := if budget.kind = 0 then takenBlocks u n die budget.amount else []
        if (takeKind u p n budget).1 = 0 ∧ quadsFree (takeKind u p n budget).2 die budget.amount bs = false then
          some (.waits (takeKind w p n budget).2)
        else result e r (takeKind u p n budget))
  | .ctxrun r =>
    naming r i e u (fun n => match (ctxD u n).st with
      | .created => some (.goes (status e r 0 (updCtx u n (fun x => { x with st := .running }))))
      | .stopped => some (.goes (status e r 0 (updCtx u n (fun x => { x with st := .running }))))
      | .running => some (.goes (status e r 0 u))
      | _ => some (.goes (status e r 3 u)))
  | .ctxstop r =>
    if (fibIs u i).wait ≠ none then none else
    naming r i e u (fun n =>
      if 4 ≤ (wb e l).toNat then some (.goes (status e r 4 u))
      else if (ctxD u n).st = .revoking then some (.goes (status e r 3 u))
      else
        let v := ctxStop u n ((wb e l).getLsbD 0)
        if (wb e l).getLsbD 1 = false then some (.goes (status e r 0 v))
        else if current v name = false then some (.goes (status e r 3 v))
        else if (ctxD v n).st = .stopping ∨ (ctxD v n).st = .revoking then some (.waits (ctxStop w n ((wb e l).getLsbD 0)))
        else some (.goes (status e r 0 v)))
  | .ctxrevoke r =>
    if (fibIs u i).wait ≠ none then none else
    let bad := decide ((wb e l).toNat ≠ 0) && decide ((wb e l).toNat ≠ 2)
    unlessRevoked r i e u (match descendant u c name with
      | none => if retiredName u c name then some (.goes (status e r (if bad then 4 else 0) u)) else some (.goes (status e r 1 u))
      | some n =>
        let go (v : State) : State := if (ctxD v n).st = .revoking then v else startRevoke v n
        if bad then some (.goes (status e r 4 u))
        else if (wb e l).getLsbD 1 = true ∧ current (go u) name = true then some (.waits (go w))
        else some (.goes (status e r 0 (go u))))
  | .ctxqry r =>
    let a := (pb e l).toNat
    unlessRevoked r i e u (recordAt e 64 128 a (match (if name = 0 then some c else descendant u c name) with
      | some n => recordWrite r i e u w [(a, natLe 128 (qryImage u n))] id
      | none =>
        if retiredName u c name then recordWrite r i e u w [(a, natLe 128 (retiredImage u name))] id
        else some (.goes (status e r 1 u))))
  | .ctxmap r => map r
  | .ctxmapUnmap r => map r
  | _ => none

/-- R408: the place in issue order of the ticket that field A names, which the executing context holds; else status 8. -/
def holding (r : R3) (i : Issue) (e : Env) (u : State) (k : Nat → Ticket → Option Course) : Option Course :=
  let id := ticketKey u (wa e (lowest e.act)).toNat
  unlessRevoked r i e u (match heldTicket u (ctxIs u i) id with
    | none => some (.goes (status e r 8 u))
    | some t => k id t)

/-- R409 to R412. -/
def ticketCourse : Courses := fun ins i e u w =>
  let c := ctxIs u i
  let l := lowest e.act
  let name := (wa e l).toNat
  let reg (r : R3) (k : Nat) := archReg e.wb (r.d.toNat + k)
  match ins with
  | .trapret r => holding r i e u (fun id _ => some (.goes (status e r 0 (resumeTicket u id))))
  | .trapfwd r => holding r i e u (fun id _ => some (.goes (status e r 0 (passTicket u id))))
  | .trapinfo r =>
    let give (v n : Word) : Option Course := some (.goes (gives e (reg r 1) (fun _ => n) (gives e (reg r 0) (fun _ => v) u)))
    if (ctxD u c).st = .revoking then give 0 3
    else match heldTicket u c (ticketKey u name) with
      | none => give 0 8
      | some t => if 31 < (wb e l).toNat then give 0 4 else give (t.words.getD (wb e l).toNat 0) 0
  | .tlbinv r =>
    naming r i e u (fun n =>
      if wd e.b 3 l ≠ 0 ∨ canonical (pb e l).toNat = false then some (.goes (status e r 4 u))
      else some (.goes (status e r 0 (dropRange u (subtree u n) (pb e l).toNat (wd e.b 2 l).toNat))))
  | .icinv r =>
    naming r i e u (fun n =>
      if 4 ≤ (wd e.b 3 l).toNat ∨ canonical (pb e l).toNat = false then some (.goes (status e r 4 u))
      else some (.goes (status e r 0 (dropCodes u (subtree u n) (pb e l).toNat (wd e.b 2 l).toNat (icinvKinds (wd e.b 3 l).toNat)))))
  | .dctinv r =>
    naming r i e u (fun n =>
      let q := reloadDicts u (subtree u n) (pb e l).toNat
      if q.2 then some (.goes (status e r 0 q.1)) else some (.asks (reloadDicts w (subtree w n) (pb e l).toNat).1))
  | .srw r =>
    let sel := (wb e l).toNat
    unlessRevoked r i e u (
      if sel / 2 ^ 28 = 0 then
        match descendant u c name with
        | none => some (.goes (status e r 1 u))
        | some n =>
          if (ctxD u n).st = .revoking then some (.goes (status e r 3 u))
          else result e r (writeSys u n (sel % 2 ^ 28) (pr e.b 2 l))
      else if sel / 2 ^ 28 = 1 then
        match heldTicket u c (ticketKey u name) with
        | none => some (.goes (status e r 8 u))
        | some t => result e r (writeFrozen u (ticketKey u name) t (sel % 2 ^ 28) (pr e.b 2 l))
      else some (.goes (status e r 4 u)))
  | .srr r =>
    let p := srrValue u c name (wb e l).toNat
    let v : DWord := .ofNat 64 p.2
    some (.goes (gives e (reg r 3) (fun _ => v.extractLsb' 32 32) (gives e (reg r 2) (fun _ => v.extractLsb' 0 32)
      (gives e (reg r 1) (fun _ => 0) (gives e (reg r 0) (fun _ => .ofNat 32 p.1) u)))))
  | _ => none

/-- R476, R479: what PROF does once its record is read: `v` and `z`: the two states after the read, `x`: the record. -/
def sessionCourse (r : R3) (i : Issue) (e : Env) (n : Nat) (v z : State) (x : Nat) : Option Course :=
  let m := profRecOf (natLe 128 x)
  let at' := (pb e (lowest e.act)).toNat
  let open' := (mget v.sessions m.sid).filter (fun k => decide (k.root = n))
  let k := ((List.range 66).find? (fun k => decide (k ≠ 0) && (mget v.sessions k).isNone)).getD 1
  let image : Bool := decide (m.img % 64 ≠ 0) || (spanOf m.img 256).any (fun a => !canonical a)
  if m.rsvd ∨ 4 < m.cmd ∨ (m.cmd ≠ 0 ∧ samplingBad m.period m.log2n m.buf = true) then some (.goes (status e r 4 v))
  else if (ctxD v n).st = .revoking ∧ m.cmd ≠ 1 then some (.goes (status e r 3 v))
  else match m.cmd with
    | 0 =>
      if m.sid ≠ 0 ∧ open'.isSome then some (.goes (status e r 5 v))
      else if samplingBad m.period m.log2n m.buf then some (.goes (status e r 4 v))
      else if 64 ≤ v.sessions.length then some (.goes (status e r 2 v))
      else recordWrite r i e v z [(at' + 32, natLe 2 k)]
        (fun q => { q with sessions := mset q.sessions k (openSession (ctxIs v i) n m) })
    | 1 => match open' with
      | none => some (.goes (status e r 8 v))
      | some y => recordWrite r i e v z [(at' + 64, countBytes y), (at' + 20, natLe 4 y.wrptr)] id
    | 2 => match open' with
      | none => some (.goes (status e r 8 v))
      | some y => recordWrite r i e v z [(at' + 64, countBytes y)] (fun q => { q with sessions := mdel q.sessions m.sid })
    | 3 => match open' with
      | none => some (.goes (status e r 8 v))
      | some y =>
        if image then some (.goes (status e r 4 v))
        else recordWrite r i e v z [(m.img, imageOf m.sid y)] (fun q => { q with sessions := mdel q.sessions m.sid })
    | _ =>
      if image then some (.goes (status e r 4 v))
      else recordRead i e v z m.img 256 (fun p o b =>
        let y := ofImage (ctxIs p i) n (natLe 256 b)
        if samplingBad y.period y.log2n y.buf then some (.goes (status e r 4 p))
        else if (mget p.sessions (b % 2 ^ 16)).isSome then some (.goes (status e r 5 p))
        else if 64 ≤ p.sessions.length then some (.goes (status e r 2 p))
        else recordWrite r i e p o [(at' + 32, natLe 2 k)] (fun q => { q with sessions := mset q.sessions k y }))

/-- R480: what TRIAL does once its record is read. -/
def experimentCourse (r : R3) (i : Issue) (e : Env) (n : Nat) (v z : State) (x : Nat) : Option Course :=
  let m := trialRecOf (natLe 128 x)
  let at' := (pb e (lowest e.act)).toNat
  let p := (ctxD v n).part
  let k := (mgetD v.xids p 0) % 65535 + 1
  let named := (mget v.trials p).filter (fun y => decide (y.xid = m.xid ∧ y.root = n ∧ y.name = ctxName v n))
  if m.bad then some (.goes (status e r 4 v))
  else if (ctxD v n).st = .revoking then some (.goes (status e r (if m.cmd = 1 then 1 else 3) v))
  else match m.cmd with
    | 0 =>
      if m.unfit then some (.goes (status e r 4 v))
      else if ((mget v.trials p).map (fun y => !y.done)).getD false then some (.goes (status e r 5 v))
      else recordWrite r i e v z [(at' + 10, natLe 2 k)] (fun q => { q with
        trials := mset q.trials p { xid := k, root := n, name := ctxName v n, lo := m.lo, hi := m.hi, ms := m.ms, speed := m.speed, dur := m.dur,
                                    pps := m.pps, pkind := m.pkind, start := v.clk }
        xids := mset q.xids p k })
    | 1 => match named with
      | none => some (.goes (status e r 8 v))
      | some y => recordWrite r i e v z [(at' + 64, trialBytes v y)] id
    | _ => match named.filter (fun y => !y.done) with
      | none => some (.goes (status e r 8 v))
      | some y => some (.goes (status e r 0 { v with trials := mset v.trials p (endTrial v y) }))

/-- R476, R480. -/
def profileCourse : Courses := fun ins i e u w =>
  let rec' (r : R3) (k : Nat → State → State → Nat → Option Course) : Option Course :=
    unlessRevoked r i e u (recordAt e 64 128 (pb e (lowest e.act)).toNat (naming r i e u (fun n =>
      recordRead i e u w (pb e (lowest e.act)).toNat 128 (k n))))
  match ins with
  | .profOpen r => rec' r (sessionCourse r i e)
  | .profRead r => rec' r (sessionCourse r i e)
  | .profClose r => rec' r (sessionCourse r i e)
  | .profExport r => rec' r (sessionCourse r i e)
  | .profImport r => rec' r (sessionCourse r i e)
  | .trialStart r => rec' r (experimentCourse r i e)
  | .trialRead r => rec' r (experimentCourse r i e)
  | .trialAbort r => rec' r (experimentCourse r i e)
  | _ => none

/-- R154, R293, R294: COLL and COLLT: an operation of class X that holds the descriptor; without an active lane an idle one. -/
def collectiveCourse (t : Bool) (i : Issue) (e : Env) (u w : State) : Option Course :=
  let a := (pa e (lowest e.act)).toNat
  let full := decide (63 ≤ (fibIs u i).ctrs.getD 4 0)
  if e.act = [] then (if full then some .stays else some (.goes (startOp u i 4 .idle (fun o => o)))) else
  recordAt e 64 64 a (
    if (xlSpan u i .read a 64).toOption.isSome ∧ full then some .stays
    else recordRead i e u w a 64 (fun v _ x =>
      let z := startOp v i 4 .coll (fun o => { o with x := a, y := x, w := if t then 1 else 0 })
      match mget z.ops v.nextId with
      | some o => some (.goes (collArrive z v.nextId o))
      | none => none))

/-- R222, R224, R293. -/
def taskCourse : Courses := fun ins i e u w =>
  match ins with
  | .spawn r =>
    let ea (l : Nat) := (pa e l).toNat
    match e.act.find? (fun l => !canonical (ea l)) with
    | some l => some (.traps 0x02 0 [l] [(12, ea l % 2 ^ 32), (13, ea l / 2 ^ 32)])
    | none =>
      let lined := e.act.filter (fun l => decide (ea l % 64 = 0))
      let met (v : State) : Met := gMeet v i .read 64 ea lined
      let m := met w
      let word (st : List (Nat × Word)) (l : Nat) : Word :=
        if ea l % 64 ≠ 0 then 3 else ((st.find? (fun p => p.1 == l)).map (·.2)).getD 0
      let answer (p : State × List (Nat × Word) × Bool) : State :=
        writeArch p.1 i.blk i.slot i.fib (archReg e.wb r.d.toNat) e.lat
          (e.act.filter (fun l => decide (ea l % 64 ≠ 0) || p.2.1.any (fun q => q.1 == l))) (word p.2.1)
      let run (v : State) : State × List (Nat × Word) × Bool :=
        spawnLanes e (ctxIs v i) (sendAll .usual i (coreIs v i) .read v.nextId (met v).s ((met v).ok.flatMap (·.2))) (met v).ok
      if m.stall then some (.asks m.s)
      else if (run w).2.2 then some (.asks (withAsks w (run w).1))
      else if m.bad = [] then some (.goes (answer (run u)))
      else some (.parts (parkBad (answer (run w)) i m.bad))
  | .taskend _ =>
    let pipes := ((blkD u i.blk).ending).getD (otherPipes u i.blk i.slot)
    some (.jumps (if pipes = [] then endBlock u i.blk else updBlk u i.blk (fun b => { b with ending := some pipes })))
  | .coll _ => collectiveCourse false i e u w
  | .collt _ => collectiveCourse true i e u w
  | _ => none

/-! ### Events (R31 to R37, R214, R394, R395, R422, R428, R433, R447 to R458, R472) -/

/-- A table of events: the state that an event leaves, the model's choice counter apart. -/
abbrev Events := Instr → State → Option State

/-- Every event of a table answers the state of the table. -/
def Does (table : Events) : Prop :=
  ∀ (ins : Instr) (s t : State), table ins s = some t → exec ins s = .next { t with choice := s.choice + 1 }

/-- The fibres of a slot after a forced switch (R32, R33): the one that yields waits for its results in flight, and issue passes to
the next. -/
def yields (s : State) (b k f : Nat) : State :=
  let flying := inFlight (slotD s b k) s.clk f
  let v := updFib s b k f (fun x => if x.st = .live then
    { x with since := 0, group := [], gcount := 0, wait := if flying then some { kind := .results } else none } else x)
  updSlot (updSlot v b k (fun x => { x with cur := (f + 1) % 4 })) b k (fun x => { x with forced := x.forced + 1 })

/-- R458: a slice boundary of the quads of a context: tenants are chosen by credit, and the blocks of the former one are pre-empted. -/
def sliceEnd (s : State) (h : Nat) : State :=
  if (ctxD s h).st = .free ∨ (List.range 4).all (fun d => decide (ownUnlent s h d = 0)) then s
  else
    let t := chooseTenant s h 8 h
    if tenantOf t h = tenantOf s h then t
    else (t.blocks.filter (fun p => decide (p.2.ctx = tenantOf s h) && !p.2.borrowed && p.2.resident &&
      (ownUnlent t h p.2.die).testBit p.2.quad)).foldl (fun u p => quiesce u p.1 false) t

/-- R444: the hold-offs of conflicts whose 2 ms are over end, and with them the remote mappings. -/
def holdsEnd (s : State) : State :=
  (s.migs.filter (fun m => (m.remote || m.devHold || m.hostHold) && decide (m.till ≤ s.uclk))).foldl (fun v m =>
    let f := m.frame
    let host := isHost (f * 65536)
    let t := updMig v f (fun m => { m with remote := false, devHold := false, hostHold := false, hostHas := m.hostHas && !host })
    if (migOf v f).remote ∧ host then mapRemote (invalidate t (namers t f) [f]) f false else t) s

/-- R513, R514: the owner whose link has been down for 1 s is owner no more, and a handover does not outlast 10 s. -/
def ownershipEnds (s : State) : State :=
  let t := match s.ken.ownerDown with
    | none => s
    | some d => if s.uclk < d + 2400000000 then s else updKen s (fun k => { k with
        owner := none, ownerDown := none, pending := none, evring := 0
        phase := if k.phase = .awaitCommit then .awaitOwner else k.phase })
  if t.ken.pending = none ∨ s.uclk ≤ t.ken.pendingAt + 24000000000 then t else updKen t (fun k => { k with pending := none })

/-- R478: a core writes a sample of a session: of the next slot of the subtree after the one sampled last, in the session's ring. -/
def sampled (s : State) (sid core : Nat) : State :=
  match mget s.sessions sid with
  | none => s
  | some x =>
    let all := sampleSlots s x.root core
    match (all.find? (fun n => decide (mgetD x.rr core 0 < n))).orElse (fun _ => all.head?) with
    | none => s
    | some n =>
      if x.period = 0 ∨ x.buf = 0 then s
      else
        let b := (n - 1) / 16
        let k := (n - 1) % 16
        let t := (kWrite s x.owner ((x.buf + 32 * (x.wrptr % 2 ^ x.log2n)) % 2 ^ 64) (sampleWords s b k (sampleLane (slotD s b k)))).1
        updSlot { t with sessions := mset t.sessions sid { x with wrptr := (x.wrptr + 1) % 2 ^ 32, rr := mset x.rr core n } } b k
          (fun y => { y with last := [] })

/-- R481: an experiment's epoch ends: every core owes SPEED / 64 of the range clk of the others. -/
def epochOver (s : State) (p : Nat) (x : Trial) : State :=
  let cores := coresUnder s x.root
  let all := sumNat (cores.map (fun c => mgetD x.rc c 0))
  let y := { x with
    epochs := x.epochs + 1, rc := [], dglobal := x.dglobal + x.speed * all / 64
    debt := cores.foldl (fun m c => mset m c (mgetD m c 0 + x.speed * (all - mgetD x.rc c 0) / 64)) x.debt }
  { s with trials := mset s.trials p (if y.dur ≤ y.epochs then endTrial s y else y) }

/-- R478, R481: what the clk that has come brings: the ends of epochs, then the samples of every core of a subtree. -/
def clkComes (s : State) : State :=
  let t := (s.trials.filter (fun p => !p.2.done && decide (p.2.start + 1024 * (p.2.epochs + 1) ≤ s.clk))).foldl
    (fun v p => epochOver v p.1 p.2) s
  (t.sessions.filter (fun p => decide (p.2.period ≠ 0) && decide (p.2.buf ≠ 0) && decide (t.clk % p.2.period = 0))).foldl (fun v p =>
    match mget v.sessions p.1 with
    | none => v
    | some x => (coresUnder v x.root).foldl (fun w c => sampled w p.1 c) v) t

/-- R478, R481: `n` clk pass, in at most `most` parts: up to each clk that brings something debts are paid. -/
def clkPasses (most : Nat) (s : State) (n : Nat) : State :=
  match most, nextDue s with
  | k + 1, some m =>
    if m ≤ s.clk + n then clkPasses k (clkComes (payDebts { s with clk := m } (m - s.clk))) (s.clk + n - m)
    else payDebts { s with clk := s.clk + n } n
  | _, _ => payDebts { s with clk := s.clk + n } n

/-- R66, R389, R444, R454, R458, R468, R478, R481, R513, R514: `n` clk and `u` uclk pass while the clocks run: debts are paid, epochs
end and samples are taken, CTIME and the waits of blocks rise, a slice ends for each multiple of it that uclk crosses, and rendezvous
limits, hold-offs, ownership and handovers end. -/
def passes (s : State) (n u : Nat) : State :=
  if s.ken.phase = .bringUp ∨ s.ken.phase = .recovery ∨ s.ken.phase = .off then s
  else
    let r := clkPasses (n + 1) s n
    let t := addWaits (addCtime { r with uclk := r.uclk + u } u) u
    ownershipEnds (holdsEnd (lateWhistles (t.ctxs.foldl (fun v p =>
      let k := (ctxD v p.1).slice.toNat * 2400
      (List.range (t.uclk / k - s.uclk / k)).foldl (fun v _ => sliceEnd v p.1) v) t)))

/-- R214: the state after a fibre that waits in TRYW or TRYWL has read again: its instruction is examined with the operands of its
issue; another fibre is left as it is. -/
def rereads (s : State) (b k f : Nat) : State :=
  match ((fibD s b k f).wait).bind (·.env) with
  | none => s
  | some e => match trywOf e.i.code with
    | none => s
    | some (fn, r) => (if fn = 0 then execTryw r { s with cur := some e.i } else execTrywl r { s with cur := some e.i }).get s

/-- R214: a live fibre waits in TRYW (`fn` = 0) or TRYWL with the operands `e` of its issue; the register of its result is not
spilled, and the address of no active lane traps. -/
structure Rereads (s : State) (b k f : Nat) (w : Wait) (e : Env) (fn : BitVec 3) (r : RX) : Prop where
  fibre : (mget s.blocks b).isSome = true ∧ k < (blkD s b).slots.length ∧ f < (slotD s b k).fibs.length ∧
    (fibD s b k f).st = .live ∧ (fibD s b k f).stopReq = false
  wait : (fibD s b k f).wait = some w ∧ w.kind = .retry ∧ w.env = some e
  code : trywOf e.i.code = some (fn, r)
  place : e.i.blk = b ∧ e.i.slot = k ∧ e.i.fib = f
  room : spilled s b k (destRegs (r.raw 0x3C#7 fn) e.wb) = []
  addresses : e.act.all (fun l => if fn = 0 then !badGlobal 4 4 (pa e l).toNat
    else decide ((wa e l).toNat % 4 = 0) && (localOk s (ctxIs s e.i) (coreIs s e.i) (wa e l).toNat 4 false).isSome) = true

/-- R214: what the active lanes of the wait read now: of memory for TRYW, of the block's SRAM for TRYWL. -/
def readings (s : State) (e : Env) (fn : BitVec 3) : List Got :=
  if fn = 0 then
    let m := gMeet s e.i .read 4 (fun l => (pa e l).toNat) e.act
    (gReadLanes m.s e.i m.ok).2
  else
    let p := lMeet s e.i false 4 (fun l => (wa e l).toNat) e.act
    (lReadLanes p.1 e.i 4 (fun l => (wa e l).toNat) p.2.ok).2

/-- R214, R227: a lane of the wait takes no word read now: it has completed, or its timeout elapsed before this clk. -/
def settledLane (s : State) (w : Wait) (e : Env) (l : Nat) : Bool :=
  w.done.contains l || decide (wc e l ≠ 0 ∧ w.start + (wc e l).toNat < s.clk)

/-- R214: the word of a lane of the wait: the one that it ended with, else the one read now, else the last one. -/
def lastWord (s : State) (w : Wait) (e : Env) (gs : List Got) (l : Nat) : Word :=
  if settledLane s w e l then w.last.getD l 0
  else match gs.find? (fun g => g.lane == l) with
    | some g => .ofNat 32 (leNat g.bytes)
    | none => w.last.getD l 0

/-- R214: a lane of the wait has completed: before, or now by its word, or by its timeout. -/
def waitOver (s : State) (w : Wait) (e : Env) (r : RX) (gs : List Got) (l : Nat) : Bool :=
  w.done.contains l ||
  (!settledLane s w e l && (gs.find? (fun g => g.lane == l)).isSome &&
    (decide (lastWord s w e gs l = wb e l) == r.x.imm.getLsbD 0)) ||
  decide (wc e l ≠ 0 ∧ w.start + (wc e l).toNat ≤ s.clk)

/-- R33, R35, R36, R61, R214: events of issue. -/
def issueEvents : Events := fun ins s =>
  match ins with
  | .groupSelect b k f =>
    if (fibD s b k f).gcount < 64 then some s else some (updFib s b k f (fun x => { x with group := [], gcount := 0 }))
  | .forcedSwitch b k f =>
    if (fibD s b k f).since < 64 then some s
    else if (List.range 4).any (fun g => decide (g ≠ f) && fibReady (fibD s b k g)) then some (yields s b k f)
    else some (updFib s b k f (fun x => { x with since := 0 }))
  | .registerResultReturn b k a =>
    let back := s.flights.filter (fun x => decide (x.blk = b ∧ x.slot = k ∧ x.reg ≤ a ∧ a < x.reg + (x.w + 3) / 4) && x.stands s)
    some (updSlot (landFlights (back.foldl relook s) back.contains) b k (fun x => { x with regs := mupd x.regs a (fun r =>
      { r with stale := r.stale.filter (fun t => t.due.isSome || (t.op.map (fun n => (mget s.ops n).isSome)).getD false) }) }))
  | .chunkRefillComplete b k c =>
    some (updSlot s b k (fun x => freeChunks { x with chunks := mupd x.chunks c (fun y =>
      if y.st = .refilling then { st := .resident, used := x.issues } else y) }))
  | .trywRecheck b k f => some (rereads s b k f)
  | .trywPoll b k f => some (rereads s b k f)
  | .trywTimeout b k f l => some (rereads (passes s (timeoutAt s b k f l - s.clk) 0) b k f)
  | _ => none

/-- R395: the borrowing blocks on some quads of a die quiesce, to stand at the head of their wait list. -/
def reclaimed (s : State) (die mask : Nat) : State :=
  (s.blocks.filter (fun p => p.2.borrowed && p.2.resident && decide (p.2.die = die) && mask.testBit p.2.quad)).foldl
    (fun t p => quiesce t p.1 true) s

/-- R500: an event of a context; there is none in a stopped hard partition. -/
def unlessHalted (s : State) (c : Nat) (o : Option State) : Option State := if halted s c then some s else o

/-- R394, R395, R412, R447, R450, R454, R458, R467: events of scheduling, and performed writes of registers of contexts. -/
def scheduleEvents : Events := fun ins s =>
  match ins with
  | .lendWrite c k v =>
    let m := v.toNat % 2 ^ 16
    match (ctxD s c).dies[k]? with
    | none => some s
    | some d =>
      let old := (ctxD s c).lent.getD d 0
      if m &&& (ctxD s c).quads.getD d 0 ≠ m then some s
      else some (reclaimed (updCtx s c (fun x => { x with lent := x.lent.set d m })) d (old - (old &&& m)))
  | .quadReclaim c vd q =>
    unlessHalted s c (match (ctxD s c).dies[vd]? with
      | none => some s
      | some d => if isLent s c d q ∧ readyOn s c d then some (reclaimed s d (2 ^ q)) else some s)
  | .sliceBoundary h =>
    let n := (ctxD s h).slice.toNat * 2400
    if n = 0 then some s else some (passes s (Config.clkGap s.choice) (n - s.uclk % n))
  | .groupWrite c g v =>
    let x := v.toNat
    let en := v.getLsbD 63
    if x / 2 ^ 8 % 2 ^ 8 ≠ 0 ∨ (en = true ∧ (x / 2 ^ 48 % 2 ^ 15 = 0 ∨ x % 2 ^ 8 + 1 < x / 2 ^ 24 % 2 ^ 8 + x / 2 ^ 16 % 2 ^ 8 + 1)) ∨
        256 ≤ g then some s
    else some (updCtx s c (fun x => { x with group := mset x.group g v }))
  | .qdescWrite c q v =>
    let on := v.getLsbD 0
    if v.toNat / 2 ^ 57 ≠ 0 ∨ v.toNat / 2 % 2 ^ 5 ≠ 0 ∨ (on = true ∧ qEnabled s c q = false ∧ freeQueues s c = 0) then some s
    else
      let t := updCtx s c (fun x => { x with qdesc := mset x.qdesc q v })
      some (if on then clearErr t c q else t)
  | .priorityAging n task =>
    match waitedOf s n task with
    | none => some s
    | some w => some (passes s (Config.clkGap s.choice) (4800000 - w % 4800000))
  | .queueHeaderPoll c q =>
    unlessHalted s c (some (match readHdr s c q with
      | .ok t _ => t
      | .none t => t
      | .wait t => t))
  | .queueEntryExamine c q =>
    unlessHalted s c (
      if nextQueue s c ≠ some q then some s
      else match readHdr s c q with
        | .wait t => some t
        | .none t => some t
        | .ok t h => match kGet t c (h.entry h.head) 64 with
          | .wait u => some u
          | .bad u _ => some u
          | .ok u bs bad => match judge u c q bs bad with
            | .wait v => some v
            | .status v n l => some (concludeEntry v c q h n l))
  | .tlbMissWalk core c va k =>
    if (ctxD s c).st = .free ∨ (ctxD s c).st = .revoking ∨ !canonical va.toNat ∨ !walksFor s c core va.toNat k then some s
    else match walkEntry s core c va.toNat k with
      | some t => some { s with tlb := addTlb s.tlb t, wcache := keepNodes s c va.toNat k t.nodes }
      | none => some s
  | .faultExamine b k f =>
    unlessHalted s (blkD s b).ctx (
      if (mget s.blocks b).isNone then some s
      else if k = 16 then some (examineJoin (((blkD s b).handles.map (·.1)).foldl (examineCopy b) (examineSeq s b)) b)
      else
        let t := (faultLanes (fibD s b k f)).foldl (examineLane b k f) s
        let mine := (t.ops.filter (fun p => p.2.blk == b && p.2.slot == k && p.2.fib == f)).map (·.1)
        some (reportParked (mine.foldl examineOp t) b k f))
  | .handlerTaskPush =>
    some ((List.range (9 * s.tickets.length + s.ctxs.length)).foldl (fun (p : State × List Nat) _ =>
      match nextPush p.1 p.2 with
      | none => p
      | some (id, h) => ((pushHandler p.1 id h).1, if (pushHandler p.1 id h).2 then p.2 else h :: p.2)) (s, [])).1
  | .continuationPush =>
    some (s.pushes.foldl (fun t p =>
      let q := pushCont t p
      { q.1 with pushes := q.1.pushes ++ q.2.toList }) { s with pushes := [] })
  | _ => none

/-- R111: a copy of a handle runs as far as it can: `next` where it is done, else the fault that holds it (R113, R430). -/
def copied (s : State) (b h n : Nat) (k : AccKind) (f : Option (Nat × Xl)) (next : HandleSt) : State :=
  updBlk s b (fun x => { x with handles := mupd x.handles h (fun y => match f with
    | none => { y with st := next, copied := 0 }
    | some (a, .fault c st lv) => { y with
        copied := n
        fault := some { cause := c, addr := a, acc := accWord (accCode k) st lv, kind := k, used := walkUsed s (blkD s b).ctx a k } }
    | some _ => { y with copied := n }) })

/-- R21 to R25, R111, R435, R440: events of blocks that run. -/
def blockEffects : Events := fun ins s =>
  let x (b : Nat) := blkD s b
  match ins with
  | .inputCopyComplete b h =>
    match mget (x b).handles h with
    | none => some s
    | some y =>
      if y.st ≠ .filling ∨ y.fault ≠ none ∨ (x b).st = .saved ∨ copyTurn s b h = false then some s
      else
        let p := runUnits (fillUnit (x b).ctx (handleCore (x b)) y.decl) s (restUnits y) y.copied
        some (copied p.1 b h p.2.1 .read p.2.2 .full)
  | .outputDrainComplete b h =>
    match mget (x b).handles h with
    | none => some s
    | some y =>
      if y.st ≠ .draining ∨ y.fault ≠ none ∨ (x b).st = .saved ∨ copyTurn s b h = false then some s
      else
        let p := runUnits (drainUnit (x b).ctx (handleCore (x b)) b y.decl) { s := s } (restUnits y) y.copied
        some (copied (drainPoison p.1) b h p.2.1 .write p.2.2 .free)
  | .blockRetire b =>
    if (mget s.blocks b).isNone then some s
    else
      let begins := decide ((x b).st = .running) && allEnded (x b)
      if begins = false ∧ (x b).st ≠ .retiring then some s
      else
        let v := if begins then updBlk (closeBlockWindows s b) b (fun y => { y with st := .retiring, rstep := 2 }) else s
        if !workDone v b then some v
        else
          let w := if (blkD v b).rstep < 4 then updBlk v b (fun y => { startDrains y with rstep := 4 }) else v
          if (blkD w b).handles.any (fun h => decide (h.2.st = .draining)) ∨ w.stores.any (fun p => p.blk == b) then some w
          else
            let p := joinStep (updBlk w b (fun y => { y with rstep := 5 })) b
            some (if p.2 then freeBlock p.1 b else p.1)
  | .forcedPreemption b => if (mget s.blocks b).isNone then some s else some (quiesce s b false)
  | .blockSave b =>
    if (x b).st ≠ .quiescing then some s
    else
      let t := (unitOf s b).foldl saveBlock s
      some { t with saves := t.saves + 1 }
  | .blockStart b =>
    if (mget s.blocks b).isNone then some s
    else
      let us := startUnit s b
      let l := launchD s (x b).launch
      if l.tr.gang = true ∧ l.waiting ≠ [] then some s
      else
        let v := us.foldl (fun t k => if (blkD t k).st = .loading then replayStores t k else t) s
        if us.all (loaded v) = false ∨ us.all (replayDone v) = false then some v
        else
          let p := us.foldl (fun (p : State × Bool) k => if p.2 then loadDict p.1 k else p) (v, true)
          if p.2 then some (us.foldl obeyHalt (us.foldl runBlock p.1)) else some p.1
  | _ => none

/-- R21, R500: events of blocks; a placement comes in its turn, and in a stopped hard partition there is no other. -/
def blockSteps : Events := fun ins s =>
  let of (b : Nat) := unlessHalted s (blkD s b).ctx (blockEffects ins s)
  match ins with
  | .inputCopyComplete b _ => of b
  | .outputDrainComplete b _ => of b
  | .blockRetire b => of b
  | .blockPlacement n task =>
    match nextPlacement s with
    | some (m, tasks, t) => if m = n ∧ task ∈ tasks then some t else some s
    | none => some s
  | .forcedPreemption b => of b
  | .blockSave b => of b
  | .blockStart b => of b
  | _ => none

/-- R133: an operation that may complete: of class `cls`, the oldest of its class from its fibre, held by no fault. -/
def due (s : State) (id cls : Nat) : Option Op :=
  (mget s.ops id).filter (fun o => decide (o.cls = cls) && isOldest s id o && decide (o.fault = none))

/-- R65, R133, R302: an operation completes: it leaves, its counter falls by 1, and its drops are counted. -/
def completed (s : State) (id : Nat) (o : Op) (drops : Nat) : State := finishOp (addDrops s o.blk o.slot o.fib drops) id

/-- R104, R117, R133, R301, R314, R326: events of the engines, the stash and the stores. -/
def engineEvents : Events := fun ins s =>
  let at' (core ln : Nat) (g : State → Nat → Nat → State) : State :=
    match lineAt s core ln with
    | some (m, j) => g s m j
    | none => s
  match ins with
  | .stashFillReturn core ln =>
    some (at' core ln (fun s m j => match mget s.mappings m with
      | none => s
      | some x =>
        let l := lineD s m j
        if l.st ≠ .filling then s
        else match linePas s x j (if l.own then .atomic else .read) with
          | .ok pas => wakeLine (markFilled (updLine (fillBytes s m j x { l with pas := pas }) m j (fun y =>
              { y with st := if l.own then .exclusive else .shared, own := false, pas := pas })) x.core (x.lbase / 64 + j)) x.core
              (x.lbase / 64 + j)
          | .error (_, .locked) => s
          | .error _ => wakeLine (updLine s m j (fun y => { y with st := .absent, own := false, pas := [] })) core ln))
  | .stashOwnershipGrant core ln =>
    some (at' core ln (fun s m j =>
      if (lineD s m j).st ≠ .upgrading then s
      else wakeLine (updLine (recalls s (some (m, j)) true ((lineD s m j).pas.filter (fun pa => decide (pa < 2 ^ 52)))) m j
        (fun y => { y with st := .exclusive })) core ln))
  | .stashInvalidate core ln =>
    some (at' core ln (fun s m j => match (lineD s m j).st with
      | .shared => updLine s m j (fun y => { y with st := .absent, pas := [] })
      | .upgrading => updLine s m j (fun y => { y with st := .filling, own := true })
      | .exclusive => updLine (writeBack s m j) m j (fun y => { y with st := .absent, pas := [] })
      | _ => s))
  | .stashRecall core ln =>
    some (at' core ln (fun s m j =>
      if (lineD s m j).st = .exclusive then updLine (writeBack s m j) m j (fun y => { y with st := .shared }) else s))
  | .stashCapacityEviction core ln =>
    some (at' core ln (fun s m j => match (lineD s m j).st with
      | .shared => updLine s m j (fun y => { y with st := .absent, pas := [] })
      | .exclusive => updLine (writeBack s m j) m j (fun y => { y with st := .absent, pas := [] })
      | _ => s))
  | .retrieverOpComplete id =>
    match (due s id 0).filter (fun o => o.win.isNone) with
    | none => some s
    | some o => match o.kind with
      | .embLoad => some (emblPerform s id o)
      | .gather =>
        let p := refreshOp s id o .read
        if p.2.ready then
          some (completed (if o.code = 4 then gatherMove p.1 p.2 else gatherLate p.1 id p.2) id o o.drops)
        else some p.1
      | _ => some (completed s id o o.drops)
  | .atomicUpdateComplete id =>
    match due s id 2 with
    | none => some s
    | some o =>
      let p := refreshOp s id o .atomic
      if p.2.ready then some (finishOp (applyAtomics p.1 id p.2) id)
      else some (if o.ready then p.1 else parkAtomic s id o)
  | .stashOpComplete id =>
    match mget s.ops id with
    | none => some s
    | some o =>
      if o.cls ≠ 3 ∨ !isOldest s id o ∨ o.fault.isSome then some s
      else match stashOpEffect s o with
        | none => some (fillAgain s id o)
        | some t => some (finishOp t id)
  | .binningComplete id =>
    match due s id 5 with
    | none => some s
    | some o =>
      let w := binRun s o
      match w.fault with
      | some f => some (holdOp s id o .write f)
      | none => if w.poison then some (finishOp (consumePoison s o.blk 2 o.x) id) else some (completed w.s id o w.drops)
  | .collectiveStepComplete id =>
    match (mget s.ops id).filter (fun o => decide (o.cls = 4) && isOldest s id o && decide (o.fault = none)) with
    | none => some s
    | some o =>
      if o.kind = .idle then some (finishOp s id)
      else if o.code ≠ 0 then some (collStatus s id o (o.code - 1))
      else match whistleOf s id with
        | none => some (collArrive s id o)
        | some k =>
          let t := sendWhistle s k
          match t.whistles[k]? with
          | none => some t
          | some w =>
            if w.wrote.contains id then some (collLeave t id k w)
            else match w.abort with
              | some c => some (stepStatus t id o k c)
              | none => if w.go = false then some t else some (collPerform t id o k)
  | .scatterWindowClose b k f =>
    let x := fibD s b k f
    if x.window ≠ none ∧ (x.st ≠ .live ∨ 64 < x.winIdle ∨ lanes32.any (issuable x) = false) then some (closeWindow s b k f) else some s
  | .scatterWindowApply k =>
    match mget s.windows k with
    | none => some s
    | some w =>
      if w.shut = false ∨ (blkD s w.blk).st = .saved ∨ windowHeld s k w = true then some s
      else if w.fn = 8 then some (applyEmbu s k w w.elems [])
      else if w.ready then some (windowLeft (applyElems s w w.elems) k [])
      else match w.ops.findSome? (fun id => (mget s.ops id).map (fun o => (id, o))) with
        | none => some (windowLeft s k [])
        | some (id, o) => match refreshElems s o .atomic w.elems with
          | .error f =>
            let n := ((w.elems.find? (fun x => x.va == f.1)).map (·.op)).getD id
            some (holdOp s n ((mget s.ops n).getD o) .atomic f)
          | .ok els => some (windowLeft (applyElems s w els) k [])
  | .accessPerformed id => some (performStore s id)
  | _ => none

/-- R397, R442 to R445, R496 to R498: events that end, move or retire what contexts hold. -/
def memoryEvents : Events := fun ins s =>
  match ins with
  | .revocation c =>
    if halted s c = true ∨ (ctxD s c).st ≠ .revoking ∨ (ctxD s c).root = true ∨
        (ctxD s ((ctxD s c).parent % 4096)).st = .revoking then some s
    else
      let cs := subtree s c
      let p := (ctxD s c).parent % 4096
      let ended := ((s.ops.filter (fun q => cs.contains q.2.ctx)).map (·.1)).foldl endOp s
      let bare := dropTlb (discardMaps (dropTickets (dropBlocks ended cs) cs) cs) cs
      let t := freeNumbers (endProfiles (returnHoldings (returnFrames bare cs) cs p) cs) cs p
      some { t with
        migs := t.migs.filter (fun m => namers t m.frame ≠ [])
        ctxs := t.ctxs.map (fun q => (q.1, { q.2 with tenant := q.2.tenant.filter (fun h => !cs.contains h.2) })) }
  | .mscRetag c =>
    if (ctxD s c).st ≠ .free ∨ (ctxD s c).retag = false then some s
    else
      let heir := heirOf s 8 (ctxD s c).heir
      some (updCtx { s with msc := s.msc.map (fun l => if l.owner = c then { l with owner := heir } else l) } c
        (fun x => { x with retag := false }))
  | .functionLevelReset vf =>
    let s := failTdis s [vf]
    match (s.ctxs.find? (fun p => decide (p.2.st ≠ .free) && p.2.vfs.contains vf)).map (·.1) with
    | none => some s
    | some c =>
      if (ctxD s c).st = .revoking then some s
      else
        let cs := (subtree s c).filter (fun d => decide ((ctxD s d).st ≠ .revoking))
        let cut := (s.windows.filter (fun p => cs.contains (blkD s p.2.blk).ctx)).foldl
          (fun (q : State × List CutOp) p =>
            ((resetWindow q.1 p.1 p.2).1, q.2 ++ (resetWindow q.1 p.1 p.2).2)) (s, [])
        let ended := ((cut.1.ops.filter (fun q => cs.contains q.2.ctx && decide (q.2.kind = .atomic))).map (·.1)).foldl endOp cut.1
        let bare := dropBlocks ended cs
        let clean := (bare.mappings.filter (fun p => cs.contains p.2.ctx)).foldl (fun t p => deleteMapping t p.1 true) bare
        let u := cs.foldl (fun t d => updCtx t d (fun x => unbindFallen { x with
          st := if d = c then .created else .stopped, force := false, waitList := [], waitHeads := 0, bound := [] }))
          (emptyQueues (dropTickets clean cs) cs)
        some (resetRecord (cut.2.foldl (fun t x => resetRecord t c vf (some x)) u) c vf none)
  | .migration c page frame =>
    match leafAt s c page with
    | none => some s
    | some e =>
      let m := migOf s e.frame
      let unlocked (t : State) : State :=
        newFrame { t with migs := t.migs.filter (fun m => decide (m.frame ≠ e.frame ∧ m.frame ≠ frame)) } e.frame frame
      if e.migr = false ∨ (ctxD s c).st = .free ∨ frameFree s frame = false then some s
      else if isHost (e.frame * 65536) ∧ isHbm (frame * 65536) ∧ m.granted then
        some (unlocked (moveFrame s e.frame frame (fun _ x => { x with valid := true, rid := 0 })))
      else if isHbm (e.frame * 65536) ∧ isHost (frame * 65536) ∧ m.hostHas then
        some (unlocked (moveFrame s e.frame frame (fun d x => { x with valid := false, rid := ridOf s d })))
      else some s
  | .remoteMapExpiry c page =>
    match frameOf s c page with
    | none => some s
    | some f =>
      let m := migOf s f
      if m.remote = false ∧ m.devHold = false ∧ m.hostHold = false then some s
      else some (passes s (Config.clkGap s.choice) (m.till - s.uclk))
  | .pageRetire f =>
    if f ∉ s.ken.due then some s
    else
      let v := updKen s (fun k => { k with due := k.due.filter (· != f) })
      if s.ken.reserve.any (fun p => p.2 == f) = true then
        some (updKen v (fun k => { k with retired := k.retired ++ [f], reserve := k.reserve.filter (fun p => p.2 != f) }))
      else match spareFor s f with
      | none => some v
      | some sp =>
        let t := if willScrub v f then repoint (scrubFrame (invalidate v (namers v f) [f]) sp) f sp (fun _ x => x)
          else moveFrame v f sp (fun _ x => x)
        some (updKen t (fun k => { k with
          retired := k.retired ++ [f], moved := k.moved ++ [(f, sp)], reserve := k.reserve.filter (fun p => p.2 != sp),
          errs := noteRetired f sp k.errs, folds := noteRetired f sp k.folds }))
  | _ => none

/-! ### Errors, links and requests from outside (R141, R426, R464, R468, R469, R471, R478, R481, R488 to R502) -/

/-- The record of an error before its actions (R501). -/
def plainRecord (e : MemErr) (cls action : Nat) : ErrRec :=
  { cls := cls, unit := unitCode e.unit, action := action, loc := locOf e, ctx := 0, addr := addrOf e }

/-- R499: a corrected error in the data or a tag of a set of the memory-side cache: its sixteenth set takes the way. -/
def corrSet (s : State) (e : MemErr) : State :=
  let p := countSet s e.die e.way (Machine.setOf (e.addr / 64))
  noteError p.1 (plainRecord e 1 (if p.2 then 8 else 0))

/-- R488, R497, R499: the fate of a corrected error, by its structure. -/
def correctedFate (s : State) (e : MemErr) : State :=
  match e.unit with
  | .hbm => noteError (countLine s (e.addr / 64)) (plainRecord e 1 0)
  | .mscData => corrSet s e
  | .mscTag => corrSet s e
  | .matrix => s
  | .stage2 => s
  | .firmware => s
  | _ => noteError s (plainRecord e 1 0)

/-- R488, R499: of a line of the memory-side cache, the value stands whatever its way holds: a record of class 1, and no way keeps it. -/
def noValueLost (s : State) (unit die way addr : Nat) : State :=
  noteError (quarantineWay s die way) { cls := 1, unit := unit, action := 8, loc := die * 16384 + way, ctx := 0, addr := addr }

/-- R488, R493, R499, R500: the fate of an uncorrectable error, by its structure. -/
def uncorrectedFate (s : State) (e : MemErr) : State :=
  let line := e.addr / 64
  match e.unit with
  | .regFile => noteError (wordError s e) (plainRecord e 2 1)
  | .sram => noteError (addSramPoison s [sramKey e.core (e.addr % 2 ^ 20) / 8]) (plainRecord e 2 1)
  | .cleanCopy => noteError s (plainRecord e 1 0)
  | .l2Data =>
    if pick s e.addr 4 2 = 0 then noteError s (plainRecord e 1 0) else noteError (addPoison s [line]) (plainRecord e 2 1)
  | .l2Tag => hardFatal s 7 (locOf e) e.die
  | .mscData =>
    match s.msc.find? (fun l => l.line == line) with
    | none => noValueLost s 5 e.die (e.way % 16) (line * 64)
    | some l =>
      if l.dirty then loseLine 5 (quarantineWay s l.die l.way) l
      else noValueLost { s with msc := s.msc.filter (fun x => x.line != l.line) } 5 l.die l.way (l.line * 64)
  | .mscTag =>
    -- The entry could name its own way, and any others, a free choice.
    let ws := (List.range 16).filter (fun w => w == e.way % 16 || (Config.freePick s.choice e.addr 14).testBit w)
    let t := ws.foldl (fun u w => quarantineWay u e.die w) s
    match s.msc.filter (fun (l : MscLine) => decide (l.die = e.die ∧ l.way ∈ ws ∧ Machine.setOf l.line = Machine.setOf line)) with
    | [] => noValueLost t 6 e.die (e.way % 16) (line * 64)
    | l :: r => (l :: r).foldl (loseLine 6) t
  | .hbm => noteError (addPoison s [line]) (plainRecord e 2 1)
  | .matrix => updSeq s e.blk (fun q => match cellOf e with
      | none => q
      | some x => if q.lost.contains x then q else { q with lost := q.lost ++ [x] })
  | .kennel => packageFatal s
  | .stage2 => updLeaf s e.blk e.addr (fun x => { x with bad := true })
  | .firmware => noteError s (plainRecord e 6 0)
  | .ucie => linkDown s (.edge e.die (e.way % 2))
  | .fabric => linkDown s (.fabric e.way)
  | .hostLink => linkDown s .host

/-- R488 to R502. -/
def errorEvents : Events := fun ins s =>
  match ins with
  | .memoryErrorDetect e => some (if e.corrected then correctedFate s e else uncorrectedFate s e)
  | .mscLossExamine =>
    match s.ken.losses with
    | [] => some s
    | l :: r =>
      let t := updKen s (fun k => { k with losses := r })
      let e : ErrRec := { cls := 2, unit := l.unit, action := 9, loc := l.die * 16384 + l.way, ctx := 0, addr := l.line * 64,
                          uclk := l.uclk, pages := l.pages }
      some (if (ctxD t l.tag).st = .free then noteError t e else bearLoss t l.tag e)
  | .sweeperWayClear d w =>
    let swept (v : Nat) (l : MscLine) : Bool := decide (l.die = d) && decide (l.way = v) &&
      (s.ken.sweeping.contains (d, v) || !((sliceOf s l.owner).mscw.getD l.die 0).testBit l.way)
    if (List.range w).any (fun v => s.ken.sweeping.contains (d, v) || s.msc.any (swept v)) then some s
    else some (updKen { s with msc := s.msc.filter (fun l => !swept w l) } (fun k =>
      { k with sweeping := k.sweeping.filter (fun p => p != (d, w)) }))
  | .patrolScrub line => some (
      if isHbm (line * 64) = false then s
      else
        let k := pick s line 9 3
        if k = 0 then s else if k = 1 then correctedFate s (scrubError s line true) else uncorrectedFate s (scrubError s line false))
  | .errorRecordDelivery =>
    match s.ken.errs.find? (settled s) with
    | none => some s
    | some r => some (deliver (updKen s (fun k => { k with errs := k.errs.filter (fun x => x.seq != r.seq) })) r)
  | .correctedEventFold =>
    match s.ken.folds.find? (fun r => settled s r && foldDue s r) with
    | none => some s
    | some r =>
      let same := s.ken.folds.filter (fun x => x.unit == r.unit && x.loc == r.loc && settled s x)
      some (deliver (updKen s (fun k => { k with
        folds := k.folds.filter (fun x => !same.any (fun y => y.seq == x.seq)), foldLog := mset k.foldLog (foldKey r) s.uclk })) { r with
        count := same.length, action := same.foldl (fun a x => a ||| x.action) 0
        aux := (same.findSome? (fun x => if x.aux = 0 then none else some x.aux)).getD 0 })
  | .linkDown l =>
    if l ∈ s.ken.linksDown then some s
    else
      let t := updKen s (fun k => { k with
        linksDown := k.linksDown ++ [l], ownerDown := if some l = k.owner.map .master then some s.uclk else k.ownerDown })
      match l with
      | .edge d e => some (hardFatal t 10 (d * 16384 + e) d)
      | .fabric w => some (noteError t { cls := 2, unit := 11, action := 0, loc := w % 16, ctx := 0, addr := 0 })
      | .host => some (noteError t { cls := 2, unit := 12, action := 0, loc := 0, ctx := 0, addr := 0 })
      | .master _ => some t
  | .linkUp l => some (updKen s (fun k => { k with
      linksDown := k.linksDown.filter (· != l), ownerDown := if some l = k.owner.map .master then none else k.ownerDown }))
  | _ => none

/-- R427, R469: what becomes of a host request: through BAR2 it reaches the aperture of a context's function that is served, in RUN
only with the T bit where the range is private; through CXL.mem it reaches HBM that no partition holds, in its roots' frames or its
save pool. -/
def hostReach (s : State) (q : HostReq) (n : Nat) (k : AccKind) : HostFate :=
  match q.vf with
  | some v =>
    if q.t = false ∧ mgetD s.ken.tdis v .unlocked = .run ∧ (List.range n).any (fun j => Config.privateRange v (q.addr + j)) = true then
      .refused
    else match vfServed s v with
      | none => .refused
      | some c =>
        if 2 ^ 36 < q.addr + n then .refused
        else match kWalk s c (((ctxD s c).apbase.toNat + q.addr) % 2 ^ 64) n k with
          | .ok pas => .served (some c) pas
          | .error _ => .refused
  | none =>
    let pas := (List.range n).map (q.addr + ·)
    let pool (f : Nat) : Bool := s.ken.slices.any (fun r =>
      r.en && decide (r.spbase / 65536 ≤ f ∧ f < r.spbase / 65536 + r.spcnt))
    let rooted (f : Nat) : Bool := s.ctxs.any (fun p => p.2.root && decide (p.2.st ≠ .free) && !(leavesOf s p.1 f).isEmpty)
    if s.ken.linksDown.contains .host ∨ pas.any (fun p => !isHbm p) then .refused
    else if pas.any (fun p => rooted (p / 65536) || pool (p / 65536)) then .partitioned
    else .served none pas

/-- R104, R141, R492: what a requester outside the package reads: the newest bytes after the recall of dirty stash bytes, with their
poison; it has then seen every store of them. -/
def readsOutside (s : State) (agent : Nat) (pas : List Nat) : State :=
  let t := recalls s none false pas
  { seeLocs t agent pas with answer := some (.data (pas.map (Memory.rd t.mem)) (anyPoison t pas)) }

/-- R141, R426, R468, R469, R471, R478, R481. -/
def outsideEvents : Events := fun ins s =>
  let refuse (page : Nat) : State := { s with hostBad := if s.hostBad.contains page then s.hostBad else s.hostBad ++ [page] }
  match ins with
  | .hostWrite q =>
    match hostReach s q q.data.length .write with
    | .served (some c) pas => some (gWrite (dropPoison s (wholeLines pas)) c pas q.data)
    | .served none pas => some (physWrite (dropPoison s (wholeLines pas)) q.addr q.data)
    | .partitioned => some s
    | .refused => some (noteAperture s q q.data.length .write)
  | .hostRead q =>
    match hostReach s q q.len .read with
    | .served _ pas => some (readsOutside s (hostAgent q.rid) pas)
    | .partitioned => some { s with answer := some (.data (List.replicate q.len 0) true) }
    | .refused => some { noteAperture s q q.len .read with answer := some .unsupported }
  | .hostCompletion pa how =>
    if isHost pa = false then some s
    else match how with
      | .ok => some (dropPoison { s with hostBad := s.hostBad.filter (· != pa / 65536) } [pa / 64])
      | .refused => some (refuse (pa / 65536))
      | .poisoned => some (noteError (addPoison s [pa / 64])
          { cls := 2, unit := 12, action := 1, loc := 0, ctx := 0, addr := pa / 64 * 64 })
  | .completionTimeout pa => if isHost pa = false then some s else some (refuse (pa / 65536))
  | .peerRequest q =>
    let n := (q.data.map List.length).getD q.len
    let pas := (List.range n).map (q.addr + ·)
    match exposes s q.tenant q.addr n with
    | none => some { s with answer := some .refused }
    | some c => match q.data with
      | some bs => some (gWrite (dropPoison s (wholeLines pas)) c pas bs)
      | none => some (readsOutside s (peerAgent q.win) pas)
  | .whistleFlit f =>
    match (groupsOf s f.gid).find? (fun q => q.2.2.kbase == 0 && decide ((sliceOf s q.1).tenant = f.tenant)) with
    | none => some s
    | some (c, g, x) =>
      let p := whistleAt s c g f.gid f.step
      some (updWhistle p.1 p.2 (fun w => if w.abort.isSome then w else judgeFlits { w with flits := w.flits ++ [f] } (x.mm + 1)))
  | .whistleGo gid st data =>
    some { s with whistles := s.whistles.map (fun w =>
      let g := whistleGroup s w
      if w.gid = gid ∧ w.step = st ∧ w.sent ∧ w.abort.isNone ∧ w.far.isEmpty ∧ g.mm ≠ g.lcnt ∧ (w.go ∨ g.kbase ≠ 0) then
        { w with go := true, far := data } else w) }
  | .whistleAbort gid st code =>
    some (((groupsOf s gid).filter (fun q => q.2.2.mm != q.2.2.lcnt)).foldl (fun t q =>
      let p := whistleAt t q.1 q.2.1 gid st
      updWhistle p.1 p.2 (fun w => if w.abort.isSome then w else { w with abort := some (code % 2 ^ 32) })) s)
  | .whistleTimeout gid st =>
    match s.whistles.findSome? (fun w => if w.gid = gid ∧ w.step = st then whistleDue s w else none) with
    | none => some s
    | some d => some (passes s (Config.clkGap s.choice) (d - s.uclk))
  | .profileSample sid core =>
    match mget s.sessions sid with
    | none => some s
    | some x =>
      if x.period = 0 ∨ x.buf = 0 ∨ core ∉ coresUnder s x.root then some s
      else some (passes s (x.period - s.clk % x.period) (Config.uclkGap s.choice))
  | .trialEpochEnd p =>
    match (mget s.trials p).filter (fun x => !x.done) with
    | none => some s
    | some x => some (passes s (max (s.clk + 1) (x.start + 1024 * (x.epochs + 1)) - s.clk) (Config.uclkGap s.choice))
  | _ => none

/-! ### The kennel die (R427, R470, R505 to R521) -/

/-- R505 to R507, R509: bring-up from a flash that holds an image or none. -/
def brought (s : State) : State :=
  let t := coldState s .bringUp
  if imageOk t.ken.flash t.ken.minSvn = false then updKen t (fun k => { k with phase := .recovery })
  else reportTrips (resetDies (updKen { t with clk := 0, uclk := 0 } (fun k =>
    { k with phase := .awaitOwner, minSvn := imageNum t.ken.flash 4 4, booted := k.flash })) [0, 1, 2, 3])

/-- R505, R507, R513, R514, R519, R520. -/
def kennelSteps : Events := fun ins s =>
  let heated (d temp : Nat) (g : Bool → Bool) : State :=
    updKen s (fun k => { k with dies := k.dies.modify d (fun x => { x with temp := temp, throttled := g x.throttled }) })
  -- 115 °C is 920, 105 °C is 840, 95 °C is 760, each in 0.125 °C.
  let comes (d temp : Nat) : State :=
    if 920 ≤ temp then coldState (updKen (heated d temp id) (fun k => { k with tripLog := k.tripLog ++ [(d, temp)] })) .off
    else if 840 ≤ temp ∧ (s.ken.dies.getD d {}).throttled = false then
      postEvent (heated d temp (fun _ => true)) 0x25 (natLe 8 d ++ natLe 8 temp)
    else heated d temp (fun b => b && decide (760 < temp))
  match ins with
  | .packageReset => some (brought s)
  | .powerLoss => some (coldState s .off)
  | .ownerLapse =>
    match s.ken.ownerDown with
    | none => some s
    | some d => some (passes s (Config.clkGap s.choice) (d + 2400000000 - s.uclk))
  | .handoverTimeout =>
    if s.ken.pending = none then some s
    else some (passes s (Config.clkGap s.choice) (s.ken.pendingAt + 24000000001 - s.uclk))
  | .powerControl n => some (updKen s (fun k => { k with clkStep := max 24 (min 72 n) }))
  | .thermalThrottle d temp => some (comes d temp)
  | .thermalRecover d temp => some (comes d temp)
  | .thermalTrip d temp => some (comes d temp)
  | _ => none

/-- A mailbox command (R511): its code, whether a master that is not the owner may give it, the request, and its status, RES and
the state that its effect leaves. -/
structure Command where
  code : Nat
  any : Bool
  req : Mbx
  effect : Nat × Nat × State

/-- R510: bits of a request, numbered as in the field map. -/
def operand (r : Mbx) (hi lo : Nat) : Nat := r.ops.toNat / 2 ^ (lo - 64) % 2 ^ (hi + 1 - lo)

/-- R507, R510: a mailbox answers: it is a master's, bring-up is over and power is on, and its link is up. -/
def listens (s : State) (m : Nat) : Prop :=
  m < 4 ∧ s.ken.phase ≠ .bringUp ∧ s.ken.phase ≠ .off ∧ .master m ∉ s.ken.linksDown

/-- R500, R507, R511: the status of a command that is turned away before its own rules. -/
def refusal (s : State) (r : Mbx) (code : Nat) (any : Bool) : Option Nat :=
  match s.ken.phase with
  | .recovery => if (code = 5 ∨ code = 6 ∨ code = 7) ∧ (s.ken.loader = none ∨ s.ken.loader = some r.m) then none else some 1
  | .fatal =>
    if code = 5 ∨ code = 0x0A ∨ code = 0x0D then (if any = true ∨ s.ken.owner = some r.m then none else some 3) else some 1
  | _ => if any = true ∨ s.ken.owner = some r.m then none else some 3

/-- R513, R514, R517: a master becomes owner. -/
def owned (s : State) (m : Nat) : State :=
  postEvent (updKen s (fun k => { k with
    owner := some m, ownerDown := none, pending := none, evring := 0
    phase := if k.phase = .awaitOwner then .awaitCommit else k.phase })) 0x23 (natLe 8 m)

/-- R462: the slice record that an operand names. -/
def sliceNo (r : Mbx) : Nat := operand r 65 64 * 8 + operand r 68 66

/-- R470: the context and page that an operand names. -/
def pageNamed (s : State) (r : Mbx) : Option (Nat × Nat) :=
  if current s (operand r 159 128) ∧ operand r 127 64 % 65536 = 0 then
    some (operand r 159 128 % 4096, operand r 127 64 / 65536) else none

/-- R470: MIGDECL and MIGUNDECL. -/
def declared (s : State) (r : Mbx) (v : Bool) : Nat × Nat × State :=
  match pageNamed s r with
  | none => (2, 0, s)
  | some (c, p) =>
    let ps := (List.range (operand r 191 160)).map (p + ·)
    if ps = [] ∨ ps.any (fun q => (leafAt s c q).isNone) then (2, 0, s)
    else (0, 0, ps.foldl (fun w q => updLeaf w c q (fun e => { e with
      migr := v, valid := e.valid && !(v && isHost (e.frame * 65536)) })) (if v then invalidate s [c] (ps.filterMap (frameOf s c)) else s))

/-- R521: ROOTSR. -/
def rootRegister (s : State) (r : Mbx) : Nat × Nat × State :=
  let n := sliceNo r
  let sel := operand r 127 96
  if !s.ken.committed then (1, 0, s)
  else if operand r 71 69 ≠ 0 ∨ operand r 95 73 ≠ 0 ∨ operand r 511 192 ≠ 0 ∨ sel / 2 ^ 28 ≠ 0 ∨ (s.ken.slices.getD n {}).en = false then
    (2, 0, s)
  else if operand r 72 72 = 1 then
    let q := writeSys s n sel (.ofNat 64 (operand r 191 128))
    (0, q.1, q.2)
  else match readSys s n sel with
    | some v => (0, v * 2 ^ 64, s)
    | none => (0, 4, s)

/-- R427, R470, R505 to R521: the mailbox commands, but for MTRAP. -/
def commands (ins : Instr) (s : State) : Option Command :=
  let k := s.ken
  let recovery := decide (k.phase = .recovery)
  match ins with
  | .claim r => some ⟨0x01, true, r, if k.owner.isSome then (1, 0, s) else (0, 0, passes (owned s r.m) 0 1)⟩
  | .handover r => some ⟨0x02, false, r, (0, 0, updKen s (fun k => { k with
      pending := some (operand r 65 64), pendingAt := s.uclk }))⟩
  | .accept r => some ⟨0x03, true, r, if k.pending = some r.m then (0, 0, owned s r.m) else (1, 0, s)⟩
  | .release r => some ⟨0x04, false, r, (0, 0, updKen s (fun k => { k with
      owner := none, ownerDown := none, pending := none, evring := 0
      phase := if k.phase = .awaitCommit then .awaitOwner else k.phase }))⟩
  | .statusq r => some ⟨0x05, true, r, (0,
      phaseCode k.phase + k.owner.getD 15 * 2 ^ 8 + k.pending.getD 15 * 2 ^ 16 + imageNum k.booted 4 4 * 2 ^ 32, s)⟩
  | .imgload r =>
    let off := operand r 95 64
    let u := if recovery ∧ k.loader = none ∧ off = 0 then updKen s (fun k => { k with loader := some r.m }) else s
    some ⟨0x06, recovery, r,
      if u.ken.phase = .recovery ∧ u.ken.loader ≠ some r.m then (1, 0, u)
      else if 4096 < r.len ∨ r.win.length < r.len ∨ 5184 + 2 ^ 26 < off + r.len then (2, 0, u)
      else (0, 0, updKen u (fun k => { k with
        load := Memory.wrN k.load off (r.win.take r.len), loadLen := max k.loadLen (off + r.len) }))⟩
  | .imgcommit r => some ⟨0x07, recovery, r,
      if imageOk (loadedImage s) k.minSvn then
        (0, 0, updKen s (fun k => { k with writing := some (loadedImage s, recovery), flash := [] }))
      else (2, 0, s)⟩
  | .config r => some ⟨0x08, false, r,
      if k.phase ≠ .awaitCommit then (1, 0, s)
      else if 4096 < r.len ∨ r.len % 64 ≠ 0 ∨ r.win.length < r.len ∨ (entriesOf r.win (r.len / 64)).any entryBad then (2, 0, s)
      else (0, 0, updKen s (fun k => { k with config := k.config ++ entriesOf r.win (r.len / 64) }))⟩
  | .commit r => some ⟨0x09, false, r,
      if k.phase ≠ .awaitCommit ∨ k.committed = true then (1, 0, s)
      else if (commitAll s).1 then (0, 0, (commitAll s).2) else (2, 0, s)⟩
  | .evring r => some ⟨0x0A, false, r,
      if operand r 127 64 % 64 ≠ 0 ∨ 2 ^ 51 ≤ operand r 127 64 + 64 then (2, 0, s)
      else (0, 0, flushEvents (updKen s (fun k => { k with evring := operand r 127 64 })))⟩
  | .telem r => some ⟨0x0B, true, r, (0, sumNat ((List.range 4).map (fun d =>
      ((k.dies.getD d {}).temp % 65536 + Config.telemPower s.choice d % 65536 * 65536 + dieClk s d * 2 ^ 32) * 2 ^ (64 * d))), s)⟩
  | .plimit r => some ⟨0x0C, false, r,
      if 1000 ≤ operand r 95 64 ∧ operand r 95 64 ≤ 4200 then (0, 0, updKen s (fun k => { k with plimit := operand r 95 64 }))
      else (2, 0, s)⟩
  | .preset r => some ⟨0x0D, false, r, (0, 0, coldState s .bringUp)⟩
  | .hreset r => some ⟨0x0E, false, r,
      if k.committed = false then (1, 0, s)
      else if hardDies s (operand r 65 64) = [] then (2, 0, s)
      else (0, 0, hardReset s (operand r 65 64))⟩
  | .sliceset r =>
    let n := sliceNo r
    let ways := (List.range 4).map (fun d => operand r (128 + 16 * d + 15) (128 + 16 * d))
    some ⟨0x0F, false, r,
      if k.committed = false then (1, 0, s)
      else if (k.slices.getD n {}).en = false ∨ (List.range 32).any (fun j =>
          decide (j ≠ n) && (k.slices.getD j {}).en && masksMeet ways (k.slices.getD j {}).mscw) then (2, 0, s)
      else (0, 0, updKen s (fun k => { k with
        slices := k.slices.set n { (k.slices.getD n {}) with mscw := ways, misscap := operand r 79 72 } }))⟩
  | .rootsrWrite r => some ⟨0x15, false, r, rootRegister s r⟩
  | .rootsrRead r => some ⟨0x15, false, r, rootRegister s r⟩
  | .migdecl r => some ⟨0x10, false, r, declared s r true⟩
  | .migundecl r => some ⟨0x11, false, r, declared s r false⟩
  | .migreq r => some ⟨0x12, false, r,
      match pageNamed s r with
      | none => (2, 0, s)
      | some (c, p) => match leafAt s c p with
        | none => (2, 0, s)
        | some e =>
          let m := migOf s e.frame
          if e.migr = false then (2, 0, s)
          else if m.hostHold then (1, 0, s)
          else if m.want ∧ m.wantAt = s.uclk then (0, 0, countConflict (mapRemote (updMig s e.frame (fun m => { m with
            want := false, granted := false, hostHas := true, remote := true, devHold := true, till := s.uclk + 4800000 })) e.frame true) c)
          else if m.want then (1, 0, countConflict (updMig s e.frame (fun m => { m with hostHold := true, till := s.uclk + 4800000 })) c)
          else (0, 0, updMig s e.frame (fun m => { m with hostHas := true }))⟩
  | .miggrant r => some ⟨0x13, false, r,
      match pageNamed s r with
      | none => (2, 0, s)
      | some (c, p) => match leafAt s c p with
        | none => (2, 0, s)
        | some e =>
          if e.migr = true ∧ (migOf s e.frame).want = true then (0, 0, updMig s e.frame (fun m => { m with granted := true }))
          else (2, 0, s)⟩
  | _ => none

/-- R510, R511: the CMD of a request that names no command. -/
def noCommand (r : Mbx) : Option Nat := r.cmd.filter (fun c => c == 0 || decide (0x15 < c))

/-- The step answers a command as R511 says: nothing where the mailbox does not listen; status 4 where the CMD names no command; status 1
or 3 where the command is turned away; else its effect, with its status and RES in the response, and then `after`. -/
def Answered (o : Out) (s : State) (c : Command) (after : State → State) : Prop :=
  (¬listens s c.req.m → o = .next { s with choice := s.choice + 1 }) ∧
  (listens s c.req.m → ∀ x, noCommand c.req = some x →
    o = .next { answer s c.req (x % 65536) 4 0 with choice := s.choice + 1 }) ∧
  (listens s c.req.m → noCommand c.req = none → ∀ st, refusal s c.req c.code c.any = some st →
    o = .next { answer s c.req c.code st 0 with choice := s.choice + 1 }) ∧
  (listens s c.req.m → noCommand c.req = none → refusal s c.req c.code c.any = none →
    o = .next { after (answer c.effect.2.2 c.req c.code c.effect.1 c.effect.2.1) with choice := s.choice + 1 })

/-- Every mailbox command of a table is answered. -/
def Answers (table : Instr → State → Option Command) : Prop :=
  ∀ (ins : Instr) (s : State) (c : Command), table ins s = some c → Answered (exec ins s) s c id

/-- R512: the request of MTRAP, whose operands select its action. -/
def mtrapOf (ins : Instr) : Option Mbx :=
  match ins with
  | .mtrapResume r => some r
  | .mtrapEnd r => some r
  | .mtrapRead r => some r
  | .mtrapNext r => some r
  | _ => none

/-- R512: what MTRAP answers: its status, RES, state, and the record that a read shows. -/
def mtrapEffect (s : State) (r : Mbx) : Nat × Nat × State × Option Ticket :=
  let id := ticketKey s (operand r 127 96)
  let mine := (mget s.tickets id).filter (fun t => t.holder.isNone)
  let after := ((s.tickets.filter (fun p => p.2.holder.isNone && decide (id < p.1))).map
    (·.2.num)).headD 0
  if operand r 67 64 = 3 then (0, after, s, none)
  else match mine with
    | none => (2, 0, s, none)
    | some t =>
      if operand r 67 64 = 0 then (0, 0, resumeTicket s id, none)
      else if operand r 67 64 = 1 then
        (if (ctxD s t.ctx).root then (1, 0, s, none)
         else (0, 0, if (ctxD s t.ctx).st = .revoking then s else startRevoke s t.ctx, none))
      else if operand r 67 64 = 2 then (0, 0, s, some t)
      else (2, 0, s, none)

/-- R512: the window of a master shows the record of a ticket. -/
def shown (r : Mbx) (t : Option Ticket) (s : State) : State :=
  match t with
  | some t => showRecord s r.m t
  | none => s

/-- R505, R518: SPDM of a master is answered. -/
def attests (s : State) (m : Nat) : Prop := listens s m ∧ s.ken.phase ≠ .recovery ∧ s.ken.phase ≠ .fatal

/-- R518: an SPDM request: its master, whether its turn has come, and what it makes of the master's SPDM state. -/
def spdmRow (ins : Instr) (s : State) : Option (Nat × (Spdm → Bool) × (Spdm → Spdm)) :=
  match ins with
  | .getVersion r => some (r.m, fun _ => true, fun _ => { version := true, resp := [0x13] })
  | .getCapabilities r => some (r.m, fun x => x.version, fun x => { x with resp := Config.spdmCaps })
  | .negotiateAlgorithms r => some (r.m, fun x => x.version, fun x => { x with algs := true, resp := algorithms })
  | .getDigests r =>
    some (r.m, fun x => x.algs, fun x => { x with resp := Config.sha3 (chainOf s 0) ++ Config.sha3 (chainOf s 1) })
  | .getCertificate r => some (r.m, fun x => x.algs && decide (r.idx < 2), fun x => { x with resp := chainOf s r.idx })
  | .challenge r => some (r.m, fun x => x.algs && decide (r.idx < 2), fun x => { x with resp := signOf s r.idx r.data })
  | .getMeasurements r =>
    some (r.m, fun x => x.algs && decide (1 ≤ r.idx) && decide (r.idx ≤ 5), fun x => { x with resp := measurement s r.idx })
  | .keyExchange r =>
    some (r.m, fun x => x.algs, fun x => { x with keyed := true, finished := false, keyGen := 0, beats := 0, resp := Config.kemReply r.data })
  | .finish r => some (r.m, fun x => x.keyed && Config.finishOk r.data, fun x => { x with finished := true, resp := [] })
  | .heartbeat r => some (r.m, fun x => x.finished, fun x => { x with beats := x.beats + 1, resp := [] })
  | .keyUpdate r => some (r.m, fun x => x.finished, fun x => { x with keyGen := x.keyGen + 1, resp := [] })
  | .endSession r => some (r.m, fun x => x.finished, fun x => { x with keyed := false, finished := false, resp := [] })
  | _ => none

/-- R427: a TDISP request: its virtual function, the states of the TDI in which it is taken, the state that it brings the TDI to if
any, and its answer from the state that the TDI is then in. -/
def tdispRow (ins : Instr) : Option (Nat × (TdiSt → Bool) × Option TdiSt × (TdiSt → List Byte)) :=
  let code (x : TdiSt) : Byte := match x with
    | .unlocked => 0
    | .locked => 1
    | .run => 2
    | .error => 3
  match ins with
  | .getTdispVersion vf => some (vf, fun _ => true, none, fun _ => [0x10])
  | .getTdispCapabilities vf => some (vf, fun _ => true, none, fun _ => [0x7F, 0])
  | .lockInterfaceRequest vf => some (vf, fun x => decide (x = .unlocked), some .locked, fun _ => [])
  | .getDeviceInterfaceReport vf =>
    some (vf, fun x => decide (x = .locked) || decide (x = .run), none, fun _ => Config.tdiReport vf)
  | .getDeviceInterfaceState vf => some (vf, fun _ => true, none, fun x => [code x])
  | .startInterfaceRequest vf => some (vf, fun x => decide (x = .locked), some .run, fun _ => [])
  | .stopInterfaceRequest vf => some (vf, fun _ => true, some .unlocked, fun _ => [])
  | _ => none

/-- R427: the master in whose SPDM session a TDISP request travels: the first whose session is finished. -/
def tdispMaster (s : State) (m : Nat) : Prop :=
  attests s m ∧ (s.ken.spdm.getD m {}).finished = true ∧ ∀ j, j < m → ¬(attests s j ∧ (s.ken.spdm.getD j {}).finished = true)

/-- R518: an SPDM response of a master. -/
def responds (s : State) (m : Nat) (bs : List Byte) : State :=
  updKen s (fun k => { k with spdm := k.spdm.modify m (fun x => { x with resp := bs }) })

/-- R427: what a TDISP request makes of the machine: refused where its function does not exist or its TDI is in another state; else
its TDI is brought to its next state and it is answered. -/
def tdispEffect (s : State) (m vf : Nat) (ok : TdiSt → Bool) (n : Option TdiSt) (g : TdiSt → List Byte) : State :=
  let x := mgetD s.ken.tdis vf .unlocked
  if 1024 ≤ vf ∨ ok x = false then responds s m [0x7F]
  else match n with
    | none => responds s m (g x)
    | some y => responds (updKen s (fun k => { k with tdis := mset k.tdis vf y })) m (g y)

/-- R518: what an SPDM request makes of the machine: its effect where its turn has come, else a refusal. -/
def spdmEffect (s : State) (m : Nat) (ok : Spdm → Bool) (g : Spdm → Spdm) : State :=
  updKen s (fun k => { k with spdm := k.spdm.modify m (fun x => if ok x = true then g x else { x with resp := [0x7F] }) })

/-! ### Instructions of the lane stream as a whole (R61, R63, R154) -/

/-- An instruction of the lane stream with raw words, REP apart: REP only repeats its target (R160, R164). -/
def inLanes (ins : Instr) (r : Raw) : Prop := rawOf ins = some r ∧ Forms.isM r.op.toNat = false ∧ r.op ≠ 0x3E#7

/-- A register is named by field A, B or C, by the guard, by a field D that is read, or it is the link that RET reads. -/
def reads (r : Raw) (w a : Nat) : Prop := a ∈ sourceRegs r w

/-! ### Steps (R31, R33, R36, R144 to R147) -/

/-- The step is the issue of a fibre's group: no outside event comes first, the choice falls on this fibre, and neither a forced
switch (R33) nor a new selection (R36) is due before it. -/
structure Picks (s : State) (b k f : Nat) : Prop where
  quiet : s.agenda = []
  act : (acts s)[s.turn % (acts s).length]? = some (.issue b k f)
  noSwitch : ¬(64 ≤ (fibD s b k f).since ∧ otherReady s b k f = true)
  noSelect : ¬(64 ≤ (fibD s b k f).gcount ∧ keepsGroup (fibD s b k f) = true ∧
    (readyLanes (fibD s b k f)).any (fun l => !(selectGroup (fibD s b k f)).contains l) = true)

/-- The state in which the fibre's counts of issues have restarted where they were over (R33, R36). -/
def restarted (s : State) (b k f : Nat) : State :=
  if (fibD s b k f).since < 64 ∧ (fibD s b k f).gcount < 64 then s
  else updFib s b k f (fun x => { x with
    since := if 64 ≤ x.since then 0 else x.since
    group := if 64 ≤ x.gcount then [] else x.group, gcount := if 64 ≤ x.gcount then 0 else x.gcount })

/-- The state in which the fibre has selected its group, in a clk of its own pipe (R31, R33, R36). -/
def selected (s : State) (b k f : Nat) : State := updFib (nextClk (restarted s b k f) b k f) b k f takeGroup

/-- The address of the group. -/
def groupPc (s : State) (b k f : Nat) : DWord :=
  laneD (fibD (selected s b k f) b k f) (lowest (fibD (selected s b k f) b k f).group) |>.pc

/-- The group's issue of fetched parcels. -/
def groupIssue (s : State) (b k f : Nat) (ps : List Parcel16) : Issue :=
  issueOf b k f (fibD (selected s b k f) b k f).group (groupPc s b k f) ps

/-- What the fibre's core fetches for the group. -/
def groupFetch (s : State) (b k f : Nat) : Except (Nat × Xl) (State × List Parcel16) :=
  fetchCode (selected s b k f) (coreOf (blkD (selected s b k f) b) k) (blkD (selected s b k f) b).ctx (groupPc s b k f).toNat .lane

/-- The step is the issue of a block's sequencer. -/
structure PicksSeq (s : State) (b : Nat) : Prop where
  quiet : s.agenda = []
  act : (acts s)[s.turn % (acts s).length]? = some (.seq b)

/-! ### Counters and rings (R65, R288) -/

/-- R65: no engine counter of a fibre is above 63. -/
def countersHold (s : State) : Prop := ∀ b k f c, (fibD s b k f).ctrs.getD c 0 ≤ 63

/-- R288: no ring, in its bank or in a saved image of it, holds more entries than it has. -/
def ringsHold (s : State) : Prop :=
  (∀ p ∈ s.rings, p.2.tail - p.2.head ≤ p.2.cap) ∧ ∀ p ∈ s.blocks, ∀ q ∈ p.2.savedRings, q.2.tail - q.2.head ≤ q.2.cap

/-! ### Repetition (R159 to R163) -/

/-- The fields of a REP: the last repetition, and the steps of D, A, B and C. -/
def repFields (r : R3) : RepWord :=
  { last := r.d.toNat % 64, sd := r.a.toNat / 16, sa := r.a.toNat / 2 % 8, sb := r.b.toNat / 16, sc := r.b.toNat / 2 % 8 }

/-- R160: the target at repetition `k`. -/
def repeated (q : RepWord) (t : Raw) (k : Nat) : Raw :=
  { op := t.op, s := decide (k = q.last) && t.s, d := t.d + .ofNat 7 (k * q.sd), a := t.a + .ofNat 7 (k * q.sa),
    b := t.b + .ofNat 7 (k * q.sb), f := t.f, i := t.i
    x := t.x.map (fun x => { x with c := x.c + .ofNat 7 (k * q.sc) }) }

/-- R160, R163: the issue of repetition `k` of a target of `n` parcels at the REP's address + 4: until the last one the lanes stay at
the REP with the next repeat index; after it they stand after the target. -/
def repIssue (i : Issue) (q : RepWord) (ps : List Parcel16) (n k : Nat) : Issue :=
  let j := { i with insn := wordOf (par ps 0) (par ps 1), ext := wordOf (par ps 2) (par ps 3), target := ps }
  if k < q.last then { j with next := i.pc, repNext := k + 1 } else { j with next := i.pc + .ofNat 64 (4 + 2 * n), repNext := 0 }

/-- R161, R162: a REP breaks a rule although its target is legal by itself: the target's opcode is excluded, a nonzero step names a field
that is no v register or leaves the names, or a repetition is illegal. -/
def repWrong (q : RepWord) (t : Raw) : Bool :=
  let fm := Forms.ofRaw t
  let c := (t.x.map (fun x => x.c.toNat)).getD 0
  let op := t.op.toNat
  let off (u : Use) (name step : Nat) : Bool := decide (step ≠ 0 ∧ (Forms.isV u = false ∨ 127 < name + q.last * step))
  t.i.isSome || decide (op = 0x36 ∨ (0x38 ≤ op ∧ op ≤ 0x3F) ∨ 0x70 ≤ op) ||
  off fm.d t.d.toNat q.sd || off fm.a t.a.toNat q.sa || off fm.b t.b.toNat q.sb || off fm.c c q.sc ||
  decide (t.x = none ∧ q.sc ≠ 0) || (List.range (q.last + 1)).any (fun k => (Forms.check false (repeated q t k)).isSome)

/-- R155 to R158, R161, R167: the parcels at a target: raw fields, or the reason that the encoding itself gives; none for a dictionary
parcel whose entry is not read. -/
def encodingAt (s : State) (i : Issue) (ps : List Parcel16) : Option (Except Nat Raw) :=
  let p := par ps 0
  if isShort p = true then
    (match (p.extractLsb' 10 3).toNat with
    | 0 => (match entryOf s i (p.extractLsb' 0 10).toNat with
      | none => some (.error 0x07)
      | some (.word w) =>
        let r := { rawWord w none none with s := w.getLsbD 24 || p.getLsbD 13 }
        (match Forms.least (Forms.reasons false r ++ (if entryLegal w then [] else [0x07])) with
        | some k => some (.error k)
        | none => some (.ok r))
      | some _ => none)
    | 7 => some (.error (if p.getLsbD 13 then 0x03 else 0x08))
    | _ => some (.error 0x06))
  else match frame (wordOf (par ps 0) (par ps 1)) (wordOf (par ps 2) (par ps 3)) with
    | none => some (.error 0x01)
    | some (r, _) => match Forms.check false r with
      | some k => some (.error k)
      | none => some (.ok r)

/-- R162, R167: the reason of a REP whose own encoding is legal: 8, or that of an illegal target's encoding where it is lower. -/
def repFault (s : State) (i : Issue) (q : RepWord) (ps : List Parcel16) : Option Nat :=
  match encodingAt s i ps with
  | none => none
  | some (.error k) => some (min k 8)
  | some (.ok t) => if repWrong q t then some 8 else none

/-- R162, R167: the reason of a REP whose own encoding gives the reason `e`: that of an illegal target at an address where it is lower. -/
def lowerReason (s : State) (i : Issue) (a : DWord) (e : Nat) : Nat :=
  match fetchCode s (coreIs s i) (ctxIs s i) a.toNat .lane with
  | .error _ => e
  | .ok (t, ps) => match encodingAt t i ps with
    | some (.error k) => min e k
    | _ => e

/-- Integer instructions that write one word. -/
def integerRow (ins : Instr) : Option (Row Word) :=
  match addRow ins with
  | some g => some g
  | none => match mulRow ins with
    | some g => some g
    | none => match logicRow ins with
      | some g => some g
      | none => shiftRow ins

/-! ### Loads and stores of words (R256 to R259) -/

/-- R254: the physical bytes of a lane's global access of `n` bytes, where every byte of it is translated. -/
def laneBytes (i : Issue) (s : State) (k : AccKind) (n a : Nat) : Option (List Nat) :=
  (xlateAll (fun x => xlate s (ctxIs s i) (coreIs s i) x k) (spanOf a n)).toOption

/-- R254, R465: every active lane's global access of `n` bytes lies in the canonical ranges and is translated, and none stalls for the
misses outstanding. -/
def reaches (i : Issue) (e : Env) (s : State) (k : AccKind) (n : Nat) (ea : Nat → Nat) : Bool :=
  e.act.all (fun l => (spanOf (ea l) n).all canonical && (laneBytes i s k n (ea l)).isSome) &&
  !capStalls s i (coreIs s i) k (e.act.flatMap (fun l => (laneBytes i s k n (ea l)).getD []))

/-- R120: the parts of stores at a location which not every agent sees, oldest first. -/
def partsAt (s : State) (a : Nat) : List Shard := s.stores.flatMap (fun p => p.pieces.filter (fun x => x.locs.contains a))

/-- A byte of some content of a part at a location; another one where the content has none. -/
def byteAt (x : Shard) (c : List Byte) (a : Nat) (other : Byte) : Byte := c.getD (x.locs.findIdx (· == a)) other

/-- R120: a byte that an agent may read at a location: where it sees some of the parts there, and at least those that it has seen before,
that of the youngest of them; else the byte before them all. -/
def mayRead (s : State) (agent a : Nat) (v : Byte) : Prop :=
  ∃ vis : List Shard, vis.Sublist (partsAt s a) ∧ (∀ x ∈ partsAt s a, agent ∈ x.seen → x ∈ vis) ∧
    v = vis.foldl (fun b x => byteAt x x.new a b) ((partsAt s a).foldr (fun x b => byteAt x x.old a b) (Memory.rd s.mem a))

/-- R256: the address of a lane of LD and ST: the pair at A plus IMM13. -/
def globalAddr (x : Xc) (e : Env) (l : Nat) : Nat := (((pa e l).toNat + x.imm.toInt) % 2 ^ 64).toNat

/-- R256: the address of a lane of LDL and STL: the word of A plus IMM13. -/
def localAddr (x : Xc) (e : Env) (l : Nat) : Nat := (((wa e l).toNat + x.imm.toInt) % 2 ^ 32).toNat

/-- R257: byte `k` of what a lane of a store stores: the words of field D from the lowest. -/
def storedByte (e : Env) (l k : Nat) : Byte := .ofNat 8 ((wd e.d (k / 4) l).toNat / 2 ^ (8 * (k % 4)))

/-- R257: the bytes of a load or store by its function. -/
def widthOf (store : Bool) (f : Nat) : Nat :=
  if store then (match f with
    | 0 => 1
    | 1 => 2
    | 2 => 4
    | 3 => 8
    | _ => 16)
  else (match f with
    | 0 => 1
    | 1 => 1
    | 2 => 2
    | 3 => 2
    | 4 => 4
    | 5 => 8
    | _ => 16)

/-- R257: word `j` of what a lane of a load receives from bytes: the narrow signed forms sign-extend, the others do not. -/
def loadedWord (f : Nat) (byte : Nat → Byte) (j : Nat) : Word :=
  let n (k : Nat) : Nat := (byte k).toNat
  match f with
  | 0 => (byte 0).signExtend 32
  | 1 => (byte 0).setWidth 32
  | 2 => (byte 1 ++ byte 0).signExtend 32
  | 3 => (byte 1 ++ byte 0).setWidth 32
  | _ => .ofNat 32 (n (4 * j) + n (4 * j + 1) * 2 ^ 8 + n (4 * j + 2) * 2 ^ 16 + n (4 * j + 3) * 2 ^ 24)

end Sys2Proof.Safety
end

