-- ==== Sys2Proof/Certificates/Slice0/Obligations.lean ====
section
/-!
DEFINITION. The statements for the provers. Each is a closed proposition about the model, over every state and operand that its
hypotheses admit; the tables and frames that they speak of stand in `Sys2Proof.Safety`, written from the rules that they cite.
-/

open Sys2Proof Sys2Proof.Machine Sys2Proof.Safety

/-! ### Results of lane instructions -/

/-- R179, R180: sums, differences, absolute difference, negation and the forms with an immediate. -/
def Obligations.AdditionResults : Prop := OneWord addRow

/-- R181 to R183: products, multiply-add, quotients, remainders and address sums of one word. -/
def Obligations.ProductResults : Prop := OneWord mulRow

/-- R184, R185, R187, R188: results of a pair of registers. -/
def Obligations.PairResults : Prop := OnePair pairRow

/-- R186, R191 to R193: logic, minima and maxima, comparisons and selection. -/
def Obligations.LogicResults : Prop := OneWord logicRow

/-- R187: shifts and rotations of one word. -/
def Obligations.ShiftResults : Prop := OneWord shiftRow

/-- R189, R190: counts, extensions and bit fields. -/
def Obligations.BitResults : Prop := OneWord bitRow

/-- R232 to R234: FP32 arithmetic. -/
def Obligations.SingleResults : Prop := Rounded fp32Row

/-- R242, R243: packed FP16 and BF16 arithmetic, and the dot products. -/
def Obligations.PackedResults : Prop := Rounded packedRow

/-- R239, R240: FP64 arithmetic. -/
def Obligations.DoubleResults : Prop := RoundedPair fp64Row

/-- R235, R236: comparisons and classes of floating-point values. -/
def Obligations.CompareResults : Prop := OneWord compareRow

/-- R237, R238, R241: the transcendental functions: the special inputs with their words; elsewhere the fixed word of the function, which
lies within its bound, equals the exact value where that is a finite value of the format, and for FSQRT and DSQRT is the nearest one. Which
word within the bound it is, is free (log entry 9); the values of 2^x, log2, sin, cos and tanh are partial sums (log entry 10). -/
def Obligations.FunctionResults : Prop :=
  OneWord unitRow ∧ OnePair unit64Row ∧
  (∀ (k : Nat) (x : Word), k < 8 → specialWord k x = none → ∃ q r, value32 x = some q ∧ value32 (transcend k x) = some r ∧
    (k ≠ 2 → inBound k q r) ∧ (∀ w v, value32 w = some v → exactly k q v → r = v) ∧
    (k = 2 → 0 ≤ r ∧ ∀ w v, value32 w = some v → 0 ≤ v → roundedRoot q r v)) ∧
  (∀ (k : Nat) (x : DWord), k < 3 → special64 k x = none → ∃ q r, value64 x = some q ∧ value64 (transcend64 k x) = some r ∧
    (k = 1 → |r - 1 / q| ≤ ulp f64 (1 / q)) ∧ (k = 2 → nearRoot f64 q r) ∧
    (∀ w v, value64 w = some v → exactly ([2, 0, 1].getD k 8) q v → r = v) ∧
    (k = 0 → 0 ≤ r ∧ ∀ w v, value64 w = some v → 0 ≤ v → roundedRoot q r v))

/-- R246, R249: CVT and FRND, whose result is a pair where the target type is FP64, and PACK8 and PACK4. -/
def Obligations.ConversionResults : Prop :=
  (∀ (ins : Instr) (r : Raw) (g : FRow) (pair : Bool) (i : Issue) (s : State), convertRow ins = some (g, pair) →
    rawOf ins = some r → wf ins = true → ready r i s = true →
    ∃ t, exec ins s = .next t ∧
      Advances r i (drawn g.rm (fibIs s i)) (if pair then [dstReg r i s 0, dstReg r i s 1] else [dstReg r i s 0]) s t ∧
      Receives r i s t 0 (fun l => .ofNat 32 (g.val (draw g.rm (fibIs s i)) (ops r i s) l)) ∧
      (pair = true → Receives r i s t 1 (fun l => .ofNat 32 (g.val (draw g.rm (fibIs s i)) (ops r i s) l / 2 ^ 32)))) ∧
  Rounded packRow

/-- R248, R250: UNPACK8 and UNPACK4 write four and eight registers; BSCALE writes the scale bytes of four or eight registers to every
active lane. -/
def Obligations.BlockFormatResults : Prop :=
  (∀ (r : RX) (i : Issue) (s : State), let w := r.raw 0x20#7 1#3
    wf (.unpack8 r) = true → ready w i s = true → ∃ t, exec (.unpack8 r) s = .next t ∧
      Advances w i (fibIs s i) ((List.range 4).map (dstReg w i s)) s t ∧
      ∀ j, j < 4 → Receives w i s t j (fun l => unpackedWord r.x 8 (ops w i s) l j)) ∧
  (∀ (r : RX) (i : Issue) (s : State), let w := r.raw 0x20#7 3#3
    wf (.unpack4 r) = true → ready w i s = true → ∃ t, exec (.unpack4 r) s = .next t ∧
      Advances w i (fibIs s i) ((List.range 8).map (dstReg w i s)) s t ∧
      ∀ j, j < 8 → Receives w i s t j (fun l => unpackedWord r.x 4 (ops w i s) l j)) ∧
  (∀ (r : RX) (i : Issue) (s : State), let w := r.raw 0x20#7 4#3
    wf (.bscale r) = true → ready w i s = true → ∃ t n, exec (.bscale r) s = .next t ∧
      n = (if r.x.imm.toNat / 8 % 8 = 2 then 2 else 1) ∧ Advances w i (fibIs s i) ((List.range n).map (dstReg w i s)) s t ∧
      ∀ k, k < n → Receives w i s t k (fun _ =>
        .ofNat 32 (((List.range 4).map (fun j => scaleByteOf r.x (ops w i s) (4 * k + j) * 2 ^ (8 * j))).sum)))

/-- R194 to R198, R225: shuffles, votes, reductions, scans, special registers and virtual dies. -/
def Obligations.LaneResults : Prop :=
  (∀ (ins : Instr) (r : Raw) (g : Row Word) (i : Issue) (s : State), laneRow ins s i = some g → rawOf ins = some r →
    wf ins = true → ready r i s = true →
    r.op.toNat = g.op ∧ r.f.toNat = g.f ∧
    ∃ t, exec ins s = .next t ∧ Advances r i (fibIs s i) [dstReg r i s 0] s t ∧ Receives r i s t 0 (g.val (ops r i s))) ∧
  (∀ (r : R3) (i : Issue) (s : State), let w := r.raw 0x24#7 1#3
    wf (.srd64 r) = true → ready w i s = true → ∃ t, exec (.srd64 r) s = .next t ∧
      Advances w i (fibIs s i) [dstReg w i s 0, dstReg w i s 1] s t ∧
      Receives w i s t 0 (fun l => .ofNat 32 (specialReg s i r.a.toNat l)) ∧
      Receives w i s t 1 (fun l => .ofNat 32 (specialReg s i r.a.toNat l / 2 ^ 32)))

/-! ### Courses of lane instructions -/

/-- R195, R199, R206, R210 to R213, R219: masks, branches and arrivals. -/
def Obligations.FlowCourses : Prop := Keeps flowCourse

/-- R199 to R205, R207, R208, R211, R215 to R218: calls, table jumps, waits on masks and barriers, windows, fibres, KILL, BRK and NOP. The
order of FSPAWN's outcomes, and of one lane's jump-table trap before another's fault, are the model's choices (log entry 29), and so is the
lane that the record names where several entries offend (log entry 64). -/
def Obligations.ControlCourses : Prop := Keeps controlCourse

/-- R256 to R265, R267, R272, R223: loads, stores, atomics, JOINC, FENCE and PREF. The older contents that a load may read and what a
FENCE shows (log entry 4), the caches that PREF fills and the stall at the cap of misses (log entry 34), and the stall of RED before its
addresses are examined (log entry 62) are the model's choices. -/
def Obligations.MemoryCourses : Prop := Keeps memoryCourse

/-- R129, R130, R214, R266 to R271, R281 to R292: objects, handles, rings, engine counters and TRYW. The ends of a BIND region (log entry
62) and the order in which waiting acquires are served (log entry 59) are the model's choices. -/
def Obligations.SyncCourses : Prop := Keeps syncCourse

/-- R102, R273 to R279: the stash instructions. Traps before the stall of a full counter (log entry 62), the order of reclaims and the
bytes that they leave (log entries 52 and 12) are the model's choices. -/
def Obligations.StashCourses : Prop := Keeps stashCourse

/-- R304 to R309: the stream instructions. -/
def Obligations.StreamCourses : Prop := Keeps streamCourse

/-- R300 to R303, R310 to R327: gathers, scatters, embedding tables and binning. -/
def Obligations.EngineCourses : Prop := Keeps engineIssueCourse

/-- R396 to R407: the context instructions. CTXNEW's statuses come in the order of R401, those of CTXGRANT and CTXTAKE in that of R402;
the other orders, and status 7 while no number is free, are the model's choices (log entry 45). -/
def Obligations.ContextCourses : Prop := Keeps contextCourse

/-- R409 to R413: tickets, invalidations and system registers. Status 4 for a base that is not canonical (log entry 45), the repeat index
after SRW (log entry 44) and access to a spilled chunk (log entry 63) are the model's choices. -/
def Obligations.TicketCourses : Prop := Keeps ticketCourse

/-- R476, R479, R480: profiling sessions and causal experiments. The layout of an exported image is the model's choice (log entry 30). -/
def Obligations.ProfileCourses : Prop := Keeps profileCourse

/-- R222, R224, R293, R294: task launch and end, and collectives. The order of SPAWN's checks (log entry 37) and an idle COLL (log entry
47, from R154) are the model's choices. -/
def Obligations.TaskCourses : Prop := Keeps taskCourse

/-! ### Traps, dictionary parcels and repetition -/

/-- R226, R158: TRAP and BRK16 trap with their codes; the lanes of a TRAP stand after it, those of a BRK16 at it. -/
def Obligations.SoftwareTraps : Prop :=
  (∀ (r : R3) (i : Issue) (s : State), let w := r.raw 0x3F#7 5#3
    wf (.trap r) = true → ready w i s = true → ∃ t, exec (.trap r) s = .next t ∧
      Traps i 0x08 0 (ops w i s).act [(15, r.d.toNat * 2 ^ 14 + r.a.toNat * 2 ^ 7 + r.b.toNat)] s t ∧
      ∀ l, l < 32 → laneD (fibIs t i) l =
        if l ∈ (ops w i s).act then (laneD (fibIs s i) l).goto i.next 0 else laneD (fibIs s i) l) ∧
  (∀ (p : Parcel) (i : Issue) (s : State), wf (.brk16 p) = true → issuing i s = true →
    ∃ t, exec (.brk16 p) s = .next t ∧ Traps i 0x09 1 i.lanes [(15, p.index.toNat)] s t ∧
      (fibIs t i).lanes = (fibIs s i).lanes)

/-- R156, R157: a dictionary parcel runs its entry as if it stood there, with bit 13 of the parcel ORed into its bit S: it does what the
entry's instruction does, and where that is an integer instruction it completes with its result. The entry is the one with which the
issue began, else the one held or, where the section has changed since, the new one. What an ordering instruction finds visible is the
model's choice (log entry 4). -/
def Obligations.DictionaryParcels : Prop :=
  ∀ (p : Parcel) (i : Issue) (s : State) (w : Word) (ins : Instr) (r : Raw), s.cur = some i →
    let x : Parcel16 := (0b10#2) ++ BitVec.ofBool p.s ++ (0b000#3) ++ p.index
    let k := p.index.toNat
    let u := settleEntryOf s i x
    entryOf u i k = some (.word w) → r = { rawWord w none none with s := w.getLsbD 24 || p.s } →
    entryLegal w = true → Forms.check false r = none → inLanes ins r →
    let j := { i with entries := mset i.entries k w, insn := w, ext := x.setWidth 32 }
    let v := { u with cur := some j }
    (mget i.entries k = some w ∨ (blkD u i.blk).dict[k]? = some (.word w) ∨ freshEntry u i k = some w) ∧
    exec (.dictionaryParcel p) s = exec ins (orderFor ins v) ∧
    ∀ g, integerRow ins = some g → ready r j v = true →
      ∃ t, exec (.dictionaryParcel p) s = .next t ∧ Advances r j (fibIs v j) [dstReg r j v 0] v t ∧
        Receives r j v t 0 (g.val (ops r j v))

/-- R159 to R163: REP runs its target with stepped fields; until the last repetition the lanes stay at the REP with the next repeat
index; a repetition of an integer instruction completes with its result. Each repetition fetches and checks its target afresh, one that
waits keeps it, and a trap names the target's words: the model's choices (log entry 44). What an ordering target finds visible is that of
log entry 4. -/
def Obligations.RepeatedTargets : Prop :=
  ∀ (r : R3) (i : Issue) (s u : State) (ps : List Parcel16) (t : Raw) (n : Nat) (ins : Instr),
    let q := repFields r
    let k := min (laneD (fibIs s i) (lowest i.lanes)).rep q.last
    s.cur = some i →
    (i.target = [] ∧ fetchCode s (coreIs s i) (ctxIs s i) (i.pc + 4).toNat .lane = .ok (u, ps) ∨ i.target = ps ∧ ps ≠ [] ∧ u = s) →
    isShort (par ps 0) = false →
    frame (wordOf (par ps 0) (par ps 1)) (wordOf (par ps 2) (par ps 3)) = some (t, n) → Forms.check false t = none →
    repWrong q t = false → inLanes ins (repeated q t k) →
    let j := repIssue i q ps n k
    let v := { u with cur := some j }
    exec (.rep r) s = exec ins (orderFor ins v) ∧
    ∀ g, integerRow ins = some g → ready (repeated q t k) j v = true →
      ∃ z, exec (.rep r) s = .next z ∧ Advances (repeated q t k) j (fibIs v j) [dstReg (repeated q t k) j v 0] v z ∧
        Receives (repeated q t k) j v z 0 (g.val (ops (repeated q t k) j v))

/-- R63: an instruction of the lane stream that would read a poisoned word traps before any effect. -/
def Obligations.PoisonTraps : Prop :=
  ∀ (ins : Instr) (r : Raw) (i : Issue) (s : State) (a m : Nat), inLanes ins r → issuing i s = true →
    spilled s i.blk i.slot (touched r (fibIs s i).wb) = [] →
    lacksRoom s i.blk i.slot (destRegs r (fibIs s i).wb ++ linkRegs r (fibIs s i).wb) = false → poisonHit r (ops r i s) s = some (a, m) →
    ∃ t, exec ins s = .next t ∧ Traps i 0x07 0 (lanesOf m) [(16, a)] s t ∧ (fibIs t i).lanes = (fibIs s i).lanes

/-- R59, R61: an instruction of the lane stream with a spilled register does not issue: nothing but residence and the count of refills
changes; nor does one that finds no physical chunk for a register that it writes: nothing changes. -/
def Obligations.SpilledStalls : Prop :=
  ∀ (ins : Instr) (r : Raw) (i : Issue) (s : State), inLanes ins r → issuing i s = true →
    (spilled s i.blk i.slot (touched r (fibIs s i).wb) ≠ [] →
      ∃ t n, exec ins s = .next t ∧ Stays i (updSlot s i.blk i.slot (fun x => { x with refill := n })) t) ∧
    (spilled s i.blk i.slot (touched r (fibIs s i).wb) = [] →
      lacksRoom s i.blk i.slot (destRegs r (fibIs s i).wb ++ linkRegs r (fibIs s i).wb) = true →
      exec ins s = .next { s with choice := s.choice + 1, cur := none })

/-- R154: an instruction of the lane stream that issues with no active lane performs no access to memory and writes no register;
marked registers die all the same. -/
def Obligations.NoActiveLane : Prop :=
  ∀ (ins : Instr) (r : Raw) (i : Issue) (s : State), inLanes ins r → wf ins = true → ready r i s = true →
    (ops r i s).act = [] →
    ∃ t, exec ins s = .next t ∧ t.mem = s.mem ∧ t.sram = s.sram ∧
      ∀ b k a, reg t b k a = reg s b k a ∨
        (b = i.blk ∧ k = i.slot ∧ a ∈ markedRegs r (fibIs s i).wb ∧ reg t b k a = none)

/-! ### Loads and stores, byte by byte -/

/-- R120, R257, R259: LD: every active lane receives the bytes at its address, little-endian, where every byte is translated and no
stash mapping stands: each is one that the lane, an agent of its own, may read there: the newest, or one that a store which it has not
seen has replaced: the model's choice (log entry 4). The lines already in L2, or the misses that the context's cap leaves, let the load issue (R465). -/
def Obligations.LoadedWords : Prop :=
  ∀ (r : RXF) (i : Issue) (s : State), let w := r.raw 0x28#7
    let e := ops w i s
    let n := widthOf false r.f.toNat
    wf (.ld r) = true → ready w i s = true → s.mappings = [] → reaches i e s .read n (globalAddr r.x e) = true →
    ∃ t, ∃ byte : Nat → Nat → Byte, exec (.ld r) s = .next t ∧ t.mem = s.mem ∧ t.sram = s.sram ∧
      (∀ l ∈ e.act, ∀ pas, laneBytes i s .read n (globalAddr r.x e l) = some pas → ∀ k a, pas[k]? = some a →
        mayRead s (agentOf i l) a (byte l k)) ∧
      ∀ j, j < (n + 3) / 4 → Receives w i s t j (fun l => loadedWord r.f.toNat (byte l) j)

/-- R122, R257, R259: ST: every byte of memory that no active lane's store reaches reads as before; a byte that some lane's store
reaches reads as the highest such lane stored it. No stash mapping stands. -/
def Obligations.StoredBytes : Prop :=
  ∀ (r : RXF) (i : Issue) (s : State), let w := r.raw 0x29#7
    let e := ops w i s
    let n := widthOf true r.f.toNat
    wf (.st r) = true → ready w i s = true → s.mappings = [] → s.mem.wf = true →
    reaches i e s .write n (globalAddr r.x e) = true →
    ∃ t, exec (.st r) s = .next t ∧ t.sram = s.sram ∧
      (∀ a, (∀ l ∈ e.act, ∀ pas, laneBytes i s .write n (globalAddr r.x e l) = some pas → a ∉ pas) →
        Memory.rd t.mem a = Memory.rd s.mem a) ∧
      (∀ a l k pas, l ∈ e.act → laneBytes i s .write n (globalAddr r.x e l) = some pas → pas[k]? = some a →
        (∀ k', k < k' → pas[k']? ≠ some a) →
        (∀ l' ∈ e.act, l < l' → ∀ pas', laneBytes i s .write n (globalAddr r.x e l') = some pas' → a ∉ pas') →
        Memory.rd t.mem a = storedByte e l k)

/-- R105, R259: the frame of ST in every state, stash mappings or none: whatever ST does, a byte of memory that no active lane's store
reaches and no stash line maps reads as before. -/
def Obligations.StoreFrame : Prop :=
  ∀ (r : RXF) (i : Issue) (s t : State), let w := r.raw 0x29#7
    let e := ops w i s
    ready w i s = true → s.mem.wf = true → exec (.st r) s = .next t →
    ∀ a, (∀ l ∈ e.act, ∀ pas, laneBytes i s .write (widthOf true r.f.toNat) (globalAddr r.x e l) = some pas → a ∉ pas) →
      (∀ p ∈ s.mappings, ∀ y ∈ p.2.lines, a ∉ y.pas) → Memory.rd t.mem a = Memory.rd s.mem a

/-- R93, R257, R259: STL: every byte of SRAM that no active lane's store reaches reads as before, and so does all of memory; a byte
that some lane's store reaches reads as the highest such lane stored it. No stash mapping stands. -/
def Obligations.LocalStoredBytes : Prop :=
  ∀ (r : RXF) (i : Issue) (s : State), let w := r.raw 0x2B#7
    let e := ops w i s
    let n := widthOf true r.f.toNat
    let place (l : Nat) := (localOk s (ctxIs s i) (coreIs s i) (localAddr r.x e l) n true).map (fun p => sramKey p.1 p.2)
    wf (.stl r) = true → ready w i s = true → s.mappings = [] → s.sram.wf = true → (e.act.all (fun l => (place l).isSome)) = true →
    ∃ t, exec (.stl r) s = .next t ∧ t.mem = s.mem ∧
      (∀ a, (∀ l ∈ e.act, ∀ b, place l = some b → a < b ∨ b + n ≤ a) → Memory.rd t.sram a = Memory.rd s.sram a) ∧
      (∀ l k b, l ∈ e.act → place l = some b → k < n →
        (∀ l' ∈ e.act, l < l' → ∀ b', place l' = some b' → b + k < b' ∨ b' + n ≤ b + k) →
        Memory.rd t.sram (b + k) = storedByte e l k)

/-! ### The matrix sequencer -/

/-- R332, R343 to R347, R352, R493: set-up, flow and barriers of the M-stream. That a MARV which completes shows every store is the
model's choice (log entry 4). -/
def Obligations.SequencerFlow : Prop := SeqKeeps seqControl

/-- R348, R349: weights and products. -/
def Obligations.SequencerProducts : Prop := SeqKeeps seqProduct

/-- R340, R350, R353, R137, R138, R493: tile transfers and element operations. That each issues in one step and what readers meet
meanwhile (log entries 20 and 4), and the place of .i4 elements (log entry 21), are the model's choices. -/
def Obligations.SequencerTiles : Prop := SeqKeeps seqTile

/-! ### Events -/

/-- R33 to R36, R61, R214: events of issue, in every state. A wait in TRYW or TRYWL that reads again ends where every active lane has
completed, each lane that still awaits its result with its word; else it stands, with the lanes that have completed, and no
register has changed. -/
def Obligations.IssueEvents : Prop :=
  Does issueEvents ∧
  ∀ (s : State) (b k f : Nat) (w : Wait) (e : Env) (fn : BitVec 3) (r : RX), Rereads s b k f w e fn r →
    let t := rereads s b k f
    let gs := readings { s with cur := some e.i } e fn
    let d := archReg e.wb r.d.toNat
    (e.act.all (waitOver s w e r gs) = true →
      (∀ v, (fibD t b k f).wait = some v → v.kind = .results) ∧
      ∀ l ∈ awaiting s b k d w.id, ∃ x, reg t b k d = some x ∧ x.vals.getD l 0 = lastWord s w e gs l) ∧
    (e.act.all (waitOver s w e r gs) = false →
      (∃ v, (fibD t b k f).wait = some v ∧ v.kind = .retry ∧ v.id = w.id ∧ v.start = w.start ∧ v.env = some e ∧
        v.done = e.act.filter (waitOver s w e r gs) ∧ ∀ l, l < 32 → v.last.getD l 0 = lastWord s w e gs l) ∧
      ∀ a, reg t b k a = reg s b k a)

/-- R394, R395, R422, R428, R433, R447 to R452: events of scheduling, translation and faults. -/
def Obligations.ScheduleEvents : Prop := Does scheduleEvents

/-- R21 to R23, R112, R434 to R438, R453 to R458: events of blocks. -/
def Obligations.BlockEvents : Prop := Does blockSteps

/-- R65, R104, R117, R133, R297, R313: events of the engines. -/
def Obligations.EngineEvents : Prop := Does engineEvents

/-- R397, R407, R440 to R446, R464, R497: revocation, migration and retirement. -/
def Obligations.MemoryEvents : Prop := Does memoryEvents

/-- R488 to R504: errors and links. The units and classes of log entry 34, the set of a line there, and the records of links that go down
(log entry 50) are the model's choices. -/
def Obligations.ErrorEvents : Prop := Does errorEvents

/-- R466 to R472, R478, R481: the host, whistles and samples. -/
def Obligations.OutsideEvents : Prop := Does outsideEvents

/-- R505 to R507, R513, R514, R519, R520: events of the kennel die. The event ring that a lapse clears and the memory that outlasts a
package reset (log entry 50), and the clock raised to the moment (log entry 7), are the model's choices. -/
def Obligations.KennelEvents : Prop := Does kennelSteps

/-! ### The owner's commands and attestation -/

/-- R427, R470, R505 to R521: the mailbox commands; a read by MTRAP that is performed also shows the record in the master's window
(R512). The model's choices: the layouts (log entry 31), PRESET's answer (33), the commands under package fatal and the ring that RELEASE
clears (50), the uclk that ends with a CLAIM (7) and MIGREQ (36). -/
def Obligations.MailboxCommands : Prop :=
  Answers commands ∧
  ∀ (ins : Instr) (s : State) (r : Mbx), mtrapOf ins = some r →
    Answered (exec ins s) s ⟨0x14, false, r, ((mtrapEffect s r).1, (mtrapEffect s r).2.1, (mtrapEffect s r).2.2.1)⟩
      (shown r (mtrapEffect s r).2.2.2)

/-- R518: SPDM requests: nothing where SPDM of the master is not answered; else their effect in turn, or a refusal. The byte codes are the
model's choice (log entry 32). -/
def Obligations.SpdmRequests : Prop :=
  ∀ (ins : Instr) (s : State) (m : Nat) (ok : Spdm → Bool) (g : Spdm → Spdm), spdmRow ins s = some (m, ok, g) →
    (¬attests s m → exec ins s = .next { s with choice := s.choice + 1 }) ∧
    (attests s m → exec ins s = .next { spdmEffect s m ok g with choice := s.choice + 1 })

/-- R427: the interface's states. That TDISP requests travel in the first finished SPDM session, and the bytes of the answers, are the
model's choice (log entry 32); without a session nothing happens. -/
def Obligations.TdispRequests : Prop :=
  ∀ (ins : Instr) (s : State) (vf : Nat) (ok : TdiSt → Bool) (n : Option TdiSt) (g : TdiSt → List Byte),
    tdispRow ins = some (vf, ok, n, g) →
    ((∀ m, ¬tdispMaster s m) → exec ins s = .next { s with choice := s.choice + 1 }) ∧
    (∀ m, tdispMaster s m → exec ins s = .next { tdispEffect s m vf ok n g with choice := s.choice + 1 })

/-! ### Encoding -/

/-- R144 to R155, R165: decoding an encoded well-formed instruction in its own stream gives it back, with its length; rows that share
their words give the first of them. -/
def Obligations.DecodeEncode : Prop :=
  ∀ (i : Instr), wf i = true → isEvent i = false →
    let ps := encode i
    let m := match rawOf i with
      | some r => Forms.isM r.op.toNat
      | none => false
    decode4 m (par ps 0) (par ps 1) (par ps 2) (par ps 3) = .ok (canon i, ps.length)

/-- R164: what decodes in a stream has an opcode of that stream. -/
def Obligations.StreamsApart : Prop :=
  ∀ (m : Bool) (p0 p1 p2 p3 : Parcel16) (i : Instr) (n : Nat) (r : Raw), decode4 m p0 p1 p2 p3 = .ok (i, n) → rawOf i = some r →
    Forms.isM r.op.toNat = m

/-- R144 to R155, R165: words written out by hand from the encoding tables, one or more of each length and stream. -/
def Obligations.DecodedWords : Prop :=
  decodeTableWord 32 0x49000000 = some (.srd ⟨true, 0, 0, 0⟩) ∧
  decodeTableWord 32 0x16020010 = some (.shli ⟨false, 1, 0, 2⟩) ∧
  decodeTableWord 16 0xA000 = some (.dictionaryParcel ⟨true, 0⟩) ∧
  decodeTableWord 32 0x7C024000 = some (.rep ⟨false, 1, 16, 0⟩) ∧
  decodeTableWord 32 0x01080800 = some (.iadd ⟨true, 4, 2, 0⟩) ∧
  decodeTableWord 32 0xC0180001 = some (.snext ⟨false, 12, 0, 0⟩) ∧
  decodeTableWord 32 0xF91C2C61 = some (.ctxgrant ⟨true, 14, 11, 12⟩) ∧
  decodeTableWord 32 0xE4000801 = some (.mmz ⟨false, 0, 2, 0⟩) ∧
  decodeTableWord 64 0x0000000C580C0820 = some (.atom ⟨false, 6, 2, 4, 0, ⟨0, 0, false, false, 0, 0x0C⟩⟩) ∧
  decodeTableWord 64 0x01010000EE040000 = some (.mqset ⟨false, 2, 0, 0, 0x01010000⟩)

/-! ### Steps -/

/-- R31, R36, R144 to R147: where the step issues a group and what the group fetches decodes, the step is that instruction's, of that
group, with the next address after its words, where one that orders without a scope finds every store visible (log entry
4); what the step adds is `tick`. -/
def Obligations.StepRunsDecoded : Prop :=
  ∀ (s u : State) (b k f n : Nat) (ps : List Parcel16) (ins : Instr), Picks s b k f → (groupPc s b k f).toNat % 2 = 0 →
    groupFetch s b k f = .ok (u, ps) → decode4 false (par ps 0) (par ps 1) (par ps 2) (par ps 3) = .ok (ins, n) →
    step s = withTick (some (.issue b k f)) s
      (exec ins { orderFor ins u with cur := some { groupIssue s b k f ps with next := groupPc s b k f + .ofNat 64 (2 * n) } })

/-- R331, R340: where the step is the issue of a sequencer and what it fetches decodes in the M-stream, the step is that
instruction's. -/
def Obligations.SequencerStepRunsDecoded : Prop :=
  ∀ (s u : State) (b n : Nat) (ps : List Parcel16) (ins : Instr), PicksSeq s b → (seqD s b).mpc.toNat % 2 = 0 →
    fetchCode s (coreOf (blkD s b) 0) (blkD s b).ctx (seqD s b).mpc.toNat .mstream = .ok (u, ps) →
    decode4 true (par ps 0) (par ps 1) (par ps 2) (par ps 3) = .ok (ins, n) →
    let pc := (seqD s b).mpc
    let i : Issue := { blk := b, pc := pc, next := pc + .ofNat 64 (2 * n), seq := true, insn := (recordWords ps).1,
                       ext := (recordWords ps).2, code := ps }
    step s = withTick (some (.seq b)) s (exec ins { u with cur := some i })

/-- R42, R157, R162, R167, R341: the illegal-encoding trap with the reason of R167: of a group at an odd address, or whose parcels decode
to nothing, a REP with the reason of its target where that is lower; of a REP whose target is illegal, or that breaks R161 or R162; of a
dictionary parcel with an empty or illegal entry; and of a sequencer at an odd address or at parcels that decode to nothing. The words that
the record names for a lone parcel are the model's choice (log entry 64). -/
def Obligations.IllegalEncodingTraps : Prop :=
  (∀ (s u : State) (b k f e : Nat) (ps : List Parcel16), Picks s b k f → (groupPc s b k f).toNat % 2 = 0 →
    groupFetch s b k f = .ok (u, ps) → decode4 false (par ps 0) (par ps 1) (par ps 2) (par ps 3) = .error e →
    let i := groupIssue s b k f ps
    ∃ t, step s = withTick (some (.issue b k f)) s (.next t) ∧
      Traps i 0x01 (if (par ps 0).extractLsb' 9 7 = 0x3E#7 then lowerReason u i (i.pc + 4) e else e) i.lanes [] u t) ∧
  (∀ (r : R3) (i : Issue) (s v : State) (qs : List Parcel16) (e : Nat), issuing i s = true → i.target = [] →
    fetchCode s (coreIs s i) (ctxIs s i) (i.pc + 4).toNat .lane = .ok (v, qs) →
    let u := settleEntryOf v i (par qs 0)
    repFault u i (repFields r) qs = some e →
    ∃ t, exec (.rep r) s = .next t ∧ Traps i 0x01 e i.lanes [] u t ∧ (fibIs t i).lanes = (fibIs u i).lanes) ∧
  (∀ (p : Parcel) (i : Issue) (s : State) (e : Nat), issuing i s = true →
    let x : Parcel16 := (0b10#2) ++ BitVec.ofBool p.s ++ (0b000#3) ++ p.index
    let u := settleEntryOf s i x
    let w := match entryOf u i p.index.toNat with
      | some (.word w) => w
      | _ => 0
    let j := { i with insn := w, ext := x.setWidth 32 }
    encodingAt u i [x] = some (.error e) →
    ∃ t, exec (.dictionaryParcel p) s = .next t ∧ (fibIs t i).lanes = (fibIs u i).lanes ∧
      Traps j 0x01 (if w.extractLsb' 25 7 = 0x3E#7 then lowerReason u j (i.pc + 2) e else e) i.lanes [] u t) ∧
  (∀ (s u : State) (b e : Nat) (ps : List Parcel16), PicksSeq s b → (seqD s b).mpc.toNat % 2 = 0 →
    fetchCode s (coreOf (blkD s b) 0) (blkD s b).ctx (seqD s b).mpc.toNat .mstream = .ok (u, ps) →
    decode4 true (par ps 0) (par ps 1) (par ps 2) (par ps 3) = .error e → (blkD u b).seqr.isSome = true →
    ∃ t, step s = withTick (some (.seq b)) s (.next t) ∧
      SeqTraps { blk := b, pc := (seqD s b).mpc, next := (seqD s b).mpc, insn := (recordWords ps).1, ext := (recordWords ps).2 } 0x01 e u t) ∧
  (∀ (s : State) (b : Nat), PicksSeq s b → (seqD s b).mpc.toNat % 2 = 1 → (blkD s b).seqr.isSome = true →
    ∃ t, step s = withTick (some (.seq b)) s (.next t) ∧
      SeqTraps { blk := b, pc := (seqD s b).mpc, next := (seqD s b).mpc } 0x01 0x0D s t) ∧
  (∀ (s : State) (b k f : Nat), Picks s b k f → (groupPc s b k f).toNat % 2 = 1 →
    ∃ t, step s = withTick (some (.issue b k f)) s (.next t) ∧
      Traps (groupIssue s b k f []) 0x01 0x0D (groupIssue s b k f []).lanes [] (selected s b k f) t)

/-- R31, R42: a fibre that issues is live, waits for nothing and has an issuable lane, and its block runs: a frozen fibre issues
nothing. -/
def Obligations.OnlyReadyFibresIssue : Prop :=
  ∀ (s : State) (b k f : Nat), Act.issue b k f ∈ acts s → (mget s.blocks b).isSome = true →
    ∃ x, (b, x) ∈ s.blocks ∧ x.st = .running ∧ (fibD s b k f).st = .live ∧ (fibD s b k f).wait = none ∧
      ∃ l, l < 32 ∧ (laneD (fibD s b k f) l).st = .issuable

/-! ### Invariants, reset and starts -/

/-- Every step keeps memory and SRAM in canonical form (log entries 2 and 3); it keeps every engine counter at 63 or less (R65), and in every ring, a saved one
too, no more entries than the ring has (R288). -/
def Obligations.MemoryStaysCanonical : Prop :=
  ∀ (s t : State), step s = .next t →
    (s.mem.wf = true → s.sram.wf = true → t.mem.wf = true ∧ t.sram.wf = true) ∧
    (countersHold s → countersHold t) ∧ (ringsHold s → ringsHold t)

/-- Reset leaves memory and SRAM in canonical form, with every byte as log entries 2 and 3 name it (R90, R94), and no counter or ring over
its bound. -/
def Obligations.ResetCanonical : Prop :=
  State.reset.mem.wf = true ∧ State.reset.sram.wf = true ∧ countersHold State.reset ∧ ringsHold State.reset

/-- R64, R21: a fibre that starts with an entry, a mask, a window base and a seed: m0 is the mask, its lanes stand at the entry without
meeting address, masks m1 to m11 are 0, streams closed, engine counters 0, the generator is the seed or 1. -/
def Obligations.FibreStart : Prop :=
  ∀ (entry : DWord) (mask : Word) (wb : Nat) (seed : Word), let x := startFib entry mask wb seed
    x.st = .live ∧ x.wb = wb ∧ x.gen = (if seed = 0 then 1 else seed) ∧ x.seed = seed ∧ x.icount = 0 ∧ x.wait = none ∧
    (∀ k, 1 ≤ k → k < 12 → x.masks.getD k 0 = 0) ∧ (∀ k, k < 8 → (x.streams.getD k {}).st = .closed) ∧
    (∀ k, k < 6 → x.ctrs.getD k 0 = 0) ∧
    ∀ l, l < 32 → (mask.getLsbD l = true → (laneD x l).st = .issuable ∧ (laneD x l).pc = entry ∧ (laneD x l).meet = 0 ∧
        (laneD x l).rep = 0 ∧ (laneD x l).depth = 0) ∧
      (mask.getLsbD l = false → (laneD x l).live = false)

/-- R505, R513: after reset the package is in bring-up; it has no owner, no commitment, no context, no block, no ticket; no clock
has run. -/
def Obligations.ResetState : Prop :=
  State.reset.ken.phase = .bringUp ∧ State.reset.ken.owner = none ∧ State.reset.ken.pending = none ∧
  State.reset.ken.committed = false ∧ State.reset.blocks = [] ∧ State.reset.ctxs = [] ∧ State.reset.tickets = [] ∧
  State.reset.launches = [] ∧ State.reset.mappings = [] ∧ State.reset.clk = 0 ∧ State.reset.uclk = 0 ∧
  acts State.reset = [.event .packageReset]
end

