-- ==== Sys2Proof/Laws/Data.lean ====
section
/-!
SUPPORT. Laws of maps and of memory: what a read gives after a write, and that every memory operation keeps the canonical
form.
-/

namespace Sys2Proof.Machine

/-! ### Maps -/

variable {α : Type}

theorem mget_mset_same (m : Map α) (k : Nat) (v : α) : mget (mset m k v) k = some v := by
  induction m with
  | nil => simp [mset, mget]
  | cons p r ih =>
    obtain ⟨j, w⟩ := p
    simp only [mset]
    split
    · simp [mget]
    · split
      · simp [mget]
      · simp [mget, *]

theorem mget_mset_other (m : Map α) {k j : Nat} (v : α) (h : j ≠ k) : mget (mset m k v) j = mget m j := by
  induction m with
  | nil => simp [mset, mget, h.symm]
  | cons p r ih =>
    obtain ⟨i, w⟩ := p
    simp only [mset]
    split
    · rename_i hik
      subst hik
      simp [mget, h.symm]
    · split
      · simp [mget, h.symm]
      · simp [mget, ih]

theorem mget_mset (m : Map α) (k j : Nat) (v : α) : mget (mset m k v) j = if j = k then some v else mget m j := by
  split
  · rename_i h
    rw [h, mget_mset_same]
  · rename_i h
    exact mget_mset_other m v h

theorem mget_mupd (m : Map α) (k j : Nat) (g : α → α) :
    mget (mupd m k g) j = if j = k then (mget m j).map g else mget m j := by
  induction m with
  | nil => simp [mupd, mget]
  | cons p r ih =>
    obtain ⟨i, w⟩ := p
    simp only [mupd, List.map_cons, mget] at *
    by_cases hij : i = j
    · subst hij
      by_cases hik : i = k <;> simp [hik]
    · have hij' : ¬(if i = k then (i, g w) else (i, w)).1 = j := by split <;> exact hij
      generalize (if i = k then (i, g w) else (i, w)) = q at hij' ⊢
      obtain ⟨q1, q2⟩ := q
      simp only at hij'
      simp [hij, hij', ih]

theorem mget_mdel (m : Map α) (k j : Nat) : mget (mdel m k) j = if j = k then none else mget m j := by
  induction m with
  | nil => simp [mdel, mget]
  | cons p r ih =>
    obtain ⟨i, w⟩ := p
    simp only [mdel, List.filter_cons] at *
    by_cases hik : i = k
    · subst hik
      simp only [beq_self_eq_true, Bool.not_true, Bool.false_eq_true, if_false, ih, mget]
      by_cases hj : j = i
      · simp [hj]
      · simp [hj, Ne.symm hj]
    · simp only [hik, Bool.not_eq_true', beq_eq_false_iff_ne, ne_eq, not_false_eq_true, if_true, mget, ih]
      by_cases hij : i = j
      · subst hij
        simp [hik]
      · simp [hij]

/-- Keys kept by a filter that looks at keys alone. -/
theorem mget_filter_key (m : Map α) (p : Nat → Bool) (j : Nat) :
    mget (m.filter (fun q => p q.1)) j = if p j then mget m j else none := by
  induction m with
  | nil => simp [mget]
  | cons q r ih =>
    obtain ⟨i, w⟩ := q
    simp only [List.filter_cons]
    by_cases hp : p i
    · simp only [hp, if_true, mget, ih]
      by_cases hij : i = j
      · subst hij
        simp [hp]
      · simp [hij]
    · simp only [hp, if_false, ih, mget, Bool.false_eq_true]
      by_cases hij : i = j
      · subst hij
        simp [hp]
      · simp [hij]

theorem mgetD_mset (m : Map α) (k j : Nat) (v d : α) : mgetD (mset m k v) j d = if j = k then v else mgetD m j d := by
  simp only [mgetD, mget_mset]
  split <;> simp

theorem mgetD_mupd (m : Map α) (k j : Nat) (g : α → α) (d : α) :
    mgetD (mupd m k g) j d = if j = k ∧ (mget m k).isSome then g (mgetD m k d) else mgetD m j d := by
  simp only [mgetD, mget_mupd]
  by_cases hjk : j = k
  · subst hjk
    cases h : mget m j <;> simp
  · simp [hjk]

/-! ### Memory -/

namespace Memory

theorem wf_cons {c : Host.Cell} {r : Memory} :
    Memory.wf (c :: r) = true ↔ c.2 ≠ 0 ∧ (∀ d ∈ r, c.1 < d.1) ∧ Memory.wf r = true := by
  simp [Memory.wf, List.all_eq_true, and_assoc]

/-- Every address of a memory after a write is an address of it before, or the one written. -/
theorem wr_mem {m : Memory} {a : Nat} {b : Byte} {d : Host.Cell} (h : d ∈ Memory.wr m a b) : d ∈ m ∨ d.1 = a := by
  induction m with
  | nil =>
    simp only [Memory.wr] at h
    split at h <;> simp_all
  | cons c r ih =>
    simp only [Memory.wr] at h
    split at h
    · split at h
      · exact .inl (List.mem_cons_of_mem _ h)
      · rcases List.mem_cons.1 h with h | h
        · exact .inr (by rw [h])
        · exact .inl (List.mem_cons_of_mem _ h)
    · split at h
      · split at h
        · exact .inl h
        · rcases List.mem_cons.1 h with h | h
          · exact .inr (by rw [h])
          · exact .inl h
      · rcases List.mem_cons.1 h with h | h
        · exact .inl (h ▸ List.mem_cons_self)
        · rcases ih h with h | h
          · exact .inl (List.mem_cons_of_mem _ h)
          · exact .inr h

/-- A write keeps the canonical form. -/
theorem wf_wr {m : Memory} (h : Memory.wf m = true) (a : Nat) (b : Byte) : Memory.wf (Memory.wr m a b) = true := by
  induction m with
  | nil =>
    simp only [Memory.wr]
    split
    · rfl
    · rename_i hb
      exact wf_cons.2 ⟨hb, fun d hd => absurd hd (by simp), rfl⟩
  | cons c r ih =>
    obtain ⟨h0, h1, h2⟩ := wf_cons.1 h
    simp only [Memory.wr]
    split
    · rename_i hc
      split
      · exact h2
      · exact wf_cons.2 ⟨‹_›, fun d hd => hc ▸ h1 d hd, h2⟩
    · split
      · rename_i hc hlt
        split
        · exact h
        · exact wf_cons.2 ⟨‹_›, fun d hd => by
            rcases List.mem_cons.1 hd with hd | hd
            · exact hd ▸ hlt
            · exact Nat.lt_trans hlt (h1 d hd), h⟩
      · rename_i hc hlt
        refine wf_cons.2 ⟨h0, fun d hd => ?_, ih h2⟩
        rcases wr_mem hd with hd | hd
        · exact h1 d hd
        · omega

/-- Writing bytes from an address keeps the canonical form. -/
theorem wf_wrN {m : Memory} (h : Memory.wf m = true) (a : Nat) (bs : List Byte) : Memory.wf (Memory.wrN m a bs) = true := by
  induction bs generalizing m a with
  | nil => exact h
  | cons b r ih => exact ih (wf_wr h a b) (a + 1)

/-- Keeping some cells keeps the canonical form. -/
theorem wf_filter {m : Memory} (h : Memory.wf m = true) (p : Host.Cell → Bool) : Memory.wf (m.filter p) = true := by
  induction m with
  | nil => rfl
  | cons c r ih =>
    obtain ⟨h0, h1, h2⟩ := wf_cons.1 h
    simp only [List.filter_cons]
    split
    · exact wf_cons.2 ⟨h0, fun d hd => h1 d (List.mem_filter.1 hd).1, ih h2⟩
    · exact ih h2

/-- Clearing a range keeps the canonical form. -/
theorem wf_zero {m : Memory} (h : Memory.wf m = true) (a n : Nat) : Memory.wf (Memory.zero m a n) = true := wf_filter h _

/-- Bytes written one by one keep the canonical form. -/
theorem wf_writes {m : Memory} (h : Memory.wf m = true) (ps : List (Nat × Byte)) :
    Memory.wf (ps.foldl (fun m p => Memory.wr m p.1 p.2) m) = true := by
  induction ps generalizing m with
  | nil => exact h
  | cons p r ih => exact ih (wf_wr h p.1 p.2)

/-- An address below every listed one reads 0. -/
theorem rd_below {m : Memory} {a : Nat} (h : ∀ d ∈ m, a < d.1) : Memory.rd m a = 0 := by
  induction m with
  | nil => rfl
  | cons c r ih =>
    have hc := h c List.mem_cons_self
    simp only [Memory.rd]
    rw [if_neg (by omega)]
    exact ih (fun d hd => h d (List.mem_cons_of_mem _ hd))

/-- A read after a write: the byte written at its address, every other as before. -/
theorem rd_wr {m : Memory} (h : Memory.wf m = true) (a c : Nat) (b : Byte) :
    Memory.rd (Memory.wr m a b) c = if c = a then b else Memory.rd m c := by
  induction m with
  | nil =>
    simp only [Memory.wr]
    split
    · rename_i hb
      subst hb
      split <;> rfl
    · simp only [Memory.rd, eq_comm]
  | cons d r ih =>
    obtain ⟨h0, h1, h2⟩ := wf_cons.1 h
    have ih := ih h2
    simp only [Memory.wr]
    split
    · rename_i hd
      subst hd
      split
      · rename_i hb
        subst hb
        by_cases hc : c = d.1
        · subst hc
          simp [rd_below h1]
        · simp [Memory.rd, hc, Ne.symm hc]
      · by_cases hc : c = d.1 <;> simp [Memory.rd, hc, eq_comm]
    · split
      · rename_i hd hlt
        split
        · rename_i hb
          subst hb
          by_cases hc : c = a
          · subst hc
            rw [if_pos rfl]
            exact rd_below (fun e he => by
              rcases List.mem_cons.1 he with he | he
              · exact he ▸ hlt
              · exact Nat.lt_trans hlt (h1 e he))
          · simp [hc]
        · by_cases hc : c = a
          · simp [Memory.rd, hc]
          · simp [Memory.rd, hc, Ne.symm hc]
      · rename_i hd hlt
        simp only [Memory.rd, ih]
        by_cases hc : d.1 = c
        · have hca : ¬c = a := by omega
          rw [if_pos hc, if_neg hca, if_pos hc]
        · rw [if_neg hc, if_neg hc]

end Memory

end Sys2Proof.Machine
end

