-- ==== Sys2Proof/Laws/State.lean ====
section
/-!
SUPPORT. What the updates of a part of the state leave: one lemma per field and update, and what a part reads after an update of
a part.
-/

namespace Sys2Proof.Machine

/-! ### `updBlk` -/

@[simp] theorem updBlk_ken (s : State) (b : Nat) (g : Block → Block) : (updBlk s b g).ken = s.ken := rfl
@[simp] theorem updBlk_ctxs (s : State) (b : Nat) (g : Block → Block) : (updBlk s b g).ctxs = s.ctxs := rfl
@[simp] theorem updBlk_freed (s : State) (b : Nat) (g : Block → Block) : (updBlk s b g).freed = s.freed := rfl
@[simp] theorem updBlk_launches (s : State) (b : Nat) (g : Block → Block) : (updBlk s b g).launches = s.launches := rfl
@[simp] theorem updBlk_tickets (s : State) (b : Nat) (g : Block → Block) : (updBlk s b g).tickets = s.tickets := rfl
@[simp] theorem updBlk_pushes (s : State) (b : Nat) (g : Block → Block) : (updBlk s b g).pushes = s.pushes := rfl
@[simp] theorem updBlk_ops (s : State) (b : Nat) (g : Block → Block) : (updBlk s b g).ops = s.ops := rfl
@[simp] theorem updBlk_windows (s : State) (b : Nat) (g : Block → Block) : (updBlk s b g).windows = s.windows := rfl
@[simp] theorem updBlk_mappings (s : State) (b : Nat) (g : Block → Block) : (updBlk s b g).mappings = s.mappings := rfl
@[simp] theorem updBlk_rings (s : State) (b : Nat) (g : Block → Block) : (updBlk s b g).rings = s.rings := rfl
@[simp] theorem updBlk_mem (s : State) (b : Nat) (g : Block → Block) : (updBlk s b g).mem = s.mem := rfl
@[simp] theorem updBlk_sram (s : State) (b : Nat) (g : Block → Block) : (updBlk s b g).sram = s.sram := rfl
@[simp] theorem updBlk_memPoison (s : State) (b : Nat) (g : Block → Block) : (updBlk s b g).memPoison = s.memPoison := rfl
@[simp] theorem updBlk_sramPoison (s : State) (b : Nat) (g : Block → Block) : (updBlk s b g).sramPoison = s.sramPoison := rfl
@[simp] theorem updBlk_icache (s : State) (b : Nat) (g : Block → Block) : (updBlk s b g).icache = s.icache := rfl
@[simp] theorem updBlk_tlb (s : State) (b : Nat) (g : Block → Block) : (updBlk s b g).tlb = s.tlb := rfl
@[simp] theorem updBlk_msc (s : State) (b : Nat) (g : Block → Block) : (updBlk s b g).msc = s.msc := rfl
@[simp] theorem updBlk_stores (s : State) (b : Nat) (g : Block → Block) : (updBlk s b g).stores = s.stores := rfl
@[simp] theorem updBlk_acqs (s : State) (b : Nat) (g : Block → Block) : (updBlk s b g).acqs = s.acqs := rfl
@[simp] theorem updBlk_migs (s : State) (b : Nat) (g : Block → Block) : (updBlk s b g).migs = s.migs := rfl
@[simp] theorem updBlk_hostBad (s : State) (b : Nat) (g : Block → Block) : (updBlk s b g).hostBad = s.hostBad := rfl
@[simp] theorem updBlk_whistles (s : State) (b : Nat) (g : Block → Block) : (updBlk s b g).whistles = s.whistles := rfl
@[simp] theorem updBlk_sessions (s : State) (b : Nat) (g : Block → Block) : (updBlk s b g).sessions = s.sessions := rfl
@[simp] theorem updBlk_trials (s : State) (b : Nat) (g : Block → Block) : (updBlk s b g).trials = s.trials := rfl
@[simp] theorem updBlk_xids (s : State) (b : Nat) (g : Block → Block) : (updBlk s b g).xids = s.xids := rfl
@[simp] theorem updBlk_clk (s : State) (b : Nat) (g : Block → Block) : (updBlk s b g).clk = s.clk := rfl
@[simp] theorem updBlk_uclk (s : State) (b : Nat) (g : Block → Block) : (updBlk s b g).uclk = s.uclk := rfl
@[simp] theorem updBlk_nextTicket (s : State) (b : Nat) (g : Block → Block) : (updBlk s b g).nextTicket = s.nextTicket := rfl
@[simp] theorem updBlk_nextId (s : State) (b : Nat) (g : Block → Block) : (updBlk s b g).nextId = s.nextId := rfl
@[simp] theorem updBlk_saves (s : State) (b : Nat) (g : Block → Block) : (updBlk s b g).saves = s.saves := rfl
@[simp] theorem updBlk_cur (s : State) (b : Nat) (g : Block → Block) : (updBlk s b g).cur = s.cur := rfl
@[simp] theorem updBlk_agenda (s : State) (b : Nat) (g : Block → Block) : (updBlk s b g).agenda = s.agenda := rfl
@[simp] theorem updBlk_choice (s : State) (b : Nat) (g : Block → Block) : (updBlk s b g).choice = s.choice := rfl
@[simp] theorem updBlk_turn (s : State) (b : Nat) (g : Block → Block) : (updBlk s b g).turn = s.turn := rfl
@[simp] theorem updBlk_wcache (s : State) (b : Nat) (g : Block → Block) : (updBlk s b g).wcache = s.wcache := rfl
@[simp] theorem updBlk_tails (s : State) (b : Nat) (g : Block → Block) : (updBlk s b g).tails = s.tails := rfl
@[simp] theorem updBlk_replays (s : State) (b : Nat) (g : Block → Block) : (updBlk s b g).replays = s.replays := rfl
@[simp] theorem updBlk_answer (s : State) (b : Nat) (g : Block → Block) : (updBlk s b g).answer = s.answer := rfl
@[simp] theorem updBlk_l2 (s : State) (b : Nat) (g : Block → Block) : (updBlk s b g).l2 = s.l2 := rfl
@[simp] theorem updBlk_misses (s : State) (b : Nat) (g : Block → Block) : (updBlk s b g).misses = s.misses := rfl
@[simp] theorem updBlk_pubs (s : State) (b : Nat) (g : Block → Block) : (updBlk s b g).pubs = s.pubs := rfl
@[simp] theorem updBlk_flights (s : State) (b : Nat) (g : Block → Block) : (updBlk s b g).flights = s.flights := rfl
@[simp] theorem updBlk_tallies (s : State) (b : Nat) (g : Block → Block) : (updBlk s b g).tallies = s.tallies := rfl
@[simp] theorem updBlk_capped (s : State) (b : Nat) (g : Block → Block) : (updBlk s b g).capped = s.capped := rfl

/-! ### `updSlot` -/

@[simp] theorem updSlot_ken (s : State) (b k : Nat) (g : Slot → Slot) : (updSlot s b k g).ken = s.ken := rfl
@[simp] theorem updSlot_ctxs (s : State) (b k : Nat) (g : Slot → Slot) : (updSlot s b k g).ctxs = s.ctxs := rfl
@[simp] theorem updSlot_freed (s : State) (b k : Nat) (g : Slot → Slot) : (updSlot s b k g).freed = s.freed := rfl
@[simp] theorem updSlot_launches (s : State) (b k : Nat) (g : Slot → Slot) : (updSlot s b k g).launches = s.launches := rfl
@[simp] theorem updSlot_tickets (s : State) (b k : Nat) (g : Slot → Slot) : (updSlot s b k g).tickets = s.tickets := rfl
@[simp] theorem updSlot_pushes (s : State) (b k : Nat) (g : Slot → Slot) : (updSlot s b k g).pushes = s.pushes := rfl
@[simp] theorem updSlot_ops (s : State) (b k : Nat) (g : Slot → Slot) : (updSlot s b k g).ops = s.ops := rfl
@[simp] theorem updSlot_windows (s : State) (b k : Nat) (g : Slot → Slot) : (updSlot s b k g).windows = s.windows := rfl
@[simp] theorem updSlot_mappings (s : State) (b k : Nat) (g : Slot → Slot) : (updSlot s b k g).mappings = s.mappings := rfl
@[simp] theorem updSlot_rings (s : State) (b k : Nat) (g : Slot → Slot) : (updSlot s b k g).rings = s.rings := rfl
@[simp] theorem updSlot_mem (s : State) (b k : Nat) (g : Slot → Slot) : (updSlot s b k g).mem = s.mem := rfl
@[simp] theorem updSlot_sram (s : State) (b k : Nat) (g : Slot → Slot) : (updSlot s b k g).sram = s.sram := rfl
@[simp] theorem updSlot_memPoison (s : State) (b k : Nat) (g : Slot → Slot) : (updSlot s b k g).memPoison = s.memPoison := rfl
@[simp] theorem updSlot_sramPoison (s : State) (b k : Nat) (g : Slot → Slot) : (updSlot s b k g).sramPoison = s.sramPoison := rfl
@[simp] theorem updSlot_icache (s : State) (b k : Nat) (g : Slot → Slot) : (updSlot s b k g).icache = s.icache := rfl
@[simp] theorem updSlot_tlb (s : State) (b k : Nat) (g : Slot → Slot) : (updSlot s b k g).tlb = s.tlb := rfl
@[simp] theorem updSlot_msc (s : State) (b k : Nat) (g : Slot → Slot) : (updSlot s b k g).msc = s.msc := rfl
@[simp] theorem updSlot_stores (s : State) (b k : Nat) (g : Slot → Slot) : (updSlot s b k g).stores = s.stores := rfl
@[simp] theorem updSlot_acqs (s : State) (b k : Nat) (g : Slot → Slot) : (updSlot s b k g).acqs = s.acqs := rfl
@[simp] theorem updSlot_migs (s : State) (b k : Nat) (g : Slot → Slot) : (updSlot s b k g).migs = s.migs := rfl
@[simp] theorem updSlot_hostBad (s : State) (b k : Nat) (g : Slot → Slot) : (updSlot s b k g).hostBad = s.hostBad := rfl
@[simp] theorem updSlot_whistles (s : State) (b k : Nat) (g : Slot → Slot) : (updSlot s b k g).whistles = s.whistles := rfl
@[simp] theorem updSlot_sessions (s : State) (b k : Nat) (g : Slot → Slot) : (updSlot s b k g).sessions = s.sessions := rfl
@[simp] theorem updSlot_trials (s : State) (b k : Nat) (g : Slot → Slot) : (updSlot s b k g).trials = s.trials := rfl
@[simp] theorem updSlot_xids (s : State) (b k : Nat) (g : Slot → Slot) : (updSlot s b k g).xids = s.xids := rfl
@[simp] theorem updSlot_clk (s : State) (b k : Nat) (g : Slot → Slot) : (updSlot s b k g).clk = s.clk := rfl
@[simp] theorem updSlot_uclk (s : State) (b k : Nat) (g : Slot → Slot) : (updSlot s b k g).uclk = s.uclk := rfl
@[simp] theorem updSlot_nextTicket (s : State) (b k : Nat) (g : Slot → Slot) : (updSlot s b k g).nextTicket = s.nextTicket := rfl
@[simp] theorem updSlot_nextId (s : State) (b k : Nat) (g : Slot → Slot) : (updSlot s b k g).nextId = s.nextId := rfl
@[simp] theorem updSlot_saves (s : State) (b k : Nat) (g : Slot → Slot) : (updSlot s b k g).saves = s.saves := rfl
@[simp] theorem updSlot_cur (s : State) (b k : Nat) (g : Slot → Slot) : (updSlot s b k g).cur = s.cur := rfl
@[simp] theorem updSlot_agenda (s : State) (b k : Nat) (g : Slot → Slot) : (updSlot s b k g).agenda = s.agenda := rfl
@[simp] theorem updSlot_choice (s : State) (b k : Nat) (g : Slot → Slot) : (updSlot s b k g).choice = s.choice := rfl
@[simp] theorem updSlot_turn (s : State) (b k : Nat) (g : Slot → Slot) : (updSlot s b k g).turn = s.turn := rfl
@[simp] theorem updSlot_wcache (s : State) (b k : Nat) (g : Slot → Slot) : (updSlot s b k g).wcache = s.wcache := rfl
@[simp] theorem updSlot_tails (s : State) (b k : Nat) (g : Slot → Slot) : (updSlot s b k g).tails = s.tails := rfl
@[simp] theorem updSlot_replays (s : State) (b k : Nat) (g : Slot → Slot) : (updSlot s b k g).replays = s.replays := rfl
@[simp] theorem updSlot_answer (s : State) (b k : Nat) (g : Slot → Slot) : (updSlot s b k g).answer = s.answer := rfl
@[simp] theorem updSlot_l2 (s : State) (b k : Nat) (g : Slot → Slot) : (updSlot s b k g).l2 = s.l2 := rfl
@[simp] theorem updSlot_misses (s : State) (b k : Nat) (g : Slot → Slot) : (updSlot s b k g).misses = s.misses := rfl
@[simp] theorem updSlot_pubs (s : State) (b k : Nat) (g : Slot → Slot) : (updSlot s b k g).pubs = s.pubs := rfl
@[simp] theorem updSlot_flights (s : State) (b k : Nat) (g : Slot → Slot) : (updSlot s b k g).flights = s.flights := rfl
@[simp] theorem updSlot_tallies (s : State) (b k : Nat) (g : Slot → Slot) : (updSlot s b k g).tallies = s.tallies := rfl
@[simp] theorem updSlot_capped (s : State) (b k : Nat) (g : Slot → Slot) : (updSlot s b k g).capped = s.capped := rfl

/-! ### `updFib` -/

@[simp] theorem updFib_ken (s : State) (b k f : Nat) (g : Fibre → Fibre) : (updFib s b k f g).ken = s.ken := rfl
@[simp] theorem updFib_ctxs (s : State) (b k f : Nat) (g : Fibre → Fibre) : (updFib s b k f g).ctxs = s.ctxs := rfl
@[simp] theorem updFib_freed (s : State) (b k f : Nat) (g : Fibre → Fibre) : (updFib s b k f g).freed = s.freed := rfl
@[simp] theorem updFib_launches (s : State) (b k f : Nat) (g : Fibre → Fibre) : (updFib s b k f g).launches = s.launches := rfl
@[simp] theorem updFib_tickets (s : State) (b k f : Nat) (g : Fibre → Fibre) : (updFib s b k f g).tickets = s.tickets := rfl
@[simp] theorem updFib_pushes (s : State) (b k f : Nat) (g : Fibre → Fibre) : (updFib s b k f g).pushes = s.pushes := rfl
@[simp] theorem updFib_ops (s : State) (b k f : Nat) (g : Fibre → Fibre) : (updFib s b k f g).ops = s.ops := rfl
@[simp] theorem updFib_windows (s : State) (b k f : Nat) (g : Fibre → Fibre) : (updFib s b k f g).windows = s.windows := rfl
@[simp] theorem updFib_mappings (s : State) (b k f : Nat) (g : Fibre → Fibre) : (updFib s b k f g).mappings = s.mappings := rfl
@[simp] theorem updFib_rings (s : State) (b k f : Nat) (g : Fibre → Fibre) : (updFib s b k f g).rings = s.rings := rfl
@[simp] theorem updFib_mem (s : State) (b k f : Nat) (g : Fibre → Fibre) : (updFib s b k f g).mem = s.mem := rfl
@[simp] theorem updFib_sram (s : State) (b k f : Nat) (g : Fibre → Fibre) : (updFib s b k f g).sram = s.sram := rfl
@[simp] theorem updFib_memPoison (s : State) (b k f : Nat) (g : Fibre → Fibre) : (updFib s b k f g).memPoison = s.memPoison := rfl
@[simp] theorem updFib_sramPoison (s : State) (b k f : Nat) (g : Fibre → Fibre) : (updFib s b k f g).sramPoison = s.sramPoison := rfl
@[simp] theorem updFib_icache (s : State) (b k f : Nat) (g : Fibre → Fibre) : (updFib s b k f g).icache = s.icache := rfl
@[simp] theorem updFib_tlb (s : State) (b k f : Nat) (g : Fibre → Fibre) : (updFib s b k f g).tlb = s.tlb := rfl
@[simp] theorem updFib_msc (s : State) (b k f : Nat) (g : Fibre → Fibre) : (updFib s b k f g).msc = s.msc := rfl
@[simp] theorem updFib_stores (s : State) (b k f : Nat) (g : Fibre → Fibre) : (updFib s b k f g).stores = s.stores := rfl
@[simp] theorem updFib_acqs (s : State) (b k f : Nat) (g : Fibre → Fibre) : (updFib s b k f g).acqs = s.acqs := rfl
@[simp] theorem updFib_migs (s : State) (b k f : Nat) (g : Fibre → Fibre) : (updFib s b k f g).migs = s.migs := rfl
@[simp] theorem updFib_hostBad (s : State) (b k f : Nat) (g : Fibre → Fibre) : (updFib s b k f g).hostBad = s.hostBad := rfl
@[simp] theorem updFib_whistles (s : State) (b k f : Nat) (g : Fibre → Fibre) : (updFib s b k f g).whistles = s.whistles := rfl
@[simp] theorem updFib_sessions (s : State) (b k f : Nat) (g : Fibre → Fibre) : (updFib s b k f g).sessions = s.sessions := rfl
@[simp] theorem updFib_trials (s : State) (b k f : Nat) (g : Fibre → Fibre) : (updFib s b k f g).trials = s.trials := rfl
@[simp] theorem updFib_xids (s : State) (b k f : Nat) (g : Fibre → Fibre) : (updFib s b k f g).xids = s.xids := rfl
@[simp] theorem updFib_clk (s : State) (b k f : Nat) (g : Fibre → Fibre) : (updFib s b k f g).clk = s.clk := rfl
@[simp] theorem updFib_uclk (s : State) (b k f : Nat) (g : Fibre → Fibre) : (updFib s b k f g).uclk = s.uclk := rfl
@[simp] theorem updFib_nextTicket (s : State) (b k f : Nat) (g : Fibre → Fibre) : (updFib s b k f g).nextTicket = s.nextTicket := rfl
@[simp] theorem updFib_nextId (s : State) (b k f : Nat) (g : Fibre → Fibre) : (updFib s b k f g).nextId = s.nextId := rfl
@[simp] theorem updFib_saves (s : State) (b k f : Nat) (g : Fibre → Fibre) : (updFib s b k f g).saves = s.saves := rfl
@[simp] theorem updFib_cur (s : State) (b k f : Nat) (g : Fibre → Fibre) : (updFib s b k f g).cur = s.cur := rfl
@[simp] theorem updFib_agenda (s : State) (b k f : Nat) (g : Fibre → Fibre) : (updFib s b k f g).agenda = s.agenda := rfl
@[simp] theorem updFib_choice (s : State) (b k f : Nat) (g : Fibre → Fibre) : (updFib s b k f g).choice = s.choice := rfl
@[simp] theorem updFib_turn (s : State) (b k f : Nat) (g : Fibre → Fibre) : (updFib s b k f g).turn = s.turn := rfl
@[simp] theorem updFib_wcache (s : State) (b k f : Nat) (g : Fibre → Fibre) : (updFib s b k f g).wcache = s.wcache := rfl
@[simp] theorem updFib_tails (s : State) (b k f : Nat) (g : Fibre → Fibre) : (updFib s b k f g).tails = s.tails := rfl
@[simp] theorem updFib_replays (s : State) (b k f : Nat) (g : Fibre → Fibre) : (updFib s b k f g).replays = s.replays := rfl
@[simp] theorem updFib_answer (s : State) (b k f : Nat) (g : Fibre → Fibre) : (updFib s b k f g).answer = s.answer := rfl
@[simp] theorem updFib_l2 (s : State) (b k f : Nat) (g : Fibre → Fibre) : (updFib s b k f g).l2 = s.l2 := rfl
@[simp] theorem updFib_misses (s : State) (b k f : Nat) (g : Fibre → Fibre) : (updFib s b k f g).misses = s.misses := rfl
@[simp] theorem updFib_pubs (s : State) (b k f : Nat) (g : Fibre → Fibre) : (updFib s b k f g).pubs = s.pubs := rfl
@[simp] theorem updFib_flights (s : State) (b k f : Nat) (g : Fibre → Fibre) : (updFib s b k f g).flights = s.flights := rfl
@[simp] theorem updFib_tallies (s : State) (b k f : Nat) (g : Fibre → Fibre) : (updFib s b k f g).tallies = s.tallies := rfl
@[simp] theorem updFib_capped (s : State) (b k f : Nat) (g : Fibre → Fibre) : (updFib s b k f g).capped = s.capped := rfl

/-! ### `updIs` -/

@[simp] theorem updIs_ken (s : State) (i : Issue) (g : Fibre → Fibre) : (updIs s i g).ken = s.ken := rfl
@[simp] theorem updIs_ctxs (s : State) (i : Issue) (g : Fibre → Fibre) : (updIs s i g).ctxs = s.ctxs := rfl
@[simp] theorem updIs_freed (s : State) (i : Issue) (g : Fibre → Fibre) : (updIs s i g).freed = s.freed := rfl
@[simp] theorem updIs_launches (s : State) (i : Issue) (g : Fibre → Fibre) : (updIs s i g).launches = s.launches := rfl
@[simp] theorem updIs_tickets (s : State) (i : Issue) (g : Fibre → Fibre) : (updIs s i g).tickets = s.tickets := rfl
@[simp] theorem updIs_pushes (s : State) (i : Issue) (g : Fibre → Fibre) : (updIs s i g).pushes = s.pushes := rfl
@[simp] theorem updIs_ops (s : State) (i : Issue) (g : Fibre → Fibre) : (updIs s i g).ops = s.ops := rfl
@[simp] theorem updIs_windows (s : State) (i : Issue) (g : Fibre → Fibre) : (updIs s i g).windows = s.windows := rfl
@[simp] theorem updIs_mappings (s : State) (i : Issue) (g : Fibre → Fibre) : (updIs s i g).mappings = s.mappings := rfl
@[simp] theorem updIs_rings (s : State) (i : Issue) (g : Fibre → Fibre) : (updIs s i g).rings = s.rings := rfl
@[simp] theorem updIs_mem (s : State) (i : Issue) (g : Fibre → Fibre) : (updIs s i g).mem = s.mem := rfl
@[simp] theorem updIs_sram (s : State) (i : Issue) (g : Fibre → Fibre) : (updIs s i g).sram = s.sram := rfl
@[simp] theorem updIs_memPoison (s : State) (i : Issue) (g : Fibre → Fibre) : (updIs s i g).memPoison = s.memPoison := rfl
@[simp] theorem updIs_sramPoison (s : State) (i : Issue) (g : Fibre → Fibre) : (updIs s i g).sramPoison = s.sramPoison := rfl
@[simp] theorem updIs_icache (s : State) (i : Issue) (g : Fibre → Fibre) : (updIs s i g).icache = s.icache := rfl
@[simp] theorem updIs_tlb (s : State) (i : Issue) (g : Fibre → Fibre) : (updIs s i g).tlb = s.tlb := rfl
@[simp] theorem updIs_msc (s : State) (i : Issue) (g : Fibre → Fibre) : (updIs s i g).msc = s.msc := rfl
@[simp] theorem updIs_stores (s : State) (i : Issue) (g : Fibre → Fibre) : (updIs s i g).stores = s.stores := rfl
@[simp] theorem updIs_acqs (s : State) (i : Issue) (g : Fibre → Fibre) : (updIs s i g).acqs = s.acqs := rfl
@[simp] theorem updIs_migs (s : State) (i : Issue) (g : Fibre → Fibre) : (updIs s i g).migs = s.migs := rfl
@[simp] theorem updIs_hostBad (s : State) (i : Issue) (g : Fibre → Fibre) : (updIs s i g).hostBad = s.hostBad := rfl
@[simp] theorem updIs_whistles (s : State) (i : Issue) (g : Fibre → Fibre) : (updIs s i g).whistles = s.whistles := rfl
@[simp] theorem updIs_sessions (s : State) (i : Issue) (g : Fibre → Fibre) : (updIs s i g).sessions = s.sessions := rfl
@[simp] theorem updIs_trials (s : State) (i : Issue) (g : Fibre → Fibre) : (updIs s i g).trials = s.trials := rfl
@[simp] theorem updIs_xids (s : State) (i : Issue) (g : Fibre → Fibre) : (updIs s i g).xids = s.xids := rfl
@[simp] theorem updIs_clk (s : State) (i : Issue) (g : Fibre → Fibre) : (updIs s i g).clk = s.clk := rfl
@[simp] theorem updIs_uclk (s : State) (i : Issue) (g : Fibre → Fibre) : (updIs s i g).uclk = s.uclk := rfl
@[simp] theorem updIs_nextTicket (s : State) (i : Issue) (g : Fibre → Fibre) : (updIs s i g).nextTicket = s.nextTicket := rfl
@[simp] theorem updIs_nextId (s : State) (i : Issue) (g : Fibre → Fibre) : (updIs s i g).nextId = s.nextId := rfl
@[simp] theorem updIs_saves (s : State) (i : Issue) (g : Fibre → Fibre) : (updIs s i g).saves = s.saves := rfl
@[simp] theorem updIs_cur (s : State) (i : Issue) (g : Fibre → Fibre) : (updIs s i g).cur = s.cur := rfl
@[simp] theorem updIs_agenda (s : State) (i : Issue) (g : Fibre → Fibre) : (updIs s i g).agenda = s.agenda := rfl
@[simp] theorem updIs_choice (s : State) (i : Issue) (g : Fibre → Fibre) : (updIs s i g).choice = s.choice := rfl
@[simp] theorem updIs_turn (s : State) (i : Issue) (g : Fibre → Fibre) : (updIs s i g).turn = s.turn := rfl
@[simp] theorem updIs_wcache (s : State) (i : Issue) (g : Fibre → Fibre) : (updIs s i g).wcache = s.wcache := rfl
@[simp] theorem updIs_tails (s : State) (i : Issue) (g : Fibre → Fibre) : (updIs s i g).tails = s.tails := rfl
@[simp] theorem updIs_replays (s : State) (i : Issue) (g : Fibre → Fibre) : (updIs s i g).replays = s.replays := rfl
@[simp] theorem updIs_answer (s : State) (i : Issue) (g : Fibre → Fibre) : (updIs s i g).answer = s.answer := rfl
@[simp] theorem updIs_l2 (s : State) (i : Issue) (g : Fibre → Fibre) : (updIs s i g).l2 = s.l2 := rfl
@[simp] theorem updIs_misses (s : State) (i : Issue) (g : Fibre → Fibre) : (updIs s i g).misses = s.misses := rfl
@[simp] theorem updIs_pubs (s : State) (i : Issue) (g : Fibre → Fibre) : (updIs s i g).pubs = s.pubs := rfl
@[simp] theorem updIs_flights (s : State) (i : Issue) (g : Fibre → Fibre) : (updIs s i g).flights = s.flights := rfl
@[simp] theorem updIs_tallies (s : State) (i : Issue) (g : Fibre → Fibre) : (updIs s i g).tallies = s.tallies := rfl
@[simp] theorem updIs_capped (s : State) (i : Issue) (g : Fibre → Fibre) : (updIs s i g).capped = s.capped := rfl

/-! ### `updSeq` -/

@[simp] theorem updSeq_ken (s : State) (b : Nat) (g : Seqr → Seqr) : (updSeq s b g).ken = s.ken := rfl
@[simp] theorem updSeq_ctxs (s : State) (b : Nat) (g : Seqr → Seqr) : (updSeq s b g).ctxs = s.ctxs := rfl
@[simp] theorem updSeq_freed (s : State) (b : Nat) (g : Seqr → Seqr) : (updSeq s b g).freed = s.freed := rfl
@[simp] theorem updSeq_launches (s : State) (b : Nat) (g : Seqr → Seqr) : (updSeq s b g).launches = s.launches := rfl
@[simp] theorem updSeq_tickets (s : State) (b : Nat) (g : Seqr → Seqr) : (updSeq s b g).tickets = s.tickets := rfl
@[simp] theorem updSeq_pushes (s : State) (b : Nat) (g : Seqr → Seqr) : (updSeq s b g).pushes = s.pushes := rfl
@[simp] theorem updSeq_ops (s : State) (b : Nat) (g : Seqr → Seqr) : (updSeq s b g).ops = s.ops := rfl
@[simp] theorem updSeq_windows (s : State) (b : Nat) (g : Seqr → Seqr) : (updSeq s b g).windows = s.windows := rfl
@[simp] theorem updSeq_mappings (s : State) (b : Nat) (g : Seqr → Seqr) : (updSeq s b g).mappings = s.mappings := rfl
@[simp] theorem updSeq_rings (s : State) (b : Nat) (g : Seqr → Seqr) : (updSeq s b g).rings = s.rings := rfl
@[simp] theorem updSeq_mem (s : State) (b : Nat) (g : Seqr → Seqr) : (updSeq s b g).mem = s.mem := rfl
@[simp] theorem updSeq_sram (s : State) (b : Nat) (g : Seqr → Seqr) : (updSeq s b g).sram = s.sram := rfl
@[simp] theorem updSeq_memPoison (s : State) (b : Nat) (g : Seqr → Seqr) : (updSeq s b g).memPoison = s.memPoison := rfl
@[simp] theorem updSeq_sramPoison (s : State) (b : Nat) (g : Seqr → Seqr) : (updSeq s b g).sramPoison = s.sramPoison := rfl
@[simp] theorem updSeq_icache (s : State) (b : Nat) (g : Seqr → Seqr) : (updSeq s b g).icache = s.icache := rfl
@[simp] theorem updSeq_tlb (s : State) (b : Nat) (g : Seqr → Seqr) : (updSeq s b g).tlb = s.tlb := rfl
@[simp] theorem updSeq_msc (s : State) (b : Nat) (g : Seqr → Seqr) : (updSeq s b g).msc = s.msc := rfl
@[simp] theorem updSeq_stores (s : State) (b : Nat) (g : Seqr → Seqr) : (updSeq s b g).stores = s.stores := rfl
@[simp] theorem updSeq_acqs (s : State) (b : Nat) (g : Seqr → Seqr) : (updSeq s b g).acqs = s.acqs := rfl
@[simp] theorem updSeq_migs (s : State) (b : Nat) (g : Seqr → Seqr) : (updSeq s b g).migs = s.migs := rfl
@[simp] theorem updSeq_hostBad (s : State) (b : Nat) (g : Seqr → Seqr) : (updSeq s b g).hostBad = s.hostBad := rfl
@[simp] theorem updSeq_whistles (s : State) (b : Nat) (g : Seqr → Seqr) : (updSeq s b g).whistles = s.whistles := rfl
@[simp] theorem updSeq_sessions (s : State) (b : Nat) (g : Seqr → Seqr) : (updSeq s b g).sessions = s.sessions := rfl
@[simp] theorem updSeq_trials (s : State) (b : Nat) (g : Seqr → Seqr) : (updSeq s b g).trials = s.trials := rfl
@[simp] theorem updSeq_xids (s : State) (b : Nat) (g : Seqr → Seqr) : (updSeq s b g).xids = s.xids := rfl
@[simp] theorem updSeq_clk (s : State) (b : Nat) (g : Seqr → Seqr) : (updSeq s b g).clk = s.clk := rfl
@[simp] theorem updSeq_uclk (s : State) (b : Nat) (g : Seqr → Seqr) : (updSeq s b g).uclk = s.uclk := rfl
@[simp] theorem updSeq_nextTicket (s : State) (b : Nat) (g : Seqr → Seqr) : (updSeq s b g).nextTicket = s.nextTicket := rfl
@[simp] theorem updSeq_nextId (s : State) (b : Nat) (g : Seqr → Seqr) : (updSeq s b g).nextId = s.nextId := rfl
@[simp] theorem updSeq_saves (s : State) (b : Nat) (g : Seqr → Seqr) : (updSeq s b g).saves = s.saves := rfl
@[simp] theorem updSeq_cur (s : State) (b : Nat) (g : Seqr → Seqr) : (updSeq s b g).cur = s.cur := rfl
@[simp] theorem updSeq_agenda (s : State) (b : Nat) (g : Seqr → Seqr) : (updSeq s b g).agenda = s.agenda := rfl
@[simp] theorem updSeq_choice (s : State) (b : Nat) (g : Seqr → Seqr) : (updSeq s b g).choice = s.choice := rfl
@[simp] theorem updSeq_turn (s : State) (b : Nat) (g : Seqr → Seqr) : (updSeq s b g).turn = s.turn := rfl
@[simp] theorem updSeq_wcache (s : State) (b : Nat) (g : Seqr → Seqr) : (updSeq s b g).wcache = s.wcache := rfl
@[simp] theorem updSeq_tails (s : State) (b : Nat) (g : Seqr → Seqr) : (updSeq s b g).tails = s.tails := rfl
@[simp] theorem updSeq_replays (s : State) (b : Nat) (g : Seqr → Seqr) : (updSeq s b g).replays = s.replays := rfl
@[simp] theorem updSeq_answer (s : State) (b : Nat) (g : Seqr → Seqr) : (updSeq s b g).answer = s.answer := rfl
@[simp] theorem updSeq_l2 (s : State) (b : Nat) (g : Seqr → Seqr) : (updSeq s b g).l2 = s.l2 := rfl
@[simp] theorem updSeq_misses (s : State) (b : Nat) (g : Seqr → Seqr) : (updSeq s b g).misses = s.misses := rfl
@[simp] theorem updSeq_pubs (s : State) (b : Nat) (g : Seqr → Seqr) : (updSeq s b g).pubs = s.pubs := rfl
@[simp] theorem updSeq_flights (s : State) (b : Nat) (g : Seqr → Seqr) : (updSeq s b g).flights = s.flights := rfl
@[simp] theorem updSeq_tallies (s : State) (b : Nat) (g : Seqr → Seqr) : (updSeq s b g).tallies = s.tallies := rfl
@[simp] theorem updSeq_capped (s : State) (b : Nat) (g : Seqr → Seqr) : (updSeq s b g).capped = s.capped := rfl

/-! ### `updCtx` -/

@[simp] theorem updCtx_ken (s : State) (c : Nat) (g : Ctx → Ctx) : (updCtx s c g).ken = s.ken := rfl
@[simp] theorem updCtx_freed (s : State) (c : Nat) (g : Ctx → Ctx) : (updCtx s c g).freed = s.freed := rfl
@[simp] theorem updCtx_launches (s : State) (c : Nat) (g : Ctx → Ctx) : (updCtx s c g).launches = s.launches := rfl
@[simp] theorem updCtx_blocks (s : State) (c : Nat) (g : Ctx → Ctx) : (updCtx s c g).blocks = s.blocks := rfl
@[simp] theorem updCtx_tickets (s : State) (c : Nat) (g : Ctx → Ctx) : (updCtx s c g).tickets = s.tickets := rfl
@[simp] theorem updCtx_pushes (s : State) (c : Nat) (g : Ctx → Ctx) : (updCtx s c g).pushes = s.pushes := rfl
@[simp] theorem updCtx_ops (s : State) (c : Nat) (g : Ctx → Ctx) : (updCtx s c g).ops = s.ops := rfl
@[simp] theorem updCtx_windows (s : State) (c : Nat) (g : Ctx → Ctx) : (updCtx s c g).windows = s.windows := rfl
@[simp] theorem updCtx_mappings (s : State) (c : Nat) (g : Ctx → Ctx) : (updCtx s c g).mappings = s.mappings := rfl
@[simp] theorem updCtx_rings (s : State) (c : Nat) (g : Ctx → Ctx) : (updCtx s c g).rings = s.rings := rfl
@[simp] theorem updCtx_mem (s : State) (c : Nat) (g : Ctx → Ctx) : (updCtx s c g).mem = s.mem := rfl
@[simp] theorem updCtx_sram (s : State) (c : Nat) (g : Ctx → Ctx) : (updCtx s c g).sram = s.sram := rfl
@[simp] theorem updCtx_memPoison (s : State) (c : Nat) (g : Ctx → Ctx) : (updCtx s c g).memPoison = s.memPoison := rfl
@[simp] theorem updCtx_sramPoison (s : State) (c : Nat) (g : Ctx → Ctx) : (updCtx s c g).sramPoison = s.sramPoison := rfl
@[simp] theorem updCtx_icache (s : State) (c : Nat) (g : Ctx → Ctx) : (updCtx s c g).icache = s.icache := rfl
@[simp] theorem updCtx_tlb (s : State) (c : Nat) (g : Ctx → Ctx) : (updCtx s c g).tlb = s.tlb := rfl
@[simp] theorem updCtx_msc (s : State) (c : Nat) (g : Ctx → Ctx) : (updCtx s c g).msc = s.msc := rfl
@[simp] theorem updCtx_stores (s : State) (c : Nat) (g : Ctx → Ctx) : (updCtx s c g).stores = s.stores := rfl
@[simp] theorem updCtx_acqs (s : State) (c : Nat) (g : Ctx → Ctx) : (updCtx s c g).acqs = s.acqs := rfl
@[simp] theorem updCtx_migs (s : State) (c : Nat) (g : Ctx → Ctx) : (updCtx s c g).migs = s.migs := rfl
@[simp] theorem updCtx_hostBad (s : State) (c : Nat) (g : Ctx → Ctx) : (updCtx s c g).hostBad = s.hostBad := rfl
@[simp] theorem updCtx_whistles (s : State) (c : Nat) (g : Ctx → Ctx) : (updCtx s c g).whistles = s.whistles := rfl
@[simp] theorem updCtx_sessions (s : State) (c : Nat) (g : Ctx → Ctx) : (updCtx s c g).sessions = s.sessions := rfl
@[simp] theorem updCtx_trials (s : State) (c : Nat) (g : Ctx → Ctx) : (updCtx s c g).trials = s.trials := rfl
@[simp] theorem updCtx_xids (s : State) (c : Nat) (g : Ctx → Ctx) : (updCtx s c g).xids = s.xids := rfl
@[simp] theorem updCtx_clk (s : State) (c : Nat) (g : Ctx → Ctx) : (updCtx s c g).clk = s.clk := rfl
@[simp] theorem updCtx_uclk (s : State) (c : Nat) (g : Ctx → Ctx) : (updCtx s c g).uclk = s.uclk := rfl
@[simp] theorem updCtx_nextTicket (s : State) (c : Nat) (g : Ctx → Ctx) : (updCtx s c g).nextTicket = s.nextTicket := rfl
@[simp] theorem updCtx_nextId (s : State) (c : Nat) (g : Ctx → Ctx) : (updCtx s c g).nextId = s.nextId := rfl
@[simp] theorem updCtx_saves (s : State) (c : Nat) (g : Ctx → Ctx) : (updCtx s c g).saves = s.saves := rfl
@[simp] theorem updCtx_cur (s : State) (c : Nat) (g : Ctx → Ctx) : (updCtx s c g).cur = s.cur := rfl
@[simp] theorem updCtx_agenda (s : State) (c : Nat) (g : Ctx → Ctx) : (updCtx s c g).agenda = s.agenda := rfl
@[simp] theorem updCtx_choice (s : State) (c : Nat) (g : Ctx → Ctx) : (updCtx s c g).choice = s.choice := rfl
@[simp] theorem updCtx_turn (s : State) (c : Nat) (g : Ctx → Ctx) : (updCtx s c g).turn = s.turn := rfl
@[simp] theorem updCtx_wcache (s : State) (c : Nat) (g : Ctx → Ctx) : (updCtx s c g).wcache = s.wcache := rfl
@[simp] theorem updCtx_tails (s : State) (c : Nat) (g : Ctx → Ctx) : (updCtx s c g).tails = s.tails := rfl
@[simp] theorem updCtx_replays (s : State) (c : Nat) (g : Ctx → Ctx) : (updCtx s c g).replays = s.replays := rfl
@[simp] theorem updCtx_answer (s : State) (c : Nat) (g : Ctx → Ctx) : (updCtx s c g).answer = s.answer := rfl
@[simp] theorem updCtx_l2 (s : State) (c : Nat) (g : Ctx → Ctx) : (updCtx s c g).l2 = s.l2 := rfl
@[simp] theorem updCtx_misses (s : State) (c : Nat) (g : Ctx → Ctx) : (updCtx s c g).misses = s.misses := rfl
@[simp] theorem updCtx_pubs (s : State) (c : Nat) (g : Ctx → Ctx) : (updCtx s c g).pubs = s.pubs := rfl
@[simp] theorem updCtx_flights (s : State) (c : Nat) (g : Ctx → Ctx) : (updCtx s c g).flights = s.flights := rfl
@[simp] theorem updCtx_tallies (s : State) (c : Nat) (g : Ctx → Ctx) : (updCtx s c g).tallies = s.tallies := rfl
@[simp] theorem updCtx_capped (s : State) (c : Nat) (g : Ctx → Ctx) : (updCtx s c g).capped = s.capped := rfl

/-! ### `updKen` -/

@[simp] theorem updKen_ctxs (s : State) (g : Kennel → Kennel) : (updKen s g).ctxs = s.ctxs := rfl
@[simp] theorem updKen_freed (s : State) (g : Kennel → Kennel) : (updKen s g).freed = s.freed := rfl
@[simp] theorem updKen_launches (s : State) (g : Kennel → Kennel) : (updKen s g).launches = s.launches := rfl
@[simp] theorem updKen_blocks (s : State) (g : Kennel → Kennel) : (updKen s g).blocks = s.blocks := rfl
@[simp] theorem updKen_tickets (s : State) (g : Kennel → Kennel) : (updKen s g).tickets = s.tickets := rfl
@[simp] theorem updKen_pushes (s : State) (g : Kennel → Kennel) : (updKen s g).pushes = s.pushes := rfl
@[simp] theorem updKen_ops (s : State) (g : Kennel → Kennel) : (updKen s g).ops = s.ops := rfl
@[simp] theorem updKen_windows (s : State) (g : Kennel → Kennel) : (updKen s g).windows = s.windows := rfl
@[simp] theorem updKen_mappings (s : State) (g : Kennel → Kennel) : (updKen s g).mappings = s.mappings := rfl
@[simp] theorem updKen_rings (s : State) (g : Kennel → Kennel) : (updKen s g).rings = s.rings := rfl
@[simp] theorem updKen_mem (s : State) (g : Kennel → Kennel) : (updKen s g).mem = s.mem := rfl
@[simp] theorem updKen_sram (s : State) (g : Kennel → Kennel) : (updKen s g).sram = s.sram := rfl
@[simp] theorem updKen_memPoison (s : State) (g : Kennel → Kennel) : (updKen s g).memPoison = s.memPoison := rfl
@[simp] theorem updKen_sramPoison (s : State) (g : Kennel → Kennel) : (updKen s g).sramPoison = s.sramPoison := rfl
@[simp] theorem updKen_icache (s : State) (g : Kennel → Kennel) : (updKen s g).icache = s.icache := rfl
@[simp] theorem updKen_tlb (s : State) (g : Kennel → Kennel) : (updKen s g).tlb = s.tlb := rfl
@[simp] theorem updKen_msc (s : State) (g : Kennel → Kennel) : (updKen s g).msc = s.msc := rfl
@[simp] theorem updKen_stores (s : State) (g : Kennel → Kennel) : (updKen s g).stores = s.stores := rfl
@[simp] theorem updKen_acqs (s : State) (g : Kennel → Kennel) : (updKen s g).acqs = s.acqs := rfl
@[simp] theorem updKen_migs (s : State) (g : Kennel → Kennel) : (updKen s g).migs = s.migs := rfl
@[simp] theorem updKen_hostBad (s : State) (g : Kennel → Kennel) : (updKen s g).hostBad = s.hostBad := rfl
@[simp] theorem updKen_whistles (s : State) (g : Kennel → Kennel) : (updKen s g).whistles = s.whistles := rfl
@[simp] theorem updKen_sessions (s : State) (g : Kennel → Kennel) : (updKen s g).sessions = s.sessions := rfl
@[simp] theorem updKen_trials (s : State) (g : Kennel → Kennel) : (updKen s g).trials = s.trials := rfl
@[simp] theorem updKen_xids (s : State) (g : Kennel → Kennel) : (updKen s g).xids = s.xids := rfl
@[simp] theorem updKen_clk (s : State) (g : Kennel → Kennel) : (updKen s g).clk = s.clk := rfl
@[simp] theorem updKen_uclk (s : State) (g : Kennel → Kennel) : (updKen s g).uclk = s.uclk := rfl
@[simp] theorem updKen_nextTicket (s : State) (g : Kennel → Kennel) : (updKen s g).nextTicket = s.nextTicket := rfl
@[simp] theorem updKen_nextId (s : State) (g : Kennel → Kennel) : (updKen s g).nextId = s.nextId := rfl
@[simp] theorem updKen_saves (s : State) (g : Kennel → Kennel) : (updKen s g).saves = s.saves := rfl
@[simp] theorem updKen_cur (s : State) (g : Kennel → Kennel) : (updKen s g).cur = s.cur := rfl
@[simp] theorem updKen_agenda (s : State) (g : Kennel → Kennel) : (updKen s g).agenda = s.agenda := rfl
@[simp] theorem updKen_choice (s : State) (g : Kennel → Kennel) : (updKen s g).choice = s.choice := rfl
@[simp] theorem updKen_turn (s : State) (g : Kennel → Kennel) : (updKen s g).turn = s.turn := rfl
@[simp] theorem updKen_wcache (s : State) (g : Kennel → Kennel) : (updKen s g).wcache = s.wcache := rfl
@[simp] theorem updKen_tails (s : State) (g : Kennel → Kennel) : (updKen s g).tails = s.tails := rfl
@[simp] theorem updKen_replays (s : State) (g : Kennel → Kennel) : (updKen s g).replays = s.replays := rfl
@[simp] theorem updKen_answer (s : State) (g : Kennel → Kennel) : (updKen s g).answer = s.answer := rfl
@[simp] theorem updKen_l2 (s : State) (g : Kennel → Kennel) : (updKen s g).l2 = s.l2 := rfl
@[simp] theorem updKen_misses (s : State) (g : Kennel → Kennel) : (updKen s g).misses = s.misses := rfl
@[simp] theorem updKen_pubs (s : State) (g : Kennel → Kennel) : (updKen s g).pubs = s.pubs := rfl
@[simp] theorem updKen_flights (s : State) (g : Kennel → Kennel) : (updKen s g).flights = s.flights := rfl
@[simp] theorem updKen_tallies (s : State) (g : Kennel → Kennel) : (updKen s g).tallies = s.tallies := rfl
@[simp] theorem updKen_capped (s : State) (g : Kennel → Kennel) : (updKen s g).capped = s.capped := rfl

end Sys2Proof.Machine
end

