-- ==== Sys2Proof/Laws/Parts.lean ====
section
/-!
SUPPORT. What a block, a slot, a fibre and a lane read after an update of a part of the state.
-/

namespace Sys2Proof.Machine

theorem getD_modify {α : Type} (l : List α) (k j : Nat) (g : α → α) (d : α) :
    (l.modify k g).getD j d = if j = k ∧ k < l.length then g (l.getD k d) else l.getD j d := by
  simp only [List.getD_eq_getElem?_getD, List.getElem?_modify]
  by_cases hjk : k = j
  · subst hjk
    by_cases hl : k < l.length
    · simp [hl]
    · simp [hl]
  · simp [hjk, Ne.symm hjk]

theorem blkD_updBlk (s : State) (b c : Nat) (g : Block → Block) :
    blkD (updBlk s b g) c = if c = b ∧ (mget s.blocks b).isSome then g (blkD s b) else blkD s c :=
  mgetD_mupd s.blocks b c g _

theorem slotD_updBlk (s : State) (b c k : Nat) (g : Block → Block) (h : (g (blkD s b)).slots = (blkD s b).slots) :
    slotD (updBlk s b g) c k = slotD s c k := by
  simp only [slotD, blkD_updBlk]
  split
  · rename_i hc
    rw [h, hc.1]
  · rfl

theorem blkD_updSlot (s : State) (b k c : Nat) (g : Slot → Slot) :
    blkD (updSlot s b k g) c = { blkD s c with slots := (blkD (updSlot s b k g) c).slots } := by
  simp only [updSlot, blkD_updBlk]
  split
  · rename_i hc
    rw [hc.1]
  · rfl

theorem mget_updSlot (s : State) (b k c : Nat) (g : Slot → Slot) :
    (mget (updSlot s b k g).blocks c).isSome = (mget s.blocks c).isSome := by
  simp only [updSlot, updBlk, mget_mupd]
  split <;> simp

theorem slotD_updSlot (s : State) (b k c j : Nat) (g : Slot → Slot) :
    slotD (updSlot s b k g) c j =
      if c = b ∧ j = k ∧ (mget s.blocks b).isSome ∧ k < (blkD s b).slots.length then g (slotD s b k) else slotD s c j := by
  simp only [slotD, updSlot, blkD_updBlk]
  by_cases hc : c = b ∧ (mget s.blocks b).isSome
  · rw [if_pos hc]
    simp only [getD_modify]
    obtain ⟨rfl, h⟩ := hc
    simp [h]
  · rw [if_neg hc]
    rw [if_neg (by tauto)]

theorem slots_length_updSlot (s : State) (b k c : Nat) (g : Slot → Slot) :
    (blkD (updSlot s b k g) c).slots.length = (blkD s c).slots.length := by
  simp only [updSlot, blkD_updBlk]
  split
  · rename_i hc
    simp [hc.1]
  · rfl

theorem fibD_updSlot (s : State) (b k c j f : Nat) (g : Slot → Slot) (h : (g (slotD s b k)).fibs = (slotD s b k).fibs) :
    fibD (updSlot s b k g) c j f = fibD s c j f := by
  simp only [fibD, slotD_updSlot]
  split
  · rename_i hc
    rw [h, hc.1, hc.2.1]
  · rfl

theorem fibD_updFib (s : State) (b k f c j e : Nat) (g : Fibre → Fibre) :
    fibD (updFib s b k f g) c j e =
      if c = b ∧ j = k ∧ e = f ∧ (mget s.blocks b).isSome ∧ k < (blkD s b).slots.length ∧ f < (slotD s b k).fibs.length
      then g (fibD s b k f) else fibD s c j e := by
  simp only [fibD, updFib, slotD_updSlot]
  by_cases hc : c = b ∧ j = k ∧ (mget s.blocks b).isSome ∧ k < (blkD s b).slots.length
  · rw [if_pos hc]
    obtain ⟨rfl, rfl, h1, h2⟩ := hc
    rw [getD_modify]
    simp only [h1, h2, true_and]
  · rw [if_neg hc, if_neg (by tauto)]

/-- The register of a slot. -/
def regAt (s : State) (b k a : Nat) : Option Reg := mget (slotD s b k).regs a

theorem regWord_eq (s : State) (b k a l : Nat) :
    regWord s b k a l = match regAt s b k a with
      | none => 0
      | some r => r.vals.getD l 0 := rfl

theorem regAt_updSlot (s : State) (b k c j a : Nat) (g : Slot → Slot) (h : (g (slotD s b k)).regs = (slotD s b k).regs) :
    regAt (updSlot s b k g) c j a = regAt s c j a := by
  simp only [regAt, slotD_updSlot]
  split
  · rename_i hc
    rw [h, hc.1, hc.2.1]
  · rfl

theorem regAt_updFib (s : State) (b k f c j a : Nat) (g : Fibre → Fibre) :
    regAt (updFib s b k f g) c j a = regAt s c j a := regAt_updSlot s b k c j a _ rfl

end Sys2Proof.Machine
end

