-- ==== Sys2Proof/Laws/Issue.lean ====
section
/-!
SUPPORT. What the frame of an issue may touch: one lemma per shared operation, then the issue of an instruction that goes on.
-/

namespace Sys2Proof.Safety

open Sys2Proof.Machine

/-! ### `Within` composes -/

theorem forall₂_trans {α : Type} {R : α → α → Prop} (h : ∀ a b c, R a b → R b c → R a c) {l m n : List α} (k : List.Forall₂ R l m)
    (j : List.Forall₂ R m n) : List.Forall₂ R l n := by
  induction k generalizing n with
  | nil => exact j
  | cons a _ ih => cases j with | cons b c => exact .cons (h _ _ _ a b) (ih c)

theorem Seen.refl (i : Issue) (x : Shard) : Seen i x x := ⟨rfl, fun _ h => h, fun _ h => .inl h⟩

theorem Seen.trans {i : Issue} {x y z : Shard} (h : Seen i x y) (k : Seen i y z) : Seen i x z where
  left := by rw [k.1, h.1]
  right := ⟨fun a ha => k.2.1 a (h.2.1 a ha), fun a ha => (k.2.2 a ha).elim (h.2.2 a) .inr⟩

theorem Views.of_map (i : Issue) (s : State) (g : Pend → Shard → Shard) (hg : ∀ p x, Seen i x (g p x)) :
    List.Forall₂ (fun (p q : Pend) => q = { p with pieces := q.pieces } ∧ List.Forall₂ (Seen i) p.pieces q.pieces) s.stores
      (s.stores.map (fun p => { p with pieces := p.pieces.map (g p) })) := by
  rw [List.forall₂_map_right_iff, List.forall₂_same]
  refine fun p _ => ⟨rfl, ?_⟩
  rw [List.forall₂_map_right_iff, List.forall₂_same]
  exact fun x _ => hg p x

theorem Views.refl (i : Issue) (s : State) : Views i s s :=
  List.forall₂_same.2 (fun _ _ => ⟨rfl, List.forall₂_same.2 (fun x _ => Seen.refl i x)⟩)

theorem Views.same {i : Issue} {s t : State} (h : t.stores = s.stores) : Views i s t := by
  rw [Views, h]
  exact Views.refl i s

theorem Views.trans {i : Issue} {s t u : State} (h : Views i s t) (k : Views i t u) : Views i s u :=
  forall₂_trans (fun _ _ _ a b => ⟨by rw [b.1, a.1], forall₂_trans (fun _ _ _ c d => c.trans d) a.2 b.2⟩) h k

theorem Within.refl (i : Issue) (s : State) : Within i s s := by
  constructor
  case views => exact Views.refl i s
  all_goals intros; rfl

theorem Within.trans {i : Issue} {s t u : State} (h : Within i s t) (k : Within i t u) : Within i s u where
  world := by
    have h1 := h.world
    have h2 := k.world
    rw [h2, h1]
  views := h.views.trans k.views
  present b := (k.present b).trans (h.present b)
  block b := by rw [k.block b, h.block b]
  count b := (k.count b).trans (h.count b)
  others b j hb := by rw [k.others b j hb, h.others b j hb]
  slot := by
    have h1 := h.slot
    have h2 := k.slot
    simp only at h1 h2 ⊢
    rw [h2, h1]
  places := k.places.trans h.places
  fibres f hf := (k.fibres f hf).trans (h.fibres f hf)

/-- The counter and the issuing group are the model's own. -/
theorem Within.own (i : Issue) (s : State) (n : Nat) (c : Option Issue) : Within i s { s with choice := n, cur := c } := by
  constructor
  case views => exact Views.refl i s
  all_goals intros; rfl

/-- R131: some lanes of the issuing fibre have met. -/
theorem Within.join (i : Issue) (s : State) (ls : List Nat) (h : ∀ l ∈ ls, l < 32) :
    Within i s (joinAll s (ls.map (laneAgent i.blk i.slot i.fib))) := by
  have hs : ∀ (as : List Nat), (∀ a ∈ as, ∃ l, l < 32 ∧ a = laneAgent i.blk i.slot i.fib l) → ∀ x : Shard,
      Seen i x (as.foldl (fun y a => y.see a) x) := by
    intro as
    induction as with
    | nil => exact fun _ x => Seen.refl i x
    | cons a r ih =>
      intro ha x
      refine Seen.trans ?_ (ih (fun b hb => ha b (List.mem_cons_of_mem _ hb)) _)
      simp only [Shard.see]
      split
      · exact Seen.refl i x
      · refine ⟨rfl, fun b hb => List.mem_append_left _ hb, fun b hb => ?_⟩
        rcases List.mem_append.1 hb with hb | hb
        · exact .inl hb
        · exact .inr (by rw [List.mem_singleton.1 hb]; exact ha a (List.mem_cons_self ..))
  have hk : ∀ a ∈ ls.map (laneAgent i.blk i.slot i.fib), ∃ l, l < 32 ∧ a = laneAgent i.blk i.slot i.fib l := by
    intro a ha
    obtain ⟨l, hl, rfl⟩ := List.mem_map.1 ha
    exact ⟨l, h l hl, rfl⟩
  simp only [joinAll, mapParts]
  split
  · exact Within.refl i s
  · constructor
    case views =>
      refine Views.of_map i s _ (fun p x => ?_)
      split
      · exact hs _ hk x
      · exact Seen.refl i x
    all_goals intros; rfl

/-- A change of the issuing slot that keeps its other fibres. -/
theorem Within.slotUpd (i : Issue) (s : State) (g : Slot → Slot)
    (hg : let x := slotD s i.blk i.slot
      g x = { x with regs := (g x).regs, chunks := (g x).chunks, issues := (g x).issues, issuedAt := (g x).issuedAt, cur := (g x).cur,
                     spbank := (g x).spbank, spl2 := (g x).spl2, last := (g x).last, acted := (g x).acted, switches := (g x).switches,
                     fibs := (g x).fibs })
    (hl : (g (slotD s i.blk i.slot)).fibs.length = (slotD s i.blk i.slot).fibs.length)
    (hf : ∀ f, f ≠ i.fib → (g (slotD s i.blk i.slot)).fibs.getD f {} = (slotD s i.blk i.slot).fibs.getD f {}) :
    Within i s (updSlot s i.blk i.slot g) where
  world := rfl
  views := Views.same rfl
  present b := mget_updSlot s i.blk i.slot b g
  block b := blkD_updSlot s i.blk i.slot b g
  count b := slots_length_updSlot s i.blk i.slot b g
  others b k hb := by
    rw [slotD_updSlot, if_neg (by tauto)]
  slot := by
    simp only
    rw [slotD_updSlot]
    split
    · exact hg
    · rfl
  places := by
    rw [slotD_updSlot]
    split
    · exact hl
    · rfl
  fibres f hf' := by
    simp only [fibD]
    rw [slotD_updSlot]
    split
    · exact hf f hf'
    · rfl

/-- A change of the issuing fibre. -/
theorem Within.fibreUpd (i : Issue) (s : State) (g : Fibre → Fibre) : Within i s (updIs s i g) := by
  refine Within.slotUpd i s _ rfl (by simp) (fun f hf => ?_)
  simp only [getD_modify]
  rw [if_neg (by tauto)]

/-- A change of the residence of chunks of some slot. -/
theorem Within.chunks (i : Issue) (s : State) (b k : Nat) (g : Slot → Slot)
    (hg : let x := slotD s b k
      g x = { x with chunks := (g x).chunks, spbank := (g x).spbank, spl2 := (g x).spl2 }) :
    Within i s (updSlot s b k g) where
  world := rfl
  views := Views.same rfl
  present c := mget_updSlot s b k c g
  block c := blkD_updSlot s b k c g
  count c := slots_length_updSlot s b k c g
  others c j hb := by
    rw [slotD_updSlot]
    split
    · rename_i hc
      rw [hc.1, hc.2.1]
      exact hg
    · rfl
  slot := by
    simp only
    rw [slotD_updSlot]
    split
    · rename_i hc
      rw [hc.1, hc.2.1]
      simp only at hg
      rw [hg]
    · rfl
  places := by
    rw [slotD_updSlot]
    split
    · rename_i hc
      simp only at hg
      rw [hc.1, hc.2.1, hg]
    · rfl
  fibres f hf := by
    apply fibD_updSlot
    simp only at hg
    rw [hg]

/-! ### Registers and chunks -/

theorem regAt_chunks (s : State) (b k c j a : Nat) (g : Slot → Slot)
    (hg : let x := slotD s b k
      g x = { x with chunks := (g x).chunks, spbank := (g x).spbank, spl2 := (g x).spl2 }) :
    reg (updSlot s b k g) c j a = reg s c j a := by
  apply regAt_updSlot
  simp only at hg
  rw [hg]

/-- What R59 and R61 may do to the chunks of a core: nothing else changes. -/
structure Residence (i : Issue) (s t : State) : Prop where
  within : Within i s t
  regs : ∀ b k a, reg t b k a = reg s b k a
  fibs : ∀ b k f, fibD t b k f = fibD s b k f
  cur : t.cur = s.cur
  choice : t.choice = s.choice
  windows : t.windows = s.windows
  stores : t.stores = s.stores

theorem Residence.refl (i : Issue) (s : State) : Residence i s s :=
  ⟨Within.refl i s, fun _ _ _ => rfl, fun _ _ _ => rfl, rfl, rfl, rfl, rfl⟩

theorem Residence.trans {i : Issue} {s t u : State} (h : Residence i s t) (k : Residence i t u) : Residence i s u :=
  ⟨h.within.trans k.within, fun b j a => (k.regs b j a).trans (h.regs b j a), fun b j f => (k.fibs b j f).trans (h.fibs b j f),
    k.cur.trans h.cur, k.choice.trans h.choice, k.windows.trans h.windows, k.stores.trans h.stores⟩

theorem Residence.slotUpd (i : Issue) (s : State) (b k : Nat) (g : Slot → Slot)
    (hg : let x := slotD s b k
      g x = { x with chunks := (g x).chunks, spbank := (g x).spbank, spl2 := (g x).spl2 }) :
    Residence i s (updSlot s b k g) where
  within := Within.chunks i s b k g hg
  regs c j a := regAt_chunks s b k c j a g hg
  fibs c j f := by
    apply fibD_updSlot
    simp only at hg
    rw [hg]
  cur := rfl
  choice := rfl
  windows := rfl
  stores := rfl

theorem takeVictim_residence (i : Issue) (s : State) (b k : Nat) : Residence i s (takeVictim s b k) := by
  simp only [takeVictim]
  split
  · exact Residence.refl i s
  · split <;> exact Residence.slotUpd i s _ _ _ rfl

theorem allocChunk_residence (i : Issue) (s : State) (b k c : Nat) : Residence i s (allocChunk s b k c) := by
  simp only [allocChunk]
  split
  · exact Residence.refl i s
  · refine Residence.trans ?_ (Residence.slotUpd i _ b k _ rfl)
    split
    · exact takeVictim_residence i s _ _
    · exact Residence.refl i s

/-- R436: what `landFlights` changes. -/
theorem landFlights_eq (s : State) (p : Flight → Bool) :
    landFlights s p = { s with stores := (landFlights s p).stores, flights := (landFlights s p).flights } := by
  simp only [landFlights, mapParts]
  split
  · rfl
  · split <;> rfl

/-- The accesses in flight whose results an issue reads have been performed (R34), and nothing else has changed. -/
def landedBy (r : Raw) (e : Env) (s : State) : State :=
  { s with stores := (touchRegs r e s).stores, flights := (touchRegs r e s).flights }

theorem touchRegs_residence (r : Raw) (e : Env) (s : State) : Residence e.i (landedBy r e s) (touchRegs r e s) := by
  have h := landFlights_eq (updSlot s e.i.blk e.i.slot (fun x => useChunks x (touched r e.wb))) (fun x =>
    x.blk == e.i.blk && x.slot == e.i.slot && (sourceRegs r e.wb).any (fun a => decide (x.reg ≤ a) && decide (a < x.reg + (x.w + 3) / 4)))
  have k := Residence.slotUpd e.i (landedBy r e s) e.i.blk e.i.slot (fun x => useChunks x (touched r e.wb)) rfl
  rw [show touchRegs r e s = updSlot (landedBy r e s) e.i.blk e.i.slot (fun x => useChunks x (touched r e.wb)) from h]
  exact k

/-! ### Effects on registers alone -/

/-- A step that changes registers of the issuing slot, named by `w`, and nothing else but residence. -/
structure RegStep (i : Issue) (w : Nat → Option Reg → Option Reg) (s t : State) : Prop where
  within : Within i s t
  regs : ∀ a, reg t i.blk i.slot a = w a (reg s i.blk i.slot a)
  fibs : ∀ b k f, fibD t b k f = fibD s b k f
  cur : t.cur = s.cur
  choice : t.choice = s.choice
  windows : t.windows = s.windows
  stores : t.stores = s.stores

theorem RegStep.slotUpd (i : Issue) (s : State) (g : Slot → Slot) (w : Nat → Option Reg → Option Reg)
    (h1 : (mget s.blocks i.blk).isSome) (h2 : i.slot < (blkD s i.blk).slots.length)
    (hg : let x := slotD s i.blk i.slot
      g x = { x with regs := (g x).regs, chunks := (g x).chunks })
    (hw : ∀ a, mget (g (slotD s i.blk i.slot)).regs a = w a (mget (slotD s i.blk i.slot).regs a)) :
    RegStep i w s (updSlot s i.blk i.slot g) where
  within := by
    refine Within.slotUpd i s g ?_ ?_ ?_
    · simp only at hg ⊢
      rw [hg]
    · simp only at hg
      rw [hg]
    · intro f _
      simp only at hg
      rw [hg]
  regs a := by
    simp only [reg, slotD_updSlot, h1, h2, and_self, if_true]
    exact hw a
  fibs b k f := by
    apply fibD_updSlot
    simp only at hg
    rw [hg]
  cur := rfl
  choice := rfl
  windows := rfl
  stores := rfl

theorem RegStep.after {i : Issue} {w : Nat → Option Reg → Option Reg} {s t u : State} (h : Residence i s t)
    (k : RegStep i w t u) : RegStep i w s u where
  within := h.within.trans k.within
  regs a := by rw [k.regs, h.regs]
  fibs b j f := (k.fibs b j f).trans (h.fibs b j f)
  cur := k.cur.trans h.cur
  choice := k.choice.trans h.choice
  windows := k.windows.trans h.windows
  stores := k.stores.trans h.stores

theorem RegStep.trans {i : Issue} {w v : Nat → Option Reg → Option Reg} {s t u : State} (h : RegStep i w s t)
    (k : RegStep i v t u) : RegStep i (fun a o => v a (w a o)) s u where
  within := h.within.trans k.within
  regs a := by rw [k.regs, h.regs]
  fibs b j f := (k.fibs b j f).trans (h.fibs b j f)
  cur := k.cur.trans h.cur
  choice := k.choice.trans h.choice
  windows := k.windows.trans h.windows
  stores := k.stores.trans h.stores

theorem RegStep.none (i : Issue) (s : State) : RegStep i (fun _ o => o) s s :=
  ⟨Within.refl i s, fun _ => rfl, fun _ _ _ => rfl, rfl, rfl, rfl, rfl⟩

/-- What a death does to a register (R55, R57). -/
def killed (as : List Nat) (a : Nat) (o : Option Reg) : Option Reg := if as.contains a then none else o

theorem killArch_step (i : Issue) (s : State) (as : List Nat) (h1 : (mget s.blocks i.blk).isSome)
    (h2 : i.slot < (blkD s i.blk).slots.length) : RegStep i (killed as) s (killArch s i.blk i.slot as) := by
  simp only [killArch]
  split
  · rename_i h
    have h0 : as = [] := List.isEmpty_iff.1 h
    subst h0
    refine ⟨Within.refl i s, fun a => by simp [killed], fun _ _ _ => rfl, rfl, rfl, rfl, rfl⟩
  · refine RegStep.slotUpd i s _ (killed as) h1 h2 rfl (fun a => ?_)
    simp only [freeChunks, killed]
    rw [mget_filter_key (slotD s i.blk i.slot).regs (fun a => !as.contains a) a]
    cases h : as.contains a <;> simp

/-- What a write does to a register (R34, R55). -/
def written (b : Nat) (ls : List Nat) (v : Reg) (a : Nat) (o : Option Reg) : Option Reg :=
  if ls.isEmpty ∨ a ≠ b then o else some v

/-- R34, R55, R63: a write of a register: its new value, and every other register as it was. -/
theorem writeArch_step (i : Issue) (s : State) (a : Nat) (lat : Option Nat) (ls : List Nat) (g : Nat → Word)
    (h1 : (mget s.blocks i.blk).isSome) (h2 : i.slot < (blkD s i.blk).slots.length) :
    ∃ n due, RegStep i (fun c o => if ls.isEmpty ∨ c ≠ a then o else some (Reg.write o i.fib n due ls g)) s
      (writeArch s i.blk i.slot i.fib a lat ls g) := by
  simp only [writeArch]
  split
  · rename_i h
    exact ⟨0, none, ⟨Within.refl i s, fun c => by simp [h], fun _ _ _ => rfl, rfl, rfl, rfl, rfl⟩⟩
  · rename_i h
    have hr := allocChunk_residence i s i.blk i.slot (a / 8)
    refine ⟨s.clk, lat.map (fun m => s.clk + m), RegStep.after hr (RegStep.slotUpd i _ _ _ (by rw [hr.within.present]; exact h1)
      (by rw [hr.within.count]; exact h2) rfl (fun c => ?_))⟩
    simp only [mget_mset]
    by_cases hc : c = a
    · subst hc
      simp [h]
    · simp [hc]

end Sys2Proof.Safety
end

