-- ==== Sys2Proof/Laws/Finish.lean ====
section
/-!
SUPPORT. The end of an issue (`finish`): counts, program counters, releases, the switch point and an asked stop touch only the
issuing fibre, its slot's counts and its open window.
-/

namespace Sys2Proof.Safety

open Sys2Proof.Machine

/-! ### Lanes -/

theorem laneD_updLanes (x : Fibre) (ls : List Nat) (g : Nat → Lane → Lane) (l : Nat) :
    laneD (updLanes x ls g) l = if l ∈ ls ∧ l < x.lanes.length then g l (laneD x l) else laneD x l := by
  simp only [laneD, updLanes, List.getD_eq_getElem?_getD, List.getElem?_mapIdx]
  by_cases hl : l < x.lanes.length
  · rw [List.getElem?_eq_getElem hl]
    by_cases hm : l ∈ ls <;> simp [hm, hl]
  · rw [List.getElem?_eq_none (Nat.le_of_not_lt hl)]
    simp [hl]

theorem laneD_map (x : Fibre) (g : Lane → Lane) (l : Nat) (h : l < x.lanes.length) :
    laneD { x with lanes := x.lanes.map g } l = g (laneD x l) := by
  simp only [laneD, List.getD_eq_getElem?_getD, List.getElem?_map]
  rw [List.getElem?_eq_getElem h]
  rfl

theorem updLanes_length (x : Fibre) (ls : List Nat) (g : Nat → Lane → Lane) : (updLanes x ls g).lanes.length = x.lanes.length := by
  simp [updLanes]

/-- A lane that stands at an address: issuable, or held there by its meeting address. -/
def stands (p : DWord) (y : Lane) : Prop := (y.st = .issuable ∨ ∃ n, y.st = .held .meeting n) ∧ y.pc = p

theorem stands_goto (y : Lane) (p : DWord) (rep : Nat) : stands p (y.goto p rep) := by
  simp only [Lane.goto]
  split
  · exact ⟨.inr ⟨_, rfl⟩, rfl⟩
  · exact ⟨.inl rfl, rfl⟩

theorem stands_releaseOnce {x : Fibre} {p : DWord} {l : Nat} (hl : l < x.lanes.length) (h : stands p (laneD x l)) :
    stands p (laneD (releaseOnce x) l) := by
  simp only [releaseOnce]
  rw [laneD_map x _ l hl]
  obtain ⟨hs | ⟨n, hs⟩, hp⟩ := h
  · simp only [hs]
    exact ⟨.inl hs, hp⟩
  · simp only [hs]
    split
    · exact ⟨.inl rfl, hp⟩
    · exact ⟨.inr ⟨n, hs⟩, hp⟩

theorem releaseOnce_length (x : Fibre) : (releaseOnce x).lanes.length = x.lanes.length := by simp [releaseOnce]

theorem stands_releases {x : Fibre} {p : DWord} {l : Nat} (hl : l < x.lanes.length) (h : stands p (laneD x l)) :
    stands p (laneD (releases x) l) := by
  simp only [releases]
  exact stands_releaseOnce (by simpa [releaseOnce_length]) (stands_releaseOnce (by simpa [releaseOnce_length])
    (stands_releaseOnce hl h))

/-! ### Releases of a lane -/

theorem Settles.refl (y : Lane) : Settles y y := ⟨rfl, rfl, .inl ⟨rfl, rfl, rfl⟩⟩

theorem Settles.trans {x y z : Lane} (h : Settles x y) (k : Settles y z) : Settles x z := by
  obtain ⟨h1, h2, h3⟩ := h
  obtain ⟨k1, k2, k3⟩ := k
  refine ⟨k1.trans h1, k2.trans h2, ?_⟩
  rcases h3 with ⟨a, b, c⟩ | ⟨m, n, a, b, c, d⟩ | ⟨n, a, b, c, d⟩
  · rcases k3 with ⟨e, f, g⟩ | ⟨m, n, e, f⟩ | ⟨n, e, f, g, q⟩
    · exact .inl ⟨e.trans a, f.trans b, g.trans c⟩
    · exact .inr (.inl ⟨m, n, a ▸ e, f⟩)
    · exact .inr (.inr ⟨n, a ▸ e, f, g.trans b, q.trans c⟩)
  · refine .inr (.inl ⟨m, n, a, ?_⟩)
    rcases k3 with ⟨e, f, g⟩ | ⟨m', n', e, f⟩ | ⟨n', e, f, g, q⟩
    · exact ⟨f.trans b, g.trans c, by rw [e]; exact d⟩
    · rcases d with d | d <;> rw [d] at e <;> simp at e
    · exact ⟨g.trans b, q.trans c, .inl f⟩
  · refine .inr (.inr ⟨n, a, ?_⟩)
    rcases k3 with ⟨e, f, g⟩ | ⟨m', n', e, f⟩ | ⟨n', e, f, g, q⟩
    · exact ⟨e.trans b, f.trans c, g.trans d⟩
    · rw [b] at e; simp at e
    · rw [b] at e; simp at e

theorem goto_keeps (y : Lane) (p : DWord) (rep : Nat) : (y.goto p rep).depth = y.depth ∧ (y.goto p rep).meet = y.meet ∧
    (y.goto p rep).pc = p ∧ (y.goto p rep).rep = rep ∧ ((y.goto p rep).st = .issuable ∨ (y.goto p rep).st = .held .meeting p) := by
  simp only [Lane.goto]
  split
  · exact ⟨rfl, rfl, rfl, rfl, .inr rfl⟩
  · exact ⟨rfl, rfl, rfl, rfl, .inl rfl⟩

theorem settles_releaseOnce {x : Fibre} {l : Nat} (hl : l < x.lanes.length) : Settles (laneD x l) (laneD (releaseOnce x) l) := by
  simp only [releaseOnce]
  rw [laneD_map x _ l hl]
  split
  · rename_i m n h
    split
    · obtain ⟨h1, h2, h3, h4, h5⟩ := goto_keeps (laneD x l) n 0
      exact ⟨h1, h2, .inr (.inl ⟨m, n, h, h3, h4, h5⟩)⟩
    · exact Settles.refl _
  · rename_i n h
    split
    · exact ⟨rfl, rfl, .inr (.inr ⟨n, h, rfl, rfl, rfl⟩)⟩
    · exact Settles.refl _
  · exact Settles.refl _

theorem settles_releases {x : Fibre} {l : Nat} (hl : l < x.lanes.length) : Settles (laneD x l) (laneD (releases x) l) :=
  (settles_releaseOnce hl).trans ((settles_releaseOnce (by simpa [releaseOnce_length])).trans
    (settles_releaseOnce (by simpa [releaseOnce_length])))

/-! ### Fibres -/

/-- A change of a fibre that the end of an issue may make. -/
structure Ends (x y : Fibre) : Prop where
  after : FibreAfter x y
  length : y.lanes.length = x.lanes.length

theorem Ends.refl (x : Fibre) : Ends x x := ⟨rfl, rfl⟩

theorem Ends.trans {x y z : Fibre} (h : Ends x y) (k : Ends y z) : Ends x z where
  after := by
    have h1 := h.after
    have h2 := k.after
    simp only [FibreAfter] at h1 h2 ⊢
    rw [h2, h1]
  length := k.length.trans h.length

theorem releases_ends (x : Fibre) : Ends x (releases x) :=
  ⟨rfl, by simp [releases, releaseOnce_length]⟩

theorem endIfEmpty_ends (x : Fibre) : Ends x (endIfEmpty x) := by
  simp only [endIfEmpty]
  split
  · exact ⟨rfl, rfl⟩
  · exact Ends.refl x

theorem updLanes_ends (x : Fibre) (ls : List Nat) (g : Nat → Lane → Lane) : Ends x (updLanes x ls g) :=
  ⟨rfl, updLanes_length x ls g⟩

theorem waitResults_ends (x : Fibre) (b : Bool) : Ends x (waitResults x b) := by
  simp only [waitResults]
  split
  · exact ⟨rfl, rfl⟩
  · exact Ends.refl x

theorem stopFib_ends (x : Fibre) : Ends x (stopFib x) := ⟨rfl, by simp [stopFib]⟩

/-! ### States -/

/-- What the end of an issue may do: the issuing fibre moves on; registers stay; the fibre keeps its program counters but for a
lane that goes on. -/
structure Moves (i : Issue) (s t : State) : Prop where
  within : Within i s t
  regs : ∀ b k a, reg t b k a = reg s b k a
  fibre : Ends (fibIs s i) (fibIs t i)

theorem Moves.refl (i : Issue) (s : State) : Moves i s s := ⟨Within.refl i s, fun _ _ _ => rfl, Ends.refl _⟩

theorem Moves.trans {i : Issue} {s t u : State} (h : Moves i s t) (k : Moves i t u) : Moves i s u :=
  ⟨h.within.trans k.within, fun b j a => (k.regs b j a).trans (h.regs b j a), h.fibre.trans k.fibre⟩

/-- The issuing fibre exists. -/
def exists' (i : Issue) (s : State) : Prop :=
  (mget s.blocks i.blk).isSome ∧ i.slot < (blkD s i.blk).slots.length ∧ i.fib < (slotD s i.blk i.slot).fibs.length

theorem Within.keeps {i : Issue} {s t : State} (h : Within i s t) (he : exists' i s) : exists' i t :=
  ⟨by rw [h.present]; exact he.1, by rw [h.count]; exact he.2.1, by rw [h.places]; exact he.2.2⟩

theorem fibIs_updIs {i : Issue} {s : State} (he : exists' i s) (g : Fibre → Fibre) : fibIs (updIs s i g) i = g (fibIs s i) := by
  obtain ⟨h1, h2, h3⟩ := he
  simp only [fibIs, updIs, fibD_updFib]
  simp [h1, h2, h3]

theorem updIs_moves {i : Issue} {s : State} (g : Fibre → Fibre) (hg : Ends (fibIs s i) (g (fibIs s i))) :
    Moves i s (updIs s i g) := by
  refine ⟨Within.fibreUpd i s g, fun b k a => regAt_updFib s _ _ _ b k a g, ?_⟩
  simp only [fibIs, updIs, fibD_updFib]
  split
  · exact hg
  · exact Ends.refl _

theorem updSlot_moves {i : Issue} {s : State} (g : Slot → Slot)
    (hg : let x := slotD s i.blk i.slot
      g x = { x with issues := (g x).issues, issuedAt := (g x).issuedAt, cur := (g x).cur, last := (g x).last,
                     acted := (g x).acted, switches := (g x).switches }) :
    Moves i s (updSlot s i.blk i.slot g) := by
  have hr : (g (slotD s i.blk i.slot)).regs = (slotD s i.blk i.slot).regs := by
    simp only at hg
    rw [hg]
  have hf : (g (slotD s i.blk i.slot)).fibs = (slotD s i.blk i.slot).fibs := by
    simp only at hg
    rw [hg]
  refine ⟨Within.slotUpd i s g ?_ (by rw [hf]) (by simp [hf]), fun b k a => regAt_updSlot s _ _ b k a g hr, ?_⟩
  · simp only at hg ⊢
    rw [hg]
  · simp only [fibIs]
    rw [fibD_updSlot s _ _ _ _ _ g hf]
    exact Ends.refl _

theorem windows_moves (i : Issue) (s : State) (w : Map Window) : Moves i s { s with windows := w } := by
  refine ⟨?_, fun _ _ _ => rfl, Ends.refl _⟩
  constructor
  case views => exact Views.refl i s
  all_goals intros; rfl

theorem own_moves (i : Issue) (s : State) (n : Nat) (c : Option Issue) : Moves i s { s with choice := n, cur := c } :=
  ⟨Within.own i s n c, fun _ _ _ => rfl, Ends.refl _⟩

/-- What follows the counts of an issue keeps the program counters and the instruction count. -/
structure Tail (i : Issue) (s t : State) : Prop extends Moves i s t where
  pcs : ∀ l, (laneD (fibIs t i) l).pc = (laneD (fibIs s i) l).pc
  icount : (fibIs t i).icount = (fibIs s i).icount
  lanes : (fibIs s i).stopReq = false → (fibIs t i).lanes = (fibIs s i).lanes ∧ (fibIs t i).stopReq = false

theorem Tail.refl (i : Issue) (s : State) : Tail i s s := ⟨Moves.refl i s, fun _ => rfl, rfl, fun h => ⟨rfl, h⟩⟩

theorem Tail.trans {i : Issue} {s t u : State} (h : Tail i s t) (k : Tail i t u) : Tail i s u :=
  ⟨h.toMoves.trans k.toMoves, fun l => (k.pcs l).trans (h.pcs l), k.icount.trans h.icount,
    fun q => ⟨(k.lanes (h.lanes q).2).1.trans (h.lanes q).1, (k.lanes (h.lanes q).2).2⟩⟩

theorem updIs_tail {i : Issue} {s : State} (g : Fibre → Fibre) (hg : ∀ x, Ends x (g x))
    (hp : ∀ x l, (laneD (g x) l).pc = (laneD x l).pc) (hc : ∀ x, (g x).icount = x.icount)
    (hl : (fibIs s i).stopReq = false → (g (fibIs s i)).lanes = (fibIs s i).lanes ∧ (g (fibIs s i)).stopReq = false) :
    Tail i s (updIs s i g) := by
  refine ⟨updIs_moves g (hg _), fun l => ?_, ?_, fun h => ?_⟩ <;> simp only [fibIs, updIs, fibD_updFib] <;> split
  · exact hp _ l
  · rfl
  · exact hc _
  · rfl
  · exact hl h
  · exact ⟨rfl, h⟩

theorem updSlot_tail {i : Issue} {s : State} (g : Slot → Slot)
    (hg : let x := slotD s i.blk i.slot
      g x = { x with issues := (g x).issues, issuedAt := (g x).issuedAt, cur := (g x).cur, last := (g x).last,
                     acted := (g x).acted, switches := (g x).switches }) :
    Tail i s (updSlot s i.blk i.slot g) := by
  have hf : (g (slotD s i.blk i.slot)).fibs = (slotD s i.blk i.slot).fibs := by
    simp only at hg
    rw [hg]
  refine ⟨updSlot_moves g hg, fun l => ?_, ?_, fun h => ?_⟩ <;> simp only [fibIs] <;> rw [fibD_updSlot s _ _ _ _ _ g hf]
  exact ⟨rfl, h⟩

theorem closeWindow_tail (i : Issue) (s : State) : Tail i s (closeWindow s i.blk i.slot i.fib) := by
  simp only [closeWindow]
  split
  · exact Tail.refl i s
  · rename_i w _
    exact Tail.trans (t := { s with windows := mupd s.windows w (fun x => { x with shut := true }) })
      ⟨windows_moves i s _, fun _ => rfl, rfl, fun h => ⟨rfl, h⟩⟩
      (updIs_tail (fun x => { x with window := none, winIdle := 0 }) (fun _ => ⟨rfl, rfl⟩) (fun _ _ => rfl) (fun _ => rfl)
        (fun h => ⟨rfl, h⟩))

theorem waitResults_pc (x : Fibre) (b : Bool) (l : Nat) : (laneD (waitResults x b) l).pc = (laneD x l).pc := by
  simp only [waitResults]
  split <;> rfl

theorem waitResults_icount (x : Fibre) (b : Bool) : (waitResults x b).icount = x.icount := by
  simp only [waitResults]
  split <;> rfl

theorem passOn_tail (i : Issue) (s : State) : Tail i s (passOn s i.blk i.slot i.fib) := by
  simp only [passOn]
  exact Tail.trans (updIs_tail (fun x => waitResults x (inFlight (slotD s i.blk i.slot) s.clk i.fib)) (fun _ => waitResults_ends _ _)
    (fun _ _ => waitResults_pc _ _ _) (fun _ => waitResults_icount _ _) (fun h => by
      simp only [waitResults]
      split
      · exact ⟨rfl, h⟩
      · exact ⟨rfl, h⟩))
    (updSlot_tail (fun x => { x with cur := (i.fib + 1) % 4 }) rfl)

theorem switchPoint_tail (i : Issue) (s : State) : Tail i s (switchPoint s i) := by
  simp only [switchPoint]
  exact Tail.trans (closeWindow_tail i s)
    (Tail.trans (updSlot_tail (fun x => { x with switches := x.switches + 1 }) rfl) (passOn_tail i _))

theorem stopFib_pc (x : Fibre) (l : Nat) : (laneD (stopFib x) l).pc = (laneD x l).pc := by
  by_cases hl : l < x.lanes.length
  · have : laneD (stopFib x) l = (fun y : Lane => if y.live then { y with st := .exited, meet := 0 } else y) (laneD x l) :=
      laneD_map x _ l hl
    rw [this]
    simp only
    split <;> rfl
  · simp only [laneD, stopFib, List.getD_eq_getElem?_getD]
    rw [List.getElem?_eq_none (by simpa using hl), List.getElem?_eq_none (by simpa using hl)]

theorem obeyStop_tail (i : Issue) (s : State) : Tail i s (obeyStop s i.blk i.slot i.fib) := by
  simp only [obeyStop]
  split
  · rename_i hq
    have hc := closeWindow_tail i s
    have hs : (fibIs (closeWindow s i.blk i.slot i.fib) i).stopReq = true := by
      have := hc.toMoves.fibre.after
      simp only [closeWindow]
      split
      · exact hq.1
      · simp only [fibIs, fibD_updFib]
        split <;> exact hq.1
    exact Tail.trans hc (updIs_tail stopFib (fun _ => stopFib_ends _) (fun _ _ => stopFib_pc _ _)
      (fun _ => rfl) (fun h => absurd h (by simp [hs])))
  · exact Tail.refl i s

/-- The blocks stand as they did while some lanes of the issuing fibre come to see what each of them has seen. -/
theorem join_moves (i : Issue) (s : State) (ls : List Nat) (h : ∀ l ∈ ls, l < 32) :
    Moves i s (joinAll s (ls.map (laneAgent i.blk i.slot i.fib))) ∧
    (joinAll s (ls.map (laneAgent i.blk i.slot i.fib))).blocks = s.blocks := by
  have hb : (joinAll s (ls.map (laneAgent i.blk i.slot i.fib))).blocks = s.blocks := by
    simp only [joinAll, mapParts]
    split <;> rfl
  have hs : ∀ b k, slotD (joinAll s (ls.map (laneAgent i.blk i.slot i.fib))) b k = slotD s b k := by
    intro b k
    simp only [slotD, blkD, hb]
  exact ⟨⟨Within.join i s ls h, fun b k a => by simp only [reg, hs], by simp only [fibIs, fibD, hs]; exact Ends.refl _⟩, hb⟩

/-- The state in which the releases of a fibre are made: those of its lanes that go on have met (R131). -/
def metFib (s : State) (i : Issue) : State :=
  let ls := gathered (fibIs s i) (releases (fibIs s i))
  if ls.isEmpty then s else joinAll s (ls.map (laneAgent i.blk i.slot i.fib))

theorem metFib_moves (i : Issue) (s : State) : Moves i s (metFib s i) ∧ (metFib s i).blocks = s.blocks := by
  simp only [metFib]
  split
  · exact ⟨Moves.refl i s, rfl⟩
  · exact join_moves i s _ (fun l hl => by
      simp only [gathered, lanes32, List.mem_filter, List.mem_range] at hl
      exact hl.1)

theorem settleFib_eq (i : Issue) (s : State) : settleFib s i.blk i.slot i.fib =
    updIs (metFib s i) i (fun _ => endIfEmpty (releases (fibIs s i))) := rfl

theorem fibIs_metFib (i : Issue) (s : State) : fibIs (metFib s i) i = fibIs s i := by
  simp only [fibIs, fibD, slotD, blkD, (metFib_moves i s).2]

theorem settleFib_moves (i : Issue) (s : State) : Moves i s (settleFib s i.blk i.slot i.fib) := by
  rw [settleFib_eq]
  refine (metFib_moves i s).1.trans (updIs_moves _ ?_)
  rw [fibIs_metFib]
  exact (releases_ends _).trans (endIfEmpty_ends _)

theorem noteLanes_moves (e : Env) (s : State) : Moves e.i s (noteLanes e s) := by
  simp only [noteLanes]
  exact updSlot_moves (i := e.i) _ rfl

theorem countIssue_moves (i : Issue) (s : State) : Moves i s (countIssue s i) := by
  simp only [countIssue]
  exact Moves.trans (updSlot_moves _ rfl) (updIs_moves _ ⟨rfl, updLanes_length _ _ _⟩)

/-- R313: the scatter window that an instruction at which a fibre may wait closes. -/
def shutWindow (r : Raw) (i : Issue) (s : State) : State :=
  if mayBlock r.op.toNat r.f.toNat then closeWindow s i.blk i.slot i.fib else s

/-- The window that an instruction closes, the switch point that bit S makes, and an asked stop. -/
def closing (r : Raw) (i : Issue) (s : State) (n : Nat) : State :=
  let u := shutWindow r i s
  { obeyStop (if r.s ∧ i.repNext = 0 then switchPoint u i else u) i.blk i.slot i.fib with choice := n, cur := none }

/-- What follows an instruction that does not stay: its counts, the releases, and its close. -/
def counted (r : Raw) (i : Issue) (s : State) (n : Nat) : State :=
  closing r i (settleFib (countIssue s i) i.blk i.slot i.fib) n

theorem closing_tail (r : Raw) (i : Issue) (s : State) (n : Nat) : Tail i s (closing r i s n) := by
  simp only [closing, shutWindow]
  refine Tail.trans ?_ (Tail.trans (obeyStop_tail i _) ⟨own_moves i _ n none, fun _ => rfl, rfl, fun h => ⟨rfl, h⟩⟩)
  split <;> split
  · exact (closeWindow_tail i s).trans (switchPoint_tail i _)
  · exact switchPoint_tail i s
  · exact closeWindow_tail i s
  · exact Tail.refl i s

/-- The lanes of an issue that goes on. -/
def goNext (i : Issue) (x : Fibre) : Fibre :=
  updLanes x i.lanes (fun _ y => if y.st = .issuable then y.goto i.next i.repNext else y)

/-- The counts of an issue, the releases that follow, and its close. -/
theorem counted_moves (r : Raw) (i : Issue) (s : State) (n : Nat) : Moves i s
    (counted r i s n) :=
  Moves.trans (countIssue_moves i s) (Moves.trans (settleFib_moves i _) (closing_tail r i _ n).toMoves)

/-- Whatever follows an instruction, `finish` touches only its own fibre, slot counts and window. -/
theorem finish_moves (r : Raw) (i : Issue) (a : After) (s : State) : Moves i s (finish r i a s) := by
  cases a with
  | stay => exact own_moves i s _ _
  | jumped => exact Moves.trans (updIs_moves endRetry ⟨rfl, rfl⟩) (counted_moves r i _ _)
  | advance =>
    exact Moves.trans (updIs_moves endRetry ⟨rfl, rfl⟩) (Moves.trans (updIs_moves (goNext i) (updLanes_ends _ _ _)) (counted_moves r i _ _))
  | part =>
    exact Moves.trans (updIs_moves endRetry ⟨rfl, rfl⟩) (Moves.trans (updIs_moves (goNext i) (updLanes_ends _ _ _)) (counted_moves r i _ _))
  | split => exact Moves.trans (updIs_moves endRetry ⟨rfl, rfl⟩) (counted_moves r i _ _)

theorem finish_cur (r : Raw) (i : Issue) (a : After) (s : State) : (finish r i a s).cur = none := by
  cases a <;> rfl

/-! ### Program counters and counts -/

theorem fibIs_countIssue {i : Issue} {s : State} (he : exists' i s) : fibIs (countIssue s i) i =
    { updLanes (fibIs s i) i.lanes (fun _ z => { z with age := s.clk + 1 }) with
      icount := (fibIs s i).icount + 1, since := (fibIs s i).since + 1, gcount := (fibIs s i).gcount + 1,
      winIdle := (fibIs s i).winIdle + 1 } := by
  simp only [countIssue]
  have h : Moves i s (updSlot s i.blk i.slot (fun x => { x with issues := x.issues + 1, cur := i.fib, issuedAt := s.clk + 1 })) :=
    updSlot_moves _ rfl
  rw [fibIs_updIs (h.within.keeps he)]
  have hf : fibIs (updSlot s i.blk i.slot (fun x => { x with issues := x.issues + 1, cur := i.fib, issuedAt := s.clk + 1 })) i =
      fibIs s i :=
    fibD_updSlot s _ _ _ _ _ _ rfl
  rw [hf]

theorem endIfEmpty_icount (x : Fibre) : (endIfEmpty x).icount = x.icount := by
  simp only [endIfEmpty]
  split <;> rfl

theorem endIfEmpty_lanes (x : Fibre) : (endIfEmpty x).lanes = x.lanes := by
  simp only [endIfEmpty]
  split <;> rfl

theorem fibIs_settleFib {i : Issue} {s : State} (he : exists' i s) :
    fibIs (settleFib s i.blk i.slot i.fib) i = endIfEmpty (releases (fibIs s i)) :=
  fibIs_updIs ((metFib_moves i s).1.within.keeps he) _

/-- The counts of an issue rise by one, whatever its lanes do. -/
theorem counted_icount {r : Raw} {i : Issue} {s : State} (he : exists' i s) (n : Nat) :
    (fibIs (counted r i s n) i).icount =
      (fibIs s i).icount + 1 := by
  refine (closing_tail r i _ n).icount.trans ?_
  rw [fibIs_settleFib ((countIssue_moves i s).within.keeps he), endIfEmpty_icount]
  have : (releases (fibIs (countIssue s i) i)).icount = (fibIs (countIssue s i) i).icount := rfl
  rw [this, fibIs_countIssue he]

/-- The lanes of a fibre that has not been asked to stop, through the end of the issue. -/
theorem counted_settles {r : Raw} {i : Issue} {s : State} (he : exists' i s) (n : Nat) (hq : (fibIs s i).stopReq = false) {l : Nat}
    (hl : l < (fibIs s i).lanes.length) :
    Settles (laneD (fibIs s i) l)
      (laneD (fibIs (counted r i s n) i) l) := by
  have hs := fibIs_settleFib ((countIssue_moves i s).within.keeps he)
  have hq2 : (fibIs (settleFib (countIssue s i) i.blk i.slot i.fib) i).stopReq = false := by
    rw [hs]
    have : ∀ x : Fibre, (endIfEmpty (releases x)).stopReq = x.stopReq := by
      intro x
      simp only [endIfEmpty]
      split <;> rfl
    rw [this, fibIs_countIssue he]
    exact hq
  have hc := ((closing_tail r i (settleFib (countIssue s i) i.blk i.slot i.fib) n).lanes hq2).1
  have h1 : Settles (laneD (fibIs s i) l) (laneD (fibIs (countIssue s i) i) l) := by
    rw [fibIs_countIssue he]
    have : laneD { updLanes (fibIs s i) i.lanes (fun _ z => { z with age := s.clk + 1 }) with
        icount := (fibIs s i).icount + 1, since := (fibIs s i).since + 1, gcount := (fibIs s i).gcount + 1,
        winIdle := (fibIs s i).winIdle + 1 } l =
        laneD (updLanes (fibIs s i) i.lanes (fun _ z => { z with age := s.clk + 1 })) l := rfl
    rw [this, laneD_updLanes]
    split
    · exact ⟨rfl, rfl, .inl ⟨rfl, rfl, rfl⟩⟩
    · exact Settles.refl _
  have h2 := h1.trans (settles_releases (x := fibIs (countIssue s i) i) (l := l)
    (by rw [((countIssue_moves i s).fibre).length]; exact hl))
  have h3 : (fibIs (counted r i s n) i).lanes = (releases (fibIs (countIssue s i) i)).lanes := by
    rw [← endIfEmpty_lanes (releases _), ← hs]
    exact hc
  simp only [laneD, h3] at h2 ⊢
  exact h2

/-- A lane that stands at an address keeps it through the end of the issue. -/
theorem counted_stands {r : Raw} {i : Issue} {s : State} (he : exists' i s) (n : Nat) {l : Nat} {p : DWord}
    (hl : l < (fibIs s i).lanes.length) (hs : stands p (laneD (fibIs s i) l)) :
    (laneD (fibIs (counted r i s n) i) l).pc = p := by
  refine ((closing_tail r i _ n).pcs l).trans ?_
  rw [fibIs_settleFib ((countIssue_moves i s).within.keeps he)]
  have h1 : stands p (laneD (fibIs (countIssue s i) i) l) := by
    rw [fibIs_countIssue he]
    have : laneD { updLanes (fibIs s i) i.lanes (fun _ z => { z with age := s.clk + 1 }) with
        icount := (fibIs s i).icount + 1, since := (fibIs s i).since + 1, gcount := (fibIs s i).gcount + 1,
        winIdle := (fibIs s i).winIdle + 1 } l =
        laneD (updLanes (fibIs s i) i.lanes (fun _ z => { z with age := s.clk + 1 })) l := rfl
    rw [this, laneD_updLanes]
    split
    · exact hs
    · exact hs
  have h2 : laneD (endIfEmpty (releases (fibIs (countIssue s i) i))) l = laneD (releases (fibIs (countIssue s i) i)) l := by
    simp only [laneD, endIfEmpty_lanes]
  rw [h2]
  exact (stands_releases (by rw [((countIssue_moves i s).fibre).length]; exact hl) h1).2

theorem goNext_fibre {i : Issue} {s : State} (he : exists' i s) :
    exists' i (updIs (updIs s i endRetry) i (goNext i)) ∧
    fibIs (updIs (updIs s i endRetry) i (goNext i)) i = goNext i (endRetry (fibIs s i)) := by
  have m1 : Moves i s (updIs s i endRetry) := updIs_moves endRetry ⟨rfl, rfl⟩
  have e1 := m1.within.keeps he
  have m2 : Moves i (updIs s i endRetry) (updIs (updIs s i endRetry) i (goNext i)) := updIs_moves (goNext i) (updLanes_ends _ _ _)
  exact ⟨m2.within.keeps e1, by rw [fibIs_updIs e1, fibIs_updIs he]⟩

/-- The fibre has issued one instruction more, where it did not stay. -/
theorem finish_count {r : Raw} {i : Issue} {s : State} {a : After} (he : exists' i s) (ha : a ≠ .stay) :
    (fibIs (finish r i a s) i).icount = (fibIs s i).icount + 1 := by
  have m1 : Moves i s (updIs s i endRetry) := updIs_moves endRetry ⟨rfl, rfl⟩
  cases a with
  | stay => exact absurd rfl ha
  | jumped => exact (counted_icount (m1.within.keeps he) _).trans (by rw [fibIs_updIs he]; rfl)
  | split => exact (counted_icount (m1.within.keeps he) _).trans (by rw [fibIs_updIs he]; rfl)
  | advance => exact (counted_icount (goNext_fibre he).1 _).trans (by rw [(goNext_fibre he).2]; rfl)
  | part => exact (counted_icount (goNext_fibre he).1 _).trans (by rw [(goNext_fibre he).2]; rfl)

/-- A lane of an issue that goes on stands at the next address, where the effect left it issuable. -/
theorem finish_lane {r : Raw} {i : Issue} {s : State} (he : exists' i s) {l : Nat} (hm : l ∈ i.lanes)
    (hl : l < (fibIs s i).lanes.length) (hs : (laneD (fibIs s i) l).st = .issuable) :
    (laneD (fibIs (finish r i .advance s) i) l).pc = i.next := by
  obtain ⟨e2, hx⟩ := goNext_fibre he
  refine counted_stands e2 _ ?_ ?_
  · rw [hx]
    simp only [goNext, updLanes_length, endRetry]
    exact hl
  · rw [hx]
    simp only [goNext]
    rw [laneD_updLanes, if_pos ⟨hm, hl⟩]
    have : (laneD (endRetry (fibIs s i)) l).st = .issuable := hs
    rw [if_pos this]
    exact stands_goto _ _ _

/-- The lanes of a fibre after an issue that goes on, or that sets the program counters itself. -/
theorem finish_settles {r : Raw} {i : Issue} {s : State} (he : exists' i s) :
    LanesAfter (fibIs s i) (fibIs (finish r i .advance s) i) (goesOn i) ∧
    LanesAfter (fibIs s i) (fibIs (finish r i .jumped s) i) (fun _ y => y) := by
  refine ⟨fun hq l hl => ?_, fun hq l hl => ?_⟩
  · obtain ⟨e2, hx⟩ := goNext_fibre he
    have h : Settles (laneD (fibIs (updIs (updIs s i endRetry) i (goNext i)) i) l) _ :=
      counted_settles (r := r) e2 (s.choice + 1) (by rw [hx]; exact hq) (by rw [hx]; simp only [goNext, updLanes_length, endRetry]; exact hl)
    rw [hx] at h
    have hg : laneD (goNext i (endRetry (fibIs s i))) l = goesOn i l (laneD (fibIs s i) l) := by
      simp only [goNext]
      rw [laneD_updLanes]
      have hd : laneD (endRetry (fibIs s i)) l = laneD (fibIs s i) l := rfl
      rw [hd]
      have hl' : l < (endRetry (fibIs s i)).lanes.length := hl
      simp only [hl', and_true, goesOn]
      by_cases hm : l ∈ i.lanes <;> simp [hm]
    rw [hg] at h
    exact h
  · have m1 : Moves i s (updIs s i endRetry) := updIs_moves endRetry ⟨rfl, rfl⟩
    have h : Settles (laneD (fibIs (updIs s i endRetry) i) l) _ :=
      counted_settles (r := r) (m1.within.keeps he) (s.choice + 1) (by rw [fibIs_updIs he]; exact hq) (by rw [fibIs_updIs he]; exact hl)
    rw [fibIs_updIs he] at h
    exact h

/-- After an issue that goes on, its lanes stand at the next address and the fibre has issued one instruction more. -/
theorem finish_advance {r : Raw} {i : Issue} {s : State} (he : exists' i s)
    (hl : ∀ l ∈ i.lanes, l < (fibIs s i).lanes.length ∧ (laneD (fibIs s i) l).st = .issuable) :
    (∀ l ∈ i.lanes, (laneD (fibIs (finish r i .advance s) i) l).pc = i.next) ∧
    (fibIs (finish r i .advance s) i).icount = (fibIs s i).icount + 1 :=
  ⟨fun l hm => finish_lane he hm (hl l hm).1 (hl l hm).2, finish_count he (by decide)⟩

end Sys2Proof.Safety
end

