-- ==== Sys2Proof/Laws/Lane.lean ====
section
/-!
SUPPORT. Every lane instruction whose body goes on: the state that its issue leaves.
-/

namespace Sys2Proof.Safety

open Sys2Proof.Machine

theorem issuing_exists {i : Issue} {s : State} (h : issuing i s = true) : exists' i s := by
  simp only [issuing, Bool.and_eq_true, decide_eq_true_eq] at h
  exact ⟨h.1.1.1.1.1.1.1.2, h.1.1.1.1.1.1.2, h.1.1.1.1.1.2⟩

theorem issuing_cur {i : Issue} {s : State} (h : issuing i s = true) : s.cur = some i := by
  simp only [issuing, Bool.and_eq_true, decide_eq_true_eq] at h
  exact h.1.1.1.1.1.1.1.1

theorem issuing_wait {i : Issue} {s : State} (h : issuing i s = true) : (fibIs s i).wait = none := by
  simp only [issuing, Bool.and_eq_true, decide_eq_true_eq, Option.isNone_iff_eq_none] at h
  exact h.1.1.1.2

theorem issuing_length {i : Issue} {s : State} (h : issuing i s = true) : (fibIs s i).lanes.length = 32 := by
  simp only [issuing, Bool.and_eq_true, decide_eq_true_eq] at h
  exact h.1.2

theorem issuing_lanes {i : Issue} {s : State} (h : issuing i s = true) {l : Nat} (hl : l ∈ i.lanes) :
    l < 32 ∧ (laneD (fibIs s i) l).st = .issuable := by
  simp only [issuing, Bool.and_eq_true, decide_eq_true_eq, List.all_eq_true] at h
  exact h.2.2 l hl

theorem inWait_ready {i : Issue} {s : State} (h : issuing i s = true) : inWait s i = false := by
  simp only [inWait, issuing_wait h]

theorem issueEnv_ready {r : Raw} {i : Issue} {s : State} (h : issuing i s = true) : issueEnv r i s = ops r i s := by
  simp only [issueEnv, issuing_wait h]

theorem prep_step {r : Raw} {i : Issue} {s : State} (he : exists' i s) :
    RegStep i (killed (markedRegs r (fibIs s i).wb)) (landed r i s) (prep r i s) := by
  have hr : Residence i (landed r i s) (touchRegs r (ops r i s) s) := touchRegs_residence r (ops r i s) s
  have k := hr.within.keeps (show exists' i (landed r i s) from he)
  exact RegStep.after hr (killArch_step i _ _ k.1 k.2.1)

theorem prep_fibre {r : Raw} {i : Issue} {s : State} (he : exists' i s) : fibIs (prep r i s) i = fibIs s i :=
  (prep_step he).fibs _ _ _

theorem prep_wait {r : Raw} {i : Issue} {s : State} (h : issuing i s = true) : (fibIs (prep r i s) i).wait = none := by
  rw [prep_fibre (issuing_exists h)]
  exact issuing_wait h

/-- The accesses in flight that an issue lets land touch no register. -/
theorem reg_landed (r : Raw) (i : Issue) (s : State) (b k a : Nat) : reg (landed r i s) b k a = reg s b k a := rfl

/-- A lane instruction whose body goes on ends its issue. -/
theorem laneInsn_advance {r : Raw} {i : Issue} {s v : State} {body : Env → State → State × After} (hr : ready r i s = true)
    (hb : body (ops r i s) (prep r i s) = (v, .advance)) :
    laneInsn r s body = .next (finish r i .advance (noteLanes (ops r i s) v)) := by
  simp only [ready, Bool.and_eq_true, readable, Option.isNone_iff_eq_none, List.isEmpty_iff] at hr
  obtain ⟨h, ⟨hs, hm⟩, hp⟩ := hr
  rw [Bool.not_eq_true'] at hm
  have hw : (ops r i s).wb = (fibIs s i).wb := rfl
  simp only [laneInsn, issuing_cur h, laneRun, issueEnv_ready h, inWait_ready h, hw, hs, hm, hp, List.isEmpty_nil, Bool.not_true,
    Bool.false_eq_true, if_false]
  have : killArch (touchRegs r (ops r i s) s) i.blk i.slot (markedRegs r (fibIs s i).wb) = prep r i s := rfl
  simp only [this, hb]

/-- A lane instruction whose body changes only registers and the fibre's own record, and goes on. -/
theorem laneInsn_advances {r : Raw} {i : Issue} {s v : State} {body : Env → State → State × After} {dst : List Nat}
    (hr : ready r i s = true) (hb : body (ops r i s) (prep r i s) = (v, .advance)) (hw : Within i (prep r i s) v)
    (hg : ∀ a, a ∉ dst → reg v i.blk i.slot a = reg (prep r i s) i.blk i.slot a)
    (hf : (fibIs v i).lanes = (fibIs s i).lanes) (hc : (fibIs v i).icount = (fibIs s i).icount) :
    ∃ t, laneInsn r s body = .next t ∧ Advances r i (fibIs v i) dst s t ∧
      ∀ a, reg t i.blk i.slot a = reg v i.blk i.slot a := by
  have hi : issuing i s = true := by
    simp only [ready, Bool.and_eq_true] at hr
    exact hr.1
  have he := issuing_exists hi
  have hp := prep_step (r := r) he
  have hn : Moves i v (noteLanes (ops r i s) v) := noteLanes_moves (ops r i s) v
  have hm : Moves i v (finish r i .advance (noteLanes (ops r i s) v)) := hn.trans (finish_moves r i .advance _)
  have hin : Within i (landed r i s) (finish r i .advance (noteLanes (ops r i s) v)) := hp.within.trans (hw.trans hm.within)
  have hev := hw.keeps (hp.within.keeps he)
  have hen := hn.within.keeps hev
  have hfn : fibIs (noteLanes (ops r i s) v) i = fibIs v i := fibD_updSlot v _ _ _ _ _ _ rfl
  have hl : ∀ l ∈ i.lanes, l < (fibIs (noteLanes (ops r i s) v) i).lanes.length ∧
      (laneD (fibIs (noteLanes (ops r i s) v) i) l).st = .issuable := by
    intro l hl
    have h := issuing_lanes hi hl
    have hlen := issuing_length hi
    rw [hfn, hf]
    refine ⟨by omega, ?_⟩
    have : laneD (fibIs v i) l = laneD (fibIs s i) l := by simp only [laneD, hf]
    rw [this]
    exact h.2
  obtain ⟨hpc, hcount⟩ := finish_advance (r := r) hen hl
  refine ⟨_, laneInsn_advance hr hb, ⟨hin, finish_cur _ _ _ _, hm.fibre.after, ?_, hpc, ?_, ?_, ?_⟩, fun a => hm.regs _ _ a⟩
  · rw [hcount, hfn, hc]
  · have k := (finish_settles (r := r) hen).1
    rw [hfn] at k
    exact k
  · intro a ha hk
    rw [hm.regs, hg a ha, hp.regs, reg_landed]
    simp [killed, hk]
  · intro a ha hk
    rw [hm.regs, hg a ha, hp.regs]
    simp [killed, hk]

/-! ### Writes of destinations -/

/-- A fibre that does not wait makes its results as an issue of its own. -/
theorem wrDs_issue {r : Raw} {e : Env} {t : State} (hw : (fibIs t e.i).wait = none) (k : Nat) (ls : List Nat) (g : Nat → Word) :
    wrDs r e k ls g t = writeArch t e.i.blk e.i.slot e.i.fib (archReg e.wb (r.d.toNat + k)) e.lat ls g := by
  simp only [wrDs, waitId, hw]

theorem wrDs_step {r : Raw} {i : Issue} {s t : State} (he : exists' i t) (hw : (fibIs t i).wait = none) (k : Nat) (ls : List Nat)
    (g : Nat → Word) :
    ∃ n due, RegStep i (fun c o => if ls.isEmpty ∨ c ≠ dstReg r i s k then o else some (Reg.write o i.fib n due ls g)) t
      (wrDs r (ops r i s) k ls g t) := by
  rw [wrDs_issue hw]
  exact writeArch_step i t (dstReg r i s k) _ ls g he.1 he.2.1

theorem write_vals (o : Option Reg) (fib n : Nat) (due : Option Nat) (ls : List Nat) (g : Nat → Word) (l : Nat) (h : l < 32) :
    (Reg.write o fib n due ls g).vals.getD l 0 =
      if l ∈ ls then g l else (match o with
        | none => 0
        | some r => r.vals.getD l 0) := by
  simp only [Reg.write, lanes32]
  rw [List.getD_eq_getElem?_getD, List.getElem?_map, List.getElem?_range h]
  simp only [Option.map_some, Option.getD_some, List.contains_iff_mem]
  split
  · rfl
  · cases o with
    | none =>
      simp only [Option.getD_none, List.getD_eq_getElem?_getD]
      rw [List.getElem?_replicate]
      simp [h]
    | some r => rfl

/-- R151, R55 to R57: a destination register after a lane instruction has written it. -/
theorem receives_of {r : Raw} {i : Issue} {s v t : State} {k : Nat} {g : Nat → Word} (he : exists' i s)
    (hv : ∃ n due, reg v i.blk i.slot (dstReg r i s k) =
      (if (ops r i s).act.isEmpty then reg (prep r i s) i.blk i.slot (dstReg r i s k)
       else some (Reg.write (reg (prep r i s) i.blk i.slot (dstReg r i s k)) i.fib n due (ops r i s).act g)))
    (ht : reg t i.blk i.slot (dstReg r i s k) = reg v i.blk i.slot (dstReg r i s k)) : Receives r i s t k g := by
  intro l hl
  obtain ⟨n, due, hv⟩ := hv
  have hp := (prep_step (r := r) he).regs (dstReg r i s k)
  have hold : (match reg (prep r i s) i.blk i.slot (dstReg r i s k) with
      | none => 0
      | some r => r.vals.getD l 0) =
      if dstReg r i s k ∈ markedRegs r (fibIs s i).wb then (0 : Word) else regWord s i.blk i.slot (dstReg r i s k) l := by
    rw [hp, reg_landed]
    by_cases hk : dstReg r i s k ∈ markedRegs r (fibIs s i).wb
    · simp [killed, hk]
    · simp only [killed, List.contains_iff_mem, hk, if_false]
      rfl
  have hw : regWord t i.blk i.slot (dstReg r i s k) l = match reg t i.blk i.slot (dstReg r i s k) with
      | none => 0
      | some r => r.vals.getD l 0 := rfl
  rw [hw, ht, hv]
  by_cases hact : (ops r i s).act.isEmpty
  · rw [if_pos hact]
    have : l ∉ (ops r i s).act := by
      rw [List.isEmpty_iff] at hact
      simp [hact]
    rw [if_neg this]
    exact hold
  · rw [if_neg hact]
    show (Reg.write _ _ _ _ _ _).vals.getD l 0 = _
    rw [write_vals _ _ _ _ _ _ _ hl, hold]

/-- An instruction whose only effect is one result word per active lane. -/
theorem aluOp_result {r : Raw} {i : Issue} {s : State} (g : Env → Nat → Word) (hr : ready r i s = true) :
    ∃ t, aluOp r s g = .next t ∧ Advances r i (fibIs s i) [dstReg r i s 0] s t ∧ Receives r i s t 0 (g (ops r i s)) := by
  have hi : issuing i s = true := by
    simp only [ready, Bool.and_eq_true] at hr
    exact hr.1
  have he := issuing_exists hi
  have hp := prep_step (r := r) he
  obtain ⟨n, due, hw⟩ := wrDs_step (r := r) (s := s) (hp.within.keeps he) (prep_wait hi) 0 (ops r i s).act (g (ops r i s))
  have hfib : fibIs (wrDs r (ops r i s) 0 (ops r i s).act (g (ops r i s)) (prep r i s)) i = fibIs s i :=
    (hw.fibs _ _ _).trans (hp.fibs _ _ _)
  obtain ⟨t, h1, h2, h3⟩ := laneInsn_advances (dst := [dstReg r i s 0])
    (body := fun e t => (wrD r e 0 (g e) t, .advance)) hr rfl hw.within
    (fun a ha => by rw [wrD, hw.regs, if_pos (.inr (by simpa using ha))]) (by rw [wrD, hfib]) (by rw [wrD, hfib])
  refine ⟨t, h1, ?_, receives_of he ⟨n, due, ?_⟩ (h3 _)⟩
  · rw [wrD, hfib] at h2
    exact h2
  · rw [wrD, hw.regs]
    simp

/-- The two registers of an aligned pair differ (R50, R52). -/
theorem pair_distinct {r : Raw} (i : Issue) (s : State) (h : r.d.toNat % 2 = 0) : dstReg r i s 0 ≠ dstReg r i s 1 := by
  simp only [dstReg, archReg]
  split <;> split <;> omega

/-- An instruction whose only effect is one result pair per active lane. -/
theorem aluOp2_result {r : Raw} {i : Issue} {s : State} (g : Env → Nat → DWord) (hr : ready r i s = true)
    (hd : r.d.toNat % 2 = 0) :
    ∃ t, aluOp2 r s g = .next t ∧ Advances r i (fibIs s i) [dstReg r i s 0, dstReg r i s 1] s t ∧
      Receives r i s t 0 (fun l => (g (ops r i s) l).extractLsb' 0 32) ∧
      Receives r i s t 1 (fun l => (g (ops r i s) l).extractLsb' 32 32) := by
  have hi : issuing i s = true := by
    simp only [ready, Bool.and_eq_true] at hr
    exact hr.1
  have he := issuing_exists hi
  have hp := prep_step (r := r) he
  have e1 := hp.within.keeps he
  have hne := pair_distinct i s hd
  obtain ⟨n, due, hw⟩ := wrDs_step (r := r) (s := s) e1 (prep_wait hi) 0 (ops r i s).act (fun l => (g (ops r i s) l).extractLsb' 0 32)
  obtain ⟨m, due', hv⟩ := wrDs_step (r := r) (s := s) (hw.within.keeps e1) ((congrArg Fibre.wait (hw.fibs _ _ _)).trans (prep_wait hi)) 1
    (ops r i s).act (fun l => (g (ops r i s) l).extractLsb' 32 32)
  have hd2 : wrD2 r (ops r i s) (g (ops r i s)) (prep r i s) = wrDs r (ops r i s) 1 (ops r i s).act
      (fun l => (g (ops r i s) l).extractLsb' 32 32) (wrDs r (ops r i s) 0 (ops r i s).act
      (fun l => (g (ops r i s) l).extractLsb' 0 32) (prep r i s)) := rfl
  have hfib : fibIs (wrD2 r (ops r i s) (g (ops r i s)) (prep r i s)) i = fibIs s i :=
    (hv.fibs _ _ _).trans ((hw.fibs _ _ _).trans (hp.fibs _ _ _))
  obtain ⟨t, h1, h2, h3⟩ := laneInsn_advances (dst := [dstReg r i s 0, dstReg r i s 1])
    (body := fun e t => (wrD2 r e (g e) t, .advance)) hr rfl (hw.within.trans hv.within)
    (fun a ha => by
      simp only [List.mem_cons, List.not_mem_nil, or_false, not_or] at ha
      rw [hd2, hv.regs, if_pos (.inr ha.2), hw.regs, if_pos (.inr ha.1)]) (by rw [hfib]) (by rw [hfib])
  refine ⟨t, h1, ?_, receives_of he ⟨n, due, ?_⟩ (h3 _), receives_of he ⟨m, due', ?_⟩ (h3 _)⟩
  · rw [hfib] at h2
    exact h2
  · rw [hd2, hv.regs, if_pos (.inr hne), hw.regs]
    simp
  · rw [hd2, hv.regs, hw.regs]
    simp [hne.symm]

/-! ### Results in a rounding mode (R79, R230) -/

theorem drawRs_eq (rm : Rm) (i : Issue) (r : Raw) (s t : State) (hf : fibIs t i = fibIs s i) :
    drawRs rm (ops r i s) t = (if rm = .rs then updIs t i (fun x => { x with gen := stepGen (fibIs s i).gen }) else t,
      draw rm (fibIs s i)) := by
  have hi : (ops r i s).i = i := rfl
  have hd : draw rm (fibIs s i) =
      fun l k => if rm = .rs then (laneWord (stepGen (fibIs s i).gen) l k).toNat else 0 := rfl
  simp only [drawRs, hd, hi, hf]
  split
  · rfl
  · rfl

/-- What a draw leaves of the state. -/
theorem draw_frame (rm : Rm) (i : Issue) (s t : State) (he : exists' i t) (hf : fibIs t i = fibIs s i) :
    let v := if rm = .rs then updIs t i (fun x => { x with gen := stepGen (fibIs s i).gen }) else t
    Within i t v ∧ (∀ a, reg v i.blk i.slot a = reg t i.blk i.slot a) ∧ fibIs v i = drawn rm (fibIs s i) := by
  simp only [drawn]
  split
  · refine ⟨Within.fibreUpd i t _, fun a => regAt_updFib t _ _ _ _ _ a _, ?_⟩
    rw [fibIs_updIs he, hf]
  · exact ⟨Within.refl i t, fun _ => rfl, hf⟩

theorem drawn_lanes (rm : Rm) (x : Fibre) : (drawn rm x).lanes = x.lanes := by
  simp only [drawn]
  split <;> rfl

theorem drawn_icount (rm : Rm) (x : Fibre) : (drawn rm x).icount = x.icount := by
  simp only [drawn]
  split <;> rfl

theorem drawn_wait (rm : Rm) {i : Issue} {s : State} (h : issuing i s = true) : (drawn rm (fibIs s i)).wait = none := by
  simp only [drawn]
  split <;> exact issuing_wait h

/-- One rounded result word per active lane; an issue in mode .rs steps the generator once. -/
theorem fpOp_result {r : Raw} {i : Issue} {s : State} (rm : Rm) (g : (Nat → Nat → Nat) → Env → Nat → Nat)
    (hr : ready r i s = true) :
    ∃ t, fpOp r rm s g = .next t ∧ Advances r i (drawn rm (fibIs s i)) [dstReg r i s 0] s t ∧
      Receives r i s t 0 (fun l => BitVec.ofNat 32 (g (draw rm (fibIs s i)) (ops r i s) l)) := by
  have hi : issuing i s = true := by
    simp only [ready, Bool.and_eq_true] at hr
    exact hr.1
  have he := issuing_exists hi
  have hp := prep_step (r := r) he
  have e1 := hp.within.keeps he
  obtain ⟨dw, dr, df⟩ := draw_frame rm i s (prep r i s) e1 (prep_fibre he)
  have hdraw := drawRs_eq rm i r s (prep r i s) (prep_fibre he)
  generalize (if rm = Rm.rs then updIs (prep r i s) i (fun x => { x with gen := stepGen (fibIs s i).gen })
    else prep r i s) = v at dw dr df hdraw
  obtain ⟨n, due, hw⟩ := wrDs_step (r := r) (s := s) (dw.keeps e1) ((congrArg Fibre.wait df).trans (drawn_wait rm hi)) 0 (ops r i s).act
    (fun l => BitVec.ofNat 32 (g (draw rm (fibIs s i)) (ops r i s) l))
  have hfib := (hw.fibs i.blk i.slot i.fib).trans df
  obtain ⟨t, h1, h2, h3⟩ := laneInsn_advances (dst := [dstReg r i s 0])
    (v := wrDs r (ops r i s) 0 (ops r i s).act (fun l => BitVec.ofNat 32 (g (draw rm (fibIs s i)) (ops r i s) l)) v)
    (body := fun e t => let (t1, u) := drawRs rm e t
      (wrD r e 0 (fun l => BitVec.ofNat 32 (g u e l)) t1, .advance)) hr
    (by simp only [hdraw]; rfl) (dw.trans hw.within)
    (fun a ha => by rw [hw.regs, if_pos (.inr (by simpa using ha)), dr])
    ((congrArg Fibre.lanes hfib).trans (drawn_lanes rm _)) ((congrArg Fibre.icount hfib).trans (drawn_icount rm _))
  refine ⟨t, h1, ?_, receives_of he ⟨n, due, ?_⟩ (h3 _)⟩
  · have hx : fibIs _ i = drawn rm (fibIs s i) := hfib
    exact hx ▸ h2
  · rw [hw.regs, dr]
    simp

/-- One rounded result pair per active lane. -/
theorem fpOp2_result {r : Raw} {i : Issue} {s : State} (rm : Rm) (g : (Nat → Nat → Nat) → Env → Nat → Nat)
    (hr : ready r i s = true) (hd : r.d.toNat % 2 = 0) :
    ∃ t, fpOp2 r rm s g = .next t ∧ Advances r i (drawn rm (fibIs s i)) [dstReg r i s 0, dstReg r i s 1] s t ∧
      Receives r i s t 0 (fun l => (BitVec.ofNat 64 (g (draw rm (fibIs s i)) (ops r i s) l)).extractLsb' 0 32) ∧
      Receives r i s t 1 (fun l => (BitVec.ofNat 64 (g (draw rm (fibIs s i)) (ops r i s) l)).extractLsb' 32 32) := by
  have hi : issuing i s = true := by
    simp only [ready, Bool.and_eq_true] at hr
    exact hr.1
  have he := issuing_exists hi
  have hp := prep_step (r := r) he
  have e1 := hp.within.keeps he
  have hne := pair_distinct i s hd
  obtain ⟨dw, dr, df⟩ := draw_frame rm i s (prep r i s) e1 (prep_fibre he)
  have hdraw := drawRs_eq rm i r s (prep r i s) (prep_fibre he)
  generalize (if rm = Rm.rs then updIs (prep r i s) i (fun x => { x with gen := stepGen (fibIs s i).gen })
    else prep r i s) = v at dw dr df hdraw
  have e2 := dw.keeps e1
  have hv0 : (fibIs v i).wait = none := (congrArg Fibre.wait df).trans (drawn_wait rm hi)
  obtain ⟨n, due, hw⟩ := wrDs_step (r := r) (s := s) e2 hv0 0 (ops r i s).act
    (fun l => (BitVec.ofNat 64 (g (draw rm (fibIs s i)) (ops r i s) l)).extractLsb' 0 32)
  obtain ⟨m, due', hv⟩ := wrDs_step (r := r) (s := s) (hw.within.keeps e2) ((congrArg Fibre.wait (hw.fibs _ _ _)).trans hv0) 1 (ops r i s).act
    (fun l => (BitVec.ofNat 64 (g (draw rm (fibIs s i)) (ops r i s) l)).extractLsb' 32 32)
  have hfib := (hv.fibs i.blk i.slot i.fib).trans ((hw.fibs i.blk i.slot i.fib).trans df)
  obtain ⟨t, h1, h2, h3⟩ := laneInsn_advances (dst := [dstReg r i s 0, dstReg r i s 1])
    (v := wrD2 r (ops r i s) (fun l => BitVec.ofNat 64 (g (draw rm (fibIs s i)) (ops r i s) l)) v)
    (body := fun e t => let (t1, u) := drawRs rm e t
      (wrD2 r e (fun l => BitVec.ofNat 64 (g u e l)) t1, .advance)) hr
    (by simp only [hdraw]) (dw.trans (hw.within.trans hv.within))
    (fun a ha => by
      simp only [List.mem_cons, List.not_mem_nil, or_false, not_or] at ha
      refine (hv.regs a).trans ?_
      rw [if_pos (.inr ha.2), hw.regs, if_pos (.inr ha.1), dr])
    ((congrArg Fibre.lanes hfib).trans (drawn_lanes rm _)) ((congrArg Fibre.icount hfib).trans (drawn_icount rm _))
  refine ⟨t, h1, ?_, receives_of he ⟨n, due, ?_⟩ (h3 _), receives_of he ⟨m, due', ?_⟩ (h3 _)⟩
  · have hx : fibIs _ i = drawn rm (fibIs s i) := hfib
    exact hx ▸ h2
  · refine (hv.regs _).trans ?_
    rw [if_pos (.inr hne), hw.regs, dr]
    simp
  · refine (hv.regs _).trans ?_
    rw [hw.regs, dr]
    simp [hne.symm]

end Sys2Proof.Safety
end

