-- ==== Sys2Proof/Laws/Course.lean ====
section
/-!
SUPPORT. What follows the issue of a lane instruction, by what its body answers: the effect it makes, the trap it takes, the wait
it enters.
-/

namespace Sys2Proof.Safety

open Sys2Proof.Machine

theorem ready_parts {r : Raw} {i : Issue} {s : State} (hr : ready r i s = true) :
    issuing i s = true ∧ spilled s i.blk i.slot (touched r (fibIs s i).wb) = [] ∧
    lacksRoom s i.blk i.slot (destRegs r (fibIs s i).wb ++ linkRegs r (fibIs s i).wb) = false ∧ poisonHit r (ops r i s) s = none := by
  simp only [ready, Bool.and_eq_true, readable, Option.isNone_iff_eq_none, List.isEmpty_iff, Bool.not_eq_true'] at hr
  exact ⟨hr.1, hr.2.1.1, hr.2.1.2, hr.2.2⟩

/-- A ready lane instruction, by what its body answers: it goes on or jumps with the marked registers dead; else its effect is made
with them alive, and it parks some lanes, or stays where it is, waiting where its body says so. -/
theorem laneInsn_ready {r : Raw} {i : Issue} {s : State} {body : Env → State → State × After} (hr : ready r i s = true) :
    laneInsn r s body = .next (
      match (body (ops r i s) (prep r i s)).2 with
      | .advance => finish r i .advance (noteLanes (ops r i s) (body (ops r i s) (prep r i s)).1)
      | .jumped => finish r i .jumped (noteLanes (ops r i s) (body (ops r i s) (prep r i s)).1)
      | _ =>
        match (body (ops r i s) (touch r i s)).2 with
        | .stay => finish r i .stay (beginWait r (ops r i s) (body (ops r i s) (touch r i s)).1)
        | a => finish r i a (noteLanes (ops r i s) (body (ops r i s) (touch r i s)).1)) := by
  obtain ⟨h, hs, hm, hp⟩ := ready_parts hr
  have hw : (ops r i s).wb = (fibIs s i).wb := rfl
  simp only [laneInsn, issuing_cur h, laneRun, issueEnv_ready h, inWait_ready h, hw, hs, hm, hp, List.isEmpty_nil, Bool.not_true,
    Bool.false_eq_true, if_false]
  rfl

/-- A lane instruction whose body sets the program counters ends its issue. -/
theorem laneInsn_jump {r : Raw} {i : Issue} {s v : State} {body : Env → State → State × After} (hr : ready r i s = true)
    (hb : body (ops r i s) (prep r i s) = (v, .jumped)) :
    laneInsn r s body = .next (finish r i .jumped (noteLanes (ops r i s) v)) := by
  rw [laneInsn_ready hr, hb]

/-- A lane instruction some of whose lanes park. -/
theorem laneInsn_part {r : Raw} {i : Issue} {s u v : State} {body : Env → State → State × After} (hr : ready r i s = true)
    (hb : body (ops r i s) (prep r i s) = (u, .part)) (hv : body (ops r i s) (touch r i s) = (v, .part)) :
    laneInsn r s body = .next (finish r i .part (noteLanes (ops r i s) v)) := by
  rw [laneInsn_ready hr, hb, hv]

/-- A lane instruction whose body does not go on. -/
theorem laneInsn_begin {r : Raw} {i : Issue} {s u v : State} {body : Env → State → State × After} (hr : ready r i s = true)
    (hb : body (ops r i s) (prep r i s) = (u, .stay)) (hv : body (ops r i s) (touch r i s) = (v, .stay)) :
    laneInsn r s body = .next (finish r i .stay (beginWait r (ops r i s) v)) := by
  rw [laneInsn_ready hr, hb, hv]

theorem beginWait_none {r : Raw} {e : Env} {v : State} (hw : (fibIs v e.i).wait = none) : beginWait r e v = v := by
  simp only [beginWait, hw]

/-- A lane instruction whose body does not issue, and whose fibre does not wait. -/
theorem laneInsn_stay {r : Raw} {i : Issue} {s u v : State} {body : Env → State → State × After} (hr : ready r i s = true)
    (hb : body (ops r i s) (prep r i s) = (u, .stay)) (hv : body (ops r i s) (touch r i s) = (v, .stay))
    (hw : (fibIs v i).wait = none) : laneInsn r s body = .next { v with choice := v.choice + 1, cur := none } := by
  rw [laneInsn_begin hr hb hv, beginWait_none hw]
  rfl

/-- The end of an issue whose own effect leaves the machine as `v`. -/
theorem issued_of_finish {r : Raw} {i : Issue} {e : Env} {v : State} {a : After} (ha : a = .advance ∨ a = .part) (hi : e.i = i)
    (he : exists' i v) (hl : ∀ l ∈ i.lanes, l < (fibIs v i).lanes.length) : Issued i v (finish r i a (noteLanes e v)) := by
  subst hi
  have hn : Moves e.i v (noteLanes e v) := noteLanes_moves e v
  have hm : Moves e.i v (finish r e.i a (noteLanes e v)) := hn.trans (finish_moves r e.i a _)
  have hen := hn.within.keeps he
  have hf : fibIs (noteLanes e v) e.i = fibIs v e.i := fibD_updSlot v _ _ _ _ _ _ rfl
  refine ⟨hm.within, finish_cur _ _ _ _, hm.fibre.after, ?_, hm.regs, ?_, ?_⟩
  · rw [finish_count hen (by rcases ha with rfl | rfl <;> decide), hf]
  · intro l h hs
    have k : (laneD (fibIs (finish r e.i .advance (noteLanes e v)) e.i) l).pc = e.i.next :=
      finish_lane hen h (by rw [hf]; exact hl l h) (by rw [hf]; exact hs)
    rcases ha with rfl | rfl
    · exact k
    · exact k
  · have k := (finish_settles (r := r) hen).1
    rw [hf] at k
    rcases ha with rfl | rfl
    · exact k
    · exact k

theorem jumped_of_finish {r : Raw} {i : Issue} {e : Env} {v : State} (hi : e.i = i) (he : exists' i v) :
    Jumped i v (finish r i .jumped (noteLanes e v)) := by
  subst hi
  have hn : Moves e.i v (noteLanes e v) := noteLanes_moves e v
  have hm : Moves e.i v (finish r e.i .jumped (noteLanes e v)) := hn.trans (finish_moves r e.i .jumped _)
  have hf : fibIs (noteLanes e v) e.i = fibIs v e.i := fibD_updSlot v _ _ _ _ _ _ rfl
  refine ⟨hm.within, finish_cur _ _ _ _, hm.fibre.after, ?_, hm.regs, ?_⟩
  · rw [finish_count (hn.within.keeps he) (by decide), hf]
  · have k := (finish_settles (r := r) (hn.within.keeps he)).2
    rw [hf] at k
    exact k

/-! ### Following a course -/

theorem follows_goes {r : Raw} {i : Issue} {s v : State} {body : Env → State → State × After} (hr : ready r i s = true)
    (hb : body (ops r i s) (prep r i s) = (v, .advance)) (he : exists' i v) (hl : (fibIs v i).lanes.length = 32) :
    Follows r i s (laneInsn r s body) (.goes v) :=
  ⟨_, laneInsn_advance hr hb, issued_of_finish (.inl rfl) rfl he (fun l h => by
    rw [hl]
    exact (issuing_lanes (ready_parts hr).1 h).1)⟩

theorem follows_jumps {r : Raw} {i : Issue} {s v : State} {body : Env → State → State × After} (hr : ready r i s = true)
    (hb : body (ops r i s) (prep r i s) = (v, .jumped)) (he : exists' i v) : Follows r i s (laneInsn r s body) (.jumps v) :=
  ⟨_, laneInsn_jump hr hb, jumped_of_finish rfl he⟩

theorem follows_parts {r : Raw} {i : Issue} {s u v : State} {body : Env → State → State × After} (hr : ready r i s = true)
    (hb : body (ops r i s) (prep r i s) = (u, .part)) (hv : body (ops r i s) (touch r i s) = (v, .part)) (he : exists' i v)
    (hl : (fibIs v i).lanes.length = 32) : Follows r i s (laneInsn r s body) (.parts v) :=
  ⟨_, laneInsn_part hr hb hv, issued_of_finish (.inr rfl) rfl he (fun l h => by
    rw [hl]
    exact (issuing_lanes (ready_parts hr).1 h).1)⟩

/-! ### Traps -/

theorem closeWindow_lanes (i : Issue) (s : State) : (fibIs (closeWindow s i.blk i.slot i.fib) i).lanes = (fibIs s i).lanes := by
  simp only [closeWindow]
  split
  · rfl
  · simp only [fibIs, fibD_updFib]
    split <;> rfl

/-- A new ticket touches tickets, the next ticket number and the kennel die's events. -/
structure Notes (s t : State) : Prop where
  world : t = { s with tickets := t.tickets, nextTicket := t.nextTicket, ken := t.ken }

theorem recWords_get (fs : List (Nat × Nat)) (k v : Nat) (hk : k < 32) (h : fs.filter (fun p => p.1 == k) = [(k, v)]) :
    (recWords fs)[k]? = some (BitVec.ofNat 32 v) := by
  simp only [recWords, List.getElem?_map, List.getElem?_range hk, Option.map_some, h]
  simp

theorem newTicket_notes (s : State) (c : Nat) (src : TrapSrc) (path : List Nat) (fs : List (Nat × Nat)) :
    Notes s (newTicket s c src path fs) := by
  simp only [newTicket]
  split <;> exact ⟨rfl⟩

theorem newTicket_ticket (s : State) (c : Nat) (src : TrapSrc) (path : List Nat) (fs : List (Nat × Nat)) :
    (newTicket s c src path fs).nextTicket = s.nextTicket + 1 ∧
    ∃ k, mget (newTicket s c src path fs).tickets s.nextTicket = some k ∧ k.num = ticketNum s ∧ k.src = src ∧ k.ctx = c ∧
      k.holder = (findHolder s path 0).1 ∧
      k.words = recWords (fs ++ [(1, ticketNum s), (2, ctxName s c), (3, min (findHolder s path 0).2 255)]) := by
  refine ⟨?_, { num := ticketNum s, words := recWords (fs ++ [(1, ticketNum s), (2, ctxName s c), (3, min (findHolder s path 0).2 255)]), ctx := c,
                holder := (findHolder s path 0).1, src := src, push := (findHolder s path 0).1.isSome }, ?_, rfl, rfl, rfl, rfl, rfl⟩
  · simp only [newTicket]
    split <;> rfl
  · simp only [newTicket]
    split
    · simp only [postEvent, updKen, mget_mset, if_true]
    · simp only [mget_mset, if_true]

theorem memory_same {s v T : State} (hn : T = { v with tickets := T.tickets, nextTicket := T.nextTicket, ken := T.ken })
    (hw : v = { s with blocks := v.blocks, windows := v.windows, stores := v.stores, choice := v.choice, cur := v.cur }) (n : Nat) :
    let t : State := { T with choice := n, cur := none }
    t.mem = s.mem ∧ t.sram = s.sram ∧ t.ops = s.ops ∧ t.mappings = s.mappings ∧ t.ctxs = s.ctxs := by
  have h1 : T.mem = v.mem ∧ T.sram = v.sram ∧ T.ops = v.ops ∧ T.mappings = v.mappings ∧ T.ctxs = v.ctxs := by
    rw [hn]
    exact ⟨rfl, rfl, rfl, rfl, rfl⟩
  have h2 : v.mem = s.mem ∧ v.sram = s.sram ∧ v.ops = s.ops ∧ v.mappings = s.mappings ∧ v.ctxs = s.ctxs := by
    rw [hw]
    exact ⟨rfl, rfl, rfl, rfl, rfl⟩
  exact ⟨h1.1.trans h2.1, h1.2.1.trans h2.2.1, h1.2.2.1.trans h2.2.2.1, h1.2.2.2.1.trans h2.2.2.2.1, h1.2.2.2.2.trans h2.2.2.2.2⟩

/-- A fibre as a trap leaves it. -/
def frozen (x : Fibre) : Fibre := { x with st := .frozen }

theorem closeWindow_fibre (i : Issue) (s : State) (b k f : Nat) (h : ¬(b = i.blk ∧ k = i.slot ∧ f = i.fib)) :
    fibD (closeWindow s i.blk i.slot i.fib) b k f = fibD s b k f := by
  simp only [closeWindow]
  split
  · rfl
  · rw [fibD_updFib, if_neg (fun hh => h ⟨hh.1, hh.2.1, hh.2.2.1⟩)]
    rfl

theorem closeWindow_wait (i : Issue) (s : State) : (fibIs (closeWindow s i.blk i.slot i.fib) i).wait = (fibIs s i).wait := by
  simp only [closeWindow]
  split
  · rfl
  · simp only [fibIs, fibD_updFib]
    split <;> rfl

theorem closed_wait {i : Issue} {s u : State} (hu : Residence i s u) (h0 : (fibIs s i).wait = none) :
    (fibIs (closeWindow u i.blk i.slot i.fib) i).wait = none := by
  have h : fibIs u i = fibIs s i := hu.fibs _ _ _
  rw [closeWindow_wait, h, h0]

/-- The state in which a trap's ticket is written. -/
theorem frozen_frame {i : Issue} {s u : State} (he : exists' i u) (hu : Residence i s u) (h0 : (fibIs s i).wait = none) :
    let v := updIs (closeWindow u i.blk i.slot i.fib) i frozen
    Within i s v ∧ (∀ b k a, reg v b k a = reg s b k a) ∧
    (∀ b k f, ¬(b = i.blk ∧ k = i.slot ∧ f = i.fib) → fibD v b k f = fibD s b k f) ∧
    (fibIs v i).st = .frozen ∧ (fibIs v i).wait = none ∧ (fibIs v i).lanes = (fibIs s i).lanes := by
  have hc := closeWindow_tail i u
  have e1 := hc.within.keeps he
  have hf : fibIs (updIs (closeWindow u i.blk i.slot i.fib) i frozen) i = frozen (fibIs (closeWindow u i.blk i.slot i.fib) i) :=
    fibIs_updIs e1 _
  refine ⟨hu.within.trans (hc.within.trans (Within.fibreUpd i _ _)), fun b k a => ?_, fun b k f h => ?_, ?_, ?_, ?_⟩
  · exact (regAt_updFib _ _ _ _ b k a _).trans ((hc.regs b k a).trans (hu.regs b k a))
  · have : fibD (updIs (closeWindow u i.blk i.slot i.fib) i frozen) b k f = fibD (closeWindow u i.blk i.slot i.fib) b k f := by
      simp only [updIs]
      rw [fibD_updFib, if_neg (fun hh => h ⟨hh.1, hh.2.1, hh.2.2.1⟩)]
    rw [this, closeWindow_fibre i u b k f h, hu.fibs]
  · rw [hf]
    rfl
  · rw [hf]
    exact closed_wait hu h0
  · rw [hf]
    have h2 : (fibIs (closeWindow u i.blk i.slot i.fib) i).lanes = (fibIs u i).lanes := closeWindow_lanes i u
    have h3 : fibIs u i = fibIs s i := hu.fibs _ _ _
    show (fibIs (closeWindow u i.blk i.slot i.fib) i).lanes = _
    rw [h2, h3]

/-- The fibre of a trap freezes, its window closes; nothing else of the machine changes but the new ticket. -/
theorem trapFibre_traps {i : Issue} {s u : State} (he : exists' i u) (hu : Residence i s u) (h0 : (fibIs s i).wait = none)
    (kind detail : Nat) (ls : List Nat) (more : List (Nat × Nat)) (n : Nat) (hm : ∀ p ∈ more, 12 ≤ p.1) :
    Traps i kind detail ls more s { trapFibre u i kind detail ls more with choice := n, cur := none } ∧
    (fibIs { trapFibre u i kind detail ls more with choice := n, cur := none } i).lanes = (fibIs s i).lanes := by
  obtain ⟨hw, hreg, hfib, hst, hwait, hlanes⟩ := frozen_frame he hu h0
  generalize hv : updIs (closeWindow u i.blk i.slot i.fib) i frozen = v at *
  have hb : blkD u i.blk = { blkD s i.blk with slots := (blkD u i.blk).slots } := hu.within.block _
  have hctx : (blkD u i.blk).ctx = (blkD s i.blk).ctx := by rw [hb]
  have htask : (blkD u i.blk).task = (blkD s i.blk).task := by rw [hb]
  have hworld : v = { s with blocks := v.blocks, windows := v.windows, stores := v.stores, choice := v.choice, cur := v.cur } := hw.world
  have htk : v.nextTicket = s.nextTicket := by rw [hworld]
  have hnum : ticketNum v = ticketNum s := by rw [hworld]; rfl
  let path := (blkD u i.blk).ctx :: ancestors u (blkD u i.blk).ctx
  let fs : List (Nat × Nat) := [(0, kind + 65536 * detail), (4, (blkD u i.blk).task), (5, whereWord u i.blk i.slot i.fib),
    (6, maskOf ls), (7, lowest ls + 256 * (laneD (fibIs u i) (lowest ls)).rep), (8, i.pc.toNat % 2 ^ 32), (9, i.pc.toNat / 2 ^ 32),
    (10, i.insn.toNat), (11, i.ext.toNat)] ++ more
  have ht : trapFibre u i kind detail ls more =
      newTicket v (blkD u i.blk).ctx (.fibre i.blk i.slot i.fib) path fs := by
    have hn : (fibD (closeWindow u i.blk i.slot i.fib) i.blk i.slot i.fib).wait = none := closed_wait hu h0
    rw [← hv]
    simp only [trapFibre, trapAt, unwait, hn]
    rfl
  rw [ht]
  have hn := (newTicket_notes v (blkD u i.blk).ctx (.fibre i.blk i.slot i.fib) path fs).world
  obtain ⟨h1, k, hk, h0, h2, h3, -, h4⟩ := newTicket_ticket v (blkD u i.blk).ctx (.fibre i.blk i.slot i.fib) path fs
  generalize newTicket v (blkD u i.blk).ctx (.fibre i.blk i.slot i.fib) path fs = T at hn h1 hk
  have hblocks : T.blocks = v.blocks := by rw [hn]
  have hfibs : ∀ b k f, fibD { T with choice := n, cur := none } b k f = fibD v b k f := by
    intro b k f
    simp only [fibD, slotD, blkD, hblocks]
  have hregs : ∀ b k a, reg { T with choice := n, cur := none } b k a = reg v b k a := by
    intro b k a
    simp only [reg, slotD, blkD, hblocks]
  have hfilter : ∀ j, j < 12 → more.filter (fun p => p.1 == j) = [] := by
    intro j hj
    rw [List.filter_eq_nil_iff]
    intro p hp h
    have := hm p hp
    simp only [beq_iff_eq] at h
    omega
  have word : ∀ j w, j < 32 → (fs ++ [(1, ticketNum v), (2, ctxName v (blkD u i.blk).ctx), (3, min (findHolder v path 0).2 255)]).filter
      (fun p => p.1 == j) = [(j, w)] → k.words[j]? = some (BitVec.ofNat 32 w) := by
    intro j w hj hf
    rw [h4]
    exact recWords_get _ j w hj hf
  have small : ∀ j w, j < 12 → ((fs.take 9) ++ [(1, ticketNum v), (2, ctxName v (blkD u i.blk).ctx),
      (3, min (findHolder v path 0).2 255)]).filter (fun p => p.1 == j) = [(j, w)] → k.words[j]? = some (BitVec.ofNat 32 w) := by
    intro j w hj hf
    refine word j w (by omega) ?_
    have : fs = fs.take 9 ++ more := rfl
    rw [this, List.filter_append, List.filter_append, hfilter j hj, List.append_nil, ← List.filter_append]
    exact hf
  refine ⟨⟨?_, ?_, ?_, ?_, rfl, k, ?_, ?_, h2, ?_, ?_, ?_, ?_, ?_, ?_, ?_, ?_, ?_, ?_, ?_, ?_⟩, ?_⟩
  · exact ⟨(congrArg Fibre.st (hfibs _ _ _)).trans hst, (congrArg Fibre.wait (hfibs _ _ _)).trans hwait⟩
  · intro b k a
    rw [hregs, hreg]
  · exact memory_same hn hworld n
  · intro b k f h
    rw [hfibs, hfib b k f h]
  · rw [← htk]
    exact hk
  · rw [← htk]
    exact h1
  · rw [h3, hctx]
  · rw [h4]
    simp [recWords]
  · exact small 0 _ (by decide) (by simp [fs])
  · rw [h0, hnum]
  · rw [h0]
    exact small 1 _ (by decide) (by simp [fs])
  · rw [← htask]
    exact small 4 _ (by decide) (by simp [fs])
  · exact small 6 _ (by decide) (by simp [fs])
  · rw [small 8 (i.pc.toNat % 2 ^ 32) (by decide) (by simp [fs])]
    congr 1
    apply BitVec.eq_of_toNat_eq
    simp [BitVec.extractLsb'_toNat]
  · rw [small 9 (i.pc.toNat / 2 ^ 32) (by decide) (by simp [fs])]
    congr 1
    apply BitVec.eq_of_toNat_eq
    simp [BitVec.extractLsb'_toNat, Nat.shiftRight_eq_div_pow]
  · rw [small 10 i.insn.toNat (by decide) (by simp [fs])]
    simp
  · rw [small 11 i.ext.toNat (by decide) (by simp [fs])]
    simp
  · intro p hp h12 hone
    refine word p.1 p.2 h12.2 ?_
    have hfs : fs = fs.take 9 ++ more := rfl
    have e1 : (fs.take 9).filter (fun q => q.1 == p.1) = [] := by
      rw [List.filter_eq_nil_iff]
      intro q hq hh
      simp only [beq_iff_eq] at hh
      simp only [fs, List.cons_append, List.nil_append, List.take_succ_cons, List.take_zero, List.mem_cons, List.not_mem_nil,
        or_false] at hq
      rcases hq with rfl | rfl | rfl | rfl | rfl | rfl | rfl | rfl | rfl <;> simp only at hh <;> omega
    have e2 : ([(1, ticketNum v), (2, ctxName v (blkD u i.blk).ctx), (3, min (findHolder v path 0).2 255)] : List (Nat × Nat)).filter
        (fun q => q.1 == p.1) = [] := by
      rw [List.filter_eq_nil_iff]
      intro q hq hh
      simp only [beq_iff_eq] at hh
      simp only [List.mem_cons, List.not_mem_nil, or_false] at hq
      rcases hq with rfl | rfl | rfl <;> simp only at hh <;> omega
    rw [hfs, List.filter_append, List.filter_append, e1, e2, List.nil_append, List.append_nil]
    obtain ⟨q, hq⟩ := List.length_eq_one_iff.1 hone
    have hpq : p ∈ more.filter (fun q => q.1 == p.1) := by
      rw [List.mem_filter]
      exact ⟨hp, by simp⟩
    rw [hq, List.mem_singleton] at hpq
    rw [hq, ← hpq]
  · exact (congrArg Fibre.lanes (hfibs _ _ _)).trans hlanes

/-! ### Waits -/

theorem RegStep.others {i : Issue} {w : Nat → Option Reg → Option Reg} {s t : State} (h : RegStep i w s t) {b k : Nat}
    (hb : ¬(b = i.blk ∧ k = i.slot)) (a : Nat) : reg t b k a = reg s b k a := by
  simp only [reg]
  rw [h.within.others b k hb]

/-- One change of registers, made in two states whose registers are the same. -/
theorem RegStep.same {i : Issue} {w : Nat → Option Reg → Option Reg} {s t u v : State} (h : RegStep i w s t) (k : RegStep i w u v)
    (hs : ∀ b j a, reg u b j a = reg s b j a) (b j a : Nat) : reg v b j a = reg t b j a := by
  by_cases hb : b = i.blk ∧ j = i.slot
  · rw [hb.1, hb.2, k.regs, h.regs, hs]
  · rw [k.others hb, h.others hb, hs]

/-- R35: lanes of a register await a result. -/
theorem awaitArch_step (i : Issue) (a id : Nat) (ls : List Nat) : ∃ w, ∀ s, exists' i s →
    RegStep i w s (awaitArch s i.blk i.slot i.fib a id ls) := by
  refine ⟨fun c o => if ls.isEmpty ∨ c ≠ a then o else
    some { o.getD { vals := List.replicate 32 0 } with
      late := cutLate (o.getD { vals := List.replicate 32 0 }).late ls ++ [{ id := id, fib := i.fib, mask := maskOf ls }] }, fun s he => ?_⟩
  simp only [awaitArch]
  split
  · rename_i h
    exact ⟨Within.refl i s, fun c => by simp [h], fun _ _ _ => rfl, rfl, rfl, rfl, rfl⟩
  · rename_i h
    have hr := allocChunk_residence i s i.blk i.slot (a / 8)
    have k := hr.within.keeps he
    refine RegStep.after hr (RegStep.slotUpd i _ _ _ k.1 k.2.1 rfl (fun c => ?_))
    simp only [mget_mset]
    by_cases hc : c = a
    · subst hc
      simp [h]
    · simp [hc]

/-- R35, R57: the destinations of an instruction await their results, its marked registers dead. -/
theorem awaitAll_step (i : Issue) (as ms ls : List Nat) (id : Nat) : ∃ w, ∀ s, exists' i s →
    RegStep i w s (as.foldl (fun u a => awaitArch u i.blk i.slot i.fib a id ls) (killArch s i.blk i.slot ms)) := by
  have fold : ∀ as : List Nat, ∃ w, ∀ s, exists' i s →
      RegStep i w s (as.foldl (fun u a => awaitArch u i.blk i.slot i.fib a id ls) s) := by
    intro as
    induction as with
    | nil => exact ⟨_, fun s _ => RegStep.none i s⟩
    | cons a r ih =>
      obtain ⟨w, hw⟩ := awaitArch_step i a id ls
      obtain ⟨v, hv⟩ := ih
      exact ⟨_, fun s he => (hw s he).trans (hv _ ((hw s he).within.keeps he))⟩
  obtain ⟨w, hw⟩ := fold as
  exact ⟨_, fun s he => (killArch_step i s ms he.1 he.2.1).trans (hw _ ((killArch_step i s ms he.1 he.2.1).within.keeps he))⟩

theorem waitWith_waits {r : Raw} {i : Issue} {s v : State} (he : exists' i v) (h0 : (fibIs v i).wait = none) (done : List Nat) (last : List Word) :
    Waits r i s v { done := done, last := last } (finish r i .stay (beginWait r (ops r i s) (waitWith (ops r i s) v done last).1)) := by
  have hh : heldOps r i s { done := done, last := last } = ops r i s := by
    simp only [heldOps, if_true]
  have hc := closeWindow_tail i v
  let u := closeWindow v i.blk i.slot i.fib
  have e1 : exists' i u := hc.within.keeps he
  have hn : u.nextId = v.nextId := by
    simp only [u, closeWindow]
    split <;> rfl
  let w : Wait := { (fibIs u i).wait.getD { kind := .retry, start := v.clk } with
    kind := .retry, lanes := i.lanes, env := some (ops r i s), done := done, last := last }
  let g : Fibre → Fibre := fun x => { x with
    wait := some { x.wait.getD { kind := .retry, start := v.clk } with
      kind := .retry, lanes := i.lanes, env := some (ops r i s), done := done, last := last } }
  have hx : fibIs (updIs u i g) i = g (fibIs u i) := fibIs_updIs e1 g
  have hw : (fibIs (updIs u i g) i).wait = some w := by rw [hx]
  let ms := (markedRegs r (fibIs s i).wb).filterMap (fun a => (mget (slotD (updIs u i g) i.blk i.slot).regs a).map (fun q => (a, q)))
  let h : Fibre → Fibre := fun y => { y with wait := some { w with id := v.nextId, marked := ms } }
  let y : State := updIs { updIs u i g with nextId := v.nextId + 1 } i h
  have hb : beginWait r (ops r i s) (waitWith (ops r i s) v done last).1 =
      (destRegs r (fibIs s i).wb).foldl (fun z a => awaitArch z i.blk i.slot i.fib a v.nextId (ops r i s).act)
        (killArch y i.blk i.slot (markedRegs r (fibIs s i).wb)) := by
    have hv : (waitWith (ops r i s) v done last).1 = updIs u i g := rfl
    have hi : (ops r i s).i = i := rfl
    have h1 : (updIs u i g).nextId = v.nextId := hn
    rw [hv]
    simp only [beginWait, hi, hw, w, if_true, h1]
    rfl
  obtain ⟨k, hk⟩ := awaitAll_step i (destRegs r (fibIs s i).wb) (markedRegs r (fibIs s i).wb) (ops r i s).act v.nextId
  have mg : Moves i u (updIs u i g) := updIs_moves g ⟨rfl, rfl⟩
  have e2 : exists' i { updIs u i g with nextId := v.nextId + 1 } := mg.within.keeps e1
  have mh : Moves i { updIs u i g with nextId := v.nextId + 1 } y := updIs_moves h ⟨rfl, rfl⟩
  have ey : exists' i y := mh.within.keeps e2
  have ky := hk y ey
  have kv := hk v he
  have hreg : ∀ b j a, reg y b j a = reg v b j a := fun b j a => (mh.regs b j a).trans ((mg.regs b j a).trans (hc.regs b j a))
  have hfib : fibIs y i = h (fibIs (updIs u i g) i) := fibIs_updIs e2 h
  have hworld : Within i { v with nextId := v.nextId + 1 } y := by
    have h1 : Within i { v with nextId := v.nextId + 1 } { updIs u i g with nextId := v.nextId + 1 } := by
      have := hc.within.trans mg.within
      refine ⟨?_, this.views, this.present, this.block, this.count, this.others, this.slot, this.places, this.fibres⟩
      have hz := this.world
      rw [hz]
    exact h1.trans mh.within
  rw [hb]
  generalize (destRegs r (fibIs s i).wb).foldl (fun z a => awaitArch z i.blk i.slot i.fib a v.nextId (ops r i s).act)
    (killArch y i.blk i.slot (markedRegs r (fibIs s i).wb)) = z at ky
  have hm := own_moves i z (z.choice + 1) none
  have hzf : fibIs z i = fibIs y i := ky.fibs _ _ _
  have hall : fibIs z i = h (g (fibIs u i)) := by rw [hzf, hfib, hx]
  have hfa : FibreAfter (fibIs v i) (fibIs z i) := by
    have h1 := hc.fibre.after
    simp only [FibreAfter] at h1 ⊢
    rw [hall]
    simp only [h, g]
    rw [h1]
  have hst : (closeWindow v i.blk i.slot i.fib).stores = v.stores := by
    simp only [closeWindow]
    split <;> rfl
  have hstart : w.start = v.clk := by
    have : (fibIs u i).wait = none := (closeWindow_wait i v).trans h0
    simp only [w, this, Option.getD_none]
  refine ⟨hworld.trans (ky.within.trans hm.within), rfl, fun b j a => ?_, hfa, ?_, ky.stores.trans hst,
    { w with id := v.nextId, marked := ms }, ?_, rfl, ?_, ?_, rfl, hstart, rfl, rfl⟩
  · rw [hh]
    exact (hm.regs b j a).trans (kv.same ky hreg b j a)
  · show (fibIs z i).lanes = _
    rw [hall]
    exact closeWindow_lanes i v
  · show (fibIs z i).wait = _
    rw [hall]
  · rw [hh]
    rfl
  · rw [hh]

theorem follows_waits {r : Raw} {i : Issue} {s : State} {body : Env → State → State × After} {u v : State} {done : List Nat}
    {last : List Word} (hr : ready r i s = true) (hb : body (ops r i s) (prep r i s) = (u, .stay))
    (hv : body (ops r i s) (touch r i s) = waitWith (ops r i s) v done last) (he : exists' i v)
    (h0 : (fibIs v i).wait = none) :
    Follows r i s (laneInsn r s body) (.waits v { done := done, last := last }) :=
  ⟨_, laneInsn_begin hr hb hv, waitWith_waits he h0 done last⟩

/-- A lane instruction that does not issue, from the state that its examination leaves. -/
theorem follows_asks {r : Raw} {i : Issue} {s : State} {body : Env → State → State × After} {u v : State}
    (hr : ready r i s = true) (hb : body (ops r i s) (prep r i s) = (u, .stay)) (hv : body (ops r i s) (touch r i s) = (v, .stay))
    (hw : (fibIs v i).wait = none) : Follows r i s (laneInsn r s body) (.asks v) :=
  ⟨_, laneInsn_stay hr hb hv hw, (own_moves i v (v.choice + 1) none).within, rfl, fun _ _ _ => rfl, fun _ _ _ => rfl, rfl⟩

theorem touch_wait {r : Raw} {i : Issue} {s : State} (hr : ready r i s = true) : (fibIs (touch r i s) i).wait = none := by
  have ht : Residence i (landed r i s) (touch r i s) := touchRegs_residence r (ops r i s) s
  rw [show fibIs (touch r i s) i = fibIs s i from ht.fibs _ _ _]
  exact issuing_wait (ready_parts hr).1

theorem follows_stays {r : Raw} {i : Issue} {s : State} {body : Env → State → State × After} {u : State}
    (hr : ready r i s = true) (hb : body (ops r i s) (prep r i s) = (u, .stay))
    (hv : body (ops r i s) (touch r i s) = (touch r i s, .stay)) : Follows r i s (laneInsn r s body) .stays := by
  have ht : Residence i (landed r i s) (touch r i s) := touchRegs_residence r (ops r i s) s
  have hm := own_moves i (touch r i s) ((touch r i s).choice + 1) none
  exact ⟨_, laneInsn_stay hr hb hv (touch_wait hr), ht.within.trans hm.within, rfl, fun b k a => (hm.regs b k a).trans (ht.regs b k a),
    fun b k f => ht.fibs b k f, ht.stores⟩

/-- A lane instruction whose body traps. -/
theorem follows_traps {r : Raw} {i : Issue} {s : State} {body : Env → State → State × After} {kind detail : Nat} {ls : List Nat}
    {more : List (Nat × Nat)} {u : State} (hr : ready r i s = true) (hb : body (ops r i s) (prep r i s) = (u, .stay))
    (hv : body (ops r i s) (touch r i s) = (trapFibre (touch r i s) i kind detail ls more, .stay)) (hm : ∀ p ∈ more, 12 ≤ p.1) :
    Follows r i s (laneInsn r s body) (.traps kind detail ls more) := by
  have hi := (ready_parts hr).1
  have ht : Residence i (landed r i s) (touch r i s) := touchRegs_residence r (ops r i s) s
  have hx := fun n => trapFibre_traps (ht.within.keeps (show exists' i (landed r i s) from issuing_exists hi)) ht (issuing_wait hi) kind
    detail ls more n hm
  generalize trapFibre (touch r i s) i kind detail ls more = v at hv hx
  have hf : fibIs v i = fibIs { v with choice := 0, cur := none } i := rfl
  obtain ⟨ht, hl⟩ := hx (v.choice + 1)
  exact ⟨_, laneInsn_stay hr hb hv (by rw [hf]; exact (hx 0).1.frozen.2),
    ⟨ht.frozen, ht.regs, ht.memory, ht.fibres, ht.idle, ht.ticket⟩, hl⟩

end Sys2Proof.Safety
end

