-- ==== Sys2Proof/Laws/Event.lean ====
section
/-!
SUPPORT. Events: the next state of an event, and the mailbox commands in the terms of `Sys2Proof.Safety`.
-/

namespace Sys2Proof.Safety

open Sys2Proof.Machine

theorem event_next (s t : State) (f : State → State) (h : f s = t) : event s f = .next { t with choice := s.choice + 1 } := by
  subst h; rfl

theorem listens_iff (s : State) (m : Nat) : mailboxOpen s m = true ↔ listens s m := by
  simp [mailboxOpen, listens, List.contains_eq_mem, and_assoc]

theorem attests_iff (s : State) (m : Nat) : spdmOpen s m = true ↔ attests s m := by
  simp [spdmOpen, attests, listens_iff, and_assoc]

theorem refusal_eq (s : State) (r : Mbx) (cmd : Nat) (any : Bool) : turnedAway s r cmd any = refusal s r cmd any := by
  unfold turnedAway refusal recoveryTakes
  cases s.ken.phase <;> cases s.ken.loader <;> simp <;> grind

theorem noCommand_eq (r : Mbx) : unknownCmd r = noCommand r := by
  simp only [unknownCmd, noCommand]
  congr

theorem command_answers (code : Nat) (any : Bool) (req : Mbx) (eff : Nat × Nat × State) (s : State) (body : State → Nat × Nat × State)
    (o : Out) (hi : o = command code any req s body) (h : body s = eff) : Answered o s ⟨code, any, req, eff⟩ id := by
  subst hi
  refine ⟨fun n => ?_, fun l x c => ?_, fun l c st q => ?_, fun l c q => ?_⟩ <;> dsimp only at *
  · rw [← listens_iff] at n
    exact event_next _ _ _ (by simp [n])
  · rw [← listens_iff] at l; rw [← noCommand_eq] at c
    exact event_next _ _ _ (by simp [l, c])
  · rw [← listens_iff] at l; rw [← noCommand_eq] at c; rw [← refusal_eq] at q
    exact event_next _ _ _ (by simp [l, c, q])
  · rw [← listens_iff] at l; rw [← noCommand_eq] at c; rw [← refusal_eq] at q
    exact event_next _ _ _ (by simp [l, c, q, h])

theorem operand_eq (r : Mbx) (hi lo : Nat) (h : 64 ≤ lo) (h2 : lo ≤ hi) : Machine.ops r hi lo = operand r hi lo := by
  unfold Machine.ops operand bits
  congr 2; omega

theorem pageOps_eq (s : State) (r : Mbx) : pageOps s r = pageNamed s r := by
  unfold pageOps pageNamed
  simp (disch := omega) only [operand_eq]

end Sys2Proof.Safety
end

