-- ==== Sys2Proof/Laws/PerInstr.lean ====
section
/-!
SUPPORT. Laws stated of every instruction, one lemma for each constructor.
-/

namespace Sys2Proof.Laws

/-- The fields of an instruction build that instruction (R148 to R154): no field of an encoding is dropped. -/
def RawForm.Statement (i : Instr) : Prop := ∀ r : Raw, rawOf i = some r → build r = some (canon i)

theorem RawForm.iadd (r : R3) : RawForm.Statement (.iadd r) := fun _ h => by cases h; rfl
theorem RawForm.isub (r : R3) : RawForm.Statement (.isub r) := fun _ h => by cases h; rfl
theorem RawForm.iadds (r : R3) : RawForm.Statement (.iadds r) := fun _ h => by cases h; rfl
theorem RawForm.isubs (r : R3) : RawForm.Statement (.isubs r) := fun _ h => by cases h; rfl
theorem RawForm.iaddns (r : R3) : RawForm.Statement (.iaddns r) := fun _ h => by cases h; rfl
theorem RawForm.isubns (r : R3) : RawForm.Statement (.isubns r) := fun _ h => by cases h; rfl
theorem RawForm.iabsd (r : R3) : RawForm.Statement (.iabsd r) := fun _ h => by cases h; rfl
theorem RawForm.ineg (r : R3) : RawForm.Statement (.ineg r) := fun _ h => by cases h; rfl
theorem RawForm.iaddi (r : RI) : RawForm.Statement (.iaddi r) := fun _ h => by cases h; rfl
theorem RawForm.irsubi (r : RI) : RawForm.Statement (.irsubi r) := fun _ h => by cases h; rfl
theorem RawForm.imul (r : R3) : RawForm.Statement (.imul r) := fun _ h => by cases h; rfl
theorem RawForm.imulhi (r : R3) : RawForm.Statement (.imulhi r) := fun _ h => by cases h; rfl
theorem RawForm.imulhin (r : R3) : RawForm.Statement (.imulhin r) := fun _ h => by cases h; rfl
theorem RawForm.imulw (r : R3) : RawForm.Statement (.imulw r) := fun _ h => by cases h; rfl
theorem RawForm.imulwn (r : R3) : RawForm.Statement (.imulwn r) := fun _ h => by cases h; rfl
theorem RawForm.imad (r : RX) : RawForm.Statement (.imad r) := fun _ h => by cases h; rfl
theorem RawForm.imadw (r : RX) : RawForm.Statement (.imadw r) := fun _ h => by cases h; rfl
theorem RawForm.imadwn (r : RX) : RawForm.Statement (.imadwn r) := fun _ h => by cases h; rfl
theorem RawForm.idiv (r : R3) : RawForm.Statement (.idiv r) := fun _ h => by cases h; rfl
theorem RawForm.idivn (r : R3) : RawForm.Statement (.idivn r) := fun _ h => by cases h; rfl
theorem RawForm.irem (r : R3) : RawForm.Statement (.irem r) := fun _ h => by cases h; rfl
theorem RawForm.iremn (r : R3) : RawForm.Statement (.iremn r) := fun _ h => by cases h; rfl
theorem RawForm.add64 (r : R3) : RawForm.Statement (.add64 r) := fun _ h => by cases h; rfl
theorem RawForm.sub64 (r : R3) : RawForm.Statement (.sub64 r) := fun _ h => by cases h; rfl
theorem RawForm.neg64 (r : R3) : RawForm.Statement (.neg64 r) := fun _ h => by cases h; rfl
theorem RawForm.icmp64Eq (r : R3) : RawForm.Statement (.icmp64Eq r) := fun _ h => by cases h; rfl
theorem RawForm.icmp64Lt (r : R3) : RawForm.Statement (.icmp64Lt r) := fun _ h => by cases h; rfl
theorem RawForm.icmp64Ltn (r : R3) : RawForm.Statement (.icmp64Ltn r) := fun _ h => by cases h; rfl
theorem RawForm.mov64 (r : R3) : RawForm.Statement (.mov64 r) := fun _ h => by cases h; rfl
theorem RawForm.lea (r : RXF) : RawForm.Statement (.lea r) := fun _ h => by cases h; rfl
theorem RawForm.lean (r : RXF) : RawForm.Statement (.lean r) := fun _ h => by cases h; rfl
theorem RawForm.and (r : R3) : RawForm.Statement (.and r) := fun _ h => by cases h; rfl
theorem RawForm.or (r : R3) : RawForm.Statement (.or r) := fun _ h => by cases h; rfl
theorem RawForm.xor (r : R3) : RawForm.Statement (.xor r) := fun _ h => by cases h; rfl
theorem RawForm.andn (r : R3) : RawForm.Statement (.andn r) := fun _ h => by cases h; rfl
theorem RawForm.orn (r : R3) : RawForm.Statement (.orn r) := fun _ h => by cases h; rfl
theorem RawForm.xnor (r : R3) : RawForm.Statement (.xnor r) := fun _ h => by cases h; rfl
theorem RawForm.not (r : R3) : RawForm.Statement (.not r) := fun _ h => by cases h; rfl
theorem RawForm.mov (r : R3) : RawForm.Statement (.mov r) := fun _ h => by cases h; rfl
theorem RawForm.andi (r : RI) : RawForm.Statement (.andi r) := fun _ h => by cases h; rfl
theorem RawForm.ori (r : RI) : RawForm.Statement (.ori r) := fun _ h => by cases h; rfl
theorem RawForm.xori (r : RI) : RawForm.Statement (.xori r) := fun _ h => by cases h; rfl
theorem RawForm.movi (r : RI) : RawForm.Statement (.movi r) := fun _ h => by cases h; rfl
theorem RawForm.shl (r : R3) : RawForm.Statement (.shl r) := fun _ h => by cases h; rfl
theorem RawForm.shr (r : R3) : RawForm.Statement (.shr r) := fun _ h => by cases h; rfl
theorem RawForm.sar (r : R3) : RawForm.Statement (.sar r) := fun _ h => by cases h; rfl
theorem RawForm.rotl (r : R3) : RawForm.Statement (.rotl r) := fun _ h => by cases h; rfl
theorem RawForm.rotr (r : R3) : RawForm.Statement (.rotr r) := fun _ h => by cases h; rfl
theorem RawForm.shl64 (r : R3) : RawForm.Statement (.shl64 r) := fun _ h => by cases h; rfl
theorem RawForm.shr64 (r : R3) : RawForm.Statement (.shr64 r) := fun _ h => by cases h; rfl
theorem RawForm.sar64 (r : R3) : RawForm.Statement (.sar64 r) := fun _ h => by cases h; rfl
theorem RawForm.shli (r : R3) : RawForm.Statement (.shli r) := fun _ h => by cases h; rfl
theorem RawForm.shri (r : R3) : RawForm.Statement (.shri r) := fun _ h => by cases h; rfl
theorem RawForm.sari (r : R3) : RawForm.Statement (.sari r) := fun _ h => by cases h; rfl
theorem RawForm.rotli (r : R3) : RawForm.Statement (.rotli r) := fun _ h => by cases h; rfl
theorem RawForm.rotri (r : R3) : RawForm.Statement (.rotri r) := fun _ h => by cases h; rfl
theorem RawForm.shli64 (r : R3) : RawForm.Statement (.shli64 r) := fun _ h => by cases h; rfl
theorem RawForm.shri64 (r : R3) : RawForm.Statement (.shri64 r) := fun _ h => by cases h; rfl
theorem RawForm.sari64 (r : R3) : RawForm.Statement (.sari64 r) := fun _ h => by cases h; rfl
theorem RawForm.popc (r : R3) : RawForm.Statement (.popc r) := fun _ h => by cases h; rfl
theorem RawForm.clz (r : R3) : RawForm.Statement (.clz r) := fun _ h => by cases h; rfl
theorem RawForm.ctz (r : R3) : RawForm.Statement (.ctz r) := fun _ h => by cases h; rfl
theorem RawForm.brev (r : R3) : RawForm.Statement (.brev r) := fun _ h => by cases h; rfl
theorem RawForm.sext8 (r : R3) : RawForm.Statement (.sext8 r) := fun _ h => by cases h; rfl
theorem RawForm.sext16 (r : R3) : RawForm.Statement (.sext16 r) := fun _ h => by cases h; rfl
theorem RawForm.zext8 (r : R3) : RawForm.Statement (.zext8 r) := fun _ h => by cases h; rfl
theorem RawForm.zext16 (r : R3) : RawForm.Statement (.zext16 r) := fun _ h => by cases h; rfl
theorem RawForm.bfx (r : RX) : RawForm.Statement (.bfx r) := fun _ h => by cases h; rfl
theorem RawForm.bfxi (r : RX) : RawForm.Statement (.bfxi r) := fun _ h => by cases h; rfl
theorem RawForm.bfi (r : RX) : RawForm.Statement (.bfi r) := fun _ h => by cases h; rfl
theorem RawForm.imin (r : R3) : RawForm.Statement (.imin r) := fun _ h => by cases h; rfl
theorem RawForm.imax (r : R3) : RawForm.Statement (.imax r) := fun _ h => by cases h; rfl
theorem RawForm.iminn (r : R3) : RawForm.Statement (.iminn r) := fun _ h => by cases h; rfl
theorem RawForm.imaxn (r : R3) : RawForm.Statement (.imaxn r) := fun _ h => by cases h; rfl
theorem RawForm.icmp (r : R3F) : RawForm.Statement (.icmp r) := fun _ h => by cases h; rfl
theorem RawForm.icmpi (r : RIF) : RawForm.Statement (.icmpi r) := fun _ h => by cases h; rfl
theorem RawForm.sel (r : RX) : RawForm.Statement (.sel r) := fun _ h => by cases h; rfl
theorem RawForm.fadd (r : R3) : RawForm.Statement (.fadd r) := fun _ h => by cases h; rfl
theorem RawForm.fsub (r : R3) : RawForm.Statement (.fsub r) := fun _ h => by cases h; rfl
theorem RawForm.fmul (r : R3) : RawForm.Statement (.fmul r) := fun _ h => by cases h; rfl
theorem RawForm.fmin (r : R3) : RawForm.Statement (.fmin r) := fun _ h => by cases h; rfl
theorem RawForm.fmax (r : R3) : RawForm.Statement (.fmax r) := fun _ h => by cases h; rfl
theorem RawForm.fminp (r : R3) : RawForm.Statement (.fminp r) := fun _ h => by cases h; rfl
theorem RawForm.fmaxp (r : R3) : RawForm.Statement (.fmaxp r) := fun _ h => by cases h; rfl
theorem RawForm.faddx (r : RX) : RawForm.Statement (.faddx r) := fun _ h => by cases h; rfl
theorem RawForm.fsubx (r : RX) : RawForm.Statement (.fsubx r) := fun _ h => by cases h; rfl
theorem RawForm.fmulx (r : RX) : RawForm.Statement (.fmulx r) := fun _ h => by cases h; rfl
theorem RawForm.ffma (r : RX) : RawForm.Statement (.ffma r) := fun _ h => by cases h; rfl
theorem RawForm.frcp (r : R3) : RawForm.Statement (.frcp r) := fun _ h => by cases h; rfl
theorem RawForm.frsq (r : R3) : RawForm.Statement (.frsq r) := fun _ h => by cases h; rfl
theorem RawForm.fsqrt (r : R3) : RawForm.Statement (.fsqrt r) := fun _ h => by cases h; rfl
theorem RawForm.fex2 (r : R3) : RawForm.Statement (.fex2 r) := fun _ h => by cases h; rfl
theorem RawForm.flg2 (r : R3) : RawForm.Statement (.flg2 r) := fun _ h => by cases h; rfl
theorem RawForm.fsin (r : R3) : RawForm.Statement (.fsin r) := fun _ h => by cases h; rfl
theorem RawForm.fcos (r : R3) : RawForm.Statement (.fcos r) := fun _ h => by cases h; rfl
theorem RawForm.ftanh (r : R3) : RawForm.Statement (.ftanh r) := fun _ h => by cases h; rfl
theorem RawForm.fcmpEq (r : R3) : RawForm.Statement (.fcmpEq r) := fun _ h => by cases h; rfl
theorem RawForm.fcmpNe (r : R3) : RawForm.Statement (.fcmpNe r) := fun _ h => by cases h; rfl
theorem RawForm.fcmpLt (r : R3) : RawForm.Statement (.fcmpLt r) := fun _ h => by cases h; rfl
theorem RawForm.fcmpLe (r : R3) : RawForm.Statement (.fcmpLe r) := fun _ h => by cases h; rfl
theorem RawForm.fcmpUn (r : R3) : RawForm.Statement (.fcmpUn r) := fun _ h => by cases h; rfl
theorem RawForm.fclass (r : R3) : RawForm.Statement (.fclass r) := fun _ h => by cases h; rfl
theorem RawForm.dadd (r : R3) : RawForm.Statement (.dadd r) := fun _ h => by cases h; rfl
theorem RawForm.dsub (r : R3) : RawForm.Statement (.dsub r) := fun _ h => by cases h; rfl
theorem RawForm.dmul (r : R3) : RawForm.Statement (.dmul r) := fun _ h => by cases h; rfl
theorem RawForm.dmin (r : R3) : RawForm.Statement (.dmin r) := fun _ h => by cases h; rfl
theorem RawForm.dmax (r : R3) : RawForm.Statement (.dmax r) := fun _ h => by cases h; rfl
theorem RawForm.dfma (r : RX) : RawForm.Statement (.dfma r) := fun _ h => by cases h; rfl
theorem RawForm.dsqrt (r : R3) : RawForm.Statement (.dsqrt r) := fun _ h => by cases h; rfl
theorem RawForm.drcp (r : R3) : RawForm.Statement (.drcp r) := fun _ h => by cases h; rfl
theorem RawForm.drsq (r : R3) : RawForm.Statement (.drsq r) := fun _ h => by cases h; rfl
theorem RawForm.hadd2 (r : R3) : RawForm.Statement (.hadd2 r) := fun _ h => by cases h; rfl
theorem RawForm.hsub2 (r : R3) : RawForm.Statement (.hsub2 r) := fun _ h => by cases h; rfl
theorem RawForm.hmul2 (r : R3) : RawForm.Statement (.hmul2 r) := fun _ h => by cases h; rfl
theorem RawForm.hmin2 (r : R3) : RawForm.Statement (.hmin2 r) := fun _ h => by cases h; rfl
theorem RawForm.hmax2 (r : R3) : RawForm.Statement (.hmax2 r) := fun _ h => by cases h; rfl
theorem RawForm.badd2 (r : R3) : RawForm.Statement (.badd2 r) := fun _ h => by cases h; rfl
theorem RawForm.bsub2 (r : R3) : RawForm.Statement (.bsub2 r) := fun _ h => by cases h; rfl
theorem RawForm.bmul2 (r : R3) : RawForm.Statement (.bmul2 r) := fun _ h => by cases h; rfl
theorem RawForm.bmin2 (r : R3) : RawForm.Statement (.bmin2 r) := fun _ h => by cases h; rfl
theorem RawForm.bmax2 (r : R3) : RawForm.Statement (.bmax2 r) := fun _ h => by cases h; rfl
theorem RawForm.hfma2 (r : RX) : RawForm.Statement (.hfma2 r) := fun _ h => by cases h; rfl
theorem RawForm.bfma2 (r : RX) : RawForm.Statement (.bfma2 r) := fun _ h => by cases h; rfl
theorem RawForm.hdot2 (r : RX) : RawForm.Statement (.hdot2 r) := fun _ h => by cases h; rfl
theorem RawForm.bdot2 (r : RX) : RawForm.Statement (.bdot2 r) := fun _ h => by cases h; rfl
theorem RawForm.cvt (r : RX) : RawForm.Statement (.cvt r) := fun _ h => by cases h; rfl
theorem RawForm.frnd (r : RX) : RawForm.Statement (.frnd r) := fun _ h => by cases h; rfl
theorem RawForm.pack8 (r : RX) : RawForm.Statement (.pack8 r) := fun _ h => by cases h; rfl
theorem RawForm.unpack8 (r : RX) : RawForm.Statement (.unpack8 r) := fun _ h => by cases h; rfl
theorem RawForm.pack4 (r : RX) : RawForm.Statement (.pack4 r) := fun _ h => by cases h; rfl
theorem RawForm.unpack4 (r : RX) : RawForm.Statement (.unpack4 r) := fun _ h => by cases h; rfl
theorem RawForm.bscale (r : RX) : RawForm.Statement (.bscale r) := fun _ h => by cases h; rfl
theorem RawForm.shfl (r : RXF) : RawForm.Statement (.shfl r) := fun _ h => by cases h; rfl
theorem RawForm.voteall (r : R3) : RawForm.Statement (.voteall r) := fun _ h => by cases h; rfl
theorem RawForm.voteany (r : R3) : RawForm.Statement (.voteany r) := fun _ h => by cases h; rfl
theorem RawForm.voteuni (r : R3) : RawForm.Statement (.voteuni r) := fun _ h => by cases h; rfl
theorem RawForm.ballot (r : R3) : RawForm.Statement (.ballot r) := fun _ h => by cases h; rfl
theorem RawForm.matchw (r : R3) : RawForm.Statement (.matchw r) := fun _ h => by cases h; rfl
theorem RawForm.mread (r : R3) : RawForm.Statement (.mread r) := fun _ h => by cases h; rfl
theorem RawForm.mwrite (r : R3) : RawForm.Statement (.mwrite r) := fun _ h => by cases h; rfl
theorem RawForm.srd (r : R3) : RawForm.Statement (.srd r) := fun _ h => by cases h; rfl
theorem RawForm.srd64 (r : R3) : RawForm.Statement (.srd64 r) := fun _ h => by cases h; rfl
theorem RawForm.redadd (r : R3) : RawForm.Statement (.redadd r) := fun _ h => by cases h; rfl
theorem RawForm.redmin (r : R3) : RawForm.Statement (.redmin r) := fun _ h => by cases h; rfl
theorem RawForm.redmax (r : R3) : RawForm.Statement (.redmax r) := fun _ h => by cases h; rfl
theorem RawForm.redminn (r : R3) : RawForm.Statement (.redminn r) := fun _ h => by cases h; rfl
theorem RawForm.redmaxn (r : R3) : RawForm.Statement (.redmaxn r) := fun _ h => by cases h; rfl
theorem RawForm.redand (r : R3) : RawForm.Statement (.redand r) := fun _ h => by cases h; rfl
theorem RawForm.redor (r : R3) : RawForm.Statement (.redor r) := fun _ h => by cases h; rfl
theorem RawForm.redxor (r : R3) : RawForm.Statement (.redxor r) := fun _ h => by cases h; rfl
theorem RawForm.segadd (r : R3) : RawForm.Statement (.segadd r) := fun _ h => by cases h; rfl
theorem RawForm.segaddi (r : R3) : RawForm.Statement (.segaddi r) := fun _ h => by cases h; rfl
theorem RawForm.scanadd (r : R3) : RawForm.Statement (.scanadd r) := fun _ h => by cases h; rfl
theorem RawForm.scanaddi (r : R3) : RawForm.Statement (.scanaddi r) := fun _ h => by cases h; rfl
theorem RawForm.ld (r : RXF) : RawForm.Statement (.ld r) := fun _ h => by cases h; rfl
theorem RawForm.st (r : RXF) : RawForm.Statement (.st r) := fun _ h => by cases h; rfl
theorem RawForm.ldl (r : RXF) : RawForm.Statement (.ldl r) := fun _ h => by cases h; rfl
theorem RawForm.stl (r : RXF) : RawForm.Statement (.stl r) := fun _ h => by cases h; rfl
theorem RawForm.atom (r : RXF) : RawForm.Statement (.atom r) := fun _ h => by cases h; rfl
theorem RawForm.atomb (r : RXF) : RawForm.Statement (.atomb r) := fun _ h => by cases h; rfl
theorem RawForm.atoml (r : RXF) : RawForm.Statement (.atoml r) := fun _ h => by cases h; rfl
theorem RawForm.red (r : RXF) : RawForm.Statement (.red r) := fun _ h => by cases h; rfl
theorem RawForm.fence (r : R3) : RawForm.Statement (.fence r) := fun _ h => by cases h; rfl
theorem RawForm.acqx (r : R3) : RawForm.Statement (.acqx r) := fun _ h => by cases h; rfl
theorem RawForm.acqs (r : R3) : RawForm.Statement (.acqs r) := fun _ h => by cases h; rfl
theorem RawForm.rel (r : R3) : RawForm.Statement (.rel r) := fun _ h => by cases h; rfl
theorem RawForm.bind (r : R3) : RawForm.Statement (.bind r) := fun _ h => by cases h; rfl
theorem RawForm.unbind (r : R3) : RawForm.Statement (.unbind r) := fun _ h => by cases h; rfl
theorem RawForm.pref (r : RXF) : RawForm.Statement (.pref r) := fun _ h => by cases h; rfl
theorem RawForm.smap (r : R3) : RawForm.Statement (.smap r) := fun _ h => by cases h; rfl
theorem RawForm.sunmap (r : R3) : RawForm.Statement (.sunmap r) := fun _ h => by cases h; rfl
theorem RawForm.sfill (r : R3) : RawForm.Statement (.sfill r) := fun _ h => by cases h; rfl
theorem RawForm.sclean (r : R3) : RawForm.Statement (.sclean r) := fun _ h => by cases h; rfl
theorem RawForm.sdrop (r : R3) : RawForm.Statement (.sdrop r) := fun _ h => by cases h; rfl
theorem RawForm.squery (r : R3) : RawForm.Statement (.squery r) := fun _ h => by cases h; rfl
theorem RawForm.sadopt (r : R3) : RawForm.Statement (.sadopt r) := fun _ h => by cases h; rfl
theorem RawForm.hwait (r : R3) : RawForm.Statement (.hwait r) := fun _ h => by cases h; rfl
theorem RawForm.hstate (r : R3) : RawForm.Statement (.hstate r) := fun _ h => by cases h; rfl
theorem RawForm.hdrain (r : R3) : RawForm.Statement (.hdrain r) := fun _ h => by cases h; rfl
theorem RawForm.hfree (r : R3) : RawForm.Statement (.hfree r) := fun _ h => by cases h; rfl
theorem RawForm.htry (r : R3) : RawForm.Statement (.htry r) := fun _ h => by cases h; rfl
theorem RawForm.qput (r : R3) : RawForm.Statement (.qput r) := fun _ h => by cases h; rfl
theorem RawForm.qget (r : R3) : RawForm.Statement (.qget r) := fun _ h => by cases h; rfl
theorem RawForm.qputn (r : R3) : RawForm.Statement (.qputn r) := fun _ h => by cases h; rfl
theorem RawForm.qgetn (r : R3) : RawForm.Statement (.qgetn r) := fun _ h => by cases h; rfl
theorem RawForm.qcount (r : R3) : RawForm.Statement (.qcount r) := fun _ h => by cases h; rfl
theorem RawForm.qclose (r : R3) : RawForm.Statement (.qclose r) := fun _ h => by cases h; rfl
theorem RawForm.waitc (r : R3) : RawForm.Statement (.waitc r) := fun _ h => by cases h; rfl
theorem RawForm.rdc (r : R3) : RawForm.Statement (.rdc r) := fun _ h => by cases h; rfl
theorem RawForm.coll (r : RX) : RawForm.Statement (.coll r) := fun _ h => by cases h; rfl
theorem RawForm.collt (r : RX) : RawForm.Statement (.collt r) := fun _ h => by cases h; rfl
theorem RawForm.ret (r : R3) : RawForm.Statement (.ret r) := fun _ h => by cases h; rfl
theorem RawForm.exit (r : R3) : RawForm.Statement (.exit r) := fun _ h => by cases h; rfl
theorem RawForm.bra (r : RI) : RawForm.Statement (.bra r) := fun _ h => by cases h; rfl
theorem RawForm.bnz (r : RI) : RawForm.Statement (.bnz r) := fun _ h => by cases h; rfl
theorem RawForm.bz (r : RI) : RawForm.Statement (.bz r) := fun _ h => by cases h; rfl
theorem RawForm.call (r : RI) : RawForm.Statement (.call r) := fun _ h => by cases h; rfl
theorem RawForm.brx (r : RI) : RawForm.Statement (.brx r) := fun _ h => by cases h; rfl
theorem RawForm.callx (r : RI) : RawForm.Statement (.callx r) := fun _ h => by cases h; rfl
theorem RawForm.join (r : R3) : RawForm.Statement (.join r) := fun _ h => by cases h; rfl
theorem RawForm.leave (r : R3) : RawForm.Statement (.leave r) := fun _ h => by cases h; rfl
theorem RawForm.waitm (r : R3) : RawForm.Statement (.waitm r) := fun _ h => by cases h; rfl
theorem RawForm.mset (r : R3) : RawForm.Statement (.mset r) := fun _ h => by cases h; rfl
theorem RawForm.mand (r : R3) : RawForm.Statement (.mand r) := fun _ h => by cases h; rfl
theorem RawForm.mor (r : R3) : RawForm.Statement (.mor r) := fun _ h => by cases h; rfl
theorem RawForm.mclr (r : R3) : RawForm.Statement (.mclr r) := fun _ h => by cases h; rfl
theorem RawForm.mnot (r : R3) : RawForm.Statement (.mnot r) := fun _ h => by cases h; rfl
theorem RawForm.meet (r : RI) : RawForm.Statement (.meet r) := fun _ h => by cases h; rfl
theorem RawForm.meetclr (r : RI) : RawForm.Statement (.meetclr r) := fun _ h => by cases h; rfl
theorem RawForm.bararv (r : R3) : RawForm.Statement (.bararv r) := fun _ h => by cases h; rfl
theorem RawForm.barwait (r : R3) : RawForm.Statement (.barwait r) := fun _ h => by cases h; rfl
theorem RawForm.barsync (r : R3) : RawForm.Statement (.barsync r) := fun _ h => by cases h; rfl
theorem RawForm.bartry (r : R3) : RawForm.Statement (.bartry r) := fun _ h => by cases h; rfl
theorem RawForm.qbar (r : R3) : RawForm.Statement (.qbar r) := fun _ h => by cases h; rfl
theorem RawForm.dbar (r : R3) : RawForm.Statement (.dbar r) := fun _ h => by cases h; rfl
theorem RawForm.pbar (r : R3) : RawForm.Statement (.pbar r) := fun _ h => by cases h; rfl
theorem RawForm.tryw (r : RX) : RawForm.Statement (.tryw r) := fun _ h => by cases h; rfl
theorem RawForm.trywl (r : RX) : RawForm.Statement (.trywl r) := fun _ h => by cases h; rfl
theorem RawForm.win (r : R3) : RawForm.Statement (.win r) := fun _ h => by cases h; rfl
theorem RawForm.fyield (r : R3) : RawForm.Statement (.fyield r) := fun _ h => by cases h; rfl
theorem RawForm.fspawn (r : R3) : RawForm.Statement (.fspawn r) := fun _ h => by cases h; rfl
theorem RawForm.fstop (r : R3) : RawForm.Statement (.fstop r) := fun _ h => by cases h; rfl
theorem RawForm.fbar (r : R3) : RawForm.Statement (.fbar r) := fun _ h => by cases h; rfl
theorem RawForm.kill (r : R3) : RawForm.Statement (.kill r) := fun _ h => by cases h; rfl
theorem RawForm.nop (r : R3) : RawForm.Statement (.nop r) := fun _ h => by cases h; rfl
theorem RawForm.rep (r : R3) : RawForm.Statement (.rep r) := fun _ h => by cases h; rfl
theorem RawForm.spawn (r : R3) : RawForm.Statement (.spawn r) := fun _ h => by cases h; rfl
theorem RawForm.joinc (r : R3) : RawForm.Statement (.joinc r) := fun _ h => by cases h; rfl
theorem RawForm.taskend (r : R3) : RawForm.Statement (.taskend r) := fun _ h => by cases h; rfl
theorem RawForm.vdist (r : R3) : RawForm.Statement (.vdist r) := fun _ h => by cases h; rfl
theorem RawForm.vdinfo (r : R3) : RawForm.Statement (.vdinfo r) := fun _ h => by cases h; rfl
theorem RawForm.trap (r : R3) : RawForm.Statement (.trap r) := fun _ h => by cases h; rfl
theorem RawForm.brk (r : R3) : RawForm.Statement (.brk r) := fun _ h => by cases h; rfl
theorem RawForm.dictionaryParcel (r : Parcel) : RawForm.Statement (.dictionaryParcel r) := fun _ h => nomatch h
theorem RawForm.brk16 (r : Parcel) : RawForm.Statement (.brk16 r) := fun _ h => nomatch h
theorem RawForm.sopen (r : R3) : RawForm.Statement (.sopen r) := fun _ h => by cases h; rfl
theorem RawForm.snext (r : R3) : RawForm.Statement (.snext r) := fun _ h => by cases h; rfl
theorem RawForm.stend (r : R3) : RawForm.Statement (.stend r) := fun _ h => by cases h; rfl
theorem RawForm.sclose (r : R3) : RawForm.Statement (.sclose r) := fun _ h => by cases h; rfl
theorem RawForm.sskip (r : R3) : RawForm.Statement (.sskip r) := fun _ h => by cases h; rfl
theorem RawForm.spos (r : R3) : RawForm.Statement (.spos r) := fun _ h => by cases h; rfl
theorem RawForm.gath (r : RXF) : RawForm.Statement (.gath r) := fun _ h => by cases h; rfl
theorem RawForm.scata (r : RX) : RawForm.Statement (.scata r) := fun _ h => by cases h; rfl
theorem RawForm.scatai (r : RX) : RawForm.Statement (.scatai r) := fun _ h => by cases h; rfl
theorem RawForm.scatab (r : RX) : RawForm.Statement (.scatab r) := fun _ h => by cases h; rfl
theorem RawForm.scatal (r : RX) : RawForm.Statement (.scatal r) := fun _ h => by cases h; rfl
theorem RawForm.scatali (r : RX) : RawForm.Statement (.scatali r) := fun _ h => by cases h; rfl
theorem RawForm.scat (r : RX) : RawForm.Statement (.scat r) := fun _ h => by cases h; rfl
theorem RawForm.scatmin (r : RX) : RawForm.Statement (.scatmin r) := fun _ h => by cases h; rfl
theorem RawForm.embl (r : RX) : RawForm.Statement (.embl r) := fun _ h => by cases h; rfl
theorem RawForm.embu (r : RX) : RawForm.Statement (.embu r) := fun _ h => by cases h; rfl
theorem RawForm.embq (r : RX) : RawForm.Statement (.embq r) := fun _ h => by cases h; rfl
theorem RawForm.embv (r : RX) : RawForm.Statement (.embv r) := fun _ h => by cases h; rfl
theorem RawForm.binc (r : R3) : RawForm.Statement (.binc r) := fun _ h => by cases h; rfl
theorem RawForm.bins (r : R3) : RawForm.Statement (.bins r) := fun _ h => by cases h; rfl
theorem RawForm.binr (r : R3) : RawForm.Statement (.binr r) := fun _ h => by cases h; rfl
theorem RawForm.mshape (r : R3) : RawForm.Statement (.mshape r) := fun _ h => by cases h; rfl
theorem RawForm.mfmt (r : R3) : RawForm.Statement (.mfmt r) := fun _ h => by cases h; rfl
theorem RawForm.mqadd (r : R3) : RawForm.Statement (.mqadd r) := fun _ h => by cases h; rfl
theorem RawForm.mqset (r : RI) : RawForm.Statement (.mqset r) := fun _ h => by cases h; rfl
theorem RawForm.mwld (r : R3F) : RawForm.Statement (.mwld r) := fun _ h => by cases h; rfl
theorem RawForm.mma (r : R3) : RawForm.Statement (.mma r) := fun _ h => by cases h; rfl
theorem RawForm.mmz (r : R3) : RawForm.Statement (.mmz r) := fun _ h => by cases h; rfl
theorem RawForm.mmas (r : R3) : RawForm.Statement (.mmas r) := fun _ h => by cases h; rfl
theorem RawForm.mst (r : R3) : RawForm.Statement (.mst r) := fun _ h => by cases h; rfl
theorem RawForm.mstadd (r : R3) : RawForm.Statement (.mstadd r) := fun _ h => by cases h; rfl
theorem RawForm.mstatom (r : R3) : RawForm.Statement (.mstatom r) := fun _ h => by cases h; rfl
theorem RawForm.mldt (r : R3) : RawForm.Statement (.mldt r) := fun _ h => by cases h; rfl
theorem RawForm.mzero (r : R3) : RawForm.Statement (.mzero r) := fun _ h => by cases h; rfl
theorem RawForm.marv (r : R3) : RawForm.Statement (.marv r) := fun _ h => by cases h; rfl
theorem RawForm.mwait (r : R3) : RawForm.Statement (.mwait r) := fun _ h => by cases h; rfl
theorem RawForm.mjmp (r : RI) : RawForm.Statement (.mjmp r) := fun _ h => by cases h; rfl
theorem RawForm.mloop (r : RI) : RawForm.Statement (.mloop r) := fun _ h => by cases h; rfl
theorem RawForm.mend (r : R3) : RawForm.Statement (.mend r) := fun _ h => by cases h; rfl
theorem RawForm.mscale (r : R3) : RawForm.Statement (.mscale r) := fun _ h => by cases h; rfl
theorem RawForm.mact (r : R3) : RawForm.Statement (.mact r) := fun _ h => by cases h; rfl
theorem RawForm.mrowmax (r : R3) : RawForm.Statement (.mrowmax r) := fun _ h => by cases h; rfl
theorem RawForm.mrowsum (r : R3) : RawForm.Statement (.mrowsum r) := fun _ h => by cases h; rfl
theorem RawForm.ctxnew (r : R3) : RawForm.Statement (.ctxnew r) := fun _ h => by cases h; rfl
theorem RawForm.ctxgrant (r : R3) : RawForm.Statement (.ctxgrant r) := fun _ h => by cases h; rfl
theorem RawForm.ctxtake (r : R3) : RawForm.Statement (.ctxtake r) := fun _ h => by cases h; rfl
theorem RawForm.ctxrun (r : R3) : RawForm.Statement (.ctxrun r) := fun _ h => by cases h; rfl
theorem RawForm.ctxstop (r : R3) : RawForm.Statement (.ctxstop r) := fun _ h => by cases h; rfl
theorem RawForm.ctxrevoke (r : R3) : RawForm.Statement (.ctxrevoke r) := fun _ h => by cases h; rfl
theorem RawForm.ctxqry (r : R3) : RawForm.Statement (.ctxqry r) := fun _ h => by cases h; rfl
theorem RawForm.ctxmap (r : R3) : RawForm.Statement (.ctxmap r) := fun _ h => by cases h; rfl
theorem RawForm.ctxmapUnmap (r : R3) : RawForm.Statement (.ctxmapUnmap r) := fun _ h => by cases h; rfl
theorem RawForm.trapret (r : R3) : RawForm.Statement (.trapret r) := fun _ h => by cases h; rfl
theorem RawForm.trapfwd (r : R3) : RawForm.Statement (.trapfwd r) := fun _ h => by cases h; rfl
theorem RawForm.trapinfo (r : R3) : RawForm.Statement (.trapinfo r) := fun _ h => by cases h; rfl
theorem RawForm.tlbinv (r : R3) : RawForm.Statement (.tlbinv r) := fun _ h => by cases h; rfl
theorem RawForm.icinv (r : R3) : RawForm.Statement (.icinv r) := fun _ h => by cases h; rfl
theorem RawForm.dctinv (r : R3) : RawForm.Statement (.dctinv r) := fun _ h => by cases h; rfl
theorem RawForm.profOpen (r : R3) : RawForm.Statement (.profOpen r) := fun _ h => by cases h; rfl
theorem RawForm.profRead (r : R3) : RawForm.Statement (.profRead r) := fun _ h => by cases h; rfl
theorem RawForm.profClose (r : R3) : RawForm.Statement (.profClose r) := fun _ h => by cases h; rfl
theorem RawForm.profExport (r : R3) : RawForm.Statement (.profExport r) := fun _ h => by cases h; rfl
theorem RawForm.profImport (r : R3) : RawForm.Statement (.profImport r) := fun _ h => by cases h; rfl
theorem RawForm.trialStart (r : R3) : RawForm.Statement (.trialStart r) := fun _ h => by cases h; rfl
theorem RawForm.trialRead (r : R3) : RawForm.Statement (.trialRead r) := fun _ h => by cases h; rfl
theorem RawForm.trialAbort (r : R3) : RawForm.Statement (.trialAbort r) := fun _ h => by cases h; rfl
theorem RawForm.srw (r : R3) : RawForm.Statement (.srw r) := fun _ h => by cases h; rfl
theorem RawForm.srr (r : R3) : RawForm.Statement (.srr r) := fun _ h => by cases h; rfl
theorem RawForm.qdescWrite (ctx q : Nat) (v : DWord) : RawForm.Statement (.qdescWrite ctx q v) := fun _ h => nomatch h
theorem RawForm.lendWrite (ctx k : Nat) (v : Word) : RawForm.Statement (.lendWrite ctx k v) := fun _ h => nomatch h
theorem RawForm.groupWrite (ctx g : Nat) (v : DWord) : RawForm.Statement (.groupWrite ctx g v) := fun _ h => nomatch h
theorem RawForm.handlerTaskPush : RawForm.Statement (.handlerTaskPush) := fun _ h => nomatch h
theorem RawForm.queueEntryExamine (ctx q : Nat) : RawForm.Statement (.queueEntryExamine ctx q) := fun _ h => nomatch h
theorem RawForm.queueHeaderPoll (ctx q : Nat) : RawForm.Statement (.queueHeaderPoll ctx q) := fun _ h => nomatch h
theorem RawForm.blockPlacement (launch task : Nat) : RawForm.Statement (.blockPlacement launch task) := fun _ h => nomatch h
theorem RawForm.inputCopyComplete (blk h : Nat) : RawForm.Statement (.inputCopyComplete blk h) := fun _ h => nomatch h
theorem RawForm.blockStart (blk : Nat) : RawForm.Statement (.blockStart blk) := fun _ h => nomatch h
theorem RawForm.registerResultReturn (blk slot reg : Nat) : RawForm.Statement (.registerResultReturn blk slot reg) := fun _ h => nomatch h
theorem RawForm.chunkRefillComplete (blk slot chunk : Nat) : RawForm.Statement (.chunkRefillComplete blk slot chunk) := fun _ h => nomatch h
theorem RawForm.forcedSwitch (blk slot fib : Nat) : RawForm.Statement (.forcedSwitch blk slot fib) := fun _ h => nomatch h
theorem RawForm.groupSelect (blk slot fib : Nat) : RawForm.Statement (.groupSelect blk slot fib) := fun _ h => nomatch h
theorem RawForm.blockRetire (blk : Nat) : RawForm.Statement (.blockRetire blk) := fun _ h => nomatch h
theorem RawForm.outputDrainComplete (blk h : Nat) : RawForm.Statement (.outputDrainComplete blk h) := fun _ h => nomatch h
theorem RawForm.continuationPush : RawForm.Statement (.continuationPush) := fun _ h => nomatch h
theorem RawForm.tlbMissWalk (core ctx : Nat) (va : DWord) (kind : AccKind) : RawForm.Statement (.tlbMissWalk core ctx va kind) := fun _ h => nomatch h
theorem RawForm.faultExamine (blk slot fib : Nat) : RawForm.Statement (.faultExamine blk slot fib) := fun _ h => nomatch h
theorem RawForm.stashFillReturn (core line : Nat) : RawForm.Statement (.stashFillReturn core line) := fun _ h => nomatch h
theorem RawForm.stashOwnershipGrant (core line : Nat) : RawForm.Statement (.stashOwnershipGrant core line) := fun _ h => nomatch h
theorem RawForm.stashInvalidate (core line : Nat) : RawForm.Statement (.stashInvalidate core line) := fun _ h => nomatch h
theorem RawForm.stashRecall (core line : Nat) : RawForm.Statement (.stashRecall core line) := fun _ h => nomatch h
theorem RawForm.stashCapacityEviction (core line : Nat) : RawForm.Statement (.stashCapacityEviction core line) := fun _ h => nomatch h
theorem RawForm.retrieverOpComplete (op : Nat) : RawForm.Statement (.retrieverOpComplete op) := fun _ h => nomatch h
theorem RawForm.atomicUpdateComplete (op : Nat) : RawForm.Statement (.atomicUpdateComplete op) := fun _ h => nomatch h
theorem RawForm.stashOpComplete (op : Nat) : RawForm.Statement (.stashOpComplete op) := fun _ h => nomatch h
theorem RawForm.collectiveStepComplete (op : Nat) : RawForm.Statement (.collectiveStepComplete op) := fun _ h => nomatch h
theorem RawForm.binningComplete (op : Nat) : RawForm.Statement (.binningComplete op) := fun _ h => nomatch h
theorem RawForm.scatterWindowClose (blk slot fib : Nat) : RawForm.Statement (.scatterWindowClose blk slot fib) := fun _ h => nomatch h
theorem RawForm.scatterWindowApply (win : Nat) : RawForm.Statement (.scatterWindowApply win) := fun _ h => nomatch h
theorem RawForm.trywRecheck (blk slot fib : Nat) : RawForm.Statement (.trywRecheck blk slot fib) := fun _ h => nomatch h
theorem RawForm.trywPoll (blk slot fib : Nat) : RawForm.Statement (.trywPoll blk slot fib) := fun _ h => nomatch h
theorem RawForm.trywTimeout (blk slot fib lane : Nat) : RawForm.Statement (.trywTimeout blk slot fib lane) := fun _ h => nomatch h
theorem RawForm.forcedPreemption (blk : Nat) : RawForm.Statement (.forcedPreemption blk) := fun _ h => nomatch h
theorem RawForm.blockSave (blk : Nat) : RawForm.Statement (.blockSave blk) := fun _ h => nomatch h
theorem RawForm.sliceBoundary (ctx : Nat) : RawForm.Statement (.sliceBoundary ctx) := fun _ h => nomatch h
theorem RawForm.priorityAging (launch task : Nat) : RawForm.Statement (.priorityAging launch task) := fun _ h => nomatch h
theorem RawForm.quadReclaim (ctx vd quad : Nat) : RawForm.Statement (.quadReclaim ctx vd quad) := fun _ h => nomatch h
theorem RawForm.revocation (ctx : Nat) : RawForm.Statement (.revocation ctx) := fun _ h => nomatch h
theorem RawForm.mscRetag (ctx : Nat) : RawForm.Statement (.mscRetag ctx) := fun _ h => nomatch h
theorem RawForm.functionLevelReset (vf : Nat) : RawForm.Statement (.functionLevelReset vf) := fun _ h => nomatch h
theorem RawForm.migration (ctx page frame : Nat) : RawForm.Statement (.migration ctx page frame) := fun _ h => nomatch h
theorem RawForm.remoteMapExpiry (ctx page : Nat) : RawForm.Statement (.remoteMapExpiry ctx page) := fun _ h => nomatch h
theorem RawForm.pageRetire (frame : Nat) : RawForm.Statement (.pageRetire frame) := fun _ h => nomatch h
theorem RawForm.memoryErrorDetect (e : MemErr) : RawForm.Statement (.memoryErrorDetect e) := fun _ h => nomatch h
theorem RawForm.mscLossExamine : RawForm.Statement (.mscLossExamine) := fun _ h => nomatch h
theorem RawForm.sweeperWayClear (die way : Nat) : RawForm.Statement (.sweeperWayClear die way) := fun _ h => nomatch h
theorem RawForm.patrolScrub (line : Nat) : RawForm.Statement (.patrolScrub line) := fun _ h => nomatch h
theorem RawForm.errorRecordDelivery : RawForm.Statement (.errorRecordDelivery) := fun _ h => nomatch h
theorem RawForm.correctedEventFold : RawForm.Statement (.correctedEventFold) := fun _ h => nomatch h
theorem RawForm.linkDown (l : LinkId) : RawForm.Statement (.linkDown l) := fun _ h => nomatch h
theorem RawForm.hostWrite (q : HostReq) : RawForm.Statement (.hostWrite q) := fun _ h => nomatch h
theorem RawForm.hostRead (q : HostReq) : RawForm.Statement (.hostRead q) := fun _ h => nomatch h
theorem RawForm.hostCompletion (pa : Nat) (how : Completion) : RawForm.Statement (.hostCompletion pa how) := fun _ h => nomatch h
theorem RawForm.peerRequest (q : PeerReq) : RawForm.Statement (.peerRequest q) := fun _ h => nomatch h
theorem RawForm.whistleFlit (w : Flit) : RawForm.Statement (.whistleFlit w) := fun _ h => nomatch h
theorem RawForm.whistleGo (gid step : Nat) (data : List (List Byte)) : RawForm.Statement (.whistleGo gid step data) := fun _ h => nomatch h
theorem RawForm.whistleAbort (gid step code : Nat) : RawForm.Statement (.whistleAbort gid step code) := fun _ h => nomatch h
theorem RawForm.whistleTimeout (gid step : Nat) : RawForm.Statement (.whistleTimeout gid step) := fun _ h => nomatch h
theorem RawForm.profileSample (sid core : Nat) : RawForm.Statement (.profileSample sid core) := fun _ h => nomatch h
theorem RawForm.trialEpochEnd (slice : Nat) : RawForm.Statement (.trialEpochEnd slice) := fun _ h => nomatch h
theorem RawForm.packageReset : RawForm.Statement (.packageReset) := fun _ h => nomatch h
theorem RawForm.ownerLapse : RawForm.Statement (.ownerLapse) := fun _ h => nomatch h
theorem RawForm.handoverTimeout : RawForm.Statement (.handoverTimeout) := fun _ h => nomatch h
theorem RawForm.powerControl (steps : Nat) : RawForm.Statement (.powerControl steps) := fun _ h => nomatch h
theorem RawForm.thermalThrottle (die temp : Nat) : RawForm.Statement (.thermalThrottle die temp) := fun _ h => nomatch h
theorem RawForm.thermalRecover (die temp : Nat) : RawForm.Statement (.thermalRecover die temp) := fun _ h => nomatch h
theorem RawForm.thermalTrip (die temp : Nat) : RawForm.Statement (.thermalTrip die temp) := fun _ h => nomatch h
theorem RawForm.claim (r : Mbx) : RawForm.Statement (.claim r) := fun _ h => nomatch h
theorem RawForm.handover (r : Mbx) : RawForm.Statement (.handover r) := fun _ h => nomatch h
theorem RawForm.accept (r : Mbx) : RawForm.Statement (.accept r) := fun _ h => nomatch h
theorem RawForm.release (r : Mbx) : RawForm.Statement (.release r) := fun _ h => nomatch h
theorem RawForm.statusq (r : Mbx) : RawForm.Statement (.statusq r) := fun _ h => nomatch h
theorem RawForm.imgload (r : Mbx) : RawForm.Statement (.imgload r) := fun _ h => nomatch h
theorem RawForm.imgcommit (r : Mbx) : RawForm.Statement (.imgcommit r) := fun _ h => nomatch h
theorem RawForm.config (r : Mbx) : RawForm.Statement (.config r) := fun _ h => nomatch h
theorem RawForm.commit (r : Mbx) : RawForm.Statement (.commit r) := fun _ h => nomatch h
theorem RawForm.evring (r : Mbx) : RawForm.Statement (.evring r) := fun _ h => nomatch h
theorem RawForm.telem (r : Mbx) : RawForm.Statement (.telem r) := fun _ h => nomatch h
theorem RawForm.plimit (r : Mbx) : RawForm.Statement (.plimit r) := fun _ h => nomatch h
theorem RawForm.preset (r : Mbx) : RawForm.Statement (.preset r) := fun _ h => nomatch h
theorem RawForm.hreset (r : Mbx) : RawForm.Statement (.hreset r) := fun _ h => nomatch h
theorem RawForm.sliceset (r : Mbx) : RawForm.Statement (.sliceset r) := fun _ h => nomatch h
theorem RawForm.mtrapResume (r : Mbx) : RawForm.Statement (.mtrapResume r) := fun _ h => nomatch h
theorem RawForm.mtrapEnd (r : Mbx) : RawForm.Statement (.mtrapEnd r) := fun _ h => nomatch h
theorem RawForm.mtrapRead (r : Mbx) : RawForm.Statement (.mtrapRead r) := fun _ h => nomatch h
theorem RawForm.mtrapNext (r : Mbx) : RawForm.Statement (.mtrapNext r) := fun _ h => nomatch h
theorem RawForm.rootsrWrite (r : Mbx) : RawForm.Statement (.rootsrWrite r) := fun _ h => nomatch h
theorem RawForm.rootsrRead (r : Mbx) : RawForm.Statement (.rootsrRead r) := fun _ h => nomatch h
theorem RawForm.migdecl (r : Mbx) : RawForm.Statement (.migdecl r) := fun _ h => nomatch h
theorem RawForm.migundecl (r : Mbx) : RawForm.Statement (.migundecl r) := fun _ h => nomatch h
theorem RawForm.migreq (r : Mbx) : RawForm.Statement (.migreq r) := fun _ h => nomatch h
theorem RawForm.miggrant (r : Mbx) : RawForm.Statement (.miggrant r) := fun _ h => nomatch h
theorem RawForm.getVersion (r : SpdmReq) : RawForm.Statement (.getVersion r) := fun _ h => nomatch h
theorem RawForm.getCapabilities (r : SpdmReq) : RawForm.Statement (.getCapabilities r) := fun _ h => nomatch h
theorem RawForm.negotiateAlgorithms (r : SpdmReq) : RawForm.Statement (.negotiateAlgorithms r) := fun _ h => nomatch h
theorem RawForm.getDigests (r : SpdmReq) : RawForm.Statement (.getDigests r) := fun _ h => nomatch h
theorem RawForm.getCertificate (r : SpdmReq) : RawForm.Statement (.getCertificate r) := fun _ h => nomatch h
theorem RawForm.challenge (r : SpdmReq) : RawForm.Statement (.challenge r) := fun _ h => nomatch h
theorem RawForm.getMeasurements (r : SpdmReq) : RawForm.Statement (.getMeasurements r) := fun _ h => nomatch h
theorem RawForm.keyExchange (r : SpdmReq) : RawForm.Statement (.keyExchange r) := fun _ h => nomatch h
theorem RawForm.finish (r : SpdmReq) : RawForm.Statement (.finish r) := fun _ h => nomatch h
theorem RawForm.heartbeat (r : SpdmReq) : RawForm.Statement (.heartbeat r) := fun _ h => nomatch h
theorem RawForm.keyUpdate (r : SpdmReq) : RawForm.Statement (.keyUpdate r) := fun _ h => nomatch h
theorem RawForm.endSession (r : SpdmReq) : RawForm.Statement (.endSession r) := fun _ h => nomatch h
theorem RawForm.getTdispVersion (vf : Nat) : RawForm.Statement (.getTdispVersion vf) := fun _ h => nomatch h
theorem RawForm.getTdispCapabilities (vf : Nat) : RawForm.Statement (.getTdispCapabilities vf) := fun _ h => nomatch h
theorem RawForm.lockInterfaceRequest (vf : Nat) : RawForm.Statement (.lockInterfaceRequest vf) := fun _ h => nomatch h
theorem RawForm.getDeviceInterfaceReport (vf : Nat) : RawForm.Statement (.getDeviceInterfaceReport vf) := fun _ h => nomatch h
theorem RawForm.getDeviceInterfaceState (vf : Nat) : RawForm.Statement (.getDeviceInterfaceState vf) := fun _ h => nomatch h
theorem RawForm.startInterfaceRequest (vf : Nat) : RawForm.Statement (.startInterfaceRequest vf) := fun _ h => nomatch h
theorem RawForm.stopInterfaceRequest (vf : Nat) : RawForm.Statement (.stopInterfaceRequest vf) := fun _ h => nomatch h
theorem RawForm.completionTimeout (pa : Nat) : RawForm.Statement (.completionTimeout pa) := fun _ h => nomatch h
theorem RawForm.accessPerformed (id : Nat) : RawForm.Statement (.accessPerformed id) := fun _ h => nomatch h
theorem RawForm.powerLoss : RawForm.Statement (.powerLoss) := fun _ h => nomatch h
theorem RawForm.linkUp (l : LinkId) : RawForm.Statement (.linkUp l) := fun _ h => nomatch h

end Sys2Proof.Laws
end

