-- ==== Sys2Proof/Tests/Slice0.lean ====
section
/-!
SUPPORT. Small tests: ill-formed terms, words written out from the encoding tables of the manual, worked examples of the manual, and
a witness for the hypotheses of every statement.
-/

open Sys2Proof Sys2Proof.Machine Sys2Proof.Safety

namespace Sys2Proof.Tests

/-! ### Well-formedness (R167): an ill-formed term for each check -/

/-- An X-ctl word with nothing but IMM13. -/
def xi (imm : BitVec 13) : Xc := ⟨0, 0, false, false, 0, imm⟩

theorem test_wf_function : illFormed (.ld ⟨false, 8, 2, 0, 7, xi 0⟩) = some 0x02 := by decide
theorem test_wf_unused_field : illFormed (.ineg ⟨false, 4, 2, 1⟩) = some 0x03 := by decide
theorem test_wf_unused_imm : illFormed (.sel ⟨false, 4, 2, 1, xi 1⟩) = some 0x03 := by decide
theorem test_wf_break_bit : illFormed (.brk16 ⟨true, 0⟩) = some 0x03 := by decide
theorem test_wf_rep_bit : illFormed (.rep ⟨true, 1, 0, 0⟩) = some 0x03 := by decide
theorem test_wf_guard_off : illFormed (.sel ⟨false, 4, 2, 1, ⟨3, 5, false, false, 0, 0⟩⟩) = some 0x04 := by decide
theorem test_wf_last_use_a : illFormed (.coll ⟨false, 0, 2, 0, ⟨0, 0, false, false, 1, 0⟩⟩) = some 0x05 := by decide
theorem test_wf_last_use_b : illFormed (.bfx ⟨false, 4, 2, 0, ⟨0, 0, false, false, 2, 0⟩⟩) = some 0x05 := by decide
theorem test_wf_last_use_c : illFormed (.lea ⟨false, 8, 2, 6, 3, ⟨0, 0, false, false, 1, 0⟩⟩) = some 0x05 := by decide
theorem test_wf_stream : illFormed (.mzero ⟨true, 0, 0, 0⟩) = some 0x09 := by decide
theorem test_wf_pair : illFormed (.add64 ⟨false, 5, 2, 4⟩) = some 0x0A := by decide
theorem test_wf_past_v127 : illFormed (.smap ⟨false, 124, 0, 0⟩) = some 0x0B := by decide
theorem test_wf_shift : illFormed (.shli ⟨false, 4, 2, 32⟩) = some 0x0B := by decide
theorem test_wf_scope : illFormed (.fence ⟨false, 0, 0, 6⟩) = some 0x0B := by decide
theorem test_wf_class : illFormed (.rdc ⟨false, 4, 6, 0⟩) = some 0x0B := by decide
theorem test_wf_rounding : illFormed (.ffma ⟨false, 4, 5, 6, xi 5⟩) = some 0x0B := by decide
theorem test_wf_order : illFormed (.atom ⟨false, 0, 2, 4, 0, xi 0x21⟩) = some 0x0B := by decide
theorem test_wf_special : illFormed (.srd ⟨false, 4, 0x11, 0⟩) = some 0x0B := by decide
theorem test_wf_frame : illFormed (.call ⟨false, 15, 0, 0, 0⟩) = some 0x0B := by decide
theorem test_wf_kill : illFormed (.kill ⟨false, 120, 8, 0⟩) = some 0x0B := by decide
theorem test_wf_mask : illFormed (.mset ⟨false, 0, 0, 0⟩) = some 0x0C := by decide
theorem test_wf_mask_high : illFormed (.mset ⟨false, 12, 0, 0⟩) = some 0x0B := by decide
theorem test_wf_meetclr : illFormed (.meetclr ⟨false, 0, 0, 0, 2⟩) = some 0x03 := by decide
theorem test_wf_conversion : illFormed (.cvt ⟨false, 4, 2, 0, xi 0x110⟩) = some 0x0B := by decide
theorem test_wf_pack : illFormed (.pack8 ⟨false, 4, 8, 0, ⟨5, 0, false, false, 0, 0x10⟩⟩) = some 0x0B := by decide
theorem test_wf_scatter_type : illFormed (.scat ⟨false, 4, 2, 6, ⟨7, 0, false, false, 0, 0x200⟩⟩) = some 0x0B := by decide
theorem test_wf_format_class : illFormed (.mfmt ⟨false, 0, 1, 0⟩) = some 0x0B := by decide
theorem test_wf_store_type : illFormed (.mst ⟨false, 0, 5, 0⟩) = some 0x0B := by decide

/-! ### Decoding: words written out from R148, R150, R153, R155 and the tables of R165 -/

/-- The instruction that a word of the lane stream, or of the M-stream, decodes to, with the word after it. -/
def read (m : Bool) (w ext : Word) (i : Instr) (n : Nat) : Prop :=
  decode4 m (w.extractLsb' 16 16) (w.extractLsb' 0 16) (ext.extractLsb' 16 16) (ext.extractLsb' 0 16) = .ok (i, n)

theorem test_decode_iadd : read false 0x01080800 0 (.iadd ⟨true, 4, 2, 0⟩) 2 := by rfl
theorem test_decode_shli : read false 0x16020010 0 (.shli ⟨false, 1, 0, 2⟩) 2 := by rfl
theorem test_decode_lea : read false 0x0C100833 0x10 (.lea ⟨false, 8, 2, 6, 3, xi 0x10⟩) 4 := by rfl
theorem test_decode_srd : read false 0x49000000 0 (.srd ⟨true, 0, 0, 0⟩) 2 := by rfl
theorem test_decode_fclass : read false 0x310C200D 0 (.fclass ⟨true, 6, 8, 1⟩) 2 := by rfl
theorem test_decode_ffma : read false 0x2C081430 0x0E000001 (.ffma ⟨false, 4, 5, 6, ⟨7, 0, false, false, 0, 1⟩⟩) 4 := by rfl
theorem test_decode_cvt : read false 0x3E060800 0x510 (.cvt ⟨false, 3, 2, 0, xi 0x510⟩) 4 := by rfl
theorem test_decode_stl : read false 0x56080402 0x28000 (.stl ⟨false, 4, 1, 0, 2, ⟨0, 0, true, false, 4, 0⟩⟩) 4 := by rfl
theorem test_decode_atom : read false 0x580C0820 0xC (.atom ⟨false, 6, 2, 4, 0, xi 0xC⟩) 4 := by rfl
theorem test_decode_red : read false 0x5E002020 0xC (.red ⟨false, 0, 8, 4, 0, xi 0xC⟩) 4 := by rfl
theorem test_decode_rel : read false 0x6000501B 0 (.rel ⟨false, 0, 20, 3⟩) 2 := by rfl
theorem test_decode_smap : read false 0x64144000 0 (.smap ⟨false, 10, 16, 0⟩) 2 := by rfl
theorem test_decode_qget : read false 0x68281001 0 (.qget ⟨false, 20, 4, 0⟩) 2 := by rfl
theorem test_decode_waitc : read false 0x6A000008 0 (.waitc ⟨false, 0, 0, 1⟩) 2 := by rfl
theorem test_decode_callx : read false 0x70041405 0x40 (.callx ⟨false, 2, 5, 0, 0x40⟩) 4 := by rfl
theorem test_decode_rep : read false 0x7C024000 0 (.rep ⟨false, 1, 16, 0⟩) 2 := by rfl
theorem test_decode_snext : read false 0xC0180001 0 (.snext ⟨false, 12, 0, 0⟩) 2 := by rfl
theorem test_decode_gath : read false 0xC2100822 0x0C000000 (.gath ⟨false, 8, 2, 4, 2, ⟨6, 0, false, false, 0, 0⟩⟩) 4 := by rfl
theorem test_decode_scata : read false 0xC4100820 0x0C000400 (.scata ⟨false, 8, 2, 4, ⟨6, 0, false, false, 0, 0x400⟩⟩) 4 := by rfl
theorem test_decode_embl : read false 0xC6200820 0 (.embl ⟨false, 16, 2, 4, xi 0⟩) 4 := by rfl
theorem test_decode_bins : read false 0xC8121029 0 (.bins ⟨false, 9, 4, 5⟩) 2 := by rfl
theorem test_decode_ctxnew : read false 0xF9162800 0 (.ctxnew ⟨true, 11, 10, 0⟩) 2 := by rfl
theorem test_decode_ctxrevoke : read false 0xF9282C95 0 (.ctxrevoke ⟨true, 20, 11, 18⟩) 2 := by rfl
theorem test_decode_icinv : read false 0xFD181841 0 (.icinv ⟨true, 12, 6, 8⟩) 2 := by rfl
theorem test_decode_prof : read false 0xFC081843 0 (.profOpen ⟨false, 4, 6, 8⟩) 2 := by rfl
theorem test_decode_dref : read false 0xA0000000 0 (.dictionaryParcel ⟨true, 0⟩) 1 := by rfl
theorem test_decode_mshape : read true 0xE07EFC20 0 (.mshape ⟨false, 63, 63, 4⟩) 2 := by rfl
theorem test_decode_mfmt : read true 0xE00C1801 0 (.mfmt ⟨false, 6, 6, 0⟩) 2 := by rfl
theorem test_decode_mwld : read true 0xE2000C01 0 (.mwld ⟨false, 0, 3, 0, 1⟩) 2 := by rfl
theorem test_decode_mmz : read true 0xE4000801 0 (.mmz ⟨false, 0, 2, 0⟩) 2 := by rfl
theorem test_decode_mst : read true 0xE6001408 0 (.mst ⟨false, 0, 5, 1⟩) 2 := by rfl
theorem test_decode_marv : read true 0xE8000000 0 (.marv ⟨false, 0, 0, 0⟩) 2 := by rfl
theorem test_decode_mend : read true 0xEC000000 0 (.mend ⟨false, 0, 0, 0⟩) 2 := by rfl
theorem test_decode_mqset : read true 0xEE040000 0x01010000 (.mqset ⟨false, 2, 0, 0, 0x01010000⟩) 4 := by rfl
/-- R166: a reserved opcode. -/
theorem test_decode_reserved : decode4 false 0x8400 0 0 0 = .error 0x06 ∧ decode4 false 0x4200 0 0 0 = .error 0x01 := by decide
/-- R164: a word of the other stream. -/
theorem test_decode_other_stream : decode4 true 0x0108 0x0800 0 0 = .error 0x09 ∧ decode4 false 0xE400 0x0801 0 0 = .error 0x09 := by
  decide

/-! ### Worked examples of the manual -/

/-- A running block of one fibre: lanes `ls` of it issue at 0x1000, every lane of some registers holds a word. -/
def stage (ls : List Nat) (regs : List (Nat × Word)) : State :=
  let s := State.reset.withFetchWord 32 0
  let t := updFib s 0 0 0 (fun _ => startFib 0x1000 (Safety.bitsOf (fun l => ls.contains l)) 0 1)
  let u := regs.foldl (fun v p => updSlot (allocChunk v 0 0 (p.1 / 8)) 0 0 (fun x =>
    { x with regs := mset x.regs p.1 { vals := List.replicate 32 p.2 } })) t
  { u with cur := some { blk := 0, lanes := ls, pc := 0x1000, next := 0x1004 } }

/-- The word of lane `l` of register `a` after an instruction. -/
def after (i : Instr) (s : State) (a l : Nat) : Option Word :=
  match exec i s with
  | .next t => some (regWord t 0 0 a l)
  | _ => none

/-- R179: "IADDS of 0x7FFFFFFF and 0x00000001 gives 0x7FFFFFFF. IABSD of 0x7FFFFFFF and 0x80000000 gives 0xFFFFFFFF." -/
theorem test_iadds : after (.iadds ⟨false, 4, 2, 6⟩) (stage [0] [(2, 0x7FFFFFFF), (6, 1)]) 4 0 = some 0x7FFFFFFF := by decide
theorem test_iabsd : after (.iabsd ⟨false, 4, 2, 6⟩) (stage [0] [(2, 0x7FFFFFFF), (6, 0x80000000)]) 4 0 = some 0xFFFFFFFF := by decide
/-- R183: "IDIV of 0xFFFFFFF9 (−7) by 0x00000002 gives 0xFFFFFFFD (−3). IREM of the same operands gives 0xFFFFFFFF (−1)." -/
theorem test_idiv : after (.idiv ⟨false, 4, 2, 6⟩) (stage [0] [(2, 0xFFFFFFF9), (6, 2)]) 4 0 = some 0xFFFFFFFD := by decide
theorem test_irem : after (.irem ⟨false, 4, 2, 6⟩) (stage [0] [(2, 0xFFFFFFF9), (6, 2)]) 4 0 = some 0xFFFFFFFF := by decide
/-- R185: the worked `lea v8, v2, v6, 3, 16`. -/
theorem test_lea_low : after (.lea ⟨false, 8, 2, 6, 3, xi 16⟩) (stage [0] [(2, 0x00100000), (3, 0x7F), (6, 0xFFFFFFFD)]) 8 0 =
    some 0x000FFFF8 := by decide
theorem test_lean_high : after (.lean ⟨false, 8, 2, 6, 3, xi 16⟩) (stage [0] [(2, 0x00100000), (3, 0x7F), (6, 0xFFFFFFFD)]) 9 0 =
    some 0x87 := by decide
/-- R190: the worked `bfxi v3, v2, 4, 8`. -/
theorem test_bfxi : after (.bfxi ⟨false, 3, 2, 0, xi 0xE4⟩) (stage [0] [(2, 0xF80)]) 3 0 = some 0xFFFFFFF8 := by decide
/-- R234: the worked fused multiply-add. -/
theorem test_ffma : after (.ffma ⟨false, 4, 5, 6, ⟨7, 0, false, false, 0, 0⟩⟩)
    (stage [0] [(5, 0x3F800800), (6, 0x3F800800), (7, 0xBF801000)]) 4 0 = some 0x33800000 := by decide
/-- R246: the worked conversions of 300.0 to E4M3 and of −2.5 to a signed word. -/
theorem test_cvt_e4m3 : after (.cvt ⟨false, 3, 2, 0, xi 0x510⟩) (stage [0] [(2, 0x43960000)]) 3 0 = some 0x79 := by decide
theorem test_cvt_i32 : after (.cvt ⟨false, 3, 2, 0, xi 0x713⟩) (stage [0] [(2, 0xC0200000)]) 3 0 = some 0xFFFFFFFD := by decide
/-- R248, R249: the worked block round trip, lane 0. -/
theorem test_bscale : after (.bscale ⟨false, 4, 8, 0, xi 0⟩) (stage [0] [(8, 0x41400000)]) 4 0 = some 0x7F7F7F7A := by decide
theorem test_pack8 : after (.pack8 ⟨false, 5, 8, 0, ⟨4, 0, false, false, 0, 0⟩⟩) (stage [0] [(4, 0x7F7F7F7A), (8, 0x41400000)]) 5 0 =
    some 0x7C := by decide
/-- R203: the link of the worked call, at the call's address + 8. -/
theorem test_call_link : after (.call ⟨false, 2, 0, 0, 0x100⟩) (stage [0] []) 126 0 = some 0x1008 := by decide
/-- R193: "`sel v4, v5, v6, v7 when v8` leaves v4 unchanged in lanes where v8 is 0". -/
theorem test_lane_guard : after (.sel ⟨false, 4, 2, 6, ⟨7, 8, true, false, 0, 0⟩⟩) (stage [0] [(4, 9), (2, 1), (7, 1)]) 4 0 = some 9 := by
  decide

/-! ### Witnesses: the hypotheses of every statement are met -/

/-- A group of the state can issue the instruction, which is well-formed. -/
def readyAt (ins : Instr) (s : State) : Bool :=
  match rawOf ins, s.cur with
  | some r, some i => wf ins && ready r i s
  | _, _ => false

/-- The hypotheses of the statements of results are met: an instruction of the table that its group can issue. -/
def HasRow {α : Type} (table : Instr → Option α) : Prop :=
  ∃ (ins : Instr) (r : Raw) (g : α) (i : Issue) (s : State), table ins = some g ∧ rawOf ins = some r ∧ wf ins = true ∧
    ready r i s = true

theorem hasRow_of {α : Type} {table : Instr → Option α} (ins : Instr) (s : State) {g : α} (h : table ins = some g)
    (k : readyAt ins s = true) : HasRow table := by
  unfold readyAt at k
  split at k
  · rename_i r i hr hc
    rw [Bool.and_eq_true] at k
    exact ⟨ins, r, g, i, s, h, hr, k.1, k.2⟩
  · cases k

theorem witness_addition : HasRow addRow := hasRow_of (.ineg ⟨false, 4, 2, 0⟩) (stage [0] []) rfl (by decide)
theorem witness_product : HasRow mulRow := hasRow_of (.idiv ⟨false, 4, 2, 6⟩) (stage [0, 31] []) rfl (by decide)
theorem witness_pair : HasRow pairRow := hasRow_of (.add64 ⟨false, 126, 2, 4⟩) (stage [0] []) rfl (by decide)
theorem witness_logic : HasRow logicRow :=
  hasRow_of (.sel ⟨false, 4, 2, 6, ⟨7, 8, true, true, 7, 0⟩⟩) (stage [0, 1] []) rfl (by decide)
theorem witness_shift : HasRow shiftRow := hasRow_of (.shli ⟨false, 4, 2, 31⟩) (stage [0] []) rfl (by decide)
theorem witness_bit : HasRow bitRow := hasRow_of (.bfi ⟨false, 4, 2, 6, xi 0x3FF⟩) (stage [0] []) rfl (by decide)
theorem witness_single : HasRow fp32Row := hasRow_of (.ffma ⟨false, 4, 5, 6, ⟨7, 0, false, false, 0, 4⟩⟩) (stage [0] []) rfl (by decide)
theorem witness_packed : HasRow packedRow := hasRow_of (.hadd2 ⟨false, 4, 5, 6⟩) (stage [0] []) rfl (by decide)
theorem witness_double : HasRow fp64Row := hasRow_of (.dadd ⟨false, 4, 6, 8⟩) (stage [0] []) rfl (by decide)
theorem witness_compare : HasRow compareRow := hasRow_of (.fclass ⟨false, 4, 6, 3⟩) (stage [0] []) rfl (by decide)
theorem witness_function : HasRow unitRow := hasRow_of (.frcp ⟨false, 4, 6, 0⟩) (stage [0] []) rfl (by decide)
theorem witness_bounds : specialWord 0 0x40400000 = none ∧ specialWord 1 0x40800000 = none ∧ specialWord 2 0x40000000 = none ∧
    specialWord 3 0xC3150000 = none ∧ specialWord 4 0x3F000000 = none ∧ specialWord 5 0x44800001 = none ∧ specialWord 6 0x44800000 = none ∧
    specialWord 7 0x42FFFFFF = none ∧ specialWord 0 0x00200001 = none ∧ special64 0 1 = none ∧ special64 1 0x8004000000000001 = none ∧
    special64 2 0x4010000000000000 = none := by decide
/-- R237: "FRSQ of 4.0" has the exact value 1 / 2, "FEX2 of an integer" at −149 the least FP32 value. -/
theorem witness_exact : exactly 1 4 (1 / 2) ∧ value32 0x40800000 = some 4 ∧ value32 0x3F000000 = some (1 / 2) ∧
    exactly 3 (-149) (pow2 (-149)) ∧ value32 0x00000001 = some (pow2 (-149)) := by
  refine ⟨?_, by decide +kernel, by decide +kernel, ⟨-149, by norm_num, rfl⟩, by decide +kernel⟩
  constructor <;> norm_num
theorem test_frsq : after (.frsq ⟨false, 4, 6, 0⟩) (stage [0] [(6, 0x40800000)]) 4 0 = some 0x3F000000 := by decide
theorem test_fex2 : after (.fex2 ⟨false, 4, 6, 0⟩) (stage [0] [(6, 0xC3150000)]) 4 0 = some 1 := by decide
theorem witness_function64 : HasRow unit64Row := hasRow_of (.dsqrt ⟨false, 4, 6, 0⟩) (stage [0] []) rfl (by decide)
theorem witness_convert : HasRow convertRow := hasRow_of (.cvt ⟨false, 4, 6, 0, xi 0x510⟩) (stage [0] []) rfl (by decide)
theorem witness_convert64 : HasRow (fun i => (convertRow i).filter (·.2)) :=
  hasRow_of (.cvt ⟨false, 4, 6, 0, xi 0x010⟩) (stage [0] []) rfl (by decide)
theorem witness_pack : HasRow packRow :=
  hasRow_of (.pack4 ⟨false, 4, 8, 0, ⟨6, 0, false, false, 0, 0x10⟩⟩) (stage [0] []) rfl (by decide)
theorem witness_unpack8 : readyAt (.unpack8 ⟨false, 8, 4, 0, ⟨5, 0, false, false, 0, 0⟩⟩) (stage [0] []) = true := by decide
theorem witness_unpack4 : readyAt (.unpack4 ⟨false, 8, 4, 0, ⟨6, 0, false, false, 0, 0x10⟩⟩) (stage [0] []) = true := by decide
theorem witness_bscale : readyAt (.bscale ⟨false, 4, 8, 0, xi 0x10⟩) (stage [0] []) = true := by decide
theorem witness_lane : HasRow (fun ins => laneRow ins (stage [0, 5] []) { blk := 0, lanes := [0, 5], pc := 0x1000, next := 0x1004 }) :=
  hasRow_of (.redadd ⟨false, 4, 6, 0⟩) (stage [0, 5] []) rfl (by decide)
theorem witness_srd64 : readyAt (.srd64 ⟨false, 4, 0x0C, 0⟩) (stage [0] []) = true := by decide

/-- The course of an instruction at the group of a state, where the hypotheses of `Keeps` hold. -/
def courseAt (table : Courses) (ins : Instr) (s : State) : Option Course :=
  match rawOf ins, s.cur with
  | some r, some i => if wf ins && ready r i s then table ins i (Safety.ops r i s) (prep r i s) (touch r i s) else none
  | _, _ => none

/-- Some instruction of a table meets the hypotheses of `Keeps`, with a course of the kind `p`. -/
def Meets (table : Courses) (p : Course → Bool) : Prop :=
  ∃ (ins : Instr) (r : Raw) (i : Issue) (s : State) (c : Course), rawOf ins = some r ∧ wf ins = true ∧ ready r i s = true ∧
    table ins i (Safety.ops r i s) (prep r i s) (touch r i s) = some c ∧ p c = true

theorem meets_of {table : Courses} {p : Course → Bool} (ins : Instr) (s : State) (h : (courseAt table ins s).any p = true) :
    Meets table p := by
  unfold courseAt at h
  split at h
  · rename_i r i hr hc
    split at h
    · rename_i hw
      rw [Bool.and_eq_true] at hw
      match hc' : table ins i (Safety.ops r i s) (prep r i s) (touch r i s), h with
      | some c, h => exact ⟨ins, r, i, s, c, hr, hw.1, hw.2, hc', h⟩
    · cases h
  · cases h

/-- The kinds of a course. -/
def isGoes (c : Course) : Bool := match c with | .goes _ => true | _ => false
/-- A jump. -/
def isJumps (c : Course) : Bool := match c with | .jumps _ => true | _ => false
/-- Some lanes park. -/
def isParts (c : Course) : Bool := match c with | .parts _ => true | _ => false
/-- The issue is held. -/
def isStays (c : Course) : Bool := match c with | .stays => true | .asks _ => true | _ => false
/-- The fibre waits. -/
def isWaits (c : Course) : Bool := match c with | .waits _ _ => true | _ => false
/-- A trap of a kind and detail. -/
def trapsAs (k d : Nat) (c : Course) : Bool := match c with | .traps a b _ _ => a == k && b == d | _ => false

/-- A state with its context changed. -/
def inCtx (g : Ctx → Ctx) (s : State) : State := updCtx s 0 g
/-- A state with its block changed. -/
def inBlk (g : Block → Block) (s : State) : State := updBlk s 0 g
/-- A state with its fibre changed. -/
def inFib (g : Fibre → Fibre) (s : State) : State := updFib s 0 0 0 g
/-- A state with bytes in memory. -/
def inMem (a : Nat) (bs : List Byte) (s : State) : State := { s with mem := Memory.wrN s.mem a bs }
/-- The sixteen pages locked by a migration. -/
def locked (s : State) : State := inCtx (fun x => { x with s2 := x.s2.map (fun e => { e with lock := true }) }) s
/-- Every engine counter at its limit. -/
def counted (s : State) : State := inFib (fun x => { x with ctrs := List.replicate 6 63 }) s
/-- Every bank in a mode (R94). -/
def banks (m : Nat) (s : State) : State := inBlk (fun x => { x with kd := { x.kd with plan := List.replicate 64 m } }) s

theorem witness_flow_mask : Meets flowCourse isGoes := meets_of (.mset ⟨false, 11, 0, 0⟩) (stage [0, 3] []) (by decide)
theorem witness_flow_branch : Meets flowCourse isJumps := meets_of (.bnz ⟨false, 0, 2, 0, 0xFFFFFFFC⟩) (stage [0, 3] []) (by decide)
theorem witness_flow_arrive : Meets flowCourse isJumps := meets_of (.bararv ⟨false, 0, 15, 0⟩) (stage [0] []) (by decide)
theorem witness_flow_no_barrier : Meets flowCourse (trapsAs 0x04 0) := meets_of (.bararv ⟨false, 0, 16, 0⟩) (stage [0] []) (by decide)

theorem witness_call : Meets controlCourse isJumps :=
  meets_of (.call ⟨false, 14, 0, 0, 2⟩) (inFib (fun x => { x with wb := 784 }) (stage [0] [])) (by decide)
theorem witness_call_budget : Meets controlCourse (trapsAs 0x05 2) :=
  meets_of (.call ⟨false, 14, 0, 0, 2⟩) (inFib (fun x => { x with wb := 792 }) (stage [0] [])) (by decide)
theorem witness_ret_depth : Meets controlCourse (trapsAs 0x05 4) := meets_of (.ret ⟨false, 0, 0, 0⟩) (stage [0] []) (by decide)
theorem witness_ret : Meets controlCourse isJumps := meets_of (.ret ⟨false, 0, 0, 0⟩)
  (inFib (fun x => { x with wstack := [0], lanes := x.lanes.map (fun y => { y with depth := 1 }) }) (stage [0] [])) (by decide)
theorem witness_exit : Meets controlCourse isJumps := meets_of (.exit ⟨false, 0, 0, 0⟩) (stage [0] []) (by decide)
theorem witness_table_jump : Meets controlCourse isJumps := meets_of (.brx ⟨false, 0, 2, 0, 0⟩)
  (inBlk (fun x => { x with kd := { x.kd with jtlen := 8 } }) (stage [0] [])) (by decide)
theorem witness_table_trap : Meets controlCourse (trapsAs 0x06 0) := meets_of (.brx ⟨false, 0, 2, 0, 4⟩) (stage [0] []) (by decide)
theorem witness_table_call : Meets controlCourse isJumps := meets_of (.callx ⟨false, 1, 2, 0, 0⟩)
  (inMem 0 [0, 0, 0, 0, 8, 0, 0, 0] (inBlk (fun x => { x with kd := { x.kd with jtlen := 8 } }) (stage [0, 1] []))) (by decide)
theorem witness_waitm : Meets controlCourse isJumps := meets_of (.waitm ⟨false, 0, 0, 0⟩) (stage [0] []) (by decide)
theorem witness_barwait_open : Meets controlCourse isGoes := meets_of (.barwait ⟨false, 0, 0, 0⟩) (stage [0] []) (by decide)
theorem witness_barwait_held : Meets controlCourse isJumps := meets_of (.barwait ⟨false, 0, 0, 0⟩)
  (inFib (fun x => { x with pend := x.pend.set 0 (some 0) }) (stage [0] [])) (by decide)
theorem witness_win : Meets controlCourse isGoes := meets_of (.win ⟨false, 112, 0, 0⟩) (stage [0] []) (by decide)
theorem witness_win_budget : Meets controlCourse (trapsAs 0x05 1) := meets_of (.win ⟨false, 113, 0, 0⟩) (stage [0] []) (by decide)
theorem witness_fspawn : Meets controlCourse isGoes :=
  meets_of (.fspawn ⟨false, 4, 2, 6⟩) (stage [0] [(6, 1), (7, 896)]) (by decide)
theorem witness_fspawn_budget : Meets controlCourse (trapsAs 0x05 1) :=
  meets_of (.fspawn ⟨false, 4, 2, 6⟩) (stage [0] [(6, 1), (7, 904)]) (by decide)
theorem witness_fstop : Meets controlCourse isGoes := meets_of (.fstop ⟨false, 0, 2, 0⟩) (stage [0] [(2, 0)]) (by decide)
theorem witness_brk : Meets controlCourse (trapsAs 0x09 0) := meets_of (.brk ⟨false, 1, 2, 3⟩) (stage [0] []) (by decide)

/-- A load of a word at the pair v2. -/
def load : Instr := .ld ⟨false, 8, 2, 0, 4, xi 0⟩
theorem witness_load : Meets memoryCourse isGoes := meets_of load (stage [0, 1] [(2, 0xFFFC)]) (by decide)
theorem witness_load_parks : Meets memoryCourse isParts := meets_of load (stage [0, 1] [(2, 0xFFFFD), (3, 0)]) (by decide)
theorem witness_load_trap : Meets memoryCourse (trapsAs 0x02 0) := meets_of load (stage [0] [(3, 0x01000000)]) (by decide)
theorem witness_load_held : Meets memoryCourse isStays := meets_of load (locked (stage [0] [])) (by decide)
theorem witness_store : Meets memoryCourse isGoes := meets_of (.st ⟨false, 8, 2, 0, 4, xi 0⟩) (stage [0] [(2, 0x2000)]) (by decide)
theorem witness_local : Meets memoryCourse isGoes := meets_of (.stl ⟨false, 8, 2, 0, 2, xi 0⟩) (banks 1 (stage [0] [(2, 0x3FFC)])) (by decide)
theorem witness_local_trap : Meets memoryCourse (trapsAs 0x03 0) :=
  meets_of (.stl ⟨false, 8, 2, 0, 2, xi 0⟩) (banks 1 (stage [0] [(2, 0x3FFD)])) (by decide)
theorem witness_atomic : Meets memoryCourse isGoes := meets_of (.atom ⟨false, 6, 2, 4, 0, xi 0xC⟩) (stage [0] [(2, 0x2000)]) (by decide)
theorem witness_atomic_trap : Meets memoryCourse (trapsAs 0x02 0) :=
  meets_of (.atom ⟨false, 6, 2, 4, 0, xi 0xC⟩) (stage [0] [(2, 0x2002)]) (by decide)
theorem witness_reduction_full : Meets memoryCourse isStays :=
  meets_of (.red ⟨false, 0, 2, 4, 0, xi 0xC⟩) (counted (stage [0] [])) (by decide)

theorem witness_acquire : Meets syncCourse isGoes := meets_of (.acqx ⟨false, 4, 2, 3⟩) (stage [0] [(2, 0x2000)]) (by decide)
theorem witness_acquire_trap : Meets syncCourse (trapsAs 0x02 0) := meets_of (.acqx ⟨false, 4, 2, 3⟩) (stage [0] [(2, 0x2004)]) (by decide)
theorem witness_acquire_held : Meets syncCourse isStays := meets_of (.acqx ⟨false, 4, 2, 3⟩) (locked (stage [0] [])) (by decide)
theorem witness_bind : Meets syncCourse isGoes := meets_of (.bind ⟨false, 4, 2, 8⟩) (stage [0] [(8, 0x2000), (10, 64)]) (by decide)
theorem witness_handle_wait : Meets syncCourse isWaits := meets_of (.hwait ⟨false, 0, 5, 0⟩)
  (inBlk (fun x => { x with handles := [(5, { st := .filling, decl := ⟨0, false, 5, 64, 0, {}⟩ })] }) (stage [0] [])) (by decide)
theorem witness_put : Meets syncCourse isGoes := meets_of (.qput ⟨false, 4, 2, 6⟩) (banks 4 (stage [0] [(2, 0)])) (by decide)
theorem witness_put_none : Meets syncCourse (trapsAs 0x03 0) := meets_of (.qput ⟨false, 4, 2, 6⟩) (stage [0] [(2, 0)]) (by decide)
theorem witness_get_waits : Meets syncCourse isWaits := meets_of (.qget ⟨false, 4, 2, 0⟩) (banks 4 (stage [0] [(2, 0)])) (by decide)
theorem witness_count_waits : Meets syncCourse isWaits := meets_of (.waitc ⟨false, 0, 0, 62⟩) (counted (stage [0] [])) (by decide)
theorem witness_count : Meets syncCourse isGoes := meets_of (.waitc ⟨false, 0, 0, 63⟩) (counted (stage [0] [])) (by decide)
theorem witness_tryw : Meets syncCourse isGoes :=
  meets_of (.tryw ⟨false, 4, 2, 6, ⟨7, 0, false, false, 0, 1⟩⟩) (stage [0] [(2, 0x2000)]) (by decide)
theorem witness_tryw_waits : Meets syncCourse isWaits :=
  meets_of (.tryw ⟨false, 4, 2, 6, ⟨7, 0, false, false, 0, 0⟩⟩) (stage [0] [(2, 0x2000)]) (by decide)

/-- SMAP's operands: one line at 0x2000 into local 0 (R100). -/
def mapping (s0 : List (Nat × Word)) : State :=
  banks 2 (stage [0] ([(8, 0x2000), (9, 0), (10, 64), (11, 64 * 65536), (12, 1), (13, 0)] ++ s0))
theorem witness_smap : Meets stashCourse isGoes := meets_of (.smap ⟨false, 8, 2, 0⟩) (mapping []) (by decide)
theorem witness_smap_full : Meets stashCourse isStays := meets_of (.smap ⟨false, 8, 2, 0⟩) (counted (mapping [])) (by decide)
theorem witness_smap_address : Meets stashCourse (trapsAs 0x02 0) :=
  meets_of (.smap ⟨false, 8, 2, 0⟩) (mapping [(9, 0x01000000)]) (by decide)
theorem witness_smap_range : Meets stashCourse (trapsAs 0x03 0) := meets_of (.smap ⟨false, 8, 2, 0⟩) (mapping [(12, 0)]) (by decide)
theorem witness_sunmap_none : Meets stashCourse (trapsAs 0x03 0) := meets_of (.sunmap ⟨false, 0, 2, 0⟩) (mapping []) (by decide)
theorem witness_squery : Meets stashCourse isGoes := meets_of (.squery ⟨false, 4, 2, 0⟩) (mapping [(2, 0x100000)]) (by decide)
theorem witness_sadopt : Meets stashCourse isGoes := meets_of (.sadopt ⟨false, 4, 2, 0⟩) (mapping []) (by decide)

theorem witness_sopen : Meets streamCourse isGoes := meets_of (.sopen ⟨false, 7, 2, 4⟩) (stage [0] [(2, 0x2000)]) (by decide)
theorem witness_sopen_trap : Meets streamCourse (trapsAs 0x02 0) := meets_of (.sopen ⟨false, 7, 2, 4⟩) (stage [0] [(2, 0x2002)]) (by decide)
theorem witness_sopen_parks : Meets streamCourse isParts :=
  meets_of (.sopen ⟨false, 7, 2, 4⟩) (stage [0] [(2, 0x100000), (5, 1)]) (by decide)
theorem witness_sopen_held : Meets streamCourse isStays := meets_of (.sopen ⟨false, 7, 2, 4⟩) (locked (stage [0] [(5, 1)])) (by decide)
theorem witness_snext : Meets streamCourse isGoes := meets_of (.snext ⟨false, 12, 0, 0⟩) (stage [0, 1] []) (by decide)

/-- A gather of words from the base v2, index v4, bound v6. -/
def gather : Instr := .gath ⟨false, 8, 2, 4, 2, ⟨6, 0, false, false, 0, 0⟩⟩
theorem witness_gather : Meets engineIssueCourse isGoes := meets_of gather (stage [0] [(2, 0x2000), (6, 1)]) (by decide)
theorem witness_gather_dropped : Meets engineIssueCourse isGoes := meets_of gather (stage [0] [(2, 0x2000), (6, 0)]) (by decide)
theorem witness_gather_full : Meets engineIssueCourse isStays := meets_of gather (counted (stage [0] [(6, 1)])) (by decide)
theorem witness_gather_parks : Meets engineIssueCourse isParts := meets_of gather (stage [0] [(2, 0x100000), (6, 1)]) (by decide)
theorem witness_gather_trap : Meets engineIssueCourse (trapsAs 0x02 0) := meets_of gather (stage [0] [(2, 0x2001), (6, 1)]) (by decide)
theorem witness_scatter : Meets engineIssueCourse isGoes :=
  meets_of (.scata ⟨false, 8, 2, 4, ⟨6, 0, false, false, 0, 0x400⟩⟩) (stage [0] [(2, 0x2000), (6, 1)]) (by decide)
theorem witness_embed_trap : Meets engineIssueCourse (trapsAs 0x02 0) :=
  meets_of (.embl ⟨false, 16, 2, 4, xi 0⟩) (stage [0] [(2, 0x2004)]) (by decide)
theorem witness_embed : Meets engineIssueCourse isGoes := meets_of (.embl ⟨false, 16, 2, 4, xi 0⟩) (stage [0] [(2, 0x2000)]) (by decide)
theorem witness_embed_idle : Meets engineIssueCourse isGoes :=
  meets_of (.embl ⟨false, 16, 2, 4, ⟨0, 8, true, false, 0, 0⟩⟩) (stage [0] [(2, 0x2004)]) (by decide)
theorem witness_bin : Meets engineIssueCourse isGoes := meets_of (.bins ⟨false, 9, 4, 5⟩) (banks 1 (stage [0] [])) (by decide)
theorem witness_bin_trap : Meets engineIssueCourse (trapsAs 0x03 0) := meets_of (.bins ⟨false, 9, 4, 5⟩) (stage [0] []) (by decide)
theorem witness_binr_waits : Meets engineIssueCourse isWaits := meets_of (.binr ⟨false, 9, 4, 0⟩) (counted (banks 1 (stage [0] []))) (by decide)

/-- The stage with a child context of name 0x1001. -/
def family (st : CtxSt) (regs : List (Nat × Word)) : State :=
  let s := stage [0] ([(2, 0x1001)] ++ regs)
  { s with ctxs := mset s.ctxs 1 { gen := 1, st := st, depth := 1, quads := [0, 0, 0, 0] } }
theorem witness_ctxrun : Meets contextCourse isGoes := meets_of (.ctxrun ⟨false, 4, 2, 0⟩) (family .created []) (by decide)
theorem witness_ctxrun_none : Meets contextCourse isGoes := meets_of (.ctxrun ⟨false, 4, 2, 0⟩) (stage [0] []) (by decide)
theorem witness_ctxstop_waits : Meets contextCourse isWaits := meets_of (.ctxstop ⟨false, 4, 2, 6⟩) (family .stopping [(6, 2)]) (by decide)
theorem witness_ctxrevoke_waits : Meets contextCourse isWaits := meets_of (.ctxrevoke ⟨false, 4, 2, 6⟩) (family .running [(6, 2)]) (by decide)
theorem witness_ctxmap_trap : Meets contextCourse (trapsAs 0x02 0) := meets_of (.ctxmap ⟨false, 4, 2, 6⟩) (family .created [(6, 8)]) (by decide)
theorem witness_ctxmap_parks : Meets contextCourse isParts :=
  meets_of (.ctxmap ⟨false, 4, 2, 6⟩) (family .created [(6, 0x100000)]) (by decide)
theorem witness_ctxmap_held : Meets contextCourse isStays := meets_of (.ctxmap ⟨false, 4, 2, 6⟩) (locked (family .created [])) (by decide)

theorem witness_ticket : Meets ticketCourse isGoes := meets_of (.trapret ⟨false, 4, 2, 0⟩) (stage [0] []) (by decide)
theorem witness_profile : Meets profileCourse isGoes := meets_of (.profOpen ⟨false, 4, 2, 6⟩) (family .running [(6, 0x2000)]) (by decide +kernel)
theorem witness_profile_trap : Meets profileCourse (trapsAs 0x02 0) :=
  meets_of (.trialStart ⟨false, 4, 2, 6⟩) (family .running [(6, 0x2020)]) (by decide)
theorem witness_profile_parks : Meets profileCourse isParts :=
  meets_of (.trialStart ⟨false, 4, 2, 6⟩) (family .running [(6, 0x100000)]) (by decide)
theorem witness_profile_held : Meets profileCourse isStays :=
  meets_of (.trialStart ⟨false, 4, 2, 6⟩) (locked (family .running [])) (by decide)

theorem witness_taskend : Meets taskCourse isJumps := meets_of (.taskend ⟨false, 0, 0, 0⟩) (stage [0] []) (by decide)
theorem witness_spawn_trap : Meets taskCourse (trapsAs 0x02 0) := meets_of (.spawn ⟨false, 4, 2, 6⟩) (stage [0] [(3, 0x01000000)]) (by decide)
theorem witness_collective : Meets taskCourse isGoes := meets_of (.coll ⟨false, 0, 2, 0, xi 0⟩) (stage [0] [(2, 0x2000)])
  (by decide +kernel)
theorem witness_collective_idle : Meets taskCourse isGoes :=
  meets_of (.coll ⟨false, 0, 2, 0, ⟨0, 8, true, false, 0, 0⟩⟩) (stage [0] []) (by decide)
theorem witness_collective_full : Meets taskCourse isStays := meets_of (.coll ⟨false, 0, 2, 0, xi 0⟩) (counted (stage [0] [])) (by decide)

theorem witness_trap : readyAt (.trap ⟨false, 127, 127, 127⟩) (stage [0, 31] []) = true := by decide
theorem witness_brk16 : wf (.brk16 ⟨false, 1023⟩) = true ∧
    issuing { blk := 0, lanes := [0], pc := 0x1000, next := 0x1004 } (stage [0] []) = true := by decide

/-- The stage with the word of IADD as entry 1023 of the dictionary. -/
def worded : State :=
  { inBlk (fun x => { x with dict := List.replicate 1024 (.word 0x00080800) }) (stage [0] []) with
    cur := some { blk := 0, lanes := [0], pc := 0x1000, next := 0x1004, entries := [(1023, 0x00080800)] } }
theorem witness_dictionary : ∃ (p : Parcel) (i : Issue) (s : State) (w : Word) (ins : Instr) (r : Raw) (g : Row Word),
    let x : Parcel16 := (0b10#2) ++ BitVec.ofBool p.s ++ (0b000#3) ++ p.index
    let u := settleEntryOf s i x
    let j := { i with entries := mset i.entries p.index.toNat w, insn := w, ext := x.setWidth 32 }
    s.cur = some i ∧ entryOf u i p.index.toNat = some (.word w) ∧
    r = { rawWord w none none with s := w.getLsbD 24 || p.s } ∧ entryLegal w = true ∧ Forms.check false r = none ∧ inLanes ins r ∧
    integerRow ins = some g ∧ ready r j { u with cur := some j } = true :=
  ⟨⟨true, 1023⟩, { blk := 0, lanes := [0], pc := 0x1000, next := 0x1004, entries := [(1023, 0x00080800)] }, worded, 0x00080800,
    .iadd ⟨true, 4, 2, 0⟩, _, _, by decide +kernel, by decide +kernel, rfl, by decide, by decide, ⟨by rfl, by decide, by decide⟩, rfl,
    by decide +kernel⟩

/-- REP of three, stepping D and A by 1, before an IADD at 0x1004. -/
def repeating : State :=
  let s := (stage [0] []).withFetchWord 64 (0x7C044800 + 2 ^ 32 * 0x01080800)
  { updFib s 0 0 0 (fun _ => startFib 0x1000 1 0 1) with cur := some { blk := 0, lanes := [0], pc := 0x1000, next := 0x1004 } }
theorem witness_repeat : ∃ (r : R3) (i : Issue) (s u : State) (ps : List Parcel16) (t : Raw) (n : Nat) (ins : Instr),
    s.cur = some i ∧ i.target = [] ∧ fetchCode s (coreIs s i) (ctxIs s i) (i.pc + 4).toNat .lane = .ok (u, ps) ∧
    isShort (par ps 0) = false ∧
    frame (wordOf (par ps 0) (par ps 1)) (wordOf (par ps 2) (par ps 3)) = some (t, n) ∧ Forms.check false t = none ∧
    repWrong (repFields r) t = false ∧
    inLanes ins (repeated (repFields r) t (min (laneD (fibIs s i) (lowest i.lanes)).rep (repFields r).last)) ∧
    (integerRow ins).isSome = true ∧
    ready (repeated (repFields r) t 0) (repIssue i (repFields r) ps n 0) { u with cur := some (repIssue i (repFields r) ps n 0) } = true :=
  ⟨⟨false, 2, 0x12, 0⟩, { blk := 0, lanes := [0], pc := 0x1000, next := 0x1004 }, repeating, _, _, _, _, .iadd ⟨false, 4, 2, 0⟩,
    by rfl, by rfl, by rfl, by rfl, by rfl, by decide, by decide, ⟨by rfl, by decide, by decide⟩, by decide, by decide +kernel⟩
/-- The issue of that REP while it waits in a repetition, with its target. -/
def kept : Issue := { blk := 0, lanes := [0], pc := 0x1000, next := 0x1004, target := [0x0108, 0x0800] }
theorem witness_repeat_kept : ready (repeated (repFields ⟨false, 2, 0x12, 0⟩) ((R3.mk true 4 2 0).raw 0#7 0#3) 0)
    (repIssue kept (repFields ⟨false, 2, 0x12, 0⟩) kept.target 2 0)
    { repeating with cur := some (repIssue kept (repFields ⟨false, 2, 0x12, 0⟩) kept.target 2 0) } = true ∧ kept.target ≠ [] ∧
    frame (wordOf (par kept.target 0) (par kept.target 1)) (wordOf (par kept.target 2) (par kept.target 3)) =
      some ((R3.mk true 4 2 0).raw 0#7 0#3, 2) := ⟨by decide +kernel, by decide, by rfl⟩

/-- The group of `stage` of one lane. -/
def lone : Issue := { blk := 0, lanes := [0], pc := 0x1000, next := 0x1004 }

/-- An instruction is one of the lane stream. -/
theorem lanes_iadd : inLanes (.iadd ⟨false, 4, 2, 6⟩) ((R3.mk false 4 2 6).raw 0#7 0#3) := ⟨rfl, by decide, by decide⟩

/-- The stage with the word of register 2 poisoned in lane 0. -/
def tainted : State := updSlot (stage [0] []) 0 0 (fun x => { x with regs := [(2, { vals := List.replicate 32 1, poison := 1 })] })
theorem witness_poison : issuing lone tainted = true ∧
    spilled tainted 0 0 (touched ((R3.mk false 4 2 6).raw 0#7 0#3) (fibIs tainted lone).wb) = [] ∧
    lacksRoom tainted 0 0 (destRegs ((R3.mk false 4 2 6).raw 0#7 0#3) (fibIs tainted lone).wb ++
      linkRegs ((R3.mk false 4 2 6).raw 0#7 0#3) (fibIs tainted lone).wb) = false ∧
    poisonHit ((R3.mk false 4 2 6).raw 0#7 0#3) (Safety.ops ((R3.mk false 4 2 6).raw 0#7 0#3) lone tainted) tainted = some (2, 1) := by
  decide

/-- The stage with registers 0 to 7 spilled. -/
def away : State := updSlot (stage [0] []) 0 0 (fun x => { x with chunks := [(0, { st := .bank, used := 0 })] })
theorem witness_spilled : issuing lone away = true ∧
    spilled away 0 0 (touched ((R3.mk false 4 2 6).raw 0#7 0#3) (fibIs away lone).wb) ≠ [] := by decide

/-- The stage with every physical chunk taken by a refill. -/
def crowded : State := updSlot (stage [0] []) 0 0 (fun x => { x with
  chunks := (List.range 152).map (fun k => (k + 1, { st := .refilling, used := 0 })) })
theorem witness_crowded : issuing lone crowded = true ∧
    spilled crowded 0 0 (touched ((R3.mk false 4 2 6).raw 0#7 0#3) (fibIs crowded lone).wb) = [] ∧
    lacksRoom crowded 0 0 (destRegs ((R3.mk false 4 2 6).raw 0#7 0#3) (fibIs crowded lone).wb ++
      linkRegs ((R3.mk false 4 2 6).raw 0#7 0#3) (fibIs crowded lone).wb) = true := by decide +kernel

/-- A guarded SEL whose guard is 0, with every last-use bit. -/
def idle : RX := ⟨false, 4, 2, 6, ⟨7, 8, true, false, 7, 0⟩⟩
theorem witness_no_active_lane : inLanes (.sel idle) (idle.raw 0x11#7 0#3) ∧ readyAt (.sel idle) (stage [0] [(2, 1)]) = true ∧
    (Safety.ops (idle.raw 0x11#7 0#3) lone (stage [0] [(2, 1)])).act = [] := ⟨⟨rfl, by decide, by decide⟩, by decide, by decide⟩

/-- The fields of a load or a store of a word at the pair v2. -/
def wordAt : RXF := ⟨false, 8, 2, 0, 4, xi 0⟩
/-- The fields of a store of a word at the pair v2. -/
def storeAt : RXF := ⟨false, 8, 2, 0, 2, xi 0⟩
/-- The last word of the first page. -/
def lastWord : State := stage [0] [(2, 0xFFFC), (8, 0x11223344)]
theorem witness_loaded : readyAt (.ld wordAt) lastWord = true ∧ lastWord.mappings = [] ∧
    reaches lone (Safety.ops (wordAt.raw 0x28#7) lone lastWord) lastWord .read (widthOf false 4)
      (globalAddr wordAt.x (Safety.ops (wordAt.raw 0x28#7) lone lastWord)) = true := by decide
theorem witness_stored : readyAt (.st storeAt) lastWord = true ∧ lastWord.mappings = [] ∧ lastWord.mem.wf = true ∧
    reaches lone (Safety.ops (storeAt.raw 0x29#7) lone lastWord) lastWord .write (widthOf true 2)
      (globalAddr storeAt.x (Safety.ops (storeAt.raw 0x29#7) lone lastWord)) = true := by decide
/-- The byte at 0xFFFF lies in the store, the one before it does not. -/
theorem witness_stored_bytes : laneBytes lone lastWord .write 4 0xFFFC = some [0xFFFC, 0xFFFD, 0xFFFE, 0xFFFF] ∧
    ¬0xFFFB ∈ [0xFFFC, 0xFFFD, 0xFFFE, 0xFFFF] := by decide
theorem witness_store_frame : ∃ t, exec (.st storeAt) lastWord = .next t ∧ Memory.rd t.mem 0xFFFF = 0x11 ∧ Memory.rd t.mem 0xFFFB = 0 :=
  ⟨_, rfl, by decide, by decide⟩
theorem witness_local_stored : readyAt (.stl storeAt) (banks 1 (stage [0] [(2, 0x3FFC)])) = true ∧
    (banks 1 (stage [0] [(2, 0x3FFC)])).mappings = [] ∧ (banks 1 (stage [0] [(2, 0x3FFC)])).sram.wf = true ∧
    (localOk (banks 1 (stage [0] [(2, 0x3FFC)])) 0 0 0x3FFC 4 true).isSome = true := by decide

/-! ### Witnesses of the sequencer -/

/-- The group of a sequencer. -/
def sequencing : Issue := { blk := 0, pc := 0x1000, next := 0x1004, seq := true }
/-- A running block with a sequencer that issues, and `g` of it changed. -/
def ministage (g : Seqr → Seqr) : State :=
  let s := State.reset.withFetchWord 32 0xEC000000
  { updSeq s 0 g with cur := some sequencing }

/-- The hypotheses of `SeqKeeps` are met with a course of the kind `p`. -/
def SeqMeets (table : Instr → Issue → State → Option SeqCourse) (p : SeqCourse → Bool) : Prop :=
  ∃ (ins : Instr) (i : Issue) (s : State) (c : SeqCourse), wf ins = true ∧ s.cur = some i ∧ i.seq = true ∧
    table ins i s = some c ∧ p c = true

theorem seqMeets_of {table : Instr → Issue → State → Option SeqCourse} {p : SeqCourse → Bool} (ins : Instr) (g : Seqr → Seqr)
    (h : ∃ c, table ins sequencing (ministage g) = some c ∧ p c = true) (w : wf ins = true) : SeqMeets table p := by
  obtain ⟨c, h, k⟩ := h
  exact ⟨ins, sequencing, ministage g, c, w, rfl, rfl, h, k⟩

/-- The kinds of a sequencer's course: it goes on. -/
def seqGoes (c : SeqCourse) : Bool := match c with | .goes _ => true | _ => false
/-- It jumps. -/
def seqJumps (c : SeqCourse) : Bool := match c with | .jumps _ _ => true | _ => false
/-- It stalls. -/
def seqStalls (c : SeqCourse) : Bool := match c with | .stalls _ => true | _ => false
/-- It ends. -/
def seqEnds (c : SeqCourse) : Bool := match c with | .ends _ => true | _ => false
/-- It traps with a cause. -/
def seqTraps (k : Nat) (c : SeqCourse) : Bool := match c with | .traps a _ => a == k | .trapsIn _ a _ => a == k | _ => false

theorem witness_mfmt : SeqMeets seqControl seqGoes := seqMeets_of (.mfmt ⟨false, 6, 6, 0⟩) id ⟨_, rfl, by decide⟩ (by decide)
theorem witness_mshape_zero : SeqMeets seqControl (seqTraps 0x0A) :=
  seqMeets_of (.mshape ⟨false, 63, 63, 4⟩) id ⟨_, rfl, by decide⟩ (by decide)
theorem witness_mshape : SeqMeets seqControl seqGoes :=
  seqMeets_of (.mshape ⟨false, 63, 63, 4⟩) (fun q => { q with q := q.q.set 4 65536 }) ⟨_, rfl, by decide⟩ (by decide)
theorem witness_mjmp : SeqMeets seqControl seqJumps := seqMeets_of (.mjmp ⟨false, 0, 0, 0, 1⟩) id ⟨_, rfl, by decide⟩ (by decide)
theorem witness_mjmp_out : SeqMeets seqControl (seqTraps 0x0B) :=
  seqMeets_of (.mjmp ⟨false, 0, 0, 0, 4⟩) id ⟨_, rfl, by decide⟩ (by decide)
theorem witness_mwait : SeqMeets seqControl seqGoes :=
  seqMeets_of (.mwait ⟨false, 0, 3, 0⟩) (fun q => { q with queue := q.queue.set 3 [0] }) ⟨_, rfl, by decide⟩ (by decide)
theorem witness_mend : SeqMeets seqControl seqEnds := seqMeets_of (.mend ⟨false, 0, 0, 0⟩) id ⟨_, rfl, by decide⟩ (by decide)
theorem witness_mwld_bad : SeqMeets seqProduct (fun _ => true) :=
  seqMeets_of (.mwld ⟨false, 0, 3, 0, 0⟩) id ⟨_, rfl, by decide⟩ (by decide)
theorem witness_mmz_slot : SeqMeets seqProduct (fun _ => true) := seqMeets_of (.mmz ⟨false, 7, 3, 3⟩) id ⟨_, rfl, by decide⟩ (by decide)
theorem witness_mzero : SeqMeets seqTile seqGoes := seqMeets_of (.mzero ⟨false, 7, 0, 0⟩) id ⟨_, rfl, by decide⟩ (by decide)
theorem witness_mact : SeqMeets seqTile seqGoes := seqMeets_of (.mact ⟨false, 7, 0, 1⟩) id ⟨_, rfl, by decide⟩ (by decide)
theorem witness_mact_lost : SeqMeets seqTile (seqTraps 0x0C) :=
  seqMeets_of (.mact ⟨false, 7, 0, 1⟩) (fun q => { q with lost := [.tile 7 0] }) ⟨_, rfl, by decide⟩ (by decide)

/-! ### Witnesses of events, commands and requests -/

theorem witness_group_select : (issueEvents (.groupSelect 0 0 0) (inFib (fun x => { x with gcount := 64 }) (stage [0] []))).isSome = true := by
  decide
/-- A TRYW of v4 that waits while the word at the pair v2 is that of v6. -/
def watch : RX := ⟨false, 4, 2, 6, ⟨7, 0, false, false, 0, 0⟩⟩
/-- The operands of its issue, where v6 holds `b`. -/
def watchEnv (b : Word) : Env :=
  mkEnv (watch.raw 0x3C#7 0#3) { lone with code := encode (.tryw watch) } (stage [0] [(2, 0x2000), (6, b)])
/-- Its wait. -/
def watchWait (b : Word) : Wait :=
  { kind := .retry, lanes := [0], env := some (watchEnv b), last := List.replicate 32 0, id := 5 }
/-- The stage with its fibre in that wait. -/
def watching (b : Word) : State :=
  inFib (fun x => { x with wait := some (watchWait b) }) (updSlot { stage [0] [(2, 0x2000), (6, b)] with cur := none } 0 0 (fun x =>
    { x with regs := mset x.regs 4 { vals := List.replicate 32 9, late := [{ id := 5, fib := 0, mask := 1 }] } }))
theorem witness_reread : Rereads (watching 1) 0 0 0 (watchWait 1) (watchEnv 1) 0 watch ∧
    (watchEnv 1).act.all (waitOver (watching 1) (watchWait 1) (watchEnv 1) watch
      (readings { watching 1 with cur := some (watchEnv 1).i } (watchEnv 1) 0)) = true ∧ 0 ∈ awaiting (watching 1) 0 0 4 5 :=
  ⟨⟨by decide, by decide, by decide, by decide, by decide, by decide⟩, by decide, by decide⟩
theorem witness_reread_waits : Rereads (watching 0) 0 0 0 (watchWait 0) (watchEnv 0) 0 watch ∧
    (watchEnv 0).act.all (waitOver (watching 0) (watchWait 0) (watchEnv 0) watch
      (readings { watching 0 with cur := some (watchEnv 0).i } (watchEnv 0) 0)) = false :=
  ⟨⟨by decide, by decide, by decide, by decide, by decide, by decide⟩, by decide⟩
theorem test_reread : ∃ t, exec (.trywPoll 0 0 0) (watching 1) = .next t ∧ regWord t 0 0 4 0 = 0 ∧ (fibD t 0 0 0).wait = none :=
  ⟨_, rfl, by decide +kernel, by decide +kernel⟩

/-- R463: the physical address of a line, split: its colour, its L2 set, its stack, its pseudo-channel group. -/
theorem test_colour : colour 0x2345671240 = 14 ∧ l2Set 0x2345671240 = 0x3849 := by decide

theorem witness_lend : (scheduleEvents (.quadReclaim 0 0 0) (stage [0] [])).isSome = true := by decide
theorem witness_retire : (blockSteps (.blockRetire 0) (stage [0] [])).isSome = true := by decide
theorem witness_fill : (engineEvents (.stashFillReturn 0 0) (stage [0] [])).isSome = true := by decide
theorem witness_flr : (memoryEvents (.functionLevelReset 0) State.reset).isSome = true := by decide
theorem witness_scrub : (errorEvents (.patrolScrub 0) State.reset).isSome = true := by decide
theorem witness_completion : (outsideEvents (.hostCompletion 0x8000000000000 .refused) State.reset).isSome = true := by decide
theorem witness_package_reset : (kennelSteps .packageReset State.reset).isSome = true := by decide

/-- A request of master 3 without operands. -/
def request : Mbx := ⟨3, 1, 0, 0, [], none⟩
/-- The package in service, without an owner. -/
def serving : State := updKen State.reset (fun k => { k with phase := .running })
theorem witness_mailbox_closed : (commands (.claim request) State.reset).isSome = true ∧ ¬listens State.reset 3 := by
  refine ⟨rfl, fun h => ?_⟩
  exact h.2.1 rfl
theorem witness_mailbox_refused : (commands (.release request) serving).isSome = true ∧ listens serving 3 ∧
    refusal serving request 4 false = some 3 := by
  refine ⟨rfl, ⟨by decide, by decide, by decide, by decide⟩, by decide⟩
theorem witness_mailbox_taken : (commands (.claim request) serving).isSome = true ∧ listens serving 3 ∧
    refusal serving request 1 true = none := by
  refine ⟨rfl, ⟨by decide, by decide, by decide, by decide⟩, by decide⟩
theorem witness_mtrap : (mtrapOf (.mtrapNext request)).isSome = true := rfl
/-- An SPDM request of master 3. -/
def hello : SpdmReq := ⟨3, 0, []⟩
theorem witness_spdm : (spdmRow (.getVersion hello) serving).isSome = true ∧ attests serving 3 ∧ ¬attests serving 4 :=
  ⟨rfl, ⟨⟨by decide, by decide, by decide, by decide⟩, by decide, by decide⟩, fun h => absurd h.1.1 (by decide)⟩
/-- The package with a finished session of master 3. -/
def trusted : State := updKen serving (fun k => { k with spdm := k.spdm.modify 3 (fun x => { x with finished := true }) })
theorem witness_tdisp : (tdispRow (.lockInterfaceRequest 1023)).isSome = true ∧ tdispMaster trusted 3 ∧ ∀ m, ¬tdispMaster serving m := by
  refine ⟨rfl, ⟨⟨⟨by decide, by decide, by decide, by decide⟩, by decide, by decide⟩, by decide, fun j hj h => ?_⟩, fun m h => ?_⟩
  · obtain rfl | rfl | rfl : j = 0 ∨ j = 1 ∨ j = 2 := by omega
    all_goals exact absurd h.2 (by decide)
  · have := h.1.1.1
    obtain rfl | rfl | rfl | rfl : m = 0 ∨ m = 1 ∨ m = 2 ∨ m = 3 := by omega
    all_goals exact absurd h.2.1 (by decide)

/-! ### Witnesses of encoding and steps -/

theorem witness_encode : wf (.iadd ⟨true, 127, 0, 64⟩) = true ∧ isEvent (.iadd ⟨true, 127, 0, 64⟩) = false ∧
    wf (.mloop ⟨false, 31, 0, 0, 0xFFFFFFFF⟩) = true ∧ isEvent (.mloop ⟨false, 31, 0, 0, 0xFFFFFFFF⟩) = false := by decide
theorem witness_stream : ∃ i n r, decode4 true 0xE400 0x0801 0 0 = .ok (i, n) ∧ rawOf i = some r ∧ Forms.isM r.op.toNat = true :=
  ⟨.mmz ⟨false, 0, 2, 0⟩, 2, _, rfl, rfl, by decide⟩

/-- Reset with the word of IADD where the next step fetches. -/
def placed : State := State.reset.withFetchWord 32 0x00080800
theorem witness_picks : Picks placed 0 0 0 :=
  ⟨rfl, by decide, by decide, by decide⟩
theorem witness_step : ∃ u ps ins n, groupFetch placed 0 0 0 = .ok (u, ps) ∧ (groupPc placed 0 0 0).toNat % 2 = 0 ∧
    decode4 false (par ps 0) (par ps 1) (par ps 2) (par ps 3) = .ok (ins, n) := ⟨_, _, .iadd ⟨false, 4, 2, 0⟩, 2, rfl, by decide, rfl⟩
/-- Reset with the word of MEND where the next step fetches. -/
def placedM : State := State.reset.withFetchWord 32 0xEC000000
theorem witness_step_m : PicksSeq placedM 0 ∧ (seqD placedM 0).mpc.toNat % 2 = 0 ∧
    ∃ u ps ins n, fetchCode placedM (coreOf (blkD placedM 0) 0) (blkD placedM 0).ctx (seqD placedM 0).mpc.toNat .mstream = .ok (u, ps) ∧
      decode4 true (par ps 0) (par ps 1) (par ps 2) (par ps 3) = .ok (ins, n) :=
  ⟨⟨rfl, by decide⟩, by decide, _, _, .mend ⟨false, 0, 0, 0⟩, 2, rfl, rfl⟩
/-- Reset with a reserved word where the next step fetches. -/
def placedBad : State := State.reset.withFetchWord 32 0x42000000
theorem witness_illegal : Picks placedBad 0 0 0 ∧ ∃ u ps, groupFetch placedBad 0 0 0 = .ok (u, ps) ∧
    decode4 false (par ps 0) (par ps 1) (par ps 2) (par ps 3) = .error 0x01 :=
  ⟨⟨rfl, by decide, by decide, by decide⟩, _, _, rfl, rfl⟩
/-- Reset with a REP whose bit S is 1 before a word with a reserved opcode. -/
def placedRep : State := State.reset.withFetchWord 64 (0x7D024000 + 2 ^ 32 * 0x42000000)
theorem witness_illegal_rep : Picks placedRep 0 0 0 ∧ ∃ u ps, groupFetch placedRep 0 0 0 = .ok (u, ps) ∧
    decode4 false (par ps 0) (par ps 1) (par ps 2) (par ps 3) = .error 0x03 ∧ (par ps 0).extractLsb' 9 7 = 0x3E#7 ∧
    lowerReason u (groupIssue placedRep 0 0 0 ps) (0x1000 + 4) 0x03 = 0x01 :=
  ⟨⟨rfl, by decide, by decide, by decide⟩, _, _, rfl, rfl, by decide, by decide +kernel⟩
/-- A REP of three before a REP. -/
def repeatingRep : State :=
  let s := (stage [0] []).withFetchWord 64 (0x7C044800 + 2 ^ 32 * 0x7C020000)
  { updFib s 0 0 0 (fun _ => startFib 0x1000 1 0 1) with cur := some lone }
theorem witness_rep_fault : issuing lone repeatingRep = true ∧ lone.target = [] ∧
    ∃ v qs, fetchCode repeatingRep (coreIs repeatingRep lone) (ctxIs repeatingRep lone) (lone.pc + 4).toNat .lane = .ok (v, qs) ∧
      repFault (settleEntryOf v lone (par qs 0)) lone (repFields ⟨false, 2, 0x12, 0⟩) qs = some 8 :=
  ⟨by decide, rfl, _, _, rfl, by decide +kernel⟩
theorem witness_empty_entry : issuing lone (stage [0] []) = true ∧
    encodingAt (settleEntryOf (stage [0] []) lone 0x8005) lone [0x8005] = some (.error 0x07) := ⟨by decide, by rfl⟩
/-- Reset with MEND whose bit S is 1 where the next step fetches. -/
def placedBadM : State := State.reset.withFetchWord 32 0xED000000
theorem witness_illegal_m : PicksSeq placedBadM 0 ∧ (seqD placedBadM 0).mpc.toNat % 2 = 0 ∧
    ∃ u ps, fetchCode placedBadM (coreOf (blkD placedBadM 0) 0) (blkD placedBadM 0).ctx (seqD placedBadM 0).mpc.toNat .mstream = .ok (u, ps) ∧
      decode4 true (par ps 0) (par ps 1) (par ps 2) (par ps 3) = .error 0x09 ∧ (blkD u 0).seqr.isSome = true :=
  ⟨⟨rfl, by decide⟩, by decide, _, _, rfl, rfl, by decide⟩
/-- The sequencer stands at an odd address. -/
def placedOddM : State := updSeq placedM 0 (fun q => { q with mpc := 0x1001 })
theorem witness_odd_m : PicksSeq placedOddM 0 ∧ (seqD placedOddM 0).mpc.toNat % 2 = 1 ∧ (blkD placedOddM 0).seqr.isSome = true :=
  ⟨⟨rfl, by decide⟩, by decide, by decide⟩
/-- The instruction stands at an odd address. -/
def placedOdd : State := updFib placed 0 0 0 (fun x => { x with lanes := x.lanes.map (fun y => { y with pc := 0x1001 }) })
theorem witness_odd : Picks placedOdd 0 0 0 ∧ (groupPc placedOdd 0 0 0).toNat % 2 = 1 := ⟨⟨rfl, by decide, by decide, by decide⟩, by decide⟩
theorem witness_ready_fibre : Act.issue 0 0 0 ∈ acts placed ∧ (mget placed.blocks 0).isSome = true := by decide
theorem placed_counters (b k f c : Nat) : (fibD placed b k f).ctrs.getD c 0 ≤ 63 := by
  have h : (fibD placed b k f).ctrs = List.replicate 6 0 := by
    match b, k, f with
    | 0, 0, 0 | 0, 0, 1 | 0, 0, 2 | 0, 0, 3 | 0, 0, _ + 4 => rfl
    | 0, _ + 1, 0 | 0, _ + 1, 1 | 0, _ + 1, 2 | 0, _ + 1, 3 | 0, _ + 1, _ + 4 => rfl
    | _ + 1, 0, 0 | _ + 1, 0, 1 | _ + 1, 0, 2 | _ + 1, 0, 3 | _ + 1, 0, _ + 4 => rfl
    | _ + 1, _ + 1, 0 | _ + 1, _ + 1, 1 | _ + 1, _ + 1, 2 | _ + 1, _ + 1, 3 | _ + 1, _ + 1, _ + 4 => rfl
  rw [h]
  match c with
  | 0 | 1 | 2 | 3 | 4 | 5 => decide
  | _ + 6 => exact Nat.zero_le 63
theorem witness_canonical : placed.mem.wf = true ∧ placed.sram.wf = true ∧ countersHold placed ∧ ringsHold placed ∧
    ∃ t, step placed = .next t :=
  ⟨by decide, by decide, placed_counters, ⟨by decide, by decide⟩, _, rfl⟩
/-- The placed word with v0 = 3 and v2 = 4. -/
def loaded : State :=
  updSlot placed 0 0 (fun x => { x with regs := [(0, { vals := List.replicate 32 3 }), (2, { vals := List.replicate 32 4 })] })
/-- The machine with `withFetchWord` runs the word: the step is the issue of the fibre, and v4 receives v2 + v0. -/
theorem test_step_iadd : step loaded = withTick (some (.issue 0 0 0)) loaded (runAct (.issue 0 0 0) loaded) ∧
    ∃ t, runAct (.issue 0 0 0) loaded = .next t ∧ regWord t 0 0 4 0 = 7 := ⟨rfl, _, rfl, by decide +kernel⟩

end Sys2Proof.Tests
end

section
/-!
SUPPORT. Instructions whose result is a register pair: what their words say of field D, and the words that the tables give.
-/

namespace Sys2Proof.Safety

open Sys2Proof.Machine

/-! ### Well-formed words (R52, R149, R167) -/

theorem least_none {l : List Nat} (h : Forms.least l = none) : l = [] := by
  cases l with
  | nil => rfl
  | cons x xs => exact absurd h (by simp [Forms.least])

/-- R149, R167: fields D and B of a framed word that is an instruction give no reason. -/
theorem check_fields {m : Bool} {r : Raw} (h : Forms.check m r = none) :
    Forms.useReasons (Forms.ofRaw r).d r.d.toNat = [] ∧ Forms.useReasons (Forms.ofRaw r).b r.b.toNat = [] := by
  have h := least_none h
  simp only [Forms.reasons] at h
  split at h
  · exact absurd h (by simp)
  · split at h
    · exact absurd h (by simp)
    · simp only [List.append_eq_nil_iff] at h
      tauto

/-- R52: a field D that names a pair is even. -/
theorem even_of_check {m : Bool} {r : Raw} (h : Forms.check m r = none) (hd : (Forms.ofRaw r).d = Forms.v2) : r.d.toNat % 2 = 0 := by
  have h := (check_fields h).1
  simp only [hd, Forms.v2, Forms.useReasons, List.append_eq_nil_iff] at h
  by_contra hne
  exact absurd h.1 (by simp [hne])

/-- R176: a field B that names a number is below its limit. -/
theorem below_of_check {m : Bool} {r : Raw} {k : Nat} (h : Forms.check m r = none) (hb : (Forms.ofRaw r).b = .lim k) :
    r.b.toNat < k := by
  have h := (check_fields h).2
  by_contra hne
  exact absurd h (by simp [hb, Forms.useReasons, hne])

/-- The words of a well-formed instruction pass every check of its own stream. -/
theorem check_of_wf {ins : Instr} {r : Raw} (hw : wf ins = true) (hr : rawOf ins = some r) :
    Forms.check (Forms.isM r.op.toNat) r = none := by
  simp only [wf, Option.isNone_iff_eq_none] at hw
  unfold illFormed at hw
  split at hw
  · exact absurd hr (by simp [rawOf])
  · simpa only [hr] using hw

/-! ### 64-bit words -/

theorem ofInt_add_word (x : Int) (c : DWord) : dwordOfInt x + c = .ofInt 64 (x + c.toNat) := by
  rw [dwordOfInt, BitVec.ofInt_add, BitVec.ofInt_natCast, BitVec.ofNat_toNat, BitVec.setWidth_eq]

theorem ofNat_add_word (x : Nat) (c : DWord) : BitVec.ofNat 64 x + c = .ofNat 64 (x + c.toNat) := by
  rw [BitVec.ofNat_add, BitVec.ofNat_toNat, BitVec.setWidth_eq]

theorem add_word (a b : DWord) : a + b = .ofNat 64 (a.toNat + b.toNat) := by
  simpa using ofNat_add_word a.toNat b

theorem neg_word (a : DWord) : -a = .ofInt 64 (-(a.toNat : Int)) := by
  rw [BitVec.ofInt_neg, BitVec.ofInt_natCast, BitVec.ofNat_toNat, BitVec.setWidth_eq]

theorem sub_word (a b : DWord) : a - b = .ofInt 64 (a.toNat - b.toNat : Int) := by
  rw [BitVec.sub_eq_add_neg, neg_word, Int.sub_eq_add_neg, BitVec.ofInt_add, BitVec.ofInt_natCast, BitVec.ofNat_toNat,
    BitVec.setWidth_eq]

/-- R187: a left shift multiplies by a power of two. -/
theorem shlD_eq (a : DWord) (n : Nat) : shlD a n = if 64 ≤ n then 0#64 else .ofNat 64 (a.toNat * 2 ^ n) := by
  unfold shlD
  split
  · rfl
  · apply BitVec.eq_of_toNat_eq
    rw [BitVec.toNat_shiftLeft, BitVec.toNat_ofNat, Nat.shiftLeft_eq]

/-- R187: a logical right shift divides by a power of two. -/
theorem shrD_eq (a : DWord) (n : Nat) : shrD a n = if 64 ≤ n then 0#64 else .ofNat 64 (a.toNat / 2 ^ n) := by
  unfold shrD
  split
  · rfl
  · apply BitVec.eq_of_toNat_eq
    rw [BitVec.toNat_ushiftRight, BitVec.toNat_ofNat, Nat.shiftRight_eq_div_pow,
      Nat.mod_eq_of_lt (Nat.lt_of_le_of_lt (Nat.div_le_self _ _) a.isLt)]

/-- R187: an arithmetic right shift divides the signed value by a power of two, downwards. -/
theorem sarD_eq (a : DWord) (n : Nat) : sarD a n =
    if 64 ≤ n then (if a.toInt < 0 then .allOnes 64 else 0#64) else .ofInt 64 (a.toInt / 2 ^ n) := by
  unfold sarD
  have hs : a.msb = decide (a.toInt < 0) := BitVec.msb_eq_toInt
  split
  · rw [hs]
    by_cases h : a.toInt < 0 <;> simp [h]
  · rw [BitVec.sshiftRight, Int.shiftRight_eq_div_pow]
    norm_cast

/-! ### The tables of pairs -/

/-- R181, R182, R184, R185, R187, R188: an instruction of the table of pairs makes the pair of its row, under the row's opcode and
function, in the pair that its field D names. -/
theorem pairRow_exec {ins : Instr} {r : Raw} {g : Row DWord} (hg : pairRow ins = some g) (hr : rawOf ins = some r)
    (hc : Forms.check (Forms.isM r.op.toNat) r = none) (s : State) :
    exec ins s = aluOp2 r s g.val ∧ r.op.toNat = g.op ∧ r.f.toNat = g.f ∧ (Forms.ofRaw r).d = Forms.v2 := by
  unfold pairRow at hg
  split at hg <;> cases hg <;> cases hr
  case h_1 => exact ⟨rfl, rfl, rfl, rfl⟩
  case h_2 => exact ⟨rfl, rfl, rfl, rfl⟩
  case h_3 => exact ⟨congrArg (aluOp2 _ s) (funext₂ fun _ _ => ofInt_add_word _ _), rfl, rfl, rfl⟩
  case h_4 => exact ⟨congrArg (aluOp2 _ s) (funext₂ fun _ _ => ofNat_add_word _ _), rfl, rfl, rfl⟩
  case h_5 => exact ⟨congrArg (aluOp2 _ s) (funext₂ fun _ _ => add_word _ _), rfl, rfl, rfl⟩
  case h_6 => exact ⟨congrArg (aluOp2 _ s) (funext₂ fun _ _ => sub_word _ _), rfl, rfl, rfl⟩
  case h_7 => exact ⟨congrArg (aluOp2 _ s) (funext₂ fun _ _ => neg_word _), rfl, rfl, rfl⟩
  case h_8 => exact ⟨rfl, rfl, rfl, rfl⟩
  case h_9 => exact ⟨rfl, rfl, rfl, rfl⟩
  case h_10 => exact ⟨rfl, rfl, rfl, rfl⟩
  case h_11 => exact ⟨congrArg (aluOp2 _ s) (funext₂ fun _ _ => shlD_eq _ _), rfl, rfl, rfl⟩
  case h_12 => exact ⟨congrArg (aluOp2 _ s) (funext₂ fun _ _ => shrD_eq _ _), rfl, rfl, rfl⟩
  case h_13 => exact ⟨congrArg (aluOp2 _ s) (funext₂ fun _ _ => sarD_eq _ _), rfl, rfl, rfl⟩
  case h_14 r =>
    have hb : ¬64 ≤ r.b.toNat := Nat.not_le.2 (below_of_check hc rfl)
    exact ⟨congrArg (aluOp2 _ s) (funext₂ fun _ _ => (shlD_eq _ _).trans (if_neg hb)), rfl, rfl, rfl⟩
  case h_15 r =>
    have hb : ¬64 ≤ r.b.toNat := Nat.not_le.2 (below_of_check hc rfl)
    exact ⟨congrArg (aluOp2 _ s) (funext₂ fun _ _ => (shrD_eq _ _).trans (if_neg hb)), rfl, rfl, rfl⟩
  case h_16 r =>
    have hb : ¬64 ≤ r.b.toNat := Nat.not_le.2 (below_of_check hc rfl)
    exact ⟨congrArg (aluOp2 _ s) (funext₂ fun _ _ => (sarD_eq _ _).trans (if_neg hb)), rfl, rfl, rfl⟩

/-- R239, R240: an instruction of the FP64 table makes the rounded pair of its row in the pair that its field D names. -/
theorem fp64Row_exec {ins : Instr} {r : Raw} {g : FRow} (hg : fp64Row ins = some g) (hr : rawOf ins = some r) (s : State) :
    exec ins s = fpOp2 r g.rm s g.val ∧ (Forms.ofRaw r).d = Forms.v2 := by
  unfold fp64Row at hg
  split at hg <;> cases hg <;> cases hr
  case h_1 => exact ⟨rfl, rfl⟩
  case h_2 => exact ⟨rfl, rfl⟩
  case h_3 => exact ⟨rfl, rfl⟩
  case h_4 => exact ⟨rfl, rfl⟩
  case h_5 => exact ⟨rfl, rfl⟩
  case h_6 => exact ⟨rfl, rfl⟩

/-- Settles O3: every instruction of the table is `aluOp2` of its row's pair. -/
theorem pairResults : Obligations.PairResults := by
  intro ins r g i s hg hr hw hready
  have hc := check_of_wf hw hr
  obtain ⟨hx, hop, hf, hd⟩ := pairRow_exec hg hr hc s
  refine ⟨hop, hf, ?_⟩
  rw [hx]
  exact aluOp2_result g.val hready (even_of_check hc hd)

/-- Settles O9: every instruction of the table is `fpOp2` of its row's pair. -/
theorem doubleResults : Obligations.DoubleResults := by
  intro ins r g i s hg hr hw hready
  obtain ⟨hx, hd⟩ := fp64Row_exec hg hr s
  rw [hx]
  exact fpOp2_result g.rm g.val hready (even_of_check (check_of_wf hw hr) hd)

/-- No block exists at reset: what stands for a fibre position is an empty fibre, whose counters are 0. -/
theorem fibD_reset (b k f : Nat) : fibD State.reset b k f = {} := by
  have hs : slotD State.reset b k = {} := rfl
  rw [fibD, hs]
  exact List.getElem?_getD_replicate_default_eq _ 4 f

/-- Settles O58: no byte and no ring is listed at reset, and no block stands whose counters could count. -/
theorem resetCanonical : Obligations.ResetCanonical := by
  refine ⟨rfl, rfl, fun b k f c => ?_, fun _ hp => absurd hp List.not_mem_nil, fun _ hp => absurd hp List.not_mem_nil⟩
  rw [fibD_reset]
  exact (List.getElem?_getD_replicate_default_eq _ 6 c).trans_le (Nat.zero_le 63)

end Sys2Proof.Safety
end

section
/-!
SUPPORT. An instruction of the lane stream that does not issue: a register of it is spilled, or finds no physical chunk (R59, R61).
-/

namespace Sys2Proof.Safety

open Sys2Proof.Machine

/-! ### The meaning of an instruction of the lane stream -/

/-- R246: CVT and FRND make a word or a pair, by their target type. -/
theorem cvtOut_lane (r : Raw) (dt : Nat) (rm : Rm) (s : State) (g : (Nat → Nat → Nat) → Env → Nat → Nat) :
    ∃ body, cvtOut r dt rm s g = laneInsn r s body := by
  unfold cvtOut
  split
  · exact ⟨_, rfl⟩
  · exact ⟨_, rfl⟩

/-- An instruction of the lane stream runs in the frame of lane instructions, with its own raw words but for bit S, which FYIELD has
set whatever its word says (R216). -/
theorem exec_lane {ins : Instr} {r : Raw} (h : inLanes ins r) (s : State) :
    ∃ q body, exec ins s = laneInsn { r with s := q } s body := by
  obtain ⟨hr, hm, hop⟩ := h
  cases ins
  all_goals cases hr
  case cvt r => exact ⟨r.s, cvtOut_lane _ _ _ _ _⟩
  case frnd r => exact ⟨r.s, cvtOut_lane _ _ _ _ _⟩
  case rep => exact absurd rfl hop
  all_goals cases hm
  all_goals exact ⟨_, _, rfl⟩

/-! ### Residence and refills -/

/-- What the start of refills for slot `k` of block `b` may change: the residence of chunks, and the slot's count of refills. -/
structure Refills (b k : Nat) (s t : State) : Prop where
  world : t = { s with blocks := t.blocks }
  present : ∀ c, (mget t.blocks c).isSome = (mget s.blocks c).isSome
  block : ∀ c, blkD t c = { blkD s c with slots := (blkD t c).slots }
  count : ∀ c, (blkD t c).slots.length = (blkD s c).slots.length
  slots : ∀ c j, slotD t c j =
    { slotD s c j with chunks := (slotD t c j).chunks, spbank := (slotD t c j).spbank, spl2 := (slotD t c j).spl2,
                       refill := if c = b ∧ j = k then (slotD t c j).refill else (slotD s c j).refill }

theorem Refills.refl (b k : Nat) (s : State) : Refills b k s s :=
  ⟨rfl, fun _ => rfl, fun _ => rfl, fun _ => rfl, fun _ _ => by simp⟩

theorem Refills.trans {b k : Nat} {s t u : State} (h : Refills b k s t) (g : Refills b k t u) : Refills b k s u where
  world := by
    have h1 := h.world
    have h2 := g.world
    rw [h2, h1]
  present c := (g.present c).trans (h.present c)
  block c := by rw [g.block c, h.block c]
  count c := (g.count c).trans (h.count c)
  slots c j := by
    rw [g.slots c j, h.slots c j]
    by_cases hc : c = b ∧ j = k <;> simp [hc]

/-- An update of a slot's residence, and of the count of refills of slot `k`. -/
theorem Refills.slotUpd (b k : Nat) (s : State) (c j : Nat) (g : Slot → Slot)
    (hg : let x := slotD s c j
      g x = { x with chunks := (g x).chunks, spbank := (g x).spbank, spl2 := (g x).spl2,
                     refill := if c = b ∧ j = k then (g x).refill else x.refill }) : Refills b k s (updSlot s c j g) where
  world := rfl
  present d := mget_updSlot s c j d g
  block d := blkD_updSlot s c j d g
  count d := slots_length_updSlot s c j d g
  slots d n := by
    rw [slotD_updSlot]
    split
    · rename_i hd
      obtain ⟨rfl, rfl, -⟩ := hd
      exact hg
    · simp

theorem takeVictim_refills (b k : Nat) (s : State) : Refills b k s (takeVictim s b k) := by
  unfold takeVictim
  split
  · exact Refills.refl b k s
  · dsimp only
    split
    · exact Refills.slotUpd b k s _ _ _ (by simp)
    · exact Refills.slotUpd b k s _ _ _ (by simp)

theorem startRefill_refills (b k c : Nat) (s : State) : Refills b k s (startRefill s b k c) := by
  unfold startRefill
  split
  · exact Refills.refl b k s
  · refine Refills.trans ?_ (Refills.slotUpd b k _ b k _ (by simp))
    split
    · exact takeVictim_refills b k s
    · exact Refills.refl b k s

/-- R61: the refills that a stalled instruction starts. -/
theorem refillAll_refills (b k : Nat) (cs : List Nat) (s : State) : Refills b k s (refillAll s b k cs) := by
  unfold refillAll
  induction cs generalizing s with
  | nil => exact Refills.refl b k s
  | cons c cs ih =>
    refine Refills.trans ?_ (ih _)
    dsimp only
    split
    · split
      · exact Refills.refl b k s
      · exact startRefill_refills b k c s
    · exact Refills.refl b k s

/-- The step of a stalled instruction, but for the count of refills of its slot. -/
theorem Refills.stays {i : Issue} {s t : State} (he : exists' i s) (h : Refills i.blk i.slot s t) (n : Nat) :
    Stays i (updSlot s i.blk i.slot (fun x => { x with refill := (slotD t i.blk i.slot).refill })) { t with choice := n, cur := none } := by
  generalize hu : updSlot s i.blk i.slot (fun x => { x with refill := (slotD t i.blk i.slot).refill }) = u
  have hslots : ∀ b k, slotD t b k =
      { slotD u b k with chunks := (slotD t b k).chunks, spbank := (slotD t b k).spbank, spl2 := (slotD t b k).spl2 } := by
    intro b k
    rw [← hu, slotD_updSlot, h.slots b k]
    by_cases hb : b = i.blk ∧ k = i.slot
    · obtain ⟨rfl, rfl⟩ := hb
      simp [he.1, he.2.1]
    · rw [if_neg hb, if_neg (by tauto)]
  have hfibs : ∀ b k f, fibD t b k f = fibD u b k f := by
    intro b k f
    rw [fibD, hslots]
    rfl
  have hblock : ∀ b, blkD t b = { blkD u b with slots := (blkD t b).slots } := by
    intro b
    rw [h.block b, ← hu, blkD_updSlot]
  have hworld : t = { u with blocks := t.blocks } := by
    rw [← hu]
    exact h.world
  have hwithin : Within i u t := by
    refine ⟨by rw [hworld], Views.same (by rw [hworld]), ?_, hblock, ?_, fun b k _ => hslots b k, ?_, ?_, fun f _ => hfibs _ _ f⟩
    · intro b
      rw [← hu, mget_updSlot]
      exact h.present b
    · intro b
      rw [← hu, slots_length_updSlot]
      exact h.count b
    · simp only
      rw [hslots i.blk i.slot]
    · rw [hslots i.blk i.slot]
  refine ⟨hwithin.trans (Within.own i t n none), rfl, fun b k a => ?_, hfibs, by rw [hworld]⟩
  show mget (slotD t b k).regs a = _
  rw [hslots b k]
  rfl

/-- The state that a lane instruction leaves which does not issue for want of a register (R59, R61). -/
theorem laneInsn_stalls {r : Raw} {i : Issue} {s : State} {body : Env → State → State × After} (hi : issuing i s = true) :
    let cs := spilled s i.blk i.slot (touched r (fibIs s i).wb)
    (cs ≠ [] → laneInsn r s body = .next { refillAll s i.blk i.slot cs with choice := (refillAll s i.blk i.slot cs).choice + 1, cur := none }) ∧
    (cs = [] → lacksRoom s i.blk i.slot (destRegs r (fibIs s i).wb ++ linkRegs r (fibIs s i).wb) = true →
      laneInsn r s body = .next { s with choice := s.choice + 1, cur := none }) := by
  have hw : (ops r i s).wb = (fibIs s i).wb := rfl
  refine ⟨fun hs => ?_, fun hs hm => ?_⟩
  · have hs : (spilled s i.blk i.slot (touched r (fibIs s i).wb)).isEmpty = false := by simpa using hs
    simp only [laneInsn, issuing_cur hi, laneRun, issueEnv_ready hi, inWait_ready hi, hw, hs, Bool.not_false, if_true, finish,
      Bool.false_eq_true, if_false]
  · simp only [laneInsn, issuing_cur hi, laneRun, issueEnv_ready hi, inWait_ready hi, hw, hs, hm, List.isEmpty_nil, Bool.not_true, finish,
      Bool.false_eq_true, if_false, if_true]

/-- Settles O30: an instruction of the lane stream looks at the residence of its registers before all else. -/
theorem spilledStalls : Obligations.SpilledStalls := by
  intro ins r i s hin hi
  obtain ⟨q, body, hx⟩ := exec_lane hin s
  obtain ⟨hstall, hroom⟩ := laneInsn_stalls (r := { r with s := q }) (body := body) hi
  refine ⟨fun hs => ?_, fun hs hm => hx.trans (hroom hs hm)⟩
  exact ⟨_, _, hx.trans (hstall hs), (refillAll_refills i.blk i.slot _ s).stays (issuing_exists hi) _⟩

end Sys2Proof.Safety
end

section
/-!
SUPPORT. What every step keeps (R65, R90, R94, R288): the canonical form of memory and SRAM, the bound of the engine counters, and the
bound of the rings. One lemma per operation of the state says that it keeps them.
-/

namespace Sys2Proof.Safety

open Sys2Proof.Machine

/-! ### The three properties -/

/-- The properties of a state that a step keeps: the canonical form, a bound for each engine counter of each fibre, and the bound of the
rings. -/
inductive Bound | memory | counters (m : Nat → Nat → Nat → Nat → Nat) | rings

/-- A property holds of a state. -/
def Kept (q : Bound) (s : State) : Prop :=
  match q with
  | .memory => s.mem.wf = true ∧ s.sram.wf = true
  | .counters m => ∀ b k f c, (fibD s b k f).ctrs.getD c 0 ≤ m b k f c
  | .rings => ringsHold s

/-- R65: a property that lets every counter be as high as 63, so that an operation may begin. -/
def Bound.Full : Bound → Prop
  | .counters m => ∀ b k f c, m b k f c = 63
  | _ => True

/-- No engine counter of a fibre is above its bound. -/
def Low (m : Nat → Nat) (x : Fibre) : Prop := ∀ c, x.ctrs.getD c 0 ≤ m c

/-- No engine counter of a slot's fibres is above its bound. -/
def SlotLow (m : Nat → Nat → Nat) (x : Slot) : Prop := ∀ f, Low (m f) (x.fibs.getD f {})

/-- No engine counter of a block's fibres is above its bound. -/
def BlockLow (m : Nat → Nat → Nat → Nat) (x : Block) : Prop := ∀ k, SlotLow (m k) (x.slots.getD k {})

/-- R288: no ring of a map holds more entries than it has. -/
def RingsFit (m : Map Ring) : Prop := ∀ p ∈ m, p.2.tail - p.2.head ≤ p.2.cap

theorem countersHold_iff (s : State) : countersHold s ↔ Kept (.counters fun _ _ _ _ => 63) s := Iff.rfl

theorem low_default {m : Nat → Nat} : Low m {} :=
  fun c => (List.getElem?_getD_replicate_default_eq _ 6 c).trans_le (Nat.zero_le _)

theorem slotLow_default {m : Nat → Nat → Nat} : SlotLow m {} := fun f => by
  have h : (({} : Slot).fibs.getD f {} : Fibre) = {} := List.getElem?_getD_replicate_default_eq _ 4 f
  rw [h]
  exact low_default

/-- A change of every entry of a list. -/
theorem getD_map_of {α : Type} {P : Nat → α → Prop} {l : List α} {d : α} {g : α → α} (hd : ∀ k, P k d)
    (hg : ∀ k x, P k x → P k (g x)) (h : ∀ k, P k (l.getD k d)) (k : Nat) : P k ((l.map g).getD k d) := by
  have hk := h k
  rw [List.getD_eq_getElem?_getD] at hk ⊢
  rw [List.getElem?_map]
  cases hl : l[k]? with
  | none => exact hd k
  | some x =>
    rw [hl] at hk
    exact hg k x hk

theorem getD_modify_of {α : Type} {P : Nat → α → Prop} {l : List α} {d : α} {g : α → α} {j : Nat} (hg : ∀ x, P j x → P j (g x))
    (h : ∀ k, P k (l.getD k d)) (k : Nat) : P k ((l.modify j g).getD k d) := by
  rw [getD_modify]
  split
  · next hj =>
    obtain ⟨rfl, -⟩ := hj
    exact hg _ (h _)
  · exact h k

/-! ### Changes of a part of the state -/

variable {q : Bound} {s t : State}

/-- A change of what the properties do not look at. -/
theorem Kept.same_of (h : Kept q s) (hb : t.blocks = s.blocks) (hr : t.rings = s.rings)
    (hm : t.mem = s.mem) (hs : t.sram = s.sram) : Kept q t := by
  cases q with
  | memory => exact ⟨hm ▸ h.1, hs ▸ h.2⟩
  | counters m =>
    intro b
    have hb : blkD t b = blkD s b := by simp only [blkD, hb]
    simp only [fibD, slotD, hb]
    exact h b
  | rings => exact ⟨hr ▸ h.1, hb ▸ h.2⟩

/-- An update of fields that the properties do not look at. -/
theorem Kept.same (h : Kept q s) (e : (t.blocks, t.rings, t.mem, t.sram) = (s.blocks, s.rings, s.mem, s.sram)) : Kept q t := by
  simp only [Prod.mk.injEq] at e
  obtain ⟨hb, hr, hm, hs⟩ := e
  exact h.same_of hb hr hm hs

theorem blkD_low {m : Nat → Nat → Nat → Nat → Nat} (h : Kept (.counters m) s) (b : Nat) : BlockLow (m b) (blkD s b) := h b

/-- A change of a block that keeps its counters within their bounds, and its saved rings where they are asked for. -/
theorem updBlk_kept_of {b : Nat} {g : Block → Block} (h : Kept q s) (hl : ∀ m x, BlockLow m x → BlockLow m (g x))
    (hr : q = .rings → ∀ x, RingsFit x.savedRings → RingsFit (g x).savedRings) : Kept q (updBlk s b g) := by
  cases q with
  | memory => exact h
  | counters m =>
    intro c
    simp only [fibD, slotD, blkD_updBlk]
    split
    · next hc =>
      obtain ⟨rfl, -⟩ := hc
      exact hl (m c) _ (blkD_low h c)
    · exact h c
  | rings =>
    refine ⟨h.1, fun p hp => ?_⟩
    obtain ⟨p', hp', rfl⟩ := List.mem_map.1 hp
    split
    · exact hr rfl _ (h.2 p' hp')
    · exact h.2 p' hp'

/-- A change of a block that keeps its counters and its saved rings within their bounds. -/
theorem updBlk_kept {b : Nat} {g : Block → Block} (h : Kept q s)
    (hl : ∀ m x, BlockLow m x → BlockLow m (g x))
    (hr : ∀ x, RingsFit x.savedRings → RingsFit (g x).savedRings) : Kept q (updBlk s b g) :=
  updBlk_kept_of h hl (fun _ => hr)

/-- A change of every block that keeps its counters and its saved rings within their bounds. -/
theorem mapBlocks_kept {g : Nat × Block → Nat × Block} (h : Kept q s) (hb : t.blocks = s.blocks.map g)
    (hk : ∀ p, (g p).1 = p.1)
    (hl : ∀ m p, BlockLow m p.2 → BlockLow m (g p).2)
    (hr : ∀ p, (g p).2.savedRings = p.2.savedRings)
    (hrs : t.rings = s.rings) (hm : t.mem = s.mem) (hs : t.sram = s.sram) : Kept q t := by
  cases q with
  | memory => exact ⟨hm ▸ h.1, hs ▸ h.2⟩
  | counters m =>
    have hget : ∀ (l : Map Block) c, BlockLow (m c) (mgetD l c { launch := 0, task := 0, ctx := 0 }) →
        BlockLow (m c) (mgetD (l.map g) c { launch := 0, task := 0, ctx := 0 }) := by
      intro l c
      induction l with
      | nil => exact id
      | cons p r ih =>
        simp only [mgetD, List.map_cons, mget, hk]
        split
        · exact hl (m c) p
        · exact ih
    intro c
    simp only [fibD, slotD, blkD, hb]
    exact hget _ _ (h c)
  | rings =>
    refine ⟨hrs ▸ h.1, fun p hp => ?_⟩
    rw [hb] at hp
    obtain ⟨p', hp', rfl⟩ := List.mem_map.1 hp
    rw [hr]
    exact h.2 p' hp'

theorem updSlot_kept {b k : Nat} {g : Slot → Slot} (h : Kept q s)
    (hl : ∀ m x, SlotLow m x → SlotLow m (g x)) : Kept q (updSlot s b k g) :=
  updBlk_kept h (fun m _ hx => getD_modify_of (P := fun j => SlotLow (m j)) (hl _) hx) (fun _ h => h)

theorem updFib_kept {b k f : Nat} {g : Fibre → Fibre} (h : Kept q s)
    (hl : ∀ m x, Low m x → Low m (g x)) : Kept q (updFib s b k f g) :=
  updSlot_kept h (fun m _ hx => getD_modify_of (P := fun j => Low (m j)) (hl _) hx)

/-- A change of a fibre that keeps its own counters within their bound. -/
theorem updFib_kept_at {b k f : Nat} {g : Fibre → Fibre} (h : Kept q s)
    (hl : ∀ m, q = .counters m → Low (m b k f) (fibD s b k f) → Low (m b k f) (g (fibD s b k f))) : Kept q (updFib s b k f g) := by
  cases q with
  | memory => exact h
  | counters m =>
    intro c j e
    have hf : Low (m c j e) (fibD (updFib s b k f g) c j e) := by
      rw [fibD_updFib]
      split
      · next hc =>
        obtain ⟨rfl, rfl, rfl, -⟩ := hc
        exact hl m rfl (h c j e)
      · exact h c j e
    exact hf
  | rings =>
    refine ⟨h.1, fun p hp => ?_⟩
    obtain ⟨p', hp', rfl⟩ := List.mem_map.1 hp
    split
    · exact h.2 p' hp'
    · exact h.2 p' hp'

theorem updIs_kept {i : Issue} {g : Fibre → Fibre} (h : Kept q s)
    (hl : ∀ m x, Low m x → Low m (g x)) : Kept q (updIs s i g) := updFib_kept h hl

theorem updSeq_kept {b : Nat} {g : Seqr → Seqr} (h : Kept q s) : Kept q (updSeq s b g) := updBlk_kept h (fun _ _ h => h) (fun _ h => h)

theorem updKen_kept {g : Kennel → Kennel} (h : Kept q s) : Kept q (updKen s g) := h.same rfl

theorem updCtx_kept {c : Nat} {g : Ctx → Ctx} (h : Kept q s) : Kept q (updCtx s c g) := h.same rfl

/-- What a sequence of changes keeps. -/
theorem foldl_kept {α : Type} {g : State → α → State} {l : List α} (h : Kept q s) (hg : ∀ t x, Kept q t → Kept q (g t x)) :
    Kept q (l.foldl g s) := by
  induction l generalizing s with
  | nil => exact h
  | cons x l ih => exact ih (hg s x h)

/-- What a sequence of changes keeps that gather a result beside the state. -/
theorem foldl_fst_kept {α β : Type} {g : State × β → α → State × β} {l : List α} {b : β} (h : Kept q s)
    (hg : ∀ p x, Kept q p.1 → Kept q (g p x).1) : Kept q (l.foldl g (s, b)).1 := by
  suffices hp : ∀ p : State × β, Kept q p.1 → Kept q (l.foldl g p).1 from hp (s, b) h
  induction l with
  | nil => exact fun _ hp => hp
  | cons x l ih => exact fun p hp => ih _ (hg p x hp)

/-- The state of a pair that is known. -/
theorem Kept.fst {α : Type} {p : State × α} {a : α} (h : Kept q p.1) (e : p = (t, a)) : Kept q t := by
  rw [e] at h
  exact h

theorem Kept.snd {α : Type} {p : α × State} {a : α} (h : Kept q p.2) (e : p = (a, t)) : Kept q t := by
  rw [e] at h
  exact h

/-! ### Outcomes -/

/-- The next state of an outcome, where there is one, has the property. -/
def KeptOut (q : Bound) (o : Out) : Prop := ∀ t, o = .next t → Kept q t

/-- The state of an optional result has the property. -/
def KeptOpt (q : Bound) (o : Option State) : Prop := ∀ t, o = some t → Kept q t

/-- The state of a result that is no failure has the property. -/
def KeptOk {ε : Type} (q : Bound) (o : Except ε State) : Prop := ∀ t, o = .ok t → Kept q t

/-- The state of a result beside a value has the property, where it is no failure. -/
def KeptOkFst {ε α : Type} (q : Bound) (o : Except ε (State × α)) : Prop := ∀ p, o = .ok p → Kept q p.1

theorem next_kept (h : Kept q s) : KeptOut q (.next s) := fun _ e => by cases e; exact h

theorem fault_kept {f : Fault} : KeptOut q (.fault f) := fun _ e => by cases e

theorem some_kept (h : Kept q s) : KeptOpt q (some s) := fun _ e => by cases e; exact h

theorem none_kept : KeptOpt q none := fun _ e => by cases e

theorem ok_kept {ε : Type} (h : Kept q s) : KeptOk (ε := ε) q (.ok s) := fun _ e => by cases e; exact h

theorem error_kept {ε : Type} {x : ε} : KeptOk q (.error x) := fun _ e => by cases e

theorem ok_keptFst {ε α : Type} {p : State × α} (h : Kept q p.1) : KeptOkFst (ε := ε) q (.ok p) := fun _ e => by cases e; exact h

theorem error_keptFst {ε α : Type} {x : ε} : KeptOkFst (α := α) q (.error x) := fun _ e => by cases e

/-! ### Changes of memory, rings and fibres -/

/-- A change of memory that keeps its canonical form. -/
theorem memory_kept (h : Kept q s) (hm : s.mem.wf = true → t.mem.wf = true) (hb : t.blocks = s.blocks)
    (hr : t.rings = s.rings) (hs : t.sram = s.sram) : Kept q t := by
  cases q with
  | memory => exact ⟨hm h.1, hs ▸ h.2⟩
  | counters m => exact Kept.same_of (q := .counters m) (t := { s with blocks := t.blocks }) h hb rfl rfl rfl
  | rings => exact ⟨hr ▸ h.1, hb ▸ h.2⟩

/-- A change of SRAM that keeps its canonical form. -/
theorem sram_kept (h : Kept q s) (hs : s.sram.wf = true → t.sram.wf = true) (hb : t.blocks = s.blocks)
    (hr : t.rings = s.rings) (hm : t.mem = s.mem) : Kept q t := by
  cases q with
  | memory => exact ⟨hm ▸ h.1, hs h.2⟩
  | counters m => exact Kept.same_of (q := .counters m) (t := { s with blocks := t.blocks }) h hb rfl rfl rfl
  | rings => exact ⟨hr ▸ h.1, hb ▸ h.2⟩

/-- A change of the rings that keeps each within its bound. -/
theorem rings_kept (h : Kept q s) (hr : RingsFit s.rings → RingsFit t.rings) (hb : t.blocks = s.blocks)
    (hm : t.mem = s.mem) (hs : t.sram = s.sram) : Kept q t := by
  cases q with
  | memory => exact ⟨hm ▸ h.1, hs ▸ h.2⟩
  | counters m => exact Kept.same_of (q := .counters m) (t := { s with blocks := t.blocks }) h hb rfl rfl rfl
  | rings => exact ⟨hr h.1, hb ▸ h.2⟩

/-- A counter that falls stays within its bound. -/
theorem low_fall {m : Nat → Nat} {x y : Fibre} {c : Nat} (h : Low m x) (hy : y.ctrs = x.ctrs.modify c (· - 1)) : Low m y := by
  intro k
  rw [hy, getD_modify]
  have hc := h c
  have hk := h k
  split
  · next he =>
    obtain ⟨rfl, -⟩ := he
    omega
  · exact hk

/-- A counter that is not 63 rises within a bound of 63. -/
theorem low_rise {m : Nat → Nat} {x y : Fibre} {c : Nat} (hm : ∀ k, m k = 63) (h : Low m x) (hc : x.ctrs.getD c 0 ≠ 63)
    (hy : y.ctrs = x.ctrs.modify c (· + 1)) : Low m y := by
  intro k
  rw [hy, getD_modify]
  have hk := h k
  have hm := hm k
  split
  · next he =>
    obtain ⟨rfl, -⟩ := he
    omega
  · exact hk

/-- A counter of a fibre rises that is not 63. -/
theorem updFib_rise_kept {b k f c : Nat} {g : Fibre → Fibre} (hq : q.Full) (h : Kept q s) (hc : (fibD s b k f).ctrs.getD c 0 ≠ 63)
    (hg : (g (fibD s b k f)).ctrs = (fibD s b k f).ctrs.modify c (· + 1)) : Kept q (updFib s b k f g) :=
  updFib_kept_at h (fun m e hx => low_rise (by subst e; exact hq b k f) hx hc hg)

/-- R133: another operation of a class may begin. -/
def Room (s : State) (i : Issue) (c : Nat) : Prop := (fibIs s i).ctrs.getD c 0 < 63

theorem room_of_not_full {i : Issue} {c : Nat} (hc : ¬ctrFull s i c = true) : Room s i c := by
  simp only [ctrFull, decide_eq_true_eq, not_le] at hc
  exact hc

/-- There is room still where no counter has risen. -/
theorem Room.mono {i : Issue} {c : Nat} (hc : Room s i c) (h : ∀ m, Kept (.counters m) s → Kept (.counters m) t) : Room t i c :=
  (h (fun b k f c => (fibD s b k f).ctrs.getD c 0) (fun _ _ _ _ => le_rfl) i.blk i.slot i.fib c).trans_lt hc

/-- A change of every fibre of every block that keeps its counters within their bound. -/
theorem slotLow_map {m : Nat → Nat → Nat} {x : Slot} {g : Fibre → Fibre} (h : SlotLow m x)
    (hg : ∀ m y, Low m y → Low m (g y)) : SlotLow m { x with fibs := x.fibs.map g } :=
  getD_map_of (P := fun j => Low (m j)) (fun _ => low_default) (fun j => hg (m j)) h

theorem blockLow_map {m : Nat → Nat → Nat → Nat} {x : Block} {g : Slot → Slot} (h : BlockLow m x)
    (hg : ∀ m y, SlotLow m y → SlotLow m (g y)) : BlockLow m { x with slots := x.slots.map g } :=
  getD_map_of (P := fun j => SlotLow (m j)) (fun _ => slotLow_default) (fun j => hg (m j)) h

/-- A ring whose entries and size stay. -/
theorem ringsFit_map {m : Map Ring} {g : Nat × Ring → Nat × Ring} (h : RingsFit m)
    (hg : ∀ p, (g p).2.cap = p.2.cap ∧ (g p).2.head = p.2.head ∧ (g p).2.tail = p.2.tail) :
    RingsFit (m.map g) := by
  intro p hp
  obtain ⟨p', hp', rfl⟩ := List.mem_map.1 hp
  obtain ⟨hc, hh, ht⟩ := hg p'
  rw [hc, hh, ht]
  exact h p' hp'

theorem ringsFit_filter {m : Map Ring} {f : Nat × Ring → Bool} (h : RingsFit m) : RingsFit (m.filter f) :=
  fun p hp => h p (List.mem_filter.1 hp).1

theorem mem_mset {α : Type} {m : Map α} {k : Nat} {v : α} {p : Nat × α} (h : p ∈ mset m k v) : p = (k, v) ∨ p ∈ m := by
  induction m with
  | nil => exact .inl (List.mem_singleton.1 h)
  | cons c r ih =>
    simp only [mset] at h
    split at h
    · exact (List.mem_cons.1 h).imp_right (List.mem_cons_of_mem _)
    · split at h
      · exact List.mem_cons.1 h
      · rcases List.mem_cons.1 h with h | h
        · exact .inr (h ▸ List.mem_cons_self)
        · exact (ih h).imp_right (List.mem_cons_of_mem _)

theorem mget_mem {α : Type} {m : Map α} {k : Nat} {v : α} (h : mget m k = some v) : (k, v) ∈ m := by
  induction m with
  | nil => cases h
  | cons c r ih =>
    simp only [mget] at h
    split at h
    · rename_i hk
      cases h
      exact hk ▸ List.mem_cons_self
    · exact List.mem_cons_of_mem _ (ih h)

theorem ringsFit_mset {m : Map Ring} {k : Nat} {x : Ring} (h : RingsFit m) (hx : x.tail - x.head ≤ x.cap) : RingsFit (mset m k x) := by
  intro p hp
  rcases mem_mset hp with rfl | hp
  · exact hx
  · exact h p hp

/-- What a sequence of changes keeps that goes from the last to the first and gathers a result beside the state. -/
theorem foldr_fst_kept {α β : Type} {g : α → State × β → State × β} {l : List α} {b : β} (h : Kept q s)
    (hg : ∀ p x, Kept q p.1 → Kept q (g x p).1) : Kept q (l.foldr g (s, b)).1 := by
  induction l with
  | nil => exact h
  | cons x l ih => exact hg _ x ih

/-! ### Results that carry a state -/

/-- The state of a push has the property. -/
def KeptPush (q : Bound) : PushRes → Prop
  | .ok t _ => Kept q t
  | .full t => Kept q t
  | .none t => Kept q t
  | .wait t => Kept q t

/-- The state after a header is read has the property. -/
def KeptQRead (q : Bound) : QRead → Prop
  | .ok t _ => Kept q t
  | .none t => Kept q t
  | .wait t => Kept q t

/-- The state after an access of the kennel is translated has the property. -/
def KeptAcc (q : Bound) : KAcc → Prop
  | .ok _ => True
  | .wait t => Kept q t
  | .bad t _ => Kept q t

/-- The state after a read of the kennel has the property. -/
def KeptRead (q : Bound) : KRead → Prop
  | .ok t _ _ => Kept q t
  | .wait t => Kept q t
  | .bad t _ => Kept q t

/-- The state after a task record is judged has the property. -/
def KeptJudge (q : Bound) : Judge → Prop
  | .wait t => Kept q t
  | .status t _ _ => Kept q t

/-- The state after the verdict on a fault has the property. -/
def KeptVerdict (q : Bound) : Verdict → Prop
  | .asked t => Kept q t
  | _ => True

/-- The state that a sequencer's instruction ends in has the property. -/
def KeptSeqRes (q : Bound) : SeqRes → Prop
  | .go t => Kept q t
  | .jump t _ => Kept q t
  | .stall t => Kept q t
  | .hold t _ => Kept q t
  | .ended t => Kept q t
  | _ => True

/-- A step of a sequencer's instruction keeps the property, where it ends the instruction and where it goes on with a result. -/
def KeptSeq {α : Type} (q : Bound) (P : α → Prop) : SeqM α → Prop
  | .ok x => P x
  | .error r => KeptSeqRes q r

theorem bind_keptSeq {α β : Type} {P : α → Prop} {Q : β → Prop} {x : SeqM α} {g : α → SeqM β} (hx : KeptSeq q P x)
    (hg : ∀ a, P a → KeptSeq q Q (g a)) : KeptSeq q Q (x >>= g) := by
  cases x with
  | ok a => exact hg a hx
  | error r => exact hx

/-- A change of the rings that leaves each within its bound. -/
theorem rings_kept_of (h : Kept q s) (hr : q = .rings → RingsFit t.rings) (hb : t.blocks = s.blocks)
    (hm : t.mem = s.mem) (hs : t.sram = s.sram) : Kept q t := by
  cases q with
  | memory => exact ⟨hm ▸ h.1, hs ▸ h.2⟩
  | counters m => exact Kept.same_of (q := .counters m) (t := { s with blocks := t.blocks }) h hb rfl rfl rfl
  | rings => exact ⟨hr rfl, hb ▸ h.2⟩

/-- A ring is written that is within its bound. -/
theorem setRing_kept {key : Nat} {x : Ring} (h : Kept q s) (hx : q = .rings → x.tail - x.head ≤ x.cap) :
    Kept q { s with rings := mset s.rings key x } :=
  rings_kept_of h (fun hq => ringsFit_mset (by rw [hq] at h; exact h.1) (hx hq)) rfl rfl rfl

theorem ringD_fit (h : Kept .rings s) (key n : Nat) : (ringD s key n).tail - (ringD s key n).head ≤ (ringD s key n).cap := by
  unfold ringD mgetD
  cases hk : mget s.rings key with
  | none => exact Nat.zero_le n
  | some x => exact h.1 _ (mget_mem hk)

theorem ringD_fit_of (h : Kept q s) (hq : q = .rings) (key n : Nat) :
    (ringD s key n).tail - (ringD s key n).head ≤ (ringD s key n).cap := ringD_fit (by rw [hq] at h; exact h) key n

/-- What a sequence of changes keeps whose state stands in a larger result. -/
theorem foldl_of {α β : Type} {st : β → State} {g : β → α → β} {l : List α} {w : β} (h : Kept q (st w))
    (hg : ∀ w x, Kept q (st w) → Kept q (st (g w x))) : Kept q (st (l.foldl g w)) := by
  induction l generalizing w with
  | nil => exact h
  | cons x l ih => exact ih (hg w x h)

theorem foldl_Met_kept {α : Type} {g : Met → α → Met} {l : List α} {w : Met} (h : Kept q w.s)
    (hg : ∀ w x, Kept q w.s → Kept q (g w x).s) : Kept q (l.foldl g w).s := foldl_of (st := Met.s) h hg

theorem foldl_BinRun_kept {α : Type} {g : BinRun → α → BinRun} {l : List α} {w : BinRun} (h : Kept q w.s)
    (hg : ∀ w x, Kept q w.s → Kept q (g w x).s) : Kept q (l.foldl g w).s := foldl_of (st := BinRun.s) h hg

/-- A change that is made where a value is found. -/
theorem mapGetD_kept {α : Type} {g : α → State} {o : Option α} (h : Kept q s) (hg : ∀ x, Kept q (g x)) : Kept q ((o.map g).getD s) := by
  cases o with
  | none => exact h
  | some x => exact hg x

theorem foldl_low {α : Type} {m : Nat → Nat} {g : Fibre → α → Fibre} {x : Fibre} {l : List α} (h : Low m x)
    (hg : ∀ x y, Low m x → Low m (g x y)) : Low m (l.foldl g x) := by
  induction l generalizing x with
  | nil => exact h
  | cons y l ih => exact ih (hg x y h)

theorem mapGetD_low {α : Type} {m : Nat → Nat} {g : α → Fibre} {o : Option α} {x : Fibre} (h : Low m x) (hg : ∀ y, Low m (g y)) :
    Low m ((o.map g).getD x) := by
  cases o with
  | none => exact h
  | some y => exact hg y

theorem settleDepth_low {m : Nat → Nat} {x : Fibre} (h : Low m x) : Low m (settleDepth x) := by
  unfold settleDepth
  dsimp only
  split
  · exact h
  · exact h

theorem ok_keptSeq {α : Type} {P : α → Prop} {x : α} (h : P x) : KeptSeq q P (.ok x) := h

theorem error_keptSeq {α : Type} {P : α → Prop} {r : SeqRes} (h : KeptSeqRes q r) : KeptSeq q P (.error r) := h

/-- Blocks that go take nothing with them that the others need. -/
theorem filterBlocks_kept {p : Nat → Bool} (h : Kept q s) (hb : t.blocks = s.blocks.filter (fun x => p x.1))
    (hr : t.rings = s.rings) (hm : t.mem = s.mem) (hs : t.sram = s.sram) : Kept q t := by
  cases q with
  | memory => exact ⟨hm ▸ h.1, hs ▸ h.2⟩
  | counters m =>
    intro b
    have hd : blkD t b = if p b then blkD s b else { launch := 0, task := 0, ctx := 0 } := by
      simp only [blkD, mgetD, hb, mget_filter_key]
      split <;> rfl
    have hl : BlockLow (m b) (blkD t b) := by
      rw [hd]
      split
      · exact h b
      · exact fun _ => slotLow_default
    exact hl
  | rings => exact ⟨hr ▸ h.1, fun x hx => h.2 x (List.mem_filter.1 (hb ▸ hx)).1⟩

/-- A block that comes with fibres that have not begun, and without saved rings. -/
theorem newBlock_kept {b : Nat} {x : Block} (h : Kept q s) (hl : ∀ m, BlockLow m x) (hx : x.savedRings = [])
    (hb : t.blocks = mset s.blocks b x) (hr : t.rings = s.rings) (hm : t.mem = s.mem)
    (hs : t.sram = s.sram) : Kept q t := by
  cases q with
  | memory => exact ⟨hm ▸ h.1, hs ▸ h.2⟩
  | counters m =>
    intro c
    have hd : blkD t c = if c = b then x else blkD s c := by simp only [blkD, hb, mgetD_mset]
    have hc : BlockLow (m c) (blkD t c) := by
      rw [hd]
      split
      · exact hl _
      · exact h c
    exact hc
  | rings =>
    refine ⟨hr ▸ h.1, fun p hp => ?_⟩
    rcases mem_mset (hb ▸ hp) with rfl | hp
    · rw [hx]
      exact fun _ hr => absurd hr List.not_mem_nil
    · exact h.2 p hp

theorem savedRings_fit (h : Kept .rings s) (b : Nat) : RingsFit (blkD s b).savedRings := by
  unfold blkD mgetD
  cases hb : mget s.blocks b with
  | none => exact fun _ hr => absurd hr List.not_mem_nil
  | some x => exact h.2 _ (mget_mem hb)

theorem ringsFit_foldl_mset {α : Type} {l : List α} {k : α → Nat} {v : α → Ring} {m : Map Ring} (h : RingsFit m)
    (hl : ∀ x ∈ l, (v x).tail - (v x).head ≤ (v x).cap) : RingsFit (l.foldl (fun m x => mset m (k x) (v x)) m) := by
  induction l generalizing m with
  | nil => exact h
  | cons x l ih => exact ih (ringsFit_mset h (hl x List.mem_cons_self)) (fun y hy => hl y (List.mem_cons_of_mem _ hy))

theorem wf_foldl_wr {α : Type} {m : Memory} {l : List α} {a : α → Nat} {v : α → Byte} (h : m.wf = true) :
    (l.foldl (fun m k => Memory.wr m (a k) (v k)) m).wf = true := by
  induction l generalizing m with
  | nil => exact h
  | cons x l ih => exact ih (Memory.wf_wr h _ _)

theorem slotLow_of_all {m : Nat → Nat → Nat} {x : Slot} (h : ∀ y ∈ x.fibs, ∀ k, Low (m k) y) : SlotLow m x := by
  intro f
  rw [List.getD_eq_getElem?_getD]
  cases hf : x.fibs[f]? with
  | none => exact low_default
  | some y => exact h y (List.mem_of_getElem? hf) f

theorem blockLow_of_all {m : Nat → Nat → Nat → Nat} {x : Block} (h : ∀ y ∈ x.slots, ∀ k, SlotLow (m k) y) : BlockLow m x := by
  intro k
  rw [List.getD_eq_getElem?_getD]
  cases hk : x.slots[k]? with
  | none => exact slotLow_default
  | some y => exact h y (List.mem_of_getElem? hk) k

/-! ### What becomes visible to all (R117, R120) -/

theorem showParts_kept {f : Pend → Shard → Bool} (h : Kept q s) : Kept q (showParts s f) := by
  unfold showParts
  split
  · exact h
  · exact h.same rfl

theorem dropPieces_kept {locs : List Nat} (h : Kept q s) : Kept q (dropPieces s locs) := by
  unfold dropPieces
  exact showParts_kept h

theorem performStore_kept {id : Nat} (h : Kept q s) : Kept q (performStore s id) := by
  unfold performStore
  dsimp only
  refine Kept.same ?_ (by dsimp only)
  exact showParts_kept h

theorem showStores_kept (h : Kept q s) : Kept q (showStores s) := by
  unfold showStores
  split
  · exact h
  · exact h.same rfl

/-! ### Views (R120, R124, R125) -/

theorem mapParts_kept {g : Pend → Shard → Shard} (h : Kept q s) : Kept q (mapParts s g) := by
  unfold mapParts
  split
  · exact h
  · exact h.same rfl

theorem joinView_kept {a v : Nat} (h : Kept q s) : Kept q (joinView s a v) := by
  unfold joinView
  exact mapParts_kept h

theorem seeLocs_kept {v : Nat} {locs : List Nat} (h : Kept q s) : Kept q (seeLocs s v locs) := by
  unfold seeLocs
  exact mapParts_kept h

theorem joinAll_kept {as : List Nat} (h : Kept q s) : Kept q (joinAll s as) := by
  unfold joinAll
  exact mapParts_kept h

theorem fenceBy_kept {sc a : Nat} (h : Kept q s) : Kept q (fenceBy s sc a) := by
  unfold fenceBy
  split
  · exact h
  · exact joinView_kept (joinView_kept h)

theorem publish_kept {locs : List Nat} {agent scope view : Nat} {obj : Bool} (h : Kept q s) :
    Kept q (publish s locs agent scope view obj) := h.same rfl

theorem acquireAt_kept {locs : List Nat} {agent scope : Nat} {obj : Bool} (h : Kept q s) : Kept q (acquireAt s locs agent scope obj) := by
  unfold acquireAt
  exact foldl_kept h (fun t x ht => joinView_kept ht)

theorem endReleases_kept {locs : List Nat} (h : Kept q s) : Kept q (endReleases s locs) := by
  unfold endReleases
  split
  · exact h
  · exact h.same rfl

/-! ### Accesses in flight (R34, R121, R436) -/

theorem landFlights_kept {p : Flight → Bool} (h : Kept q s) : Kept q (landFlights s p) := by
  unfold landFlights
  dsimp only
  split
  · exact h
  · refine Kept.same ?_ (by dsimp only)
    exact mapParts_kept h

theorem landAt_kept {a : Nat} {locs : List Nat} (h : Kept q s) : Kept q (landAt s a locs) := by
  unfold landAt
  exact landFlights_kept h

theorem landLanes_kept {i : Issue} {ls : List Nat} (h : Kept q s) : Kept q (landLanes s i ls) := by
  unfold landLanes
  exact landFlights_kept h

/-! ### Reads (R116, R120, R121, R138, R139) -/

theorem lookUnit_kept {r : Reader} {j : Nat} {locs : List Nat} {bs : List Byte} (h : Kept q s) : Kept q (lookUnit r s j locs bs).1 := by
  unfold lookUnit
  dsimp only
  split
  · exact h
  · exact h.same rfl

theorem lookParts_kept {r : Reader} {ns locs : List Nat} {bs : List Byte} (h : Kept q s) : Kept q (lookParts r s ns locs bs).1 := by
  unfold lookParts
  dsimp only
  split
  · exact h
  · exact foldl_fst_kept h (fun p x hp => lookUnit_kept hp)

theorem lookBytes_kept {r : Reader} {a : Nat} {locs : List Nat} {bs : List Byte} (h : Kept q s) : Kept q (lookBytes r s a locs bs).1 := by
  unfold lookBytes
  exact lookParts_kept h

/-! ### Stores (R117, R139) -/

theorem addStore_kept {i : Issue} {scope : Nat} {kind : PendKind} (h : Kept q s) : Kept q (addStore s i scope kind) := h.same rfl

theorem addPieces_kept {id agent : Nat} {xs : List Shard} (h : Kept q s) : Kept q (addPieces s id agent xs) := h.same rfl

theorem mergeParts_kept {id : Nat} {locs : List Nat} (h : Kept q s) : Kept q (mergeParts s id locs) := h.same rfl

theorem markWhole_kept {id : Nat} (h : Kept q s) : Kept q (markWhole s id) := h.same rfl

/-! ### Error records and events (R490, R501, R517) -/

theorem postEvent_kept {code : Nat} {payload : List Byte} (h : Kept q s) : Kept q (postEvent s code payload) := by
  unfold postEvent
  dsimp only
  exact updKen_kept h

theorem noteError_kept {e : ErrRec} (h : Kept q s) : Kept q (noteError s e) := by
  unfold noteError
  dsimp only
  exact updKen_kept h

theorem noteBadLeaf_kept {c va : Nat} {k : AccKind} (h : Kept q s) : Kept q (noteBadLeaf s c va k) := by
  unfold noteBadLeaf
  split
  · exact noteError_kept h
  · exact h

/-! ### Physical bytes -/

theorem dueFrames_kept {fs : List Nat} (h : Kept q s) : Kept q (dueFrames s fs) := by
  unfold dueFrames
  exact updKen_kept h

theorem addPoison_kept {lns : List Nat} (h : Kept q s) : Kept q (addPoison s lns) := by
  unfold addPoison
  exact dueFrames_kept (h.same rfl)

theorem addSramPoison_kept {ws : List Nat} (h : Kept q s) : Kept q (addSramPoison s ws) := h.same rfl

theorem updLine_kept {m j : Nat} {g : SLine → SLine} (h : Kept q s) : Kept q (updLine s m j g) := h.same rfl

theorem dropNodes_kept {lns : List Nat} (h : Kept q s) : Kept q (dropNodes s lns) := h.same rfl

theorem noteWrite_kept {u : State} {pas : List Nat} (h : Kept q s) : Kept q (noteWrite u s pas) := h.same rfl

theorem putRaw_kept {pas : List Nat} {bs : List Byte} (h : Kept q s) : Kept q (putRaw s pas bs) :=
  memory_kept h (fun hm => Memory.wf_writes hm _) rfl rfl rfl

theorem putBytes_kept {pas : List Nat} {bs : List Byte} (h : Kept q s) : Kept q (putBytes s pas bs) := by
  unfold putBytes
  exact dropPieces_kept (putRaw_kept h)

theorem writeBack_kept {m j : Nat} (h : Kept q s) : Kept q (writeBack s m j) := by
  unfold writeBack
  dsimp only
  split
  · exact h
  · exact updLine_kept (addPoison_kept (putRaw_kept h))

theorem recallLine_kept {m j : Nat} (h : Kept q s) : Kept q (recallLine s m j) := by
  unfold recallLine
  split
  · exact updLine_kept (writeBack_kept h)
  · exact h

theorem invalidateLine_kept {m j : Nat} (h : Kept q s) : Kept q (invalidateLine s m j) := by
  unfold invalidateLine
  split
  · exact h.same rfl
  · exact h.same rfl
  · exact updLine_kept (writeBack_kept h)
  · exact h

theorem recallAt_kept {but : Option (Nat × Nat)} {wr : Bool} {ln : Nat} (h : Kept q s) : Kept q (recallAt s but wr ln) := by
  unfold recallAt
  refine foldl_kept h (fun t x ht => ?_)
  split
  · exact invalidateLine_kept ht
  · exact recallLine_kept ht

theorem recalls_kept {but : Option (Nat × Nat)} {wr : Bool} {pas : List Nat} (h : Kept q s) : Kept q (recalls s but wr pas) := by
  unfold recalls
  exact foldl_kept h (fun t x ht => recallAt_kept ht)

theorem fillMsc_kept {c : Nat} {wr low : Bool} {ln : Nat} (h : Kept q s) : Kept q (fillMsc s c wr low ln) := by
  unfold fillMsc
  dsimp only
  split
  · exact h
  · exact h.same rfl

theorem touchMscBy_kept {p : Retain} {c : Nat} {wr : Bool} {pas : List Nat} (h : Kept q s) : Kept q (touchMscBy p s c wr pas) := by
  unfold touchMscBy
  refine foldl_kept h (fun t x ht => ?_)
  split
  · exact ht.same rfl
  · split
    · exact ht
    · exact fillMsc_kept ht

theorem touchMsc_kept {c : Nat} {wr : Bool} {pas : List Nat} (h : Kept q s) : Kept q (touchMsc s c wr pas) := by
  unfold touchMsc
  exact touchMscBy_kept h

theorem gRead_kept {c : Nat} {pas : List Nat} (h : Kept q s) : Kept q (gRead s c pas).1 := by
  unfold gRead
  dsimp only
  exact dropPieces_kept (touchMsc_kept (recalls_kept h))

theorem gLook_kept {p : Retain} {c : Nat} {r : Reader} {pas : List Nat} (h : Kept q s) : Kept q (gLook p s c r pas).1 := by
  unfold gLook
  dsimp only
  exact lookBytes_kept (touchMscBy_kept (recalls_kept h))

theorem gLookRow_kept {c : Nat} {r : Reader} {pas : List Nat} (h : Kept q s) : Kept q (gLookRow s c r pas).1 := by
  unfold gLookRow
  dsimp only
  exact lookParts_kept (touchMsc_kept (recalls_kept h))

theorem gPut_kept {p : Retain} {c : Nat} {pas : List Nat} {bs : List Byte} (h : Kept q s) : Kept q (gPut p s c pas bs) := by
  unfold gPut
  exact touchMscBy_kept (putRaw_kept (recalls_kept h))

theorem gWrite_kept {c : Nat} {pas : List Nat} {bs : List Byte} (h : Kept q s) : Kept q (gWrite s c pas bs) := by
  unfold gWrite
  exact endReleases_kept (dropPieces_kept (gPut_kept h))

theorem physWrite_kept {pa : Nat} {bs : List Byte} (h : Kept q s) : Kept q (physWrite s pa bs) := by
  unfold physWrite
  dsimp only
  exact endReleases_kept (putBytes_kept (recalls_kept h))

theorem kWrite_kept {c va : Nat} {bs : List Byte} (h : Kept q s) : Kept q (kWrite s c va bs).1 := by
  unfold kWrite
  split
  · exact gWrite_kept h
  · exact noteBadLeaf_kept h

theorem kRead_kept {c va n : Nat} (h : Kept q s) : Kept q (kRead s c va n).1 := by
  unfold kRead
  dsimp only
  split
  · exact gRead_kept h
  · exact noteBadLeaf_kept h

/-! ### The L2 (R463) -/

theorem touchL2_kept {p : Retain} {die : Nat} {wr : Bool} {ln : Nat} (h : Kept q s) : Kept q (touchL2 p s die wr ln) := by
  unfold touchL2
  dsimp only
  split
  · split <;> exact h.same rfl
  · split
    · exact h
    · exact h.same rfl

/-! ### Counts of occurrences (R477) -/

theorem addTally_kept {c e n : Nat} (h : Kept q s) : Kept q (addTally s c e n) := by
  unfold addTally
  split
  · exact h
  · exact h.same rfl

theorem seekTlb_kept {c core : Nat} {k : AccKind} {vas : List Nat} (h : Kept q s) : Kept q (seekTlb s c core k vas) := by
  unfold seekTlb
  exact addTally_kept h

/-! ### The miss cap (R465) -/

theorem addMiss_kept {c : Nat} {x : Miss} (h : Kept q s) : Kept q (addMiss s c x) := h.same rfl

theorem sendLine_kept {p : Retain} {c core : Nat} {upd wr : Bool} {lo hi ln : Nat} (h : Kept q s) :
    Kept q (sendLine p c core upd wr lo hi s ln) := by
  unfold sendLine
  dsimp only
  refine touchL2_kept ?_
  split
  · exact h
  · exact addMiss_kept (addTally_kept h)

theorem sendFill_kept {m : Mapping} {ln : Nat} {wr : Bool} {lns : List Nat} (h : Kept q s) : Kept q (sendFill s m ln wr lns) := by
  unfold sendFill
  dsimp only
  refine foldl_kept ?_ (fun t x ht => touchL2_kept ht)
  split
  · exact h
  · exact addMiss_kept (addTally_kept h)

theorem askLine_kept {m : Mapping} {p : Nat × Nat} {k : AccKind} {park : Meet} {g : List Nat → SLine → SLine} (h : Kept q s) :
    Kept q (askLine s m p k park g).1 := by
  unfold askLine
  dsimp only
  split
  · split
    · exact h
    · exact updLine_kept (sendFill_kept (seekTlb_kept h))
  · exact h
  · exact h

theorem meetLine_kept {right : Option Nat} {store : Bool} {p : Nat × Nat} (h : Kept q s) : Kept q (meetLine s right store p).1 := by
  unfold meetLine
  dsimp only
  split
  · exact h
  · split
    · exact h
    · split
      · exact h
      · split
        · exact h
        · exact h
        · exact h
        · exact h
        · split
          · exact h
          · exact askLine_kept h
        · exact h
        · exact askLine_kept h
        · exact askLine_kept h

theorem meetLines_kept {right : Option Nat} {store : Bool} {ps : List (Nat × Nat)} (h : Kept q s) :
    Kept q (meetLines s right store ps).1 := by
  induction ps generalizing s with
  | nil => exact h
  | cons p r ih =>
    have hp := meetLine_kept (right := right) (store := store) (p := p) h
    unfold meetLines
    split
    · rename_i e
      exact ih (hp.fst e)
    · exact hp

theorem wakeLine_kept {core ln : Nat} (h : Kept q s) : Kept q (wakeLine s core ln) := by
  refine mapBlocks_kept h (hb := rfl) (hk := fun _ => rfl) (hl := fun m p hp => ?_) (hr := fun _ => rfl) (hrs := rfl) (hm := rfl) (hs
    := rfl)
  exact blockLow_map hp (fun _ _ hx => slotLow_map hx (fun _ _ h => h))

theorem wakeUnmapped_kept {core ln : Nat} (h : Kept q s) : Kept q (wakeUnmapped s core ln) := by
  refine mapBlocks_kept h (hb := rfl) (hk := fun _ => rfl) (hl := fun m p hp => ?_) (hr := fun _ => rfl) (hrs := rfl) (hm := rfl) (hs
    := rfl)
  exact blockLow_map hp (fun _ _ hx => slotLow_map hx (fun _ _ h => h))

theorem wakeLines_kept {core lo n : Nat} (h : Kept q s) : Kept q (wakeLines s core lo n) := by
  unfold wakeLines
  exact foldl_kept h (fun t x ht => wakeUnmapped_kept (wakeLine_kept ht))

theorem sramPut_kept {core off : Nat} {bs : List Byte} (h : Kept q s) : Kept q (sramPut s core off bs) := by
  unfold sramPut
  exact dropPieces_kept (sram_kept h (fun hs => Memory.wf_wrN hs _ bs) rfl rfl rfl)

theorem sramClears_kept {core off n : Nat} (h : Kept q s) : Kept q (sramClears s core off n) := h.same rfl

theorem sramZero_kept {core off n : Nat} (h : Kept q s) : Kept q (sramZero s core off n) := by
  unfold sramZero
  exact dropPieces_kept (Kept.same (sram_kept (t := { s with sram := Memory.zero s.sram (sramKey core off) n }) h
    (fun hs => Memory.wf_zero hs _ n) rfl rfl rfl) rfl)

theorem lPut_kept {core off : Nat} {bs : List Byte} (h : Kept q s) : Kept q (lPut s core off bs) := by
  have hw : ∀ l : List Nat, Kept q { s with sram := l.foldl (fun m k => Memory.wr m (sramKey core (off + k)) (bs.getD k 0)) s.sram } :=
    fun l => sram_kept h (fun hs => wf_foldl_wr hs) rfl rfl rfl
  unfold lPut
  dsimp only
  split
  · exact foldl_kept (sramClears_kept (hw _)) (fun t p ht => updLine_kept ht)
  · exact noteWrite_kept (foldl_kept (sramClears_kept (hw _)) (fun t p ht => updLine_kept ht))

theorem lWrite_kept {core off : Nat} {bs : List Byte} (h : Kept q s) : Kept q (lWrite s core off bs) := by
  unfold lWrite
  dsimp only
  exact endReleases_kept (dropPieces_kept (lPut_kept h))

theorem lLook_kept {r : Reader} {core off n : Nat} (h : Kept q s) : Kept q (lLook s r core off n).1 := by
  unfold lLook
  exact lookBytes_kept h

/-! ### Stores that other agents may not yet see (R116, R117) -/

theorem gStore_kept {q' : Retain} {i : Issue} {id lane va : Nat} {pas : List Nat} {bs : List Byte} (h : Kept q s) :
    Kept q (gStore q' s i id lane va pas bs) := by
  unfold gStore
  dsimp only
  exact addPieces_kept (endReleases_kept (gPut_kept (landAt_kept h)))

theorem lStoreBy_kept {i : Issue} {id lane la core off : Nat} {ns : List Nat} {bs : List Byte} (h : Kept q s) :
    Kept q (lStoreBy s i id lane la core off ns bs) := by
  unfold lStoreBy
  dsimp only
  exact addPieces_kept (endReleases_kept (lPut_kept (landAt_kept h)))

theorem lStore_kept {i : Issue} {id lane la core off : Nat} {bs : List Byte} (h : Kept q s) :
    Kept q (lStore s i id lane la core off bs) := by
  unfold lStore
  exact lStoreBy_kept h

/-! ### Stores that are not performed after all (R342, R436) -/

theorem setNewest_kept {cs : List (Nat × Byte)} (h : Kept q s) : Kept q (setNewest s cs) := by
  refine foldl_kept h (fun t x ht => ?_)
  split
  · exact sram_kept ht (fun hs => Memory.wf_wr hs _ _) rfl rfl rfl
  · split
    · exact noteWrite_kept (sram_kept (t := { t with sram := Memory.wr t.sram _ x.2 }) ht (fun hs => Memory.wf_wr hs _ _) rfl rfl rfl)
    · exact putRaw_kept ht

theorem undoPart_kept {id : Nat} {x : Shard} (h : Kept q s) : Kept q (undoPart s id x) := by
  unfold undoPart
  dsimp only
  exact setNewest_kept (h.same rfl)

theorem cutStores_kept {f : Pend → Bool} (h : Kept q s) : Kept q (cutStores s f) := by
  unfold cutStores
  refine foldl_kept h (fun t x ht => ?_)
  split
  · exact foldl_kept ht (fun u y hu => undoPart_kept hu)
  · split
    · exact foldl_kept ht (fun u y hu => undoPart_kept hu)
    · exact ht

/-! ### Chunks (R58 to R61) -/

theorem takeVictim_kept {b0 k0 : Nat} (h : Kept q s) : Kept q (takeVictim s b0 k0) := by
  unfold takeVictim
  dsimp only
  split
  · exact h
  · split <;> exact updSlot_kept h (fun _ _ h => h)

theorem allocChunk_kept {b k c : Nat} (h : Kept q s) : Kept q (allocChunk s b k c) := by
  unfold allocChunk
  dsimp only
  split
  · exact h
  · refine updSlot_kept ?_ (fun _ _ h => h)
    split
    · exact takeVictim_kept h
    · exact h

theorem startRefill_kept {b k c : Nat} (h : Kept q s) : Kept q (startRefill s b k c) := by
  unfold startRefill
  dsimp only
  split
  · exact h
  · refine updSlot_kept ?_ (fun _ _ h => h)
    split
    · exact takeVictim_kept h
    · exact h

/-! ### Reads and writes of the state -/

theorem writeArch_kept {b k f a : Nat} {lat : Option Nat} {ls : List Nat} {g : Nat → Word} (h : Kept q s) :
    Kept q (writeArch s b k f a lat ls g) := by
  unfold writeArch
  split
  · exact h
  · exact updSlot_kept (allocChunk_kept h) (fun _ _ h => h)

theorem awaitArch_kept {b k f a id : Nat} {ls : List Nat} (h : Kept q s) : Kept q (awaitArch s b k f a id ls) := by
  unfold awaitArch
  dsimp only
  split
  · exact h
  · exact updSlot_kept (allocChunk_kept h) (fun _ _ h => h)

theorem returnArch_kept {b k a id : Nat} {g : Nat → Word} (h : Kept q s) : Kept q (returnArch s b k a id g) := by
  unfold returnArch
  dsimp only
  split
  · exact h
  · exact updSlot_kept h (fun _ _ h => h)

theorem exactOp_kept {b k id : Nat} (h : Kept q s) : Kept q (exactOp s b k id) := by
  unfold exactOp
  dsimp only
  exact updSlot_kept h (fun _ _ h => h)

theorem tagStale_kept {b k a id : Nat} (h : Kept q s) : Kept q (tagStale s b k a id) := by
  unfold tagStale
  exact updSlot_kept h (fun _ _ h => h)

theorem poisonArch_kept {b k a : Nat} {ls : List Nat} (h : Kept q s) : Kept q (poisonArch s b k a ls) := by
  unfold poisonArch
  split
  · exact h
  · exact updSlot_kept h (fun _ _ h => h)

theorem killArch_kept {b k : Nat} {as : List Nat} (h : Kept q s) : Kept q (killArch s b k as) := by
  unfold killArch
  split
  · exact h
  · exact updSlot_kept h (fun _ _ h => h)

theorem fadeArch_kept {b k : Nat} {as : List Nat} (h : Kept q s) : Kept q (fadeArch s b k as) := by
  unfold fadeArch
  split
  · exact h
  · exact updSlot_kept h (fun _ _ h => h)

theorem unwait_kept {b k f : Nat} (h : Kept q s) : Kept q (unwait s b k f) := by
  unfold unwait
  split
  · exact h
  · split
    · refine updSlot_kept (rings_kept h (fun hr => ringsFit_map hr (fun _ => ⟨rfl, rfl, rfl⟩)) rfl rfl rfl) (fun m x hx => ?_)
      exact getD_modify_of (P := fun j => Low (m j)) (g := fun y => { y with wait := none }) (fun _ hy => hy) hx
    · exact updFib_kept h (fun _ _ h => h)

/-! ### Tickets and traps (R408, R431, R432) -/

theorem newTicket_kept {c : Nat} {src : TrapSrc} {path : List Nat} {fs : List (Nat × Nat)} (h : Kept q s) :
    Kept q (newTicket s c src path fs) := by
  unfold newTicket
  dsimp only
  split
  · exact postEvent_kept (h.same rfl)
  · exact h.same rfl

theorem closeWindow_kept {b k f : Nat} (h : Kept q s) : Kept q (closeWindow s b k f) := by
  unfold closeWindow
  split
  · exact h
  · exact updFib_kept (h.same rfl) (fun _ _ h => h)

theorem trapAt_kept {b k f kind detail : Nat} {ls : List Nat} {rep : Nat} {pc : DWord} {insn ext : Word} {more : List (Nat × Nat)} (h :
    Kept q s) : Kept q (trapAt s b k f kind detail ls rep pc insn ext more) := by
  unfold trapAt
  dsimp only
  exact newTicket_kept (updFib_kept (unwait_kept (closeWindow_kept h)) (fun _ _ h => h))

theorem trapFibre_kept {i : Issue} {kind detail : Nat} {ls : List Nat} {more : List (Nat × Nat)} (h : Kept q s) :
    Kept q (trapFibre s i kind detail ls more) := by
  unfold trapFibre
  exact trapAt_kept h

theorem trapSeq_kept {i : Issue} {kind detail : Nat} {more : List (Nat × Nat)} (h : Kept q s) :
    Kept q (trapSeq s i kind detail more) := by
  unfold trapSeq
  dsimp only
  exact newTicket_kept (updSeq_kept h)

/-! ### Reconvergence (R38, R39, R201, R207) -/

theorem endIfEmpty_low {m : Nat → Nat} {x : Fibre} (h : Low m x) : Low m (endIfEmpty x) := by
  unfold endIfEmpty
  split
  · exact h
  · exact h

theorem settleFib_kept {b k f : Nat} (h : Kept q s) : Kept q (settleFib s b k f) := by
  have hj : ∀ ls : List Nat, Kept q (if ls.isEmpty then s else joinAll s (ls.map (laneAgent b k f))) := by
    intro ls
    split
    · exact h
    · exact joinAll_kept h
  unfold settleFib
  dsimp only
  refine updFib_kept_at (hj _) (fun m hq _ => endIfEmpty_low ?_)
  subst hq
  exact h b k f

/-! ### Barriers (R210 to R213, R219) -/

theorem arriveFib_kept {b k f : Nat} (hq : q.Full) (h : Kept q s) : Kept q (arriveFib s b k f) := by
  unfold arriveFib
  dsimp only
  split
  · exact h
  · split
    · split
      · split
        · exact h
        · exact updBlk_kept (updFib_kept h (fun _ _ h => h)) (fun _ _ h => h) (fun _ h => h)
      · split
        · exact h
        · exact updBlk_kept (updFib_kept h (fun _ _ h => h)) (fun _ _ h => h) (fun _ h => h)
    · split
      · split
        · exact updFib_kept h (fun _ _ h => h)
        · split
          · exact h
          · rename_i hc
            exact updSeq_kept (updFib_rise_kept hq h hc rfl)
      · exact h

theorem passFib_kept {b k f : Nat} (h : Kept q s) : Kept q (passFib s b k f) := by
  unfold passFib
  dsimp only
  split
  · exact h
  · split
    · refine updFib_kept h (hl := fun m x hx => ?_)
      split
      · simp only [updLanes]
        exact hx
      · simp only [updLanes]
        exact hx
    · exact h

theorem goOn_low {m : Nat → Nat} {x : Fibre} {n : Nat} (h : Low m x) : Low m (goOn x n) := h

theorem passLaunch_kept {b n : Nat} (h : Kept q s) : Kept q (passLaunch s b n) := by
  unfold passLaunch
  dsimp only
  split
  · refine mapBlocks_kept h (hk := fun p => by split <;> rfl) (hl := fun m p hp => ?_) (hr := fun p => by split <;> rfl) (hb := rfl)
      (hrs := rfl) (hm := rfl) (hs := rfl)
    split
    · exact blockLow_map hp (fun _ _ hx => slotLow_map hx (fun _ _ hy => goOn_low hy))
    · exact hp
  · exact h

theorem barRound_kept {b : Nat} (hq : q.Full) (h : Kept q s) : Kept q (barRound s b) := by
  unfold barRound
  dsimp only
  refine passLaunch_kept ?_
  refine passLaunch_kept ?_
  refine passLaunch_kept ?_
  refine updBlk_kept (foldl_kept (updBlk_kept (foldl_kept h (fun t x ht => arriveFib_kept hq ht)) (fun _ _ h => h) (fun _ h => h))
    (fun t x ht => passFib_kept ht))
    (hl := fun m x hx => ?_) (hr := fun _ h => h)
  refine blockLow_map hx (hg := fun y z hz => ?_)
  simp only [passFbar]
  split
  · exact slotLow_map hz (fun _ _ h => h)
  · exact hz

theorem settleBars_kept {b : Nat} (hq : q.Full) (h : Kept q s) : Kept q (settleBars s b) := by
  unfold settleBars
  split
  · exact barRound_kept hq (barRound_kept hq (barRound_kept hq (barRound_kept hq h)))
  · exact h

/-! ### Page faults of lanes (R41, R428, R429) -/

theorem reportParked_kept {b k f : Nat} (h : Kept q s) : Kept q (reportParked s b k f) := by
  unfold reportParked
  dsimp only
  split
  · exact h
  · split
    · exact updFib_kept h (fun _ _ h => h)
    · split
      · exact h
      · split
        · exact trapAt_kept h
        · split
          · exact h
          · split
            · exact trapAt_kept h
            · exact h

theorem parkLanes_kept {i : Issue} {ls : List Nat} {g : Nat → Park} (h : Kept q s) : Kept q (parkLanes s i ls g) := by
  unfold parkLanes
  exact updIs_kept h (fun _ _ h => h)

/-! ### Stops, waiting acquires, idle windows -/

theorem obeyStop_kept {b k f : Nat} (h : Kept q s) : Kept q (obeyStop s b k f) := by
  unfold obeyStop
  dsimp only
  split
  · exact updFib_kept (closeWindow_kept h) (fun _ _ h => h)
  · exact h

theorem idleWindow_kept {b k f : Nat} (h : Kept q s) : Kept q (idleWindow s b k f) := by
  unfold idleWindow
  dsimp only
  split
  · exact closeWindow_kept h
  · exact h

theorem takeObject_kept {c pa : Nat} {excl : Bool} (h : Kept q s) : Kept q (takeObject s c pa excl) := by
  unfold takeObject
  dsimp only
  split
  · exact gRead_kept h
  · exact gWrite_kept (gRead_kept h)

theorem acquireBound_kept {b k f scope pa : Nat} {ls : List Nat} (h : Kept q s) : Kept q (acquireBound s b k f scope pa ls) := by
  unfold acquireBound
  exact foldl_kept h (fun t x ht => acquireAt_kept ht)

theorem grant_kept {a : Acq} (h : Kept q s) : Kept q (grant s a) := by
  unfold grant
  dsimp only
  split
  · exact h.same rfl
  · split
    · exact h
    · refine settleFib_kept ?_
      refine updFib_kept ?_ (fun _ _ h => h)
      split
      · exact poisonArch_kept (returnArch_kept (acquireBound_kept (takeObject_kept (h.same rfl))))
      · exact returnArch_kept (acquireBound_kept (takeObject_kept (h.same rfl)))

theorem grants_kept (h : Kept q s) : Kept q (grants s) := by
  unfold grants
  exact foldl_kept h (fun t x ht => grant_kept ht)

/-! ### What every change may bring about -/

theorem endResultWait_kept {b k f : Nat} (h : Kept q s) : Kept q (endResultWait s b k f) := by
  unfold endResultWait
  split
  · split
    · exact updFib_kept h (fun _ _ h => h)
    · exact h
  · exact h

theorem settleOne_kept {b : Nat} {p : Nat × Nat} (h : Kept q s) : Kept q (settleOne b s p) := by
  unfold settleOne
  exact idleWindow_kept (obeyStop_kept (reportParked_kept (endResultWait_kept (settleFib_kept h))))

theorem closeBlockWindows_kept {b : Nat} (h : Kept q s) : Kept q (closeBlockWindows s b) := h.same rfl

theorem beginRetire_kept {b : Nat} (h : Kept q s) : Kept q (beginRetire s b) := by
  unfold beginRetire
  split
  · exact updBlk_kept (h.same rfl) (fun _ _ h => h) (fun _ h => h)
  · exact h

theorem closeHeld_kept {b : Nat} {p : Nat × Nat} (h : Kept q s) : Kept q (closeHeld b s p) := by
  unfold closeHeld
  split
  · exact idleWindow_kept (settleFib_kept h)
  · exact h

theorem settleBlock_kept {b : Nat} (hq : q.Full) (h : Kept q s) : Kept q (settleBlock s b) := by
  unfold settleBlock
  dsimp only
  split
  · exact beginRetire_kept (foldl_kept (settleBars_kept hq (foldl_kept h (fun t x ht => closeHeld_kept ht))) (fun t x ht =>
      settleOne_kept ht))
  · exact h

theorem settle_kept (hq : q.Full) (h : Kept q s) : Kept q (settle s) := by
  unfold settle
  exact grants_kept (foldl_kept h (fun t x ht => settleBlock_kept hq ht))

/-! ### The end of an issue (R32, R33, R36, R154) -/

theorem countIssue_kept {i : Issue} (h : Kept q s) : Kept q (countIssue s i) := by
  unfold countIssue
  dsimp only
  exact updIs_kept (updSlot_kept h (fun _ _ h => h)) (fun _ _ h => h)

theorem passOn_kept {b k f : Nat} (h : Kept q s) : Kept q (passOn s b k f) := by
  unfold passOn
  dsimp only
  refine updSlot_kept ?_ (fun _ _ h => h)
  refine updFib_kept h (hl := fun m x hx => ?_)
  simp only [waitResults]
  split <;> exact hx

theorem switchPoint_kept {i : Issue} (h : Kept q s) : Kept q (switchPoint s i) := by
  unfold switchPoint
  exact passOn_kept (updSlot_kept (closeWindow_kept h) (fun _ _ h => h))

theorem finish_kept {r : Raw} {i : Issue} {a : After} (h : Kept q s) : Kept q (finish r i a s) := by
  unfold finish
  dsimp only
  split
  · exact h.same rfl
  · refine Kept.same ?_ (by dsimp only)
    refine obeyStop_kept ?_
    split
    · refine switchPoint_kept ?_
      split
      · refine closeWindow_kept ?_
        refine settleFib_kept ?_
        refine countIssue_kept ?_
        split
        · exact updIs_kept h (fun _ _ h => h)
        · exact updIs_kept h (fun _ _ h => h)
        · exact updIs_kept (updIs_kept h (fun _ _ h => h)) (fun _ _ h => h)
      · refine settleFib_kept ?_
        refine countIssue_kept ?_
        split
        · exact updIs_kept h (fun _ _ h => h)
        · exact updIs_kept h (fun _ _ h => h)
        · exact updIs_kept (updIs_kept h (fun _ _ h => h)) (fun _ _ h => h)
    · split
      · refine closeWindow_kept ?_
        refine settleFib_kept ?_
        refine countIssue_kept ?_
        split
        · exact updIs_kept h (fun _ _ h => h)
        · exact updIs_kept h (fun _ _ h => h)
        · exact updIs_kept (updIs_kept h (fun _ _ h => h)) (fun _ _ h => h)
      · refine settleFib_kept ?_
        refine countIssue_kept ?_
        split
        · exact updIs_kept h (fun _ _ h => h)
        · exact updIs_kept h (fun _ _ h => h)
        · exact updIs_kept (updIs_kept h (fun _ _ h => h)) (fun _ _ h => h)

/-! ### Operands (R148 to R152, R175, R252) -/

theorem refillAll_kept {b k : Nat} {cs : List Nat} (h : Kept q s) : Kept q (refillAll s b k cs) := by
  unfold refillAll
  refine foldl_kept h (fun t x ht => ?_)
  split
  · split
    · exact ht
    · exact startRefill_kept ht
  · exact ht

theorem touchRegs_kept {r : Raw} {e : Env} (h : Kept q s) : Kept q (touchRegs r e s) := by
  unfold touchRegs
  exact landFlights_kept (updSlot_kept h (fun _ _ h => h))

theorem noteLanes_kept {e : Env} (h : Kept q s) : Kept q (noteLanes e s) := by
  unfold noteLanes
  exact updSlot_kept h (fun _ _ h => h)

theorem beginWait_kept {r : Raw} {e : Env} (h : Kept q s) : Kept q (beginWait r e s) := by
  unfold beginWait
  dsimp only
  split
  · exact h
  · split
    · exact h
    · exact foldl_kept (killArch_kept (updIs_kept (h.same rfl) (fun _ _ h => h))) (fun t x ht => awaitArch_kept ht)

theorem laneRun_kept {r : Raw} {i : Issue} {body : Env → State → State × After} (h :
    Kept q s) (hbody : ∀ x0 t, Kept q t → Kept q (body x0 t).1) : Kept q (laneRun r i s body) := by
  unfold laneRun
  dsimp only
  split
  · split
    · exact finish_kept (refillAll_kept h)
    · split
      · exact finish_kept (hbody _ _ h)
      · exact finish_kept (noteLanes_kept (hbody _ _ h))
  · split
    · exact finish_kept (refillAll_kept h)
    · split
      · exact finish_kept h
      · split
        · exact finish_kept (trapFibre_kept h)
        · split
          · exact finish_kept (noteLanes_kept (hbody _ _ (killArch_kept (touchRegs_kept h))))
          · exact finish_kept (noteLanes_kept (hbody _ _ (killArch_kept (touchRegs_kept h))))
          · split
            · exact finish_kept (beginWait_kept (hbody _ _ (touchRegs_kept h)))
            · exact finish_kept (noteLanes_kept (hbody _ _ (touchRegs_kept h)))

theorem laneInsn_kept {r : Raw} {body : Env → State → State × After} (h : Kept q s) (hbody : ∀ x0 t, Kept q t → Kept q (body x0 t).1) :
    KeptOut q (laneInsn r s body) := by
  unfold laneInsn
  split
  · exact fault_kept
  · exact next_kept (laneRun_kept h (fun x0 t ht => hbody _ _ ht))

theorem wrDs_kept {r : Raw} {e : Env} {k : Nat} {ls : List Nat} {g : Nat → Word} (h : Kept q s) : Kept q (wrDs r e k ls g s) := by
  unfold wrDs
  split
  · exact returnArch_kept h
  · exact writeArch_kept h

theorem wrD_kept {r : Raw} {e : Env} {k : Nat} {g : Nat → Word} (h : Kept q s) : Kept q (wrD r e k g s) := by
  unfold wrD
  exact wrDs_kept h

theorem wrD2_kept {r : Raw} {e : Env} {g : Nat → DWord} (h : Kept q s) : Kept q (wrD2 r e g s) := by
  unfold wrD2
  exact wrD_kept (wrD_kept h)

theorem aluOp_kept {r : Raw} {g : Env → Nat → Word} (h : Kept q s) : KeptOut q (aluOp r s g) := by
  unfold aluOp
  exact laneInsn_kept h (fun x0 t ht => wrD_kept ht)

theorem aluOp2_kept {r : Raw} {g : Env → Nat → DWord} (h : Kept q s) : KeptOut q (aluOp2 r s g) := by
  unfold aluOp2
  exact laneInsn_kept h (fun x0 t ht => wrD2_kept ht)

theorem waitWith_kept {e : Env} {done : List Nat} {last : List Word} (h : Kept q s) : Kept q (waitWith e s done last).1 := by
  unfold waitWith
  dsimp only
  exact updIs_kept (closeWindow_kept h) (fun _ _ h => h)

theorem waitRetry_kept {e : Env} (h : Kept q s) : Kept q (waitRetry e s).1 := by
  unfold waitRetry
  exact waitWith_kept h

theorem wrAll_kept {r : Raw} {e : Env} {w : Word} (h : Kept q s) : Kept q (wrAll r e w s) := by
  unfold wrAll
  exact wrD_kept h

/-! ### Requests that leave the core (R422, R465) -/

theorem capHold_kept {i : Issue} (h : Kept q s) : Kept q (capHold s i) := by
  unfold capHold
  dsimp only
  split
  · exact h
  · refine Kept.same ?_ (by dsimp only)
    exact addTally_kept h

theorem capFree_kept {i : Issue} (h : Kept q s) : Kept q (capFree s i) := h.same rfl

theorem sendAll_kept {q' : Retain} {i : Issue} {core : Nat} {k : AccKind} {lo : Nat} {pas : List Nat} (h : Kept q s) :
    Kept q (sendAll q' i core k lo s pas) := by
  unfold sendAll
  exact capFree_kept (foldl_kept h (fun t x ht => sendLine_kept ht))

theorem asked_kept {i : Issue} {k : AccKind} {vas pas : List Nat} (h : Kept q s) : Kept q (asked s i k vas pas) := by
  unfold asked
  exact sendAll_kept (seekTlb_kept h)

theorem gMeet_kept {i : Issue} {k : AccKind} {w : Nat} {ea : Nat → Nat} {ls : List Nat} (h : Kept q s) :
    Kept q (gMeet s i k w ea ls).s := by
  unfold gMeet
  dsimp only
  split
  · refine foldl_Met_kept h (fun x y hx => ?_)
    split <;> exact hx
  · split
    · exact capHold_kept h
    · exact seekTlb_kept h

theorem parkBad_kept {i : Issue} {bad : List (Nat × FaultInfo)} (h : Kept q s) : Kept q (parkBad s i bad) := by
  unfold parkBad
  exact foldl_kept h (fun t x ht => parkLanes_kept ht)

theorem globalAccess_kept {q' : Retain} {e : Env} {k : AccKind} {al w : Nat} {ea : Nat → Nat} {eff : State → List GLane → State} (h :
    Kept q s) (heff : ∀ t x0, Kept q t → Kept q (eff t x0)) : Kept q (globalAccess q' e s k al w ea eff).1 := by
  unfold globalAccess
  dsimp only
  split
  · exact trapFibre_kept h
  · split
    · exact gMeet_kept h
    · split
      · exact sendAll_kept (heff _ _ (gMeet_kept h))
      · exact parkBad_kept (sendAll_kept (heff _ _ (gMeet_kept h)))

theorem gReadBy_kept {q' : Retain} {c a : Nat} {pas : List Nat} (h : Kept q s) : Kept q (gReadBy q' s c a pas).1 := by
  unfold gReadBy
  exact gLook_kept (landAt_kept h)

theorem gReadLanesBy_kept {q' : Retain} {i : Issue} {ls : List GLane} (h : Kept q s) : Kept q (gReadLanesBy q' s i ls).1 := by
  unfold gReadLanesBy
  dsimp only
  exact foldl_fst_kept h (fun p x hp => gReadBy_kept hp)

theorem gReadLanes_kept {i : Issue} {ls : List GLane} (h : Kept q s) : Kept q (gReadLanes s i ls).1 := by
  unfold gReadLanes
  exact gReadLanesBy_kept h

theorem writeLoad_kept {r : Raw} {e : Env} {f w : Nat} {gs : List Got} (h : Kept q s) : Kept q (writeLoad r e f w gs s) := by
  unfold writeLoad
  dsimp only
  exact foldl_kept h (fun t x ht => poisonArch_kept (wrDs_kept ht))

/-! ### Local accesses -/

theorem lMeet_kept {i : Issue} {store : Bool} {w : Nat} {la : Nat → Nat} {ls : List Nat} (h : Kept q s) :
    Kept q (lMeet s i store w la ls).1 := by
  unfold lMeet
  dsimp only
  refine foldl_fst_kept h (fun p x hp => ?_)
  split
  · exact hp
  · split
    · rename_i p' t e
      have ht := Kept.fst (meetLines_kept hp) e
      exact ht
    · rename_i p' t y z x1 e
      have ht := Kept.fst (meetLines_kept hp) e
      exact ht
    · rename_i p' t y z e
      have ht := Kept.fst (meetLines_kept hp) e
      exact ht
    · rename_i p' t _ _ _ _ e
      have ht := Kept.fst (meetLines_kept hp) e
      exact ht
    · rename_i p' t e
      have ht := Kept.fst (meetLines_kept hp) e
      exact ht
    · rename_i e
      have ht := Kept.fst (meetLines_kept hp) e
      exact ht

theorem parkLocal_kept {i : Issue} {ps : List (Nat × Park)} (h : Kept q s) : Kept q (parkLocal s i ps) := by
  unfold parkLocal
  exact foldl_kept h (fun t x ht => parkLanes_kept ht)

theorem stallLocal_kept {i : Issue} {m : LMet} (h : Kept q s) : Kept q (stallLocal s i m) := by
  unfold stallLocal
  split
  · exact capHold_kept h
  · exact h

theorem localAccess_kept {e : Env} {store : Bool} {al w : Nat} {la : Nat → Nat} {eff : State → List (Nat × Nat × Nat) → State} (h :
    Kept q s) (heff : ∀ t x0, Kept q t → Kept q (eff t x0)) : Kept q (localAccess e s store al w la eff).1 := by
  unfold localAccess
  dsimp only
  split
  · exact trapFibre_kept h
  · split
    · exact stallLocal_kept (lMeet_kept h)
    · split
      · exact heff _ _ (capFree_kept (lMeet_kept h))
      · exact parkLocal_kept (heff _ _ (capFree_kept (lMeet_kept h)))

theorem lReadBy_kept {a la core off w : Nat} (h : Kept q s) : Kept q (lReadBy s a la core off w).1 := by
  unfold lReadBy
  exact lLook_kept (landAt_kept h)

theorem lReadLanes_kept {i : Issue} {w : Nat} {la : Nat → Nat} {ls : List (Nat × Nat × Nat)} (h : Kept q s) :
    Kept q (lReadLanes s i w la ls).1 := by
  unfold lReadLanes
  dsimp only
  exact foldl_fst_kept h (fun p x hp => lReadBy_kept hp)

/-! ### Accesses in flight (R34, R121, R436) -/

theorem fly_kept {fs : List Flight} (h : Kept q s) : Kept q (fly s fs) := by
  unfold fly
  dsimp only
  split
  · exact h
  · refine Kept.same ?_ (by dsimp only)
    exact landFlights_kept (foldl_kept h (fun t x ht => tagStale_kept ht))

/-! ### Per-issue accesses -/

theorem perIssueOp_kept {r : Raw} {body : Env → State → State × After} (h :
    Kept q s) (hbody : ∀ x0 t, Kept q t → Kept q (body x0 t).1) : KeptOut q (perIssueOp r s body) := by
  unfold perIssueOp
  refine laneInsn_kept h (fun x0 t ht => ?_)
  split
  · exact ht
  · exact hbody _ _ ht

theorem trapAll_kept {e : Env} {kind detail : Nat} {more : List (Nat × Nat)} (h : Kept q s) :
    Kept q (trapAll s e kind detail more).1 := by
  unfold trapAll
  dsimp only
  exact trapFibre_kept h

theorem parkAll_kept {e : Env} {k : AccKind} {what : Nat} {f : Nat × Xl} (h : Kept q s) : Kept q (parkAll s e k what f).1 := by
  unfold parkAll
  split
  · exact parkLanes_kept h
  · exact capHold_kept h
  · exact h

/-! ### Loads and stores (R256 to R259) -/

theorem execLd_kept {r : RXF} (h : Kept q s) : KeptOut q (execLd r s) := by
  unfold execLd
  dsimp only
  exact laneInsn_kept h (fun x0 t ht => globalAccess_kept ht (fun u x hu => fly_kept (writeLoad_kept (gReadLanesBy_kept hu))))

theorem execSt_kept {r : RXF} (h : Kept q s) : KeptOut q (execSt r s) := by
  unfold execSt
  dsimp only
  exact laneInsn_kept h (fun x0 t ht => globalAccess_kept ht (fun u x hu => foldl_kept (hu.same rfl) (fun v y hv => gStore_kept hv)))

theorem execLdl_kept {r : RXF} (h : Kept q s) : KeptOut q (execLdl r s) := by
  unfold execLdl
  dsimp only
  exact laneInsn_kept h (fun x0 t ht => localAccess_kept ht (fun u x hu => fly_kept (writeLoad_kept (lReadLanes_kept hu))))

theorem execStl_kept {r : RXF} (h : Kept q s) : KeptOut q (execStl r s) := by
  unfold execStl
  dsimp only
  exact laneInsn_kept h (fun x0 t ht => localAccess_kept ht (fun u x hu => foldl_kept (hu.same rfl) (fun v y hv => lStore_kept hv)))

/-! ### Asynchronous operations (R65, R132, R133) -/

/-- R133: an operation begins for which there is room. -/
theorem startOp_kept {i : Issue} {cls : Nat} {kind : OpKind} {g : Op → Op} (hq : q.Full) (h : Kept q s) (hc : Room s i cls) :
    Kept q (startOp s i cls kind g) := by
  unfold startOp
  dsimp only
  have hl : (landLanes s i i.lanes).blocks = s.blocks := by rw [landLanes, landFlights_eq]
  refine updFib_rise_kept hq ((landLanes_kept h).same rfl) (Nat.ne_of_lt ?_) rfl
  simp only [Room, fibIs, fibD, slotD, blkD, hl] at hc ⊢
  exact hc

/-- R133: the counter of an operation that completes falls. -/
theorem finishOp_kept {id : Nat} (h : Kept q s) : Kept q (finishOp s id) := by
  unfold finishOp
  split
  · exact h
  · exact updFib_kept (h.same rfl) (fun _ _ hx => low_fall hx rfl)

theorem holdOp_kept {id : Nat} {o : Op} {k : AccKind} {f : Nat × Xl} (h : Kept q s) : Kept q (holdOp s id o k f) := by
  unfold holdOp
  dsimp only
  split
  · exact h.same rfl
  · exact h

theorem refreshOp_kept {id : Nat} {o : Op} {k : AccKind} (h : Kept q s) : Kept q (refreshOp s id o k).1 := by
  unfold refreshOp
  dsimp only
  split
  · exact h
  · split
    · exact h.same rfl
    · exact holdOp_kept h

/-! ### Atomics (R260 to R265) -/

theorem rmwAt_kept {c : Nat} {pas : List Nat} {g : Nat → Option Nat} (h : Kept q s) : Kept q (rmwAt s c pas g).1 := by
  unfold rmwAt
  dsimp only
  split
  · exact gRead_kept h
  · split
    · exact gRead_kept h
    · exact dropPieces_kept (gPut_kept (gRead_kept h))

theorem Home_newest_kept {h' : Home} {c w : Nat} (h : Kept q s) : Kept q (Home.newest h' s c w).1 := by
  unfold Home.newest
  dsimp only
  split
  · exact touchMsc_kept (recalls_kept h)
  · exact h

theorem Home_put_kept {h' : Home} {c : Nat} {bs : List Byte} (h : Kept q s) : Kept q (Home.put h' s c bs) := by
  unfold Home.put
  split
  · exact gPut_kept h
  · exact lPut_kept h

theorem releaseHere_kept {u : Updater} {locs : List Nat} (h : Kept q s) : Kept q (releaseHere s u locs) := by
  unfold releaseHere
  dsimp only
  split
  · exact h
  · exact publish_kept (joinView_kept h)

theorem acquireHere_kept {u : Updater} {locs : List Nat} (h : Kept q s) : Kept q (acquireHere s u locs) := by
  unfold acquireHere
  split
  · exact h
  · exact acquireAt_kept h

theorem updateAt_kept {u : Updater} {h' : Home} {w : Nat} {g : Nat → Option Nat} (h : Kept q s) : Kept q (updateAt s u h' w g).1 := by
  unfold updateAt
  dsimp only
  split
  · exact seeLocs_kept (Home_newest_kept (landAt_kept h))
  · split
    · refine acquireHere_kept ?_
      split
      · split
        · exact seeLocs_kept (Home_newest_kept (landAt_kept h))
        · exact Home_newest_kept (landAt_kept h)
      · split
        · exact seeLocs_kept (Home_newest_kept (landAt_kept h))
        · exact Home_newest_kept (landAt_kept h)
    · split
      · split
        · refine acquireHere_kept ?_
          split
          · exact seeLocs_kept (Home_newest_kept (landAt_kept h))
          · exact Home_newest_kept (landAt_kept h)
        · refine releaseHere_kept ?_
          refine addPieces_kept ?_
          refine Home_put_kept ?_
          refine acquireHere_kept ?_
          split
          · exact seeLocs_kept (Home_newest_kept (landAt_kept h))
          · exact Home_newest_kept (landAt_kept h)
      · split
        · refine acquireHere_kept ?_
          split
          · exact seeLocs_kept (Home_newest_kept (landAt_kept h))
          · exact Home_newest_kept (landAt_kept h)
        · refine releaseHere_kept ?_
          refine addPieces_kept ?_
          refine Home_put_kept ?_
          refine acquireHere_kept ?_
          split
          · exact seeLocs_kept (Home_newest_kept (landAt_kept h))
          · exact Home_newest_kept (landAt_kept h)

theorem updateLanes_kept {r : Raw} {e : Env} {w scope ord : Nat} {ls : List (Nat × Home)} {ea b c : Nat → Nat} (h : Kept q s) :
    Kept q (updateLanes r e w scope ord s ls ea b c) := by
  unfold updateLanes
  dsimp only
  refine fly_kept ?_
  refine writeLoad_kept ?_
  refine foldl_fst_kept ?_ (fun p x hp => updateAt_kept hp)
  refine addStore_kept ?_
  split
  · exact landLanes_kept h
  · exact h

theorem landWords_kept {x : Flight} {bs : List Byte} {bad : List Bool} (h : Kept q s) : Kept q (landWords s x bs bad) := by
  unfold landWords
  dsimp only
  exact foldl_kept h (fun t y ht => updSlot_kept ht (fun _ _ h => h))

theorem relook_kept {x : Flight} (h : Kept q s) : Kept q (relook s x) := by
  unfold relook
  dsimp only
  split
  · exact h
  · split
    · split
      · split
        · exact h
        · exact landWords_kept (gReadBy_kept h)
      · exact h
    · split
      · split
        · exact h
        · split
          · exact h
          · exact landWords_kept (lReadBy_kept h)
      · exact h

theorem postUpdate_kept {r : Raw} {e : Env} {w : Nat} {ls : List GLane} (hq : q.Full) (h : Kept q s) (hc : Room s e.i 2) :
    Kept q (postUpdate r e w s ls) := by
  have hj : ∀ q, Kept q s → Kept q (if Forms.immOf r % 4 = 2
      then ls.foldl (fun u l => joinView u (agentOf e.i l.1) (releaseView (32 * s.nextId + l.1))) s else s) := by
    intro q h
    split
    · exact foldl_kept h (fun t x ht => joinView_kept ht)
    · exact h
  exact startOp_kept hq (hj q h) (hc.mono fun m => hj (.counters m))

/-- What a global access keeps whose effect keeps it where the addresses have been met. -/
theorem globalAccess_kept_of {q' : Retain} {e : Env} {k : AccKind} {al w : Nat} {ea : Nat → Nat} {eff : State → List GLane → State}
    (h : Kept q s) (heff : ∀ ls, Kept q (eff (gMeet s e.i k w ea e.act).s ls)) : Kept q (globalAccess q' e s k al w ea eff).1 := by
  unfold globalAccess
  split
  · exact trapFibre_kept h
  · dsimp only
    split
    · exact gMeet_kept h
    · split
      · exact sendAll_kept (heff _)
      · exact parkBad_kept (sendAll_kept (heff _))

theorem atomicOp_kept {r : Raw} (hq : q.Full) (h : Kept q s) : KeptOut q (atomicOp r s) := by
  unfold atomicOp
  refine laneInsn_kept h (fun e t ht => ?_)
  split
  · exact ht
  · rename_i hc
    refine globalAccess_kept_of ht (fun ls => ?_)
    split
    · rename_i hn
      split
      · exact gMeet_kept ht
      · have hroom : Room t e.i 2 := room_of_not_full (fun hf => hc (by rw [hn, hf]; rfl))
        exact postUpdate_kept hq (gMeet_kept ht) (hroom.mono fun m => gMeet_kept)
    · exact updateLanes_kept (gMeet_kept ht)

theorem rmwLocal_kept {core off : Nat} {g : Nat → Option Nat} (h : Kept q s) : Kept q (rmwLocal s core off g).1 := by
  unfold rmwLocal
  dsimp only
  split
  · exact h
  · split
    · exact h
    · exact lWrite_kept h

theorem execAtoml_kept {r : RXF} (h : Kept q s) : KeptOut q (execAtoml r s) := by
  unfold execAtoml
  dsimp only
  exact laneInsn_kept h (fun x0 t ht => localAccess_kept ht (fun u x hu => updateLanes_kept hu))

theorem deferredRec_kept {c unit pa : Nat} (h : Kept q s) : Kept q (deferredRec s c unit pa) := by
  unfold deferredRec
  exact noteError_kept h

theorem applyAtomics_kept {id : Nat} {o : Op} (h : Kept q s) : Kept q (applyAtomics s id o) := by
  unfold applyAtomics
  dsimp only
  refine foldl_kept h (fun t x ht => ?_)
  split
  · exact deferredRec_kept (updateAt_kept ht)
  · split
    · exact publish_kept (dropPieces_kept (updateAt_kept ht))
    · exact dropPieces_kept (updateAt_kept ht)

theorem execJoinc_kept {r : R3} (h : Kept q s) : KeptOut q (execJoinc r s) := by
  unfold execJoinc
  dsimp only
  exact laneInsn_kept h (fun x0 t ht => globalAccess_kept ht (fun u x hu => updateLanes_kept hu))

/-! ### Fences and prefetches -/

theorem execFence_kept {r : R3} (h : Kept q s) : KeptOut q (execFence r s) := by
  unfold execFence
  exact laneInsn_kept h (fun x0 t ht => foldl_kept (landLanes_kept ht) (fun u x hu => fenceBy_kept hu))

theorem prefOp_kept {r : Raw} {msc : Bool} (h : Kept q s) : KeptOut q (prefOp r msc s) := by
  unfold prefOp
  dsimp only
  refine laneInsn_kept h (fun x0 t ht => ?_)
  refine foldl_kept ht (fun u x hu => ?_)
  split
  · exact hu
  · split
    · split
      · exact touchMsc_kept hu
      · exact touchL2_kept hu
    · exact noteBadLeaf_kept hu

/-! ### Mappings (R100 to R103, R108) -/

theorem event_kept {f : State → State} (h : Kept q s) (hf : ∀ t, Kept q t → Kept q (f t)) : KeptOut q (event s f) := by
  unfold event
  dsimp only
  refine next_kept ?_
  refine Kept.same ?_ (by dsimp only)
  exact hf _ h

theorem ctxEvent_kept {c : Nat} {f : State → State} (h : Kept q s) (hf : ∀ t, Kept q t → Kept q (f t)) : KeptOut q (ctxEvent c s f) := by
  unfold ctxEvent
  refine event_kept h (fun t ht => ?_)
  split
  · exact ht
  · exact hf _ ht

theorem blkEvent_kept {b : Nat} {f : State → State} (h : Kept q s) (hf : ∀ t, Kept q t → Kept q (f t)) : KeptOut q (blkEvent b s f) := by
  unfold blkEvent
  exact ctxEvent_kept h (fun t ht => hf _ ht)

theorem deleteMapping_kept {m : Nat} {wb : Bool} (h : Kept q s) : Kept q (deleteMapping s m wb) := by
  unfold deleteMapping
  dsimp only
  split
  · exact h
  · refine wakeLines_kept ?_
    split
    · refine Kept.same ?_ (by dsimp only)
      exact foldl_kept h (fun t x ht => writeBack_kept ht)
    · exact h.same rfl

theorem smapReclaim_kept {core lo n : Nat} (h : Kept q s) : Kept q (smapReclaim s core lo n) := by
  unfold smapReclaim
  dsimp only
  refine foldl_kept ?_ (fun t x ht => deleteMapping_kept ht)
  split
  · split
    · exact deleteMapping_kept h
    · exact h
  · exact h

theorem createMapping_kept {b core ctx : Nat} {tag : Word} {d : Desc} {ready : Bool} (h : Kept q s) :
    Kept q (createMapping s b core ctx tag d ready) := by
  unfold createMapping
  dsimp only
  refine Kept.same ?_ (by dsimp only)
  exact sramZero_kept h

theorem execSmap_kept {r : R3} (hq : q.Full) (h : Kept q s) : KeptOut q (execSmap r s) := by
  unfold execSmap
  refine perIssueOp_kept h (fun e t ht => ?_)
  dsimp only
  split
  · exact trapAll_kept ht
  · split
    · exact trapAll_kept ht
    · split
      · exact ht
      · rename_i hc
        dsimp only
        refine startOp_kept hq ?_ ((room_of_not_full hc).mono fun m hm => ?_)
        · exact createMapping_kept (smapReclaim_kept ht)
        · exact createMapping_kept (smapReclaim_kept hm)

theorem execSunmap_kept {r : R3} (hq : q.Full) (h : Kept q s) : KeptOut q (execSunmap r s) := by
  unfold execSunmap
  refine perIssueOp_kept h (fun e t ht => ?_)
  dsimp only
  split
  · exact trapAll_kept ht
  · split
    · exact ht
    · rename_i hc
      exact startOp_kept hq (ht.same rfl) (room_of_not_full hc)

/-! ### Ranges (R274, R277) -/

theorem fillLines_kept {core : Nat} {lns : List Nat} (h : Kept q s) : KeptOkFst q (fillLines s core lns) := by
  induction lns generalizing s with
  | nil => exact ok_keptFst h
  | cons ln r ih =>
    unfold fillLines
    split
    · exact ih h
    · split
      · split
        · rename_i t e
          exact ih (Kept.fst (askLine_kept h) e)
        · rename_i e
          exact ok_keptFst (Kept.fst (askLine_kept h) e)
        · exact error_keptFst
        · exact error_keptFst
      · exact ih h

theorem rangeOp_kept {r : Raw} {kind : OpKind} (hq : q.Full) (h : Kept q s) : KeptOut q (rangeOp r kind s) := by
  have hf : ∀ q t core lns, Kept q t → KeptOkFst q (if kind = .sfill then fillLines t core lns else .ok (t, false)) := by
    intro q t core lns ht
    split
    · exact fillLines_kept ht
    · exact ok_keptFst ht
  unfold rangeOp
  refine perIssueOp_kept h (fun e t ht => ?_)
  dsimp only
  split
  · exact trapAll_kept ht
  · split
    · exact ht
    · rename_i hc
      split
      · exact parkAll_kept ht
      · rename_i t1 cap hfill
        split
        · exact capHold_kept ht
        · refine startOp_kept hq (capFree_kept ?_) ((room_of_not_full hc).mono fun m hm => capFree_kept ?_)
          · exact hf q t _ _ ht (t1, cap) hfill
          · exact hf _ t _ _ hm (t1, cap) hfill

theorem execSadopt_kept {r : R3} (h : Kept q s) : KeptOut q (execSadopt r s) := by
  unfold execSadopt
  dsimp only
  refine perIssueOp_kept h (fun x0 t ht => ?_)
  split
  · exact wrAll_kept ht
  · exact wrAll_kept (ht.same rfl)

/-! ### Events of stash lines (R104) -/

theorem fillBytes_kept {m j : Nat} {x : Mapping} {l : SLine} (h : Kept q s) : Kept q (fillBytes s m j x l) := by
  unfold fillBytes
  dsimp only
  exact addSramPoison_kept (sramClears_kept (sramPut_kept (seeLocs_kept (touchMsc_kept (recalls_kept h)))))

theorem markFilled_kept {core ln : Nat} (h : Kept q s) : Kept q (markFilled s core ln) := h.same rfl

theorem fillLine_kept {m j : Nat} {x : Mapping} {pas : List Nat} (h : Kept q s) : Kept q (fillLine s m j x pas) := by
  unfold fillLine
  dsimp only
  exact wakeLine_kept (markFilled_kept (updLine_kept (fillBytes_kept h)))

theorem fillReturn_kept {core ln : Nat} (h : Kept q s) : Kept q (fillReturn s core ln) := by
  unfold fillReturn
  dsimp only
  split
  · exact h
  · split
    · exact h
    · split
      · exact h
      · split
        · exact fillLine_kept h
        · exact h
        · exact wakeLine_kept (h.same rfl)

theorem execStashFillReturn_kept {core ln : Nat} (h : Kept q s) : KeptOut q (execStashFillReturn core ln s) := by
  unfold execStashFillReturn
  exact event_kept h (fun t ht => fillReturn_kept ht)

theorem grantOwnership_kept {core ln : Nat} (h : Kept q s) : Kept q (grantOwnership s core ln) := by
  unfold grantOwnership
  dsimp only
  split
  · exact h
  · split
    · exact h
    · exact wakeLine_kept (updLine_kept (recalls_kept h))

theorem execStashOwnershipGrant_kept {core ln : Nat} (h : Kept q s) : KeptOut q (execStashOwnershipGrant core ln s) := by
  unfold execStashOwnershipGrant
  exact event_kept h (fun t ht => grantOwnership_kept ht)

theorem onLine_kept {core ln : Nat} {g : State → Nat → Nat → State} (h : Kept q s)
    (hg : ∀ t m j, Kept q t → Kept q (g t m j)) : Kept q (onLine s core ln g) := by
  unfold onLine
  split
  · exact hg _ _ _ h
  · exact h

theorem execStashInvalidate_kept {core ln : Nat} (h : Kept q s) : KeptOut q (execStashInvalidate core ln s) := by
  unfold execStashInvalidate
  exact event_kept h (fun t ht => onLine_kept ht (fun u m j hu => invalidateLine_kept hu))

theorem execStashRecall_kept {core ln : Nat} (h : Kept q s) : KeptOut q (execStashRecall core ln s) := by
  unfold execStashRecall
  exact event_kept h (fun t ht => onLine_kept ht (fun u m j hu => recallLine_kept hu))

theorem evictLine_kept {m j : Nat} (h : Kept q s) : Kept q (evictLine s m j) := by
  unfold evictLine
  split
  · exact invalidateLine_kept h
  · exact invalidateLine_kept h
  · exact h

theorem execStashCapacityEviction_kept {core ln : Nat} (h : Kept q s) : KeptOut q (execStashCapacityEviction core ln s) := by
  unfold execStashCapacityEviction
  exact event_kept h (fun t ht => onLine_kept ht (fun u m j hu => evictLine_kept hu))

theorem cleanLine_kept {m j : Nat} (h : Kept q s) : Kept q (cleanLine s m j) := by
  unfold cleanLine
  split
  · exact writeBack_kept h
  · exact h

theorem stashOpEffect_kept {o : Op} (h : Kept q s) : KeptOpt q (stashOpEffect s o) := by
  unfold stashOpEffect
  dsimp only
  split
  · split
    · exact some_kept h
    · exact some_kept (wakeLines_kept (h.same rfl))
  · split
    · exact some_kept h
    · split
      · exact some_kept (sramZero_kept (deleteMapping_kept h))
      · exact none_kept
  · split
    · exact some_kept h
    · exact none_kept
  · exact some_kept (foldl_kept h (fun t x ht => onLine_kept ht (fun u m j hu => cleanLine_kept hu)))
  · split
    · exact some_kept (foldl_kept h (fun t x ht => onLine_kept ht (fun u m j hu => hu.same rfl)))
    · exact none_kept

theorem fillAgain_kept {id : Nat} {o : Op} (h : Kept q s) : Kept q (fillAgain s id o) := by
  unfold fillAgain
  split
  · exact h
  · split
    · rename_i x _ e
      have hk := (fillLines_kept h) _ e
      exact hk
    · exact holdOp_kept h

theorem stashComplete_kept {id : Nat} (h : Kept q s) : Kept q (stashComplete s id) := by
  unfold stashComplete
  split
  · exact h
  · split
    · exact h
    · split
      · rename_i x e
        exact fillAgain_kept h
      · rename_i e
        have ht := (stashOpEffect_kept h) _ e
        exact finishOp_kept ht

theorem execStashOpComplete_kept {op : Nat} (h : Kept q s) : KeptOut q (execStashOpComplete op s) := by
  unfold execStashOpComplete
  exact event_kept h (fun t ht => stashComplete_kept ht)

theorem parkAtomic_kept {id : Nat} {o : Op} (h : Kept q s) : Kept q (parkAtomic s id o) := by
  unfold parkAtomic
  dsimp only
  split
  · exact h
  · split
    · refine updFib_kept h (fun _ x hx => ?_)
      induction deadLanes s o generalizing x with
      | nil => exact hx
      | cons p r ih => exact ih _ hx
    · split
      · exact h
      · exact h.same rfl

theorem atomicComplete_kept {id : Nat} (h : Kept q s) : Kept q (atomicComplete s id) := by
  unfold atomicComplete
  dsimp only
  split
  · exact h
  · split
    · exact h
    · split
      · exact finishOp_kept (applyAtomics_kept (refreshOp_kept h))
      · split
        · exact refreshOp_kept h
        · exact parkAtomic_kept h

theorem retryAtomics_kept {b : Nat} (h : Kept q s) : Kept q (retryAtomics s b) := by
  unfold retryAtomics
  exact foldl_kept h (fun t x ht => atomicComplete_kept ht)

theorem execAtomicUpdateComplete_kept {op : Nat} (h : Kept q s) : KeptOut q (execAtomicUpdateComplete op s) := by
  unfold execAtomicUpdateComplete
  exact event_kept h (fun t ht => atomicComplete_kept ht)

theorem execAccessPerformed_kept {id : Nat} (h : Kept q s) : KeptOut q (execAccessPerformed id s) := by
  unfold execAccessPerformed
  exact event_kept h (fun t ht => performStore_kept ht)

/-! ### What engine accesses share (R300 to R302) -/

theorem engineMeet_kept {i : Issue} {k : AccKind} {w : Nat} {ea : Nat → Nat} {ls : List Nat} (h : Kept q s) :
    Kept q (engineMeet s i k w ea ls).s := by
  unfold engineMeet
  dsimp only
  split
  · refine foldl_Met_kept h (fun x y hx => ?_)
    split <;> exact hx
  · exact foldl_kept (seekTlb_kept h) (fun t x ht => touchL2_kept ht)

theorem addDrops_kept {b k f n : Nat} (h : Kept q s) : Kept q (addDrops s b k f n) := by
  unfold addDrops
  exact updFib_kept (updSlot_kept h (fun _ _ h => h)) (fun _ _ h => h)

theorem putLocal_kept {key : Nat} {bs : List Byte} {bad : List Bool} (h : Kept q s) : Kept q (putLocal s key bs bad) := by
  unfold putLocal
  dsimp only
  exact addSramPoison_kept (sramClears_kept (sramPut_kept h))

theorem putRow_kept {core a : Nat} {bs : List Byte} {bad : List Bool} (h : Kept q s) : Kept q (putRow s core a bs bad) := by
  unfold putRow
  exact foldl_kept h (fun t x ht => putLocal_kept ht)

/-! ### Gathers (R310, R311) -/

/-- What a gather into registers does before its operation begins. -/
def gatherNow (r : Raw) (e : Env) (w : Nat) (s : State) (ok : List GLane) (gone : List Nat) : State :=
  let id := s.nextId
  let now (p : GLane) : Bool := decide (pick s id p.1 2 = 0) && !windowOver s e.i p.2
  let (s1, gs) := gReadLanes s e.i (ok.filter now)
  let zs := gs ++ gone.map (fun l => { lane := l, bytes := List.replicate w 0, bad := [] })
  let s2 := writeLoad r e 4 w zs s1
  let regs := (List.range (widthRegs w)).map (fun j => archReg e.wb (r.d.toNat + j))
  let s3 := if zs.isEmpty then s2 else regs.foldl (fun t a => tagStale t e.i.blk e.i.slot a id) s2
  regs.foldl (fun t a => awaitArch t e.i.blk e.i.slot e.i.fib a id ((ok.filter (fun p => !now p)).map (·.1))) s3

theorem gatherNow_kept {r : Raw} {e : Env} {w : Nat} {ok : List GLane} {gone : List Nat} (h : Kept q s) :
    Kept q (gatherNow r e w s ok gone) := by
  refine foldl_kept ?_ (fun t a ht => awaitArch_kept ht)
  split
  · exact writeLoad_kept (gReadLanes_kept h)
  · exact foldl_kept (writeLoad_kept (gReadLanes_kept h)) (fun t a ht => tagStale_kept ht)

theorem gatherRegs_kept {r : Raw} {e : Env} {w : Nat} {ok : List GLane} {gone : List Nat} (hq : q.Full) (h : Kept q s)
    (hc : Room s e.i 0) : Kept q (gatherRegs r e w s ok gone) :=
  startOp_kept (s := gatherNow r e w s ok gone) hq (gatherNow_kept h) (hc.mono fun _ => gatherNow_kept)

theorem gatherRows_kept {e : Env} {w : Nat} {ok : List GLane} {gone : List Nat} (hq : q.Full) (h : Kept q s) (hc : Room s e.i 0) :
    Kept q (gatherRows e w s ok gone) := startOp_kept hq h hc

theorem execGath_kept {r : RXF} (hq : q.Full) (h : Kept q s) : KeptOut q (execGath r s) := by
  unfold execGath
  refine laneInsn_kept h (fun e t ht => ?_)
  dsimp only
  split
  · exact trapFibre_kept ht
  · split
    · exact ht
    · rename_i hc
      split
      · exact ht
      · have hm : ∀ q n g ls, Kept q t → Kept q (closeWindow (engineMeet t e.i .read n g ls).s e.i.blk e.i.slot e.i.fib) :=
          fun q n g ls ht => closeWindow_kept (engineMeet_kept ht)
        have hroom := fun n g ls => (room_of_not_full hc).mono fun m => hm (.counters m) n g ls
        split
        · split
          · exact hm q _ _ _ ht
          · split
            · exact gatherRows_kept hq (hm q _ _ _ ht) (hroom _ _ _)
            · exact gatherRegs_kept hq (hm q _ _ _ ht) (hroom _ _ _)
        · refine parkBad_kept ?_
          split
          · exact hm q _ _ _ ht
          · split
            · exact gatherRows_kept hq (hm q _ _ _ ht) (hroom _ _ _)
            · exact gatherRegs_kept hq (hm q _ _ _ ht) (hroom _ _ _)

theorem gatherLate_kept {id : Nat} {o : Op} (h : Kept q s) : Kept q (gatherLate s id o) := by
  unfold gatherLate
  dsimp only
  refine exactOp_kept ?_
  refine foldl_kept h (fun t x ht => ?_)
  refine foldl_kept (gReadBy_kept ht) (fun u y hu => ?_)
  split
  · exact hu
  · exact poisonArch_kept (updSlot_kept hu (fun _ _ h => h))

theorem gatherMove_kept {o : Op} (h : Kept q s) : Kept q (gatherMove s o) := by
  unfold gatherMove
  dsimp only
  refine foldl_kept h (fun t x ht => ?_)
  split
  · exact putRow_kept (gLookRow_kept ht)
  · exact putRow_kept ht

/-! ### Scatters (R312 to R314) -/

theorem openWindow_kept {i : Issue} {fn ty rw : Nat} {p : Nat × Nat} (h : Kept q s) : Kept q (openWindow s i fn ty rw p).1 := by
  unfold openWindow
  dsimp only
  exact updIs_kept (h.same rfl) (fun _ _ h => h)

theorem closeUnfit_kept {i : Issue} {fn ty rw : Nat} {bb : Option (Nat × Nat)} (h : Kept q s) : Kept q (closeUnfit s i fn ty rw bb) := by
  unfold closeUnfit
  split
  · exact h
  · exact closeWindow_kept h

theorem joinWindow_kept {i : Issue} {fn ty rw : Nat} {bb : Option (Nat × Nat)} (h : Kept q s) :
    Kept q (joinWindow s i fn ty rw bb).1 := by
  unfold joinWindow
  dsimp only
  split
  · exact h
  · split
    · exact closeUnfit_kept h
    · exact openWindow_kept (closeUnfit_kept h)

theorem startScatter_kept {e : Env} {kind : OpKind} {fn ty rw base bound drops : Nat} {els : List Elem} (hq : q.Full) (h : Kept q s)
    (hc : Room s e.i 0) : Kept q (startScatter s e kind fn ty rw base bound drops els) := by
  have hs : ∀ x kind g, Kept q (startOp (joinWindow s e.i fn ty rw x).1 e.i 0 kind g) := by
    intro x kind g
    refine startOp_kept hq ?_ (hc.mono fun m hm => ?_)
    · exact joinWindow_kept h
    · exact joinWindow_kept hm
  unfold startScatter
  dsimp only
  generalize (if e.act.isEmpty = true then none else some (base, bound)) = x
  generalize (if e.act.isEmpty = true then OpKind.idle else kind) = y
  split
  · exact hs _ _ _
  · split
    · refine closeWindow_kept (updIs_kept (Kept.same ?_ (by dsimp only)) (fun _ _ h => h))
      exact hs _ _ _
    · refine updIs_kept (Kept.same ?_ (by dsimp only)) (fun _ _ h => h)
      exact hs _ _ _

theorem scatterOp_kept {r : Raw} {fn : Nat} (hq : q.Full) (h : Kept q s) : KeptOut q (scatterOp r fn s) := by
  unfold scatterOp
  refine laneInsn_kept h (fun e t ht => ?_)
  dsimp only
  generalize (if fn = 2 then rowBytes (Forms.immOf r % 512) else 4) = w
  split
  · exact trapFibre_kept ht
  · split
    · exact ht
    · rename_i hc
      split
      · exact ht
      · have hroom := fun w g ls => (room_of_not_full hc).mono
          (t := (engineMeet t e.i .atomic w g ls).s) fun m hm => engineMeet_kept hm
        split
        · split
          · exact closeUnfit_kept (engineMeet_kept ht)
          · exact startScatter_kept hq (engineMeet_kept ht) (hroom _ _ _)
        · refine parkBad_kept ?_
          split
          · exact closeUnfit_kept (engineMeet_kept ht)
          · exact startScatter_kept hq (engineMeet_kept ht) (hroom _ _ _)

/-! ### Local scatters (R315) -/

theorem scatterLocal_kept {fn ty : Nat} {e : Env} {ls : List (Nat × Nat × Nat)} (h : Kept q s) : Kept q (scatterLocal fn ty e s ls) := by
  unfold scatterLocal
  dsimp only
  refine foldl_kept h (fun t x ht => ?_)
  split
  · split
    · exact noteError_kept (rmwLocal_kept ht)
    · exact rmwLocal_kept ht
  · split
    · exact noteError_kept (rmwLocal_kept ht)
    · exact rmwLocal_kept ht

theorem scatterLocalOp_kept {r : Raw} {fn : Nat} (h : Kept q s) : KeptOut q (scatterLocalOp r fn s) := by
  unfold scatterLocalOp
  dsimp only
  refine laneInsn_kept h (fun x0 t ht => ?_)
  split
  · exact trapFibre_kept ht
  · exact localAccess_kept ht (fun u x hu => addDrops_kept (scatterLocal_kept hu))

/-! ### Embedding tables (R316 to R322) -/

theorem engineRead_kept {c core va n : Nat} {k : AccKind} (h : Kept q s) : KeptOkFst q (engineRead s c core va n k) := by
  unfold engineRead
  dsimp only
  split
  · exact error_keptFst
  · exact ok_keptFst (gRead_kept h)

theorem readTable_kept {c core va : Nat} (h : Kept q s) : KeptOkFst q (readTable s c core va) := by
  unfold readTable
  split
  · rename_i x y e
    exact error_keptFst
  · rename_i e
    have ht := (engineRead_kept h) _ e
    exact ok_keptFst ht

theorem readRow_kept {c core : Nat} {tb : Table} {k : Nat} {acc : AccKind} (h : Kept q s) : KeptOkFst q (readRow s c core tb k acc) := by
  unfold readRow
  dsimp only
  split
  · exact ok_keptFst h
  · split
    · rename_i x y e
      exact error_keptFst
    · rename_i e
      have ht := (engineRead_kept h) _ e
      split
      · exact ok_keptFst ht
      · split
        · rename_i x1 x2 e'
          split
          · exact ok_keptFst ht
          · exact error_keptFst
        · rename_i e'
          have hu := (engineRead_kept ht) _ e'
          exact ok_keptFst hu

theorem closeForEmbu_kept {i : Issue} (h : Kept q s) : Kept q (closeForEmbu s i) := by
  unfold closeForEmbu
  split
  · split
    · exact h
    · exact closeWindow_kept h
  · exact h

theorem embOp_kept_room {r : Raw} {shut : State → Issue → State} {eff : Env → State → Nat → State} (h : Kept q s)
    (hshut : ∀ t i, Kept q t → Kept q (shut t i)) (heff : ∀ e t n, Kept q t → Room t e.i 0 → Kept q (eff e t n)) :
    KeptOut q (embOp r s shut eff) := by
  unfold embOp
  refine laneInsn_kept h (fun e t ht => ?_)
  dsimp only
  split
  · split
    · exact ht
    · rename_i hc
      exact heff _ _ _ ht (room_of_not_full hc)
  · split
    · exact trapAll_kept ht
    · split
      · exact ht
      · rename_i hc
        split
        · exact parkAll_kept (hshut _ _ ht)
        · exact parkAll_kept ht
        · split
          · exact trapAll_kept ht
          · exact heff _ _ _ (gRead_kept (asked_kept ht)) ((room_of_not_full hc).mono fun m hm => gRead_kept (asked_kept hm))

theorem execEmbl_kept {r : RX} (hq : q.Full) (h : Kept q s) : KeptOut q (execEmbl r s) := by
  refine embOp_kept_room h (fun _ _ ht => closeWindow_kept ht) (fun e t n ht hc => startOp_kept hq ?_ (hc.mono fun m hm => ?_))
  · exact closeWindow_kept ht
  · exact closeWindow_kept hm

theorem execEmbu_kept {r : RX} (hq : q.Full) (h : Kept q s) : KeptOut q (execEmbu r s) :=
  embOp_kept_room h (fun _ _ ht => closeForEmbu_kept ht) (fun _ _ _ ht hc => startScatter_kept hq ht hc)

theorem execEmbq_kept {r : RX} (h : Kept q s) : KeptOut q (execEmbq r s) := by
  unfold execEmbq
  dsimp only
  refine perIssueOp_kept h (fun x0 t ht => ?_)
  refine updIs_kept (wrAll_kept ht) (hl := fun m x hx => ?_)
  split <;> exact hx

theorem execEmbv_kept {r : RX} (h : Kept q s) : KeptOut q (execEmbv r s) := by
  unfold execEmbv
  dsimp only
  refine perIssueOp_kept h (fun x0 t ht => ?_)
  split
  · split
    · exact wrAll_kept ht
    · exact waitWith_kept ht
  · split
    · exact wrAll_kept ht
    · exact waitWith_kept ht

theorem embRows_kept {o : Op} {tb : Table} {acc : AccKind} {els : List Elem} (h : Kept q s) : KeptOkFst q (embRows s o tb acc els) := by
  induction els generalizing s with
  | nil => exact ok_keptFst h
  | cons x r ih =>
    unfold embRows
    split
    · exact ih h
    · split
      · exact error_keptFst
      · rename_i t e
        exact ok_keptFst (readRow_kept h (t, none) e)
      · rename_i t _ e
        have ht : Kept q t := readRow_kept h _ e
        split
        · exact error_keptFst
        · rename_i u e'
          exact ok_keptFst (ih ht (u, none) e')
        · rename_i u l e'
          exact ok_keptFst (ih ht (u, some l) e')

theorem emblRow_kept {o : Op} {tb : Table} {rows : List (Elem × Machine.Row)} {x : Elem} (h : Kept q s) :
    Kept q (emblRow s o tb rows x) := by
  unfold emblRow
  dsimp only
  split
  · exact h
  · split <;> exact putRow_kept h

theorem emblPerform_kept {id : Nat} {o : Op} (h : Kept q s) : Kept q (emblPerform s id o) := by
  unfold emblPerform
  dsimp only
  split
  · rename_i x y e
    exact holdOp_kept h
  · rename_i e
    have ht := (readTable_kept h) _ e
    split
    · rename_i z x1 e'
      exact holdOp_kept h
    · rename_i e'
      have hu := (embRows_kept ht) _ e'
      exact finishOp_kept (addDrops_kept (foldl_kept hu (fun v x2 hv => emblRow_kept hv)))

theorem embuRow_kept {o : Op} {tb : Table} {rows : List (Elem × Machine.Row)} {first : Nat} (h : Kept q s) :
    Kept q (embuRow s o tb rows first) := by
  unfold embuRow
  dsimp only
  split
  · exact h
  · split
    · exact deferredRec_kept h
    · exact gWrite_kept h

/-! ### Windows applied (R314, R321) -/

theorem scatterAt_kept {w : Window} {c pa : Nat} (h : Kept q s) : Kept q (scatterAt w c s pa) := by
  unfold scatterAt
  dsimp only
  split
  · split
    · exact deferredRec_kept (rmwAt_kept h)
    · exact rmwAt_kept h
  · split
    · exact deferredRec_kept (rmwAt_kept h)
    · exact rmwAt_kept h

theorem windowLeft_kept {k : Nat} {rest : List Elem} (h : Kept q s) : Kept q (windowLeft s k rest) := by
  unfold windowLeft
  dsimp only
  split <;> exact h.same rfl

theorem applyEmbu_kept {k : Nat} {w : Window} {els rest : List Elem} (h : Kept q s) : Kept q (applyEmbu s k w els rest) := by
  unfold applyEmbu
  dsimp only
  split
  · exact windowLeft_kept h
  · split
    · rename_i x y e
      exact holdOp_kept h
    · rename_i e
      have ht := (readTable_kept h) _ e
      split
      · exact holdOp_kept h
      · refine windowLeft_kept ?_
        refine Kept.same ?_ (by dsimp only)
        exact foldl_kept ht (fun u z hu => embuRow_kept hu)

theorem applyElems_kept {w : Window} {els : List Elem} (h : Kept q s) : Kept q (applyElems s w els) := by
  unfold applyElems
  exact foldl_kept h (fun t x ht => scatterAt_kept ht)

theorem windowPart_kept {k : Nat} {w : Window} {els rest : List Elem} (h : Kept q s) : Kept q (windowPart s k w els rest) := by
  unfold windowPart
  split
  · exact applyEmbu_kept h
  · exact windowLeft_kept (applyElems_kept h)

theorem windowApply_kept {k : Nat} (h : Kept q s) : Kept q (windowApply s k) := by
  unfold windowApply
  dsimp only
  split
  · exact h
  · split
    · exact h
    · split
      · exact windowPart_kept h
      · split
        · exact windowLeft_kept h
        · split
          · exact holdOp_kept h
          · exact windowPart_kept h

theorem execScatterWindowApply_kept {win : Nat} (h : Kept q s) : KeptOut q (execScatterWindowApply win s) := by
  unfold execScatterWindowApply
  exact event_kept h (fun t ht => windowApply_kept ht)

theorem execScatterWindowClose_kept {blk slot fib : Nat} (h : Kept q s) : KeptOut q (execScatterWindowClose blk slot fib s) := by
  unfold execScatterWindowClose
  exact event_kept h (fun t ht => idleWindow_kept ht)

/-! ### Completion (R133) -/

theorem retrieverComplete_kept {id : Nat} (h : Kept q s) : Kept q (retrieverComplete s id) := by
  unfold retrieverComplete
  dsimp only
  split
  · exact h
  · split
    · exact h
    · split
      · exact emblPerform_kept h
      · split
        · exact refreshOp_kept h
        · refine finishOp_kept ?_
          refine addDrops_kept ?_
          split
          · exact gatherMove_kept (refreshOp_kept h)
          · exact gatherLate_kept (refreshOp_kept h)
      · exact finishOp_kept (addDrops_kept h)

theorem execRetrieverOpComplete_kept {op : Nat} (h : Kept q s) : KeptOut q (execRetrieverOpComplete op s) := by
  unfold execRetrieverOpComplete
  exact event_kept h (fun t ht => retrieverComplete_kept ht)

/-! ### The start of a revocation (R397 step 1, R495) and the counts of scheduling errors (R466), shared by the instructions and events that end a context -/

theorem schedErr_kept {c : Nat} (h : Kept q s) : Kept q (schedErr s c) := by
  unfold schedErr
  exact updCtx_kept h

theorem startRevoke_kept {c : Nat} (h : Kept q s) : Kept q (startRevoke s c) := by
  unfold startRevoke
  exact foldl_kept h (fun t x ht => updCtx_kept ht)

theorem bearLoss_kept {c : Nat} {r : ErrRec} (h : Kept q s) : Kept q (bearLoss s c r) := by
  unfold bearLoss
  dsimp only
  split
  · exact noteError_kept h
  · split
    · exact noteError_kept h
    · exact noteError_kept h
    · split
      · exact noteError_kept h
      · exact noteError_kept (startRevoke_kept h)

theorem consumePoison_kept {b unit addr : Nat} (h : Kept q s) : Kept q (consumePoison s b unit addr) := by
  unfold consumePoison
  dsimp only
  exact bearLoss_kept h

theorem matrixLoss_kept {b : Nat} (h : Kept q s) : Kept q (matrixLoss s b) := by
  unfold matrixLoss
  exact bearLoss_kept h

/-! ### The walk (R339) -/

theorem shapeSpot_kept {c core : Nat} {h' : Shape} {is : List Nat} (h : Kept q s) : KeptOkFst q (shapeSpot s c core h' is) := by
  unfold shapeSpot
  dsimp only
  split
  · exact ok_keptFst h
  · split
    · exact error_keptFst
    · exact ok_keptFst (gRead_kept h)

theorem readElem_kept {c core : Nat} {h' : Shape} {is : List Nat} (h : Kept q s) : KeptOkFst q (readElem s c core h' is) := by
  unfold readElem
  dsimp only
  split
  · rename_i x y e
    exact error_keptFst
  · rename_i x t y e
    have ht := (shapeSpot_kept h) _ e
    exact ok_keptFst ht
  · rename_i e
    have ht := (shapeSpot_kept h) _ e
    split
    · exact error_keptFst
    · exact ok_keptFst (gRead_kept ht)

theorem writeElem_kept {c core : Nat} {h' : Shape} {is : List Nat} {v : Nat} {bad : Bool} (h : Kept q s) :
    KeptOk q (writeElem s c core h' is v bad) := by
  unfold writeElem
  dsimp only
  split
  · rename_i x y e
    exact error_kept
  · rename_i x t y e
    have ht := (shapeSpot_kept h) _ e
    exact ok_kept ht
  · rename_i e
    have ht := (shapeSpot_kept h) _ e
    split
    · exact error_kept
    · refine ok_kept ?_
      split
      · exact addPoison_kept (gWrite_kept ht)
      · exact gWrite_kept ht

/-! ### Entry consistency (R126 to R130, R268 to R270) -/

theorem objectOp_kept {r : Raw} {act : Env → State → List Nat → List Nat → State} (h : Kept q s)
    (hact : ∀ e t ls pas, Kept q t → Kept q (act e t ls pas)) : KeptOut q (objectOp r s act) := by
  unfold objectOp
  refine laneInsn_kept h (fun e t ht => ?_)
  dsimp only
  split
  · exact trapFibre_kept ht
  · split
    · rename_i u us hu
      have hm : u ∈ u :: us := List.mem_cons_self
      rw [← hu] at hm
      obtain ⟨p, -, hp⟩ := List.mem_filterMap.1 hm
      split at hp
      · cases hp
        exact ht
      · cases hp
        exact capHold_kept ht
      · cases hp
    · refine foldl_kept ht (fun u p hu => ?_)
      split
      · exact hact _ _ _ _ (asked_kept hu)
      · exact parkLanes_kept hu
      · exact hu

theorem acquireSet_kept {r : Raw} {excl : Bool} {e : Env} {ls pas : List Nat} (h : Kept q s) : Kept q (acquireSet r excl e s ls pas) := by
  unfold acquireSet
  dsimp only
  split
  · split
    · exact poisonArch_kept (wrDs_kept (acquireBound_kept (takeObject_kept h)))
    · exact wrDs_kept (acquireBound_kept (takeObject_kept h))
  · exact updIs_kept (awaitArch_kept (h.same rfl)) (fun _ _ h => h)

theorem execAcqx_kept {r : R3} (h : Kept q s) : KeptOut q (execAcqx r s) := by
  unfold execAcqx
  exact objectOp_kept h (fun e t ls pas ht => acquireSet_kept ht)

theorem execAcqs_kept {r : R3} (h : Kept q s) : KeptOut q (execAcqs r s) := by
  unfold execAcqs
  exact objectOp_kept h (fun e t ls pas ht => acquireSet_kept ht)

theorem publishBound_kept {i : Issue} {scope obj pa : Nat} {ls : List Nat} (h : Kept q s) :
    Kept q (publishBound s i scope obj pa ls) := by
  unfold publishBound
  dsimp only
  refine publish_kept ?_
  refine Kept.same ?_ (by dsimp only)
  exact mapParts_kept h

theorem releaseSet_kept {scope : Nat} {e : Env} {ls pas : List Nat} (h : Kept q s) : Kept q (releaseSet scope e s ls pas) := by
  unfold releaseSet
  dsimp only
  split
  · exact deferredRec_kept (rmwAt_kept h)
  · exact publishBound_kept (rmwAt_kept h)

theorem execRel_kept {r : R3} (h : Kept q s) : KeptOut q (execRel r s) := by
  unfold execRel
  exact objectOp_kept h (fun e t ls pas ht => releaseSet_kept ht)

theorem execBind_kept {r : R3} (h : Kept q s) : KeptOut q (execBind r s) := by
  unfold execBind
  dsimp only
  refine perIssueOp_kept h (fun x0 t ht => ?_)
  split
  · exact trapAll_kept ht
  · split
    · exact trapAll_kept ht
    · split
      · exact wrAll_kept ht
      · exact wrAll_kept (updBlk_kept ht (fun _ _ h => h) (fun _ h => h))

theorem execUnbind_kept {r : R3} (h : Kept q s) : KeptOut q (execUnbind r s) := by
  unfold execUnbind
  dsimp only
  refine perIssueOp_kept h (fun x0 t ht => ?_)
  split
  · exact trapAll_kept ht
  · exact wrAll_kept (updBlk_kept ht (fun _ _ h => h) (fun _ h => h))

/-! ### Handles (R281 to R284) -/

theorem setHandle_kept {b h' : Nat} {st : HandleSt} (h : Kept q s) : Kept q (setHandle s b h' st) := by
  unfold setHandle
  exact updBlk_kept h (fun _ _ h => h) (fun _ h => h)

theorem execHwait_kept {r : R3} (h : Kept q s) : KeptOut q (execHwait r s) := by
  unfold execHwait
  refine perIssueOp_kept h (fun x0 t ht => ?_)
  split
  · exact ht
  · exact waitRetry_kept ht

theorem execHdrain_kept {r : R3} (h : Kept q s) : KeptOut q (execHdrain r s) := by
  unfold execHdrain
  dsimp only
  refine perIssueOp_kept h (fun x0 t ht => ?_)
  split
  · exact wrAll_kept ht
  · split
    · exact wrAll_kept ht
    · split
      · exact wrAll_kept ht
      · exact wrAll_kept (setHandle_kept ht)

theorem execHfree_kept {r : R3} (h : Kept q s) : KeptOut q (execHfree r s) := by
  unfold execHfree
  dsimp only
  refine perIssueOp_kept h (fun x0 t ht => ?_)
  split
  · exact wrAll_kept (setHandle_kept ht)
  · exact wrAll_kept ht

/-! ### Rings (R286 to R290) -/

/-- R288: a ring with a free place takes an entry. -/
theorem putEntry_kept {key : Nat} {x : Ring} {g : Nat → Word} (h : Kept q s) (hx : q = .rings → x.tail - x.head < x.cap) :
    Kept q (putEntry s key x g) := by
  have hs : Kept q (sramClears (sramPut s 0 (key + x.tail % x.cap * 128) (lanes32.flatMap (fun l => natLe 4 (g l).toNat))) 0
    (key + x.tail % x.cap * 128) 128) := sramClears_kept (sramPut_kept h)
  refine rings_kept_of hs (fun hq => ringsFit_mset (by rw [hq] at h; exact h.1) ?_) rfl rfl rfl
  have := hx hq
  show x.tail + 1 - x.head ≤ x.cap
  omega

theorem popEntry_kept {key : Nat} {x : Ring} (h : Kept q s) (hx : q = .rings → x.tail - x.head ≤ x.cap) : Kept q (popEntry s key x) := by
  refine setRing_kept h (fun hq => ?_)
  have := hx hq
  show x.tail - (x.head + 1) ≤ x.cap
  omega

theorem tellWaiter_kept {b kf : Nat} {ws : List Word} (h : Kept q s) : Kept q (tellWaiter s b kf ws) := by
  unfold tellWaiter
  exact updFib_kept h (fun _ _ h => h)

theorem serveOne_kept {key n : Nat} (h : Kept q s) : Kept q (serveOne s key n) := by
  have hf := fun hq => ringD_fit_of h hq key n
  unfold serveOne
  dsimp only
  split
  · exact h
  · rename_i w hw
    have hs : Kept q { s with rings := mset s.rings key { ringD s key n with
        waiters := (ringD s key n).waiters.filter (fun x => x != w) } } := setRing_kept h hf
    split
    · exact hs
    · rename_i he
      split
      · rename_i hput
        split
        · exact tellWaiter_kept hs
        · rename_i hc
          refine tellWaiter_kept (putEntry_kept hs (fun _ => ?_))
          have hfree : (ringD s key n).count < (ringD s key n).cap := by
            simpa [he, hput, hc] using List.find?_some hw
          exact hfree
      · split
        · exact tellWaiter_kept (popEntry_kept hs hf)
        · exact tellWaiter_kept hs

theorem serveRing_kept {key n : Nat} (h : Kept q s) : Kept q (serveRing s key n) := by
  unfold serveRing
  exact foldl_kept h (fun t x ht => serveOne_kept ht)

theorem joinRing_kept {e : Env} {key n : Nat} {put : Bool} (h : Kept q s) : Kept q (joinRing e s key n put).1 :=
  waitRetry_kept (setRing_kept h (fun hq => ringD_fit_of h hq key n))

theorem ringOp_kept {r : Raw} {served : Env → State → List Word → State × After} {body : Env → State → Nat → Nat → State × After} (h :
    Kept q s) (hserved : ∀ x0 t x1, Kept q t → Kept q (served x0 t x1).1) (hbody : ∀ x0 t x1 x2, Kept q t → Kept q (body x0 t x1
      x2).1) : KeptOut q (ringOp r s served body) := by
  unfold ringOp
  refine perIssueOp_kept h (fun x0 t ht => ?_)
  split
  · exact ht
  · exact hserved _ _ _ ht
  · split
    · exact trapAll_kept ht
    · exact hbody _ _ _ _ ht

theorem putOp_kept {r : Raw} {block : Bool} (h : Kept q s) : KeptOut q (putOp r block s) := by
  unfold putOp
  refine ringOp_kept h (fun e t ws ht => wrAll_kept ht) (fun e t key n ht => ?_)
  dsimp only
  split
  · exact wrAll_kept ht
  · split
    · split
      · exact joinRing_kept ht
      · exact wrAll_kept ht
    · rename_i hc
      refine wrAll_kept (serveRing_kept (putEntry_kept ht (fun hq => ?_)))
      exact Nat.lt_of_le_of_ne (ringD_fit_of ht hq key n) hc

theorem getResult_kept {r : Raw} {e : Env} {g : Nat → Word} {st : Word} (h : Kept q s) : Kept q (getResult r e g st s) := by
  unfold getResult
  exact wrD_kept (wrD_kept h)

theorem getOp_kept {r : Raw} {block : Bool} (h : Kept q s) : KeptOut q (getOp r block s) := by
  unfold getOp
  refine ringOp_kept h (fun e t ws ht => poisonArch_kept (getResult_kept ht)) (fun e t key n ht => ?_)
  dsimp only
  split
  · exact poisonArch_kept (getResult_kept (serveRing_kept (popEntry_kept ht (fun hq => ringD_fit_of ht hq key n))))
  · split
    · exact getResult_kept ht
    · split
      · exact joinRing_kept ht
      · exact getResult_kept ht

theorem execQcount_kept {r : R3} (h : Kept q s) : KeptOut q (execQcount r s) := by
  unfold execQcount
  dsimp only
  exact ringOp_kept h (fun x0 t x1 ht => ht) (fun x0 t x1 x2 ht => wrAll_kept ht)

theorem execQclose_kept {r : R3} (h : Kept q s) : KeptOut q (execQclose r s) := by
  unfold execQclose
  refine ringOp_kept h (fun _ _ _ ht => ht) (fun e t key n ht => ?_)
  dsimp only
  exact serveRing_kept (setRing_kept ht (fun hq => ringD_fit_of ht hq key n))

/-! ### Engine counters (R291) -/

theorem execWaitc_kept {r : R3} (h : Kept q s) : KeptOut q (execWaitc r s) := by
  unfold execWaitc
  dsimp only
  refine laneInsn_kept h (fun x0 t ht => ?_)
  split
  · split
    · exact closeWindow_kept ht
    · exact ht
  · refine waitRetry_kept ?_
    split
    · exact closeWindow_kept ht
    · exact ht

/-! ### TRYW and TRYWL (R214) -/

theorem trywEnd_kept {r : Raw} {e : Env} {act parked : List Nat} {got : Nat → Option Word} {bad : Nat → Bool} (h : Kept q s) :
    Kept q (trywEnd r e s act parked got bad).1 := by
  unfold trywEnd
  dsimp only
  split
  · split
    · exact poisonArch_kept (wrDs_kept h)
    · exact waitWith_kept h
  · split
    · exact poisonArch_kept (wrDs_kept h)
    · exact waitWith_kept h

theorem execTryw_kept {r : RX} (h : Kept q s) : KeptOut q (execTryw r s) := by
  unfold execTryw
  dsimp only
  refine laneInsn_kept h (fun x0 t ht => ?_)
  split
  · exact trapFibre_kept ht
  · split
    · refine trywEnd_kept ?_
      split
      · exact gReadLanes_kept (gMeet_kept ht)
      · exact sendAll_kept (gReadLanes_kept (gMeet_kept ht))
    · split
      · exact gMeet_kept ht
      · exact trywEnd_kept (parkBad_kept (sendAll_kept (gReadLanes_kept (gMeet_kept ht))))

theorem execTrywl_kept {r : RX} (h : Kept q s) : KeptOut q (execTrywl r s) := by
  unfold execTrywl
  dsimp only
  refine laneInsn_kept h (fun x0 t ht => ?_)
  split
  · exact trapFibre_kept ht
  · split
    · exact trywEnd_kept (lReadLanes_kept (lMeet_kept ht))
    · split
      · exact stallLocal_kept (lMeet_kept ht)
      · exact trywEnd_kept (parkLocal_kept (lReadLanes_kept (lMeet_kept ht)))

/-! ### The frame of a sequencer instruction (R331, R341, R342, R493) -/

theorem lowerM_kept {b kf : Nat} (h : Kept q s) : Kept q (lowerM s b kf) := updFib_kept h (fun _ _ hx => low_fall hx rfl)

theorem endSeq_kept {b : Nat} (h : Kept q s) : Kept q (endSeq s b) := by
  unfold endSeq
  dsimp only
  exact updSeq_kept (foldl_kept h (fun t x ht => lowerM_kept ht))

theorem seqNext_kept {i : Issue} {pc : DWord} (h : Kept q s) : Kept q (seqNext s i pc) := by
  unfold seqNext
  exact updSeq_kept h

theorem seqEnd_kept {i : Issue} {r : SeqRes} (h : Kept q s) (hr : KeptSeqRes q r) : Kept q (seqEnd i s r) := by
  cases r with
  | go t => exact (seqNext_kept hr).same rfl
  | jump t pc => exact (seqNext_kept hr).same rfl
  | stall t => exact Kept.same hr rfl
  | trap c a => exact (trapSeq_kept h).same rfl
  | hold t f => exact (updSeq_kept hr).same rfl
  | parity =>
    refine Kept.same (s := if endsByPoison s i.blk then matrixLoss s i.blk else trapSeq (matrixLoss s i.blk) i 0x0A 0x0C (addrField
      0)) ?_ rfl
    split
    · exact matrixLoss_kept h
    · exact trapSeq_kept (matrixLoss_kept h)
  | eaten u a => exact (consumePoison_kept h).same rfl
  | ended t => exact (endSeq_kept (updSeq_kept hr)).same rfl

theorem seqInsn_kept {body : Issue → State → SeqM SeqRes} (h : Kept q s) (hb : ∀ i, KeptSeq q (KeptSeqRes q) (body i s)) :
    KeptOut q (seqInsn s body) := by
  unfold seqInsn
  split
  · exact fault_kept
  · split
    · refine next_kept (seqEnd_kept h ?_)
      split
      · rename_i e
        exact e.subst (motive := KeptSeq q (KeptSeqRes q)) (hb _)
      · rename_i e
        exact e.subst (motive := KeptSeq q (KeptSeqRes q)) (hb _)
    · exact fault_kept

theorem needLive_kept {i : Issue} {reads : MatrixCell → Bool} : KeptSeq q (fun _ => True) (needLive s i reads) := by
  unfold needLive
  split
  · trivial
  · trivial

theorem setQ_kept {i : Issue} {k : Nat} {v : DWord} (h : Kept q s) : Kept q (setQ s i k v) := by
  unfold setQ
  exact updSeq_kept h

theorem setTile_kept {i : Issue} {t : Nat} {g : Nat → Nat → Nat} (h : Kept q s) : Kept q (setTile s i t g) := by
  unfold setTile
  dsimp only
  exact updSeq_kept h

/-! ### Set-up (R346, R347) -/

theorem execMshape_kept {r : R3} (h : Kept q s) : KeptOut q (execMshape r s) := by
  refine seqInsn_kept h (fun i => ?_)
  refine bind_keptSeq needLive_kept (fun _ _ => ?_)
  dsimp only
  split
  · trivial
  · exact ok_keptSeq (updSeq_kept h)

theorem execMfmt_kept {r : R3} (h : Kept q s) : KeptOut q (execMfmt r s) := by
  refine seqInsn_kept h (fun i => ?_)
  exact ok_keptSeq (updSeq_kept h)

theorem execMqadd_kept {r : R3} (h : Kept q s) : KeptOut q (execMqadd r s) := by
  refine seqInsn_kept h (fun i => ?_)
  exact bind_keptSeq needLive_kept (fun _ _ => ok_keptSeq (setQ_kept h))

/-! ### Local bytes (R337, R331) -/

theorem noCause_kept {c : Option (Nat × Nat)} : KeptSeq q (fun _ => True) (noCause c) := by
  unfold noCause
  split
  · trivial
  · trivial

theorem seqFault_kept {i : Issue} {k : AccKind} {what : Nat} {f : Nat × Xl} (h : Kept q s) : KeptSeqRes q (seqFault s i k what f) := by
  unfold seqFault
  split <;> exact h

theorem seqLines_kept {i : Issue} {store : Bool} {ps : List (Nat × Nat)} (h : Kept q s) : KeptSeq q (Kept q) (seqLines s i store ps) := by
  unfold seqLines
  dsimp only
  split
  all_goals rename_i e
  all_goals have ht := Kept.fst (meetLines_kept h) e
  · exact ht
  · exact ht
  · exact ht
  · exact error_keptSeq (seqFault_kept ht)
  · exact error_keptSeq (capHold_kept ht)
  · exact ht

theorem seqPoison_kept {i : Issue} {bad : Bool} {unit addr : Nat} (h : Kept q s) : KeptSeq q (Kept q) (seqPoison s i bad unit addr) := by
  unfold seqPoison
  split
  · exact h
  · split
    · trivial
    · exact consumePoison_kept h

theorem seqLocal_kept {i : Issue} {off n : Nat} (h : Kept q s) : KeptSeq q (fun p => Kept q p.1) (seqLocal s i off n) :=
  bind_keptSeq (seqPoison_kept h) (fun _ ht => lLook_kept ht)

theorem execMqset_kept {r : RI} (h : Kept q s) : KeptOut q (execMqset r s) := by
  unfold execMqset
  refine seqInsn_kept h (fun i => ?_)
  dsimp only
  split
  · exact ok_keptSeq (setQ_kept h)
  · exact bind_keptSeq needLive_kept (fun _ _ => ok_keptSeq (setQ_kept h))
  · exact bind_keptSeq noCause_kept (fun _ _ => bind_keptSeq (seqLines_kept h) (fun t ht =>
      bind_keptSeq (seqLocal_kept ht) (fun p hp => ok_keptSeq (setQ_kept hp))))

/-! ### Operand records (R336, R337) -/

theorem readVersion_kept {i : Issue} {r : MRec} (h : Kept q s) : KeptSeq q (Kept q) (readVersion s i r) := by
  unfold readVersion
  split
  · exact bind_keptSeq (seqLines_kept h) (fun t ht => bind_keptSeq (seqLocal_kept ht) (fun p hp => hp))
  · exact h

theorem readOperand_kept {i : Issue} {r : MRec} {n : Nat} (h : Kept q s) : KeptSeq q (fun p => Kept q p.1) (readOperand s i r n) :=
  bind_keptSeq (readVersion_kept h) (fun _ ht => bind_keptSeq (seqLines_kept ht) (fun _ hu => seqLocal_kept hu))

/-! ### Weights and products (R348, R349) -/

theorem execMwld_kept {r : R3F} (h : Kept q s) : KeptOut q (execMwld r s) := by
  refine seqInsn_kept h (fun i => ?_)
  exact bind_keptSeq noCause_kept (fun _ _ => bind_keptSeq needLive_kept (fun _ _ =>
    bind_keptSeq (readOperand_kept h) (fun p hp => ok_keptSeq (updSeq_kept hp))))

theorem product_kept {i : Issue} {t : Nat} {zero : Bool} {as : List Byte} {slot : WSlot} (h : Kept q s) :
    Kept q (product s i t zero as slot) := by
  unfold product
  dsimp only
  exact setTile_kept h

theorem mmaOp_kept {r : R3} {zero : Bool} (h : Kept q s) : KeptOut q (mmaOp r zero s) := by
  refine seqInsn_kept h (fun i => ?_)
  refine bind_keptSeq noCause_kept (fun _ _ => bind_keptSeq needLive_kept (fun _ _ =>
    bind_keptSeq (readOperand_kept h) (fun p hp => ?_)))
  dsimp only
  split
  · trivial
  · exact ok_keptSeq (updSeq_kept (product_kept hp))

theorem execMmas_kept {r : R3} (h : Kept q s) : KeptOut q (execMmas r s) := by
  refine seqInsn_kept h (fun i => ?_)
  exact bind_keptSeq noCause_kept (fun _ _ => bind_keptSeq needLive_kept (fun _ _ =>
    bind_keptSeq (readOperand_kept h) (fun p hp => bind_keptSeq (readOperand_kept hp) (fun u hu => ok_keptSeq (product_kept hu)))))

/-! ### Tile transfers (R340, R350) -/

theorem openLocal_kept {i : Issue} {r : MRec} {z : Nat} {store need : Bool} (h : Kept q s) :
    KeptSeq q (fun w => Kept q w.s) (openLocal s i r z store need) := by
  refine bind_keptSeq noCause_kept (fun _ _ => ?_)
  have hl : KeptSeq q (Kept q) (if store then (if need then seqLines s i true ((r.base - 64, 4) :: tileSpans r (seqD s i.blk).m (seqD
    s i.blk).n z)
      else seqLines s i true (tileSpans r (seqD s i.blk).m (seqD s i.blk).n z))
    else seqLines s i false (if r.v then (r.base - 64, 4) :: tileSpans r (seqD s i.blk).m (seqD s i.blk).n z
      else tileSpans r (seqD s i.blk).m (seqD s i.blk).n z)) := by
    split
    · split
      · exact seqLines_kept h
      · exact seqLines_kept h
    · exact seqLines_kept h
  exact bind_keptSeq hl (fun t ht => ht)

theorem seqXl_kept {i : Issue} {k : AccKind} {va n : Nat} (h : Kept q s) : KeptSeq q (fun p => Kept q p.1) (seqXl s i k va n) := by
  unfold seqXl
  split
  · split
    · exact capHold_kept h
    · exact sendAll_kept h
  · exact seqFault_kept h

theorem seqGlobal_kept {i : Issue} {pas : List Nat} (h : Kept q s) : KeptSeq q (fun p => Kept q p.1) (seqGlobal s i pas) :=
  bind_keptSeq (seqPoison_kept (gLook_kept h)) (fun _ hu => hu)

theorem seqShape_kept {i : Issue} {r : MRec} (h : Kept q s) : KeptSeq q (fun p => Kept q p.1) (seqShape s i r) := by
  unfold seqShape
  split
  · trivial
  · exact bind_keptSeq (seqXl_kept h) (fun p hp => bind_keptSeq (seqGlobal_kept hp) (fun u hu => hu))

theorem shapeTile_kept {i : Issue} {h' : Shape} {co ro : Nat} {k : AccKind} {ps : List (Nat × Nat)}
    {out : List (Nat × Nat × Place)} (h : Kept q s) : KeptSeq q (fun p => Kept q p.1) (shapeTile i h' co ro k ps s out) := by
  induction ps generalizing s out with
  | nil => exact h
  | cons p rest ih =>
    unfold shapeTile
    split
    · exact ih h
    · dsimp only
      split
      · exact error_keptSeq (seqFault_kept h)
      · rename_i t p' bad e
        have ht : Kept q t := shapeSpot_kept h (t, p', bad) e
        have hp := seqPoison_kept (i := i) (bad := bad) (unit := 8) (addr := 0) ht
        split
        · rename_i r e'
          rw [e'] at hp
          exact hp
        · rename_i u e'
          rw [e'] at hp
          exact ih hp
        · rename_i u va _ e'
          rw [e'] at hp
          have hx := seqXl_kept (i := i) (k := k) (va := va) (n := h'.bytesPer) (s := u) hp
          split
          · rename_i e2
            rw [e2] at hx
            exact hx
          · rename_i e2
            rw [e2] at hx
            exact ih hx

theorem openGlobal_kept {i : Issue} {a : Nat} {r : MRec} {typ : Nat} {k : AccKind} {need : Bool} (h : Kept q s) :
    KeptSeq q (fun w => Kept q w.s) (openGlobal s i a r typ k need) := by
  refine bind_keptSeq (seqShape_kept h) (fun p hp => bind_keptSeq noCause_kept (fun _ _ => bind_keptSeq needLive_kept (fun _ _ =>
    bind_keptSeq (shapeTile_kept hp) (fun u hu => ?_))))
  obtain ⟨u, els⟩ := u
  dsimp only
  split
  · exact hu
  · exact bind_keptSeq (seqXl_kept hu) (fun v hv => hv)

theorem openTile_kept {i : Issue} {a typ : Nat} {k : AccKind} {need : Bool} (h : Kept q s) :
    KeptSeq q (fun w => Kept q w.s) (openTile s i a typ k need) := by
  refine bind_keptSeq needLive_kept (fun _ _ => ?_)
  dsimp only
  split
  · trivial
  · split
    · exact openLocal_kept h
    · exact openGlobal_kept h

theorem placeRead_kept {i : Issue} {p : Place} {n : Nat} (h : Kept q s) : KeptSeq q (fun p => Kept q p.1) (placeRead s i p n) := by
  cases p with
  | loc off => exact seqLocal_kept h
  | glob _ pas => exact seqGlobal_kept h

theorem placeStore_kept {i : Issue} {id : Nat} {p : Place} {bs : List Byte} (h : Kept q s) : Kept q (placeStore s i id p bs) := by
  unfold placeStore
  dsimp only
  exact addPieces_kept (endReleases_kept (Home_put_kept h))

theorem placeUpdate_kept {i : Issue} {id scope ord : Nat} {kind : PendKind} {p : Place} {g : Nat → Nat} (h : Kept q s) :
    Kept q (placeUpdate s i id scope ord kind p g) := by
  unfold placeUpdate
  dsimp only
  split
  · exact updateAt_kept h
  · split
    · exact noteError_kept (updateAt_kept h)
    · exact deferredRec_kept (updateAt_kept h)

theorem placeRmw_kept {i : Issue} {id scope : Nat} {kind : PendKind} {p : Place} {g : Nat → Nat} (h : Kept q s) :
    Kept q (placeRmw s i id scope kind p g) := by
  unfold placeRmw
  exact mergeParts_kept (placeUpdate_kept h)

theorem verRead_kept {w : Tile} {i : Issue} (h : Kept q w.s) : KeptSeq q (Kept q) (verRead w i) := by
  unfold verRead
  split
  · exact h
  · split
    · rename_i e
      exact e.subst (motive := KeptSeq q (fun p => Kept q p.1)) (placeRead_kept h)
    · rename_i e
      exact e.subst (motive := KeptSeq q (fun p => Kept q p.1)) (placeRead_kept h)

theorem mstBricks_kept {i : Issue} {a typ t : Nat} (h : Kept q s) : KeptSeq q (KeptSeqRes q) (mstBricks s i a typ t) :=
  bind_keptSeq needLive_kept (fun _ _ => bind_keptSeq noCause_kept (fun _ _ => bind_keptSeq needLive_kept (fun _ _ =>
    bind_keptSeq (seqLines_kept h) (fun _ hu => lStoreBy_kept (addStore_kept hu)))))

theorem execMst_kept {r : R3} (h : Kept q s) : KeptOut q (execMst r s) := by
  unfold execMst
  refine seqInsn_kept h (fun i => ?_)
  dsimp only
  split
  · exact mstBricks_kept h
  · exact bind_keptSeq (openTile_kept h) (fun w hw => bind_keptSeq needLive_kept (fun _ _ =>
      ok_keptSeq (foldl_kept (addStore_kept hw) (fun u x hu => placeStore_kept hu))))

theorem execMstadd_kept {r : R3} (h : Kept q s) : KeptOut q (execMstadd r s) := by
  refine seqInsn_kept h (fun i => ?_)
  exact bind_keptSeq (openTile_kept h) (fun w hw => bind_keptSeq needLive_kept (fun _ _ =>
    ok_keptSeq (markWhole_kept (foldl_kept (addStore_kept hw) (fun u x hu => placeRmw_kept hu)))))

theorem versionStep_kept {i : Issue} {id scope ord : Nat} {ver : Option Place} {g : Nat → Nat} (h : Kept q s) :
    Kept q (versionStep s i id scope ord ver g) := by
  unfold versionStep
  split
  · exact placeUpdate_kept h
  · exact h

theorem execMstatom_kept {r : R3} (h : Kept q s) : KeptOut q (execMstatom r s) := by
  refine seqInsn_kept h (fun i => ?_)
  exact bind_keptSeq (openTile_kept h) (fun w hw => bind_keptSeq needLive_kept (fun _ _ =>
    ok_keptSeq (markWhole_kept (versionStep_kept (foldl_kept (versionStep_kept (addStore_kept hw)) (fun u x hu => placeRmw_kept hu))))))

theorem readTile_kept {i : Issue} {es : List (Nat × Nat × Place)} {out : List (Nat × Nat)} (h : Kept q s) :
    KeptSeq q (fun p => Kept q p.1) (readTile i es s out) := by
  induction es generalizing s out with
  | nil => exact h
  | cons x rest ih =>
    have hp := placeRead_kept (i := i) (p := x.2.2) (n := 4) h
    unfold readTile
    split
    · rename_i e
      rw [e] at hp
      exact hp
    · rename_i e
      rw [e] at hp
      exact ih hp

theorem execMldt_kept {r : R3} (h : Kept q s) : KeptOut q (execMldt r s) := by
  refine seqInsn_kept h (fun i => ?_)
  exact bind_keptSeq (openTile_kept h) (fun w hw => bind_keptSeq (verRead_kept hw) (fun u hu =>
    bind_keptSeq (readTile_kept hu) (fun v hv => ok_keptSeq (setTile_kept hv))))

theorem execMzero_kept {r : R3} (h : Kept q s) : KeptOut q (execMzero r s) := by
  refine seqInsn_kept h (fun i => ?_)
  exact ok_keptSeq (setTile_kept h)

/-! ### Barriers and flow (R351, R352) -/

theorem execMarv_kept {r : R3} (h : Kept q s) : KeptOut q (execMarv r s) := by
  unfold execMarv
  refine seqInsn_kept h (fun i => ?_)
  split
  · exact ok_keptSeq h
  · exact ok_keptSeq (updSeq_kept (showStores_kept h))

theorem execMwait_kept {r : R3} (h : Kept q s) : KeptOut q (execMwait r s) := by
  unfold execMwait
  refine seqInsn_kept h (fun i => ?_)
  dsimp only
  split
  · exact ok_keptSeq (foldl_kept (updSeq_kept h) (fun u x hu => lowerM_kept hu))
  · split
    · split
      · exact ok_keptSeq h
      · exact ok_keptSeq h
    · exact ok_keptSeq h

theorem seqTarget_kept {i : Issue} {imm : Word} : KeptSeq q (fun _ => True) (seqTarget s i imm) := by
  unfold seqTarget
  dsimp only
  split
  · trivial
  · trivial

theorem execMjmp_kept {r : RI} (h : Kept q s) : KeptOut q (execMjmp r s) := by
  refine seqInsn_kept h (fun i => ?_)
  exact bind_keptSeq seqTarget_kept (fun _ _ => ok_keptSeq h)

theorem execMloop_kept {r : RI} (h : Kept q s) : KeptOut q (execMloop r s) := by
  refine seqInsn_kept h (fun i => ?_)
  exact bind_keptSeq seqTarget_kept (fun _ _ => bind_keptSeq needLive_kept (fun _ _ => ok_keptSeq (setQ_kept h)))

/-! ### Element operations and end (R353) -/

theorem execMend_kept {r : R3} (h : Kept q s) : KeptOut q (execMend r s) := by
  unfold execMend
  refine seqInsn_kept h (fun i => ?_)
  split
  · exact ok_keptSeq h
  · exact ok_keptSeq h

theorem readVector_kept {i : Issue} {r : MRec} {n : Nat} (h : Kept q s) : KeptSeq q (fun p => Kept q p.1) (readVector s i r n) :=
  bind_keptSeq (readOperand_kept h) (fun _ hp => hp)

theorem execMscale_kept {r : R3} (h : Kept q s) : KeptOut q (execMscale r s) := by
  refine seqInsn_kept h (fun i => ?_)
  exact bind_keptSeq noCause_kept (fun _ _ => bind_keptSeq needLive_kept (fun _ _ =>
    bind_keptSeq (readVector_kept h) (fun p hp => ok_keptSeq (setTile_kept hp))))

theorem execMact_kept {r : R3} (h : Kept q s) : KeptOut q (execMact r s) := by
  unfold execMact
  refine seqInsn_kept h (fun i => ?_)
  dsimp only
  split
  · exact bind_keptSeq noCause_kept (fun _ _ => bind_keptSeq needLive_kept (fun _ _ =>
      bind_keptSeq (readVector_kept h) (fun p hp => ok_keptSeq (setTile_kept hp))))
  · exact bind_keptSeq needLive_kept (fun _ _ => ok_keptSeq (setTile_kept h))

theorem rowOp_kept {r : R3} {g : List Nat → Nat} (h : Kept q s) : KeptOut q (rowOp r g s) := by
  refine seqInsn_kept h (fun i => ?_)
  refine bind_keptSeq noCause_kept (fun _ _ => bind_keptSeq needLive_kept (fun _ _ =>
    bind_keptSeq (P := fun p => Kept q p.1) ?_ (fun p hp => bind_keptSeq (seqLines_kept hp) (fun w hw =>
      ok_keptSeq (lStoreBy_kept (addStore_kept hw))))))
  split
  · exact readVector_kept h
  · exact ok_keptSeq h

/-! ### What kennel firmware does with a failed walk (R428) -/

theorem updLeaf_kept {c page : Nat} {g : S2 → S2} (h : Kept q s) : Kept q (updLeaf s c page g) := by
  unfold updLeaf
  exact updCtx_kept h

theorem countConflict_kept {c : Nat} (h : Kept q s) : Kept q (countConflict s c) := by
  unfold countConflict
  dsimp only
  exact updKen_kept h

theorem mapRemote_kept {f : Nat} {v : Bool} (h : Kept q s) : Kept q (mapRemote s f v) := by
  unfold mapRemote
  exact foldl_kept h (fun t x ht => foldl_kept ht (fun u y hu => updLeaf_kept hu))

theorem askMigration_kept {c page : Nat} (h : Kept q s) : Kept q (askMigration s c page) := by
  unfold askMigration
  dsimp only
  split
  · exact h
  · split
    · exact h
    · split
      · exact countConflict_kept (mapRemote_kept (h.same rfl))
      · exact postEvent_kept (h.same rfl)

theorem kAcc_kept {c va n : Nat} {k : AccKind} (h : Kept q s) : KeptAcc q (kAcc s c va n k) := by
  unfold kAcc
  split
  · exact trivial
  · split
    · exact askMigration_kept h
    · exact noteBadLeaf_kept h
  · exact h

theorem kGet_kept {c va n : Nat} (h : Kept q s) : KeptRead q (kGet s c va n) := by
  unfold kGet
  dsimp only
  split
  · rename_i x y e
    exact gRead_kept h
  · rename_i x t e
    have ht : Kept q t := e.subst (motive := KeptAcc q) (kAcc_kept h)
    exact ht
  · rename_i t _ e
    have ht : Kept q t := e.subst (motive := KeptAcc q) (kAcc_kept h)
    exact ht

/-! ### Headers (R447, R450) -/

theorem payErr_kept {c q' : Nat} (h : Kept q s) : Kept q (payErr s c q') := by
  unfold payErr
  dsimp only
  split
  · exact h
  · split
    · rename_i x y e
      refine updCtx_kept ?_
      split
      · exact h
      · exact gWrite_kept h
    · rename_i x t e
      have ht : Kept q t := e.subst (motive := KeptAcc q) (kAcc_kept h)
      exact ht
    · rename_i t _ e
      have ht : Kept q t := e.subst (motive := KeptAcc q) (kAcc_kept h)
      exact updCtx_kept ht

theorem oweErr_kept {c q' : Nat} {v : Bool} (h : Kept q s) : Kept q (oweErr s c q' v) := by
  unfold oweErr
  exact payErr_kept (updCtx_kept h)

theorem queueError_kept {c q' : Nat} (h : Kept q s) : Kept q (queueError s c q') := by
  unfold queueError
  split
  · exact h
  · exact oweErr_kept (schedErr_kept (updCtx_kept h))

theorem watchHdr_kept {c q' : Nat} (h : Kept q s) : Kept q (watchHdr s c q') := by
  unfold watchHdr
  split
  · exact h.same rfl
  · exact h

theorem readHdr_kept {c q' : Nat} (h : Kept q s) : KeptQRead q (readHdr s c q') := by
  unfold readHdr
  dsimp only
  split
  · split
    · exact h
    · split
      · exact h
      · split
        · rename_i x t e
          have ht : Kept q t := e.subst (motive := KeptRead q) (kGet_kept h)
          exact ht
        · rename_i x t y e
          have ht : Kept q t := e.subst (motive := KeptRead q) (kGet_kept h)
          exact queueError_kept ht
        · rename_i x t y z e
          have ht : Kept q t := e.subst (motive := KeptRead q) (kGet_kept h)
          split
          · exact queueError_kept ht
          · exact watchHdr_kept ht
  · split
    · exact payErr_kept h
    · split
      · exact payErr_kept h
      · split
        · rename_i x t e
          have ht : Kept q t := e.subst (motive := KeptRead q) (kGet_kept (payErr_kept h))
          exact ht
        · rename_i x t y e
          have ht : Kept q t := e.subst (motive := KeptRead q) (kGet_kept (payErr_kept h))
          exact queueError_kept ht
        · rename_i t _ _ e
          have ht : Kept q t := e.subst (motive := KeptRead q) (kGet_kept (payErr_kept h))
          split
          · exact queueError_kept ht
          · exact watchHdr_kept ht

theorem push_kept {c q' : Nat} {bs : List Byte} {bad : Bool} (h : Kept q s) : KeptPush q (push s c q' bs bad) := by
  unfold push
  dsimp only
  split
  · exact h
  · split
    · rename_i x t e
      have ht : Kept q t := e.subst (motive := KeptQRead q) (readHdr_kept h)
      exact ht
    · rename_i x t e
      have ht : Kept q t := e.subst (motive := KeptQRead q) (readHdr_kept h)
      exact ht
    · rename_i t _ e
      have ht : Kept q t := e.subst (motive := KeptQRead q) (readHdr_kept h)
      split
      · exact ht
      · split
        · exact ht
        · split
          · rename_i z x1 _ _ e' _
            show Kept q _
            refine watchHdr_kept ?_
            refine gWrite_kept ?_
            split
            · exact addPoison_kept (gWrite_kept ht)
            · exact gWrite_kept ht
          · rename_i z x1 u e'
            have hu : Kept q u := e'.subst (motive := KeptAcc q) (kAcc_kept ht)
            exact hu
          · rename_i u e' _
            have hu : Kept q u := e'.subst (motive := KeptAcc q) (kAcc_kept ht)
            exact hu
          · exact queueError_kept ht

/-! ### SPAWN and TASKEND (R222, R224) -/

theorem spawnLane_kept {c q' : Nat} {pas : List Nat} (h : Kept q s) : Kept q (spawnLane c q' s pas).1 := by
  unfold spawnLane
  dsimp only
  split
  · rename_i x t _ e
    have ht : Kept q t := e.subst (motive := KeptPush q) (push_kept (gRead_kept h))
    exact ht
  · rename_i x t e
    have ht : Kept q t := e.subst (motive := KeptPush q) (push_kept (gRead_kept h))
    exact ht
  · rename_i x t e
    have ht : Kept q t := e.subst (motive := KeptPush q) (push_kept (gRead_kept h))
    exact ht
  · rename_i t e
    have ht : Kept q t := e.subst (motive := KeptPush q) (push_kept (gRead_kept h))
    exact ht

theorem spawnLanes_kept {e : Env} {c : Nat} {ok : List GLane} (h : Kept q s) : Kept q (spawnLanes e c s ok).1 := by
  unfold spawnLanes
  dsimp only
  refine foldl_fst_kept h (fun p x hp => ?_)
  split
  · exact hp
  · exact spawnLane_kept hp

theorem execSpawn_kept {r : R3} (h : Kept q s) : KeptOut q (execSpawn r s) := by
  unfold execSpawn
  dsimp only
  refine laneInsn_kept h (fun x0 t ht => ?_)
  split
  · exact trapFibre_kept ht
  · split
    · exact gMeet_kept ht
    · split
      · exact ht.same rfl
      · split
        · exact wrDs_kept (spawnLanes_kept (sendAll_kept (gMeet_kept ht)))
        · exact parkBad_kept (wrDs_kept (spawnLanes_kept (sendAll_kept (gMeet_kept ht))))

theorem endBlock_kept {b : Nat} (h : Kept q s) : Kept q (endBlock s b) := by
  unfold endBlock
  dsimp only
  refine updBlk_kept ?_ (fun _ _ h => h) (fun _ h => h)
  refine endSeq_kept ?_
  refine updBlk_kept (closeBlockWindows_kept (cutStores_kept h)) (hl := fun m x hx => ?_) (hr := fun _ h => h)
  simp only [endFibres]
  refine blockLow_map hx (hg := fun y z hz => ?_)
  simp only [endSlot]
  refine slotLow_map ?_ (hg := fun m1 y1 hy1 => ?_)
  · simp only [dropLate]
    exact hz
  · simp only [endFib]
    split <;> exact hy1

theorem taskEnd_kept {i : Issue} (h : Kept q s) : Kept q (taskEnd s i) := by
  unfold taskEnd
  split
  · exact endBlock_kept h
  · exact updBlk_kept h (fun _ _ h => h) (fun _ h => h)

theorem execTaskend_kept {r : R3} (h : Kept q s) : KeptOut q (execTaskend r s) := by
  unfold execTaskend
  exact laneInsn_kept h (fun x0 t ht => taskEnd_kept ht)

/-! ### Tickets that move on (R408, R433) -/

theorem moveTicket_kept {id : Nat} {path : List Nat} {more : Nat} (h : Kept q s) : Kept q (moveTicket s id path more) := by
  unfold moveTicket
  dsimp only
  split
  · exact h
  · split
    · exact postEvent_kept (h.same rfl)
    · exact h.same rfl

theorem passTicket_kept {id : Nat} (h : Kept q s) : Kept q (passTicket s id) := by
  unfold passTicket
  split
  · exact h
  · exact moveTicket_kept h

theorem pushHandler_kept {id h' : Nat} (h : Kept q s) : Kept q (pushHandler s id h').1 := by
  unfold pushHandler
  dsimp only
  split
  · rename_i x t e
    have ht : Kept q t := e.subst (motive := KeptRead q) (kGet_kept h)
    exact ht
  · rename_i x t y e
    have ht : Kept q t := e.subst (motive := KeptRead q) (kGet_kept h)
    exact passTicket_kept ht
  · rename_i t _ _ e
    have ht : Kept q t := e.subst (motive := KeptRead q) (kGet_kept h)
    split
    · rename_i x1 u _ e'
      have hu : Kept q u := e'.subst (motive := KeptPush q) (push_kept ht)
      exact hu.same rfl
    · rename_i x1 u e'
      have hu : Kept q u := e'.subst (motive := KeptPush q) (push_kept ht)
      exact hu
    · rename_i x1 u e'
      have hu : Kept q u := e'.subst (motive := KeptPush q) (push_kept ht)
      exact passTicket_kept hu
    · rename_i u e'
      have hu : Kept q u := e'.subst (motive := KeptPush q) (push_kept ht)
      exact hu

theorem pushSome_kept {waits : List Nat} {n : Nat} (h : Kept q s) : Kept q (pushSome s waits n) := by
  induction n generalizing s waits with
  | zero => exact h
  | succ k ih =>
    unfold pushSome
    split
    · exact h
    · exact ih (pushHandler_kept h)

theorem pushHandlers_kept (h : Kept q s) : Kept q (pushHandlers s) := by
  unfold pushHandlers
  exact pushSome_kept h

theorem execHandlerTaskPush_kept (h : Kept q s) : KeptOut q (execHandlerTaskPush s) := by
  unfold execHandlerTaskPush
  exact event_kept h (fun t ht => pushHandlers_kept ht)

/-! ### Continuation pushes (R24, R472, R473) -/

theorem pushRecord_kept {p : Push} {bs : List Byte} (h : Kept q s) : Kept q (pushRecord s p bs).1 := by
  unfold pushRecord
  dsimp only
  split
  · rename_i x t _ e
    have ht : Kept q t := e.subst (motive := KeptPush q) (push_kept h)
    exact ht
  · rename_i x t e
    have ht : Kept q t := e.subst (motive := KeptPush q) (push_kept h)
    exact ht
  · rename_i x t e
    have ht : Kept q t := e.subst (motive := KeptPush q) (push_kept h)
    exact schedErr_kept ht
  · rename_i t e
    have ht : Kept q t := e.subst (motive := KeptPush q) (push_kept h)
    exact ht

theorem pushCont_kept {p : Push} (h : Kept q s) : Kept q (pushCont s p).1 := by
  unfold pushCont
  split
  · exact h
  · split
    · exact pushRecord_kept h
    · split
      · rename_i x t e
        have ht : Kept q t := e.subst (motive := KeptRead q) (kGet_kept h)
        exact ht
      · rename_i x t y e
        have ht : Kept q t := e.subst (motive := KeptRead q) (kGet_kept h)
        exact newTicket_kept ht
      · rename_i t _ _ e
        have ht : Kept q t := e.subst (motive := KeptRead q) (kGet_kept h)
        split
        · exact noteError_kept (schedErr_kept ht)
        · exact pushRecord_kept ht

theorem pushConts_kept (h : Kept q s) : Kept q (pushConts s) := by
  unfold pushConts
  dsimp only
  refine foldl_kept (h.same rfl) (fun t x ht => ?_)
  refine Kept.same ?_ (by dsimp only)
  exact pushCont_kept ht

theorem execContinuationPush_kept (h : Kept q s) : KeptOut q (execContinuationPush s) := by
  unfold execContinuationPush
  exact event_kept h (fun t ht => pushConts_kept ht)

/-! ### Reading a header (R449, R450) -/

theorem execQueueHeaderPoll_kept {ctx q' : Nat} (h : Kept q s) : KeptOut q (execQueueHeaderPoll ctx q' s) := by
  unfold execQueueHeaderPoll
  refine ctxEvent_kept h (fun t ht => ?_)
  split
  · rename_i x u _ e
    have hu : Kept q u := e.subst (motive := KeptQRead q) (readHdr_kept ht)
    exact hu
  · rename_i x u e
    have hu : Kept q u := e.subst (motive := KeptQRead q) (readHdr_kept ht)
    exact hu
  · rename_i u e
    have hu : Kept q u := e.subst (motive := KeptQRead q) (readHdr_kept ht)
    exact hu

/-! ### One placement (R21 steps 1 to 3, R94, R97, R108) -/

theorem claimReclaim_kept {c core b mode : Nat} (h : Kept q s) : Kept q (claimReclaim s c core b mode) := by
  unfold claimReclaim
  exact foldl_kept h (fun t x ht => deleteMapping_kept ht)

theorem initBank_kept {core b : Nat} (h : Kept q s) : Kept q (initBank s core b) := by
  refine rings_kept (s := { s with rings := s.rings, sram := (initBank s core b).sram }) ?_ (fun hr => ringsFit_filter hr) rfl rfl rfl
  exact sram_kept h (fun hs => Memory.wf_filter hs _) rfl rfl rfl

theorem reclaimBanks_kept {c : Nat} {bs : List (Nat × Nat × Nat)} (h : Kept q s) : Kept q (reclaimBanks s c bs) := by
  unfold reclaimBanks
  exact foldl_kept h (fun t x ht => claimReclaim_kept ht)

theorem initBanks_kept {bs : List (Nat × Nat × Nat)} (h : Kept q s) : Kept q (initBanks s bs) := by
  unfold initBanks
  exact foldl_kept h (fun t x ht => initBank_kept ht)

theorem trimStash_kept {c core : Nat} (h : Kept q s) : Kept q (trimStash s c core) := by
  unfold trimStash
  dsimp only
  refine foldl_kept h (fun t x ht => ?_)
  split
  · split
    · exact deleteMapping_kept ht
    · exact ht
  · exact ht

theorem placeNew_kept {n : Nat} {l : Launch} {task level : Nat} {p : Spot4} (h : Kept q s) : Kept q (placeNew s n l task level p) := by
  unfold placeNew
  dsimp only
  refine initBanks_kept (foldl_kept ?_ (fun t core ht => trimStash_kept ht))
  refine newBlock_kept (reclaimBanks_kept h) (fun m => blockLow_of_all (fun y hy k => ?_)) rfl rfl rfl rfl rfl
  rw [List.eq_of_mem_replicate hy]
  exact slotLow_default

theorem placeGang_kept {use : State → Nat → Nat → Nat → Option Bool} {sav : Bool} {n : Nat} {l : Launch} {level : Nat}
    {ws : List (Nat × Nat)} (h : Kept q s) : KeptOpt q (placeGang s use sav n l level ws) := by
  suffices ha : ∀ a, KeptOpt q a → KeptOpt q (ws.foldl (fun a w => match a with
      | none => none
      | some t =>
        match spotFor t use l w.1 w.2 with
        | some p => if !sav || saveFits t l.ctx (saveSize l.kd) then some (placeNew t n l w.1 level p) else none
        | none => none) a) from ha (some s) (some_kept h)
  induction ws with
  | nil => exact fun _ ha => ha
  | cons w r ih =>
    refine fun a ha => ih _ ?_
    dsimp only
    split
    · exact none_kept
    · rename_i t
      split
      · split
        · exact some_kept (placeNew_kept (ha t rfl))
        · exact none_kept
      · exact none_kept

/-! ### Records (R110, R451, R452) -/

/-- The copy of a frame's bytes. -/
theorem copyBytes_kept {a b n : Nat} (h : Kept q s) : Kept q { s with mem := Memory.wrN s.mem a (Memory.rdN s.mem b n) } :=
  memory_kept h (fun hm => Memory.wf_wrN hm _ _) rfl rfl rfl

/-! ### Acceptance (R453) -/

theorem readShapes_kept {c : Nat} {rs : List RawDecl} (h : Kept q s) : KeptRead q (readShapes s c rs).1 := by
  suffices hp : ∀ p : KRead × List (Option (List Byte)), KeptRead q p.1 → KeptRead q (rs.foldl (fun p r => match p.1 with
      | .ok t _ bad =>
        if badAddr 64 r.at' then (p.1, p.2 ++ [none]) else
        match kGet t c r.at' 128 with
        | .ok u bs b => (.ok u [] (bad || b), p.2 ++ [some bs])
        | f => (f, p.2)
      | f => (f, p.2)) p).1 from hp (.ok s [] false, []) h
  induction rs with
  | nil => exact fun _ hp => hp
  | cons r rs ih =>
    refine fun p hp => ih _ ?_
    obtain ⟨k, l⟩ := p
    cases k with
    | ok t bs bad =>
      dsimp only
      split
      · exact hp
      · have hk : KeptRead q (kGet t c r.at' 128) := kGet_kept hp
        split
        · rename_i e
          rw [e] at hk
          exact hk
        · exact hk
    | wait t => exact hp
    | bad t i => exact hp

theorem judgeDecls_kept {c q' : Nat} {tr : TaskRec} {kd : KDesc} {rs : List RawDecl} (h : Kept q s) :
    KeptJudge q (judgeDecls s c q' tr kd rs) := by
  have hr := readShapes_kept (c := c) (rs := rs) h
  unfold judgeDecls
  split
  · rename_i e
    rw [e] at hr
    exact hr
  · rename_i e
    rw [e] at hr
    exact hr
  · rename_i e
    rw [e] at hr
    split
    · exact hr
    · dsimp only
      split
      · exact hr
      · split
        · exact hr
        · exact hr

theorem judge_kept {c q' : Nat} {bs : List Byte} {bad : Bool} (h : Kept q s) : KeptJudge q (judge s c q' bs bad) := by
  unfold judge
  dsimp only
  split
  · exact h
  · split
    · exact h
    · split
      · exact h
      · exact h
      · split
        · rename_i x t e
          have ht : Kept q t := e.subst (motive := KeptRead q) (kGet_kept h)
          exact ht
        · rename_i x t y e
          have ht : Kept q t := e.subst (motive := KeptRead q) (kGet_kept h)
          exact ht
        · rename_i t _ _ e
          have ht : Kept q t := e.subst (motive := KeptRead q) (kGet_kept h)
          split
          · exact ht
          · split
            · exact ht
            · split
              · exact ht
              · split
                · exact judgeDecls_kept ht
                · split
                  · rename_i x1 u e'
                    have hu : Kept q u := e'.subst (motive := KeptRead q) (kGet_kept ht)
                    exact hu
                  · rename_i x1 u x2 e'
                    have hu : Kept q u := e'.subst (motive := KeptRead q) (kGet_kept ht)
                    exact hu
                  · rename_i u _ _ e'
                    have hu : Kept q u := e'.subst (motive := KeptRead q) (kGet_kept ht)
                    split
                    · exact hu
                    · exact judgeDecls_kept hu

/-! ### The examination of an entry (R449) -/

theorem refuseHandler_kept {c q' idx : Nat} (h : Kept q s) : Kept q (refuseHandler s c q' idx) := by
  unfold refuseHandler
  split
  · exact passTicket_kept h
  · exact h

theorem concludeEntry_kept {c q' : Nat} {h' : QHdr} {st : Nat} {l : Option Launch} (h : Kept q s) :
    Kept q (concludeEntry s c q' h' st l) := by
  unfold concludeEntry
  dsimp only
  split
  · rename_i x y _ _ e _
    split
    · refine Kept.same ?_ (by dsimp only)
      exact updCtx_kept (gWrite_kept (gWrite_kept h))
    · exact refuseHandler_kept (schedErr_kept (updCtx_kept (gWrite_kept (gWrite_kept h))))
  · rename_i x y t e
    have ht : Kept q t := e.subst (motive := KeptAcc q) (kAcc_kept h)
    exact ht
  · rename_i t e _
    have ht : Kept q t := e.subst (motive := KeptAcc q) (kAcc_kept h)
    exact ht
  · exact queueError_kept h

theorem examineEntry_kept {c q' : Nat} (h : Kept q s) : Kept q (examineEntry s c q') := by
  unfold examineEntry
  split
  · exact h
  · split
    · rename_i x t e
      have ht : Kept q t := e.subst (motive := KeptQRead q) (readHdr_kept h)
      exact ht
    · rename_i x t e
      have ht : Kept q t := e.subst (motive := KeptQRead q) (readHdr_kept h)
      exact ht
    · rename_i t _ e
      have ht : Kept q t := e.subst (motive := KeptQRead q) (readHdr_kept h)
      split
      · rename_i z u e'
        have hu : Kept q u := e'.subst (motive := KeptRead q) (kGet_kept ht)
        exact hu
      · rename_i z u x1 e'
        have hu : Kept q u := e'.subst (motive := KeptRead q) (kGet_kept ht)
        exact hu
      · rename_i u _ _ e'
        have hu : Kept q u := e'.subst (motive := KeptRead q) (kGet_kept ht)
        split
        · rename_i x3 v e1
          have hv : Kept q v := e1.subst (motive := KeptJudge q) (judge_kept hu)
          exact hv
        · rename_i v _ _ e1
          have hv : Kept q v := e1.subst (motive := KeptJudge q) (judge_kept hu)
          exact concludeEntry_kept hv

theorem execQueueEntryExamine_kept {ctx q' : Nat} (h : Kept q s) : KeptOut q (execQueueEntryExamine ctx q' s) := by
  unfold execQueueEntryExamine
  exact ctxEvent_kept h (fun t ht => examineEntry_kept ht)

/-! ### Queue descriptors (R412, R447, R450) -/

theorem clearErr_kept {c q' : Nat} (h : Kept q s) : Kept q (clearErr s c q') := by
  unfold clearErr
  exact watchHdr_kept (oweErr_kept (updCtx_kept h))

theorem writeQdesc_kept {c q' : Nat} {v : DWord} (h : Kept q s) : Kept q (writeQdesc s c q' v) := by
  unfold writeQdesc
  dsimp only
  split
  · exact h
  · split
    · exact clearErr_kept (updCtx_kept h)
    · exact updCtx_kept h

theorem execQdescWrite_kept {ctx q' : Nat} {v : DWord} (h : Kept q s) : KeptOut q (execQdescWrite ctx q' v s) := by
  unfold execQdescWrite
  exact event_kept h (fun t ht => writeQdesc_kept ht)

/-! ### Aging (R454) -/

theorem addWaits_kept {n : Nat} (h : Kept q s) : Kept q (addWaits s n) :=
  mapBlocks_kept h (hk := fun _ => by split <;> rfl) (hl := fun _ _ hp => by split <;> exact hp) (hr := fun _ => by split <;> rfl)
    (hb := rfl) (hrs := rfl) (hm := rfl) (hs := rfl)

/-! ### Meanings of the binning instructions (R323 to R327) and the completion of operations of class B -/

theorem penStore_kept {core off n x : Nat} (h : Kept q s) : Kept q (penStore s core off n x) := by
  unfold penStore
  exact putLocal_kept h

theorem binKey_kept {o : Op} {w : BinRun} {x : Elem} (h : Kept q w.s) : Kept q (binKey o w x).s := by
  unfold binKey
  dsimp only
  split
  · exact h
  · split
    · exact h
    · split
      · exact h
      · split
        · exact penStore_kept h
        · split
          · split
            · exact noteError_kept (penStore_kept h)
            · exact penStore_kept (penStore_kept h)
          · split
            · split
              · exact h
              · exact penStore_kept (gWrite_kept (penStore_kept h))
            · exact penStore_kept (penStore_kept h)

theorem binRun_kept {o : Op} (h : Kept q s) : Kept q (binRun s o).s := by
  unfold binRun
  split
  · exact h
  · exact foldl_BinRun_kept h (fun w x hw => binKey_kept hw)

theorem binComplete_kept {id : Nat} (h : Kept q s) : Kept q (binComplete s id) := by
  unfold binComplete
  dsimp only
  split
  · exact h
  · split
    · exact h
    · split
      · exact holdOp_kept h
      · split
        · exact finishOp_kept (consumePoison_kept h)
        · exact finishOp_kept (addDrops_kept (binRun_kept h))

theorem execBinningComplete_kept {op : Nat} (h : Kept q s) : KeptOut q (execBinningComplete op s) := by
  unfold execBinningComplete
  exact event_kept h (fun t ht => binComplete_kept ht)

theorem binOp_kept {r : Raw} {item : Bool} (hq : q.Full) (h : Kept q s) : KeptOut q (binOp r item s) := by
  unfold binOp
  refine laneInsn_kept h (fun e t ht => ?_)
  have hstart : ∀ g, Kept q (if ctrFull t e.i 5 then (t, After.stay) else (startOp t e.i 5 .bin g, After.advance)).1 := by
    intro g
    split
    · exact ht
    · rename_i hc
      exact startOp_kept hq ht (room_of_not_full hc)
  dsimp only
  split
  · exact hstart _
  · split
    · exact trapAll_kept ht
    · exact hstart _

theorem penReset_kept {c core off : Nat} (h : Kept q s) : Kept q (penReset s c core off) := by
  unfold penReset
  dsimp only
  split
  · exact penStore_kept h
  · refine foldl_kept (penStore_kept h) (fun t x ht => ?_)
    split
    · exact penStore_kept ht
    · exact ht

theorem execBinr_kept {r : R3} (h : Kept q s) : KeptOut q (execBinr r s) := by
  unfold execBinr
  dsimp only
  refine perIssueOp_kept h (fun x0 t ht => ?_)
  split
  · exact trapAll_kept ht
  · split
    · exact waitRetry_kept ht
    · split
      · split
        · exact consumePoison_kept ht
        · exact ht
      · refine wrAll_kept ?_
        refine penReset_kept ?_
        split
        · exact consumePoison_kept ht
        · exact ht

/-! ### Instruction fetch (R144 to R147) -/

theorem fetchParcel_kept {core c va : Nat} {kind : FetchBy} (h : Kept q s) : KeptOkFst q (fetchParcel s core c va kind) := by
  unfold fetchParcel
  dsimp only
  split
  · split <;> exact ok_keptFst (recalls_kept h)
  · exact error_keptFst

theorem fetchParcels_kept {core c va n : Nat} {kind : FetchBy} (h : Kept q s) : KeptOkFst q (fetchParcels s core c va n kind) := by
  induction n generalizing s va with
  | zero => exact ok_keptFst h
  | succ k ih =>
    unfold fetchParcels
    split
    · exact error_keptFst
    · rename_i e
      split
      · exact error_keptFst
      · rename_i s2 ps e'
        exact ok_keptFst (ih (fetchParcel_kept h _ e) (s2, ps) e')

theorem fetchCode_kept {core c va : Nat} {kind : FetchBy} (h : Kept q s) : KeptOkFst q (fetchCode s core c va kind) := by
  unfold fetchCode
  split
  · rename_i x y e
    exact error_keptFst
  · rename_i e
    have ht := (fetchParcel_kept h) _ e
    split
    · rename_i z x1 e'
      exact error_keptFst
    · rename_i e'
      have hu := (fetchParcels_kept ht) _ e'
      exact ok_keptFst (seekTlb_kept hu)

theorem parkFetch_kept {b k f : Nat} {ls : List Nat} {e : Nat × Xl} (h : Kept q s) : Kept q (parkFetch s b k f ls e) := by
  unfold parkFetch
  dsimp only
  split
  · exact updFib_kept h (fun _ _ h => h)
  · exact h

/-! ### Meanings of the lane operations (R194 to R198) -/

theorem execShfl_kept {r : RXF} (h : Kept q s) : KeptOut q (execShfl r s) := by
  unfold execShfl
  exact laneInsn_kept h (fun x0 t ht => wrD_kept ht)

theorem setMask_kept {i : Issue} {k : Nat} {ls : List Nat} (h : Kept q s) : Kept q (setMask s i k ls) := by
  unfold setMask
  exact updIs_kept h (fun _ _ h => h)

theorem execMwrite_kept {r : R3} (h : Kept q s) : KeptOut q (execMwrite r s) := by
  unfold execMwrite
  exact laneInsn_kept h (fun x0 t ht => updIs_kept ht (fun _ _ h => h))

/-! ### Branches (R199) -/

theorem jump_kept {i : Issue} {ls : List Nat} {t : Nat → DWord} (h : Kept q s) : Kept q (jump s i ls t) := by
  unfold jump
  exact updIs_kept h (fun _ _ h => h)

theorem execBra_kept {r : RI} (h : Kept q s) : KeptOut q (execBra r s) := by
  unfold execBra
  exact laneInsn_kept h (fun x0 t ht => jump_kept ht)

theorem execBnz_kept {r : RI} (h : Kept q s) : KeptOut q (execBnz r s) := by
  unfold execBnz
  exact laneInsn_kept h (fun x0 t ht => jump_kept ht)

theorem execBz_kept {r : RI} (h : Kept q s) : KeptOut q (execBz r s) := by
  unfold execBz
  exact laneInsn_kept h (fun x0 t ht => jump_kept ht)

theorem enterCall_kept {e : Env} {ls : List Nat} {f : Nat} {target : DWord} (h : Kept q s) : Kept q (enterCall e s ls f target) := by
  unfold enterCall
  dsimp only
  exact updIs_kept (writeArch_kept (writeArch_kept h)) (fun _ _ h => h)

theorem execCall_kept {r : RI} (h : Kept q s) : KeptOut q (execCall r s) := by
  unfold execCall
  dsimp only
  refine laneInsn_kept h (fun x0 t ht => ?_)
  split
  · exact trapFibre_kept ht
  · exact enterCall_kept ht

theorem readEntry_kept {i : Issue} {off : Nat} (h : Kept q s) : KeptOkFst q (readEntry s i off) := by
  unfold readEntry
  dsimp only
  split
  · rename_i x _ y e
    have ht := (fetchParcels_kept h) _ e
    exact ok_keptFst (seekTlb_kept ht)
  · exact error_keptFst

theorem readEntries_kept {e : Env} {imm : Word} (h : Kept q s) : Kept q (readEntries s e imm).1 := by
  unfold readEntries
  dsimp only
  refine foldl_fst_kept h (fun p x hp => ?_)
  split
  · rename_i y _ z e'
    have ht := (readEntry_kept hp) _ e'
    exact ht
  · rename_i y z _ _ _ e'
    exact hp
  · exact hp

theorem jumpTrap_kept {e : Env} {ls : List Nat} (h : Kept q s) : Kept q (jumpTrap s e ls).1 := by
  unfold jumpTrap
  dsimp only
  exact trapFibre_kept h

theorem withEntries_kept {e : Env} {x : Bool} {imm : Word} {eff : State → List (Nat × JEntry) → List (Nat × FaultInfo) → State × After}
    (h : Kept q s) (heff : ∀ t x0 x1, Kept q t → Kept q (eff t x0 x1).1) : Kept q (withEntries e s x imm eff).1 := by
  unfold withEntries
  dsimp only
  split
  · exact jumpTrap_kept h
  · split
    · exact jumpTrap_kept h
    · split
      · exact jumpTrap_kept h
      · split
        · exact h
        · exact heff _ _ _ (readEntries_kept h)

theorem parkEntries_kept {i : Issue} {bad : List (Nat × FaultInfo)} (h : Kept q s) : Kept q (parkEntries s i bad) := by
  unfold parkEntries
  exact foldl_kept h (fun t x ht => parkLanes_kept ht)

theorem execBrx_kept {r : RI} (h : Kept q s) : KeptOut q (execBrx r s) := by
  unfold execBrx
  dsimp only
  exact laneInsn_kept h (fun x0 t ht => withEntries_kept ht (fun u x x1 hu => parkEntries_kept (foldl_kept hu (fun v y hv =>
    jump_kept hv))))

theorem execCallx_kept {r : RI} (h : Kept q s) : KeptOut q (execCallx r s) := by
  unfold execCallx
  dsimp only
  refine laneInsn_kept h (fun x0 t ht => ?_)
  split
  · exact trapFibre_kept ht
  · refine withEntries_kept ht (fun u x x1 hu => ?_)
    split
    · exact parkLanes_kept (parkEntries_kept hu)
    · exact enterCall_kept (parkLanes_kept (parkEntries_kept hu))

theorem execRet_kept {r : R3} (h : Kept q s) : KeptOut q (execRet r s) := by
  unfold execRet
  dsimp only
  refine laneInsn_kept h (fun x0 t ht => ?_)
  split
  · exact trapFibre_kept ht
  · refine updIs_kept ht (hl := fun m x hx => ?_)
    refine settleDepth_low ?_
    simp only [updLanes]
    exact hx

theorem execExit_kept {r : R3} (h : Kept q s) : KeptOut q (execExit r s) := by
  unfold execExit
  refine laneInsn_kept h (fun x0 t ht => ?_)
  refine updIs_kept ht (hl := fun m x hx => ?_)
  simp only [exitLanes]
  refine settleDepth_low ?_
  simp only [updLanes]
  exact hx

/-! ### Reconvergence (R206 to R208) -/

theorem maskOp_kept {r : Raw} {g : Fibre → Env → List Nat} (h : Kept q s) : KeptOut q (maskOp r s g) := by
  unfold maskOp
  exact laneInsn_kept h (fun x0 t ht => setMask_kept ht)

theorem execWaitm_kept {r : R3} (h : Kept q s) : KeptOut q (execWaitm r s) := by
  unfold execWaitm
  exact laneInsn_kept h (fun x0 t ht => updIs_kept ht (fun _ _ h => h))

theorem setMeet_kept {r : Raw} {g : Issue → DWord} (h : Kept q s) : KeptOut q (setMeet r s g) := by
  unfold setMeet
  exact laneInsn_kept h (fun x0 t ht => updIs_kept ht (fun _ _ h => h))

/-! ### Barriers (R209 to R213, R219) -/

theorem arriveAt_kept {r : Raw} {n : Nat} {sync : Bool} (h : Kept q s) : KeptOut q (arriveAt r s n sync) := by
  unfold arriveAt
  refine laneInsn_kept h (fun x0 t ht => ?_)
  split
  · exact trapFibre_kept ht
  · split
    · exact ht
    · exact updIs_kept ht (fun _ _ h => h)

theorem execBarwait_kept {r : R3} (h : Kept q s) : KeptOut q (execBarwait r s) := by
  unfold execBarwait
  dsimp only
  refine laneInsn_kept h (fun x0 t ht => ?_)
  split
  · exact trapFibre_kept ht
  · split
    · refine updIs_kept ht (hl := fun m x hx => ?_)
      split <;> exact hx
    · exact updIs_kept ht (fun _ _ h => h)

theorem execBartry_kept {r : R3} (h : Kept q s) : KeptOut q (execBartry r s) := by
  unfold execBartry
  refine laneInsn_kept h (fun x0 t ht => ?_)
  split
  · exact trapFibre_kept ht
  · exact wrD_kept ht

/-! ### Windows and fibres (R215 to R220) -/

theorem execWin_kept {r : R3} (h : Kept q s) : KeptOut q (execWin r s) := by
  unfold execWin
  dsimp only
  refine laneInsn_kept h (fun x0 t ht => ?_)
  split
  · exact trapFibre_kept ht
  · exact updIs_kept (fadeArch_kept ht) (fun _ _ h => h)

theorem execFyield_kept {r : R3} (h : Kept q s) : KeptOut q (execFyield r s) := by
  unfold execFyield
  dsimp only
  exact laneInsn_kept h (fun x0 t ht => ht)

theorem execNop_kept {r : R3} (h : Kept q s) : KeptOut q (execNop r s) := by
  unfold execNop
  exact laneInsn_kept h (fun x0 t ht => ht)

theorem execFspawn_kept {r : R3} (h : Kept q s) : KeptOut q (execFspawn r s) := by
  unfold execFspawn
  dsimp only
  refine laneInsn_kept h (fun x0 t ht => ?_)
  split
  · exact trapFibre_kept ht
  · split
    · exact wrAll_kept ht
    · split
      · exact wrAll_kept ht
      · refine wrAll_kept ?_
        refine updFib_kept ht (hl := fun m x hx => ?_)
        simp only [startFib]
        exact fun c => low_default c

theorem execFstop_kept {r : R3} (h : Kept q s) : KeptOut q (execFstop r s) := by
  unfold execFstop
  dsimp only
  refine laneInsn_kept h (fun x0 t ht => ?_)
  split
  · exact ht
  · split
    · split
      · exact updFib_kept (closeWindow_kept ht) (fun _ _ h => h)
      · exact updFib_kept ht (fun _ _ h => h)
    · exact updFib_kept ht (fun _ _ h => h)
    · exact ht

theorem execKill_kept {r : R3} (h : Kept q s) : KeptOut q (execKill r s) := by
  unfold execKill
  exact laneInsn_kept h (fun x0 t ht => killArch_kept ht)

/-! ### Virtual dies and traps (R17, R18, R225, R226, R158) -/

theorem execTrap_kept {r : R3} (h : Kept q s) : KeptOut q (execTrap r s) := by
  unfold execTrap
  exact laneInsn_kept h (fun x0 t ht => updIs_kept (trapFibre_kept ht) (fun _ _ h => h))

theorem execBrk_kept {r : R3} (h : Kept q s) : KeptOut q (execBrk r s) := by
  unfold execBrk
  exact laneInsn_kept h (fun x0 t ht => trapFibre_kept ht)

theorem execBrk16_kept {r : Parcel} (h : Kept q s) : KeptOut q (execBrk16 r s) := by
  unfold execBrk16
  dsimp only
  split
  · exact fault_kept
  · refine next_kept ?_
    refine Kept.same ?_ (by dsimp only)
    exact trapFibre_kept h

/-! ### The units of a copy (R112, R335, R339) -/

theorem fillUnit_kept {c core : Nat} {d : Decl} {k : Nat} (h : Kept q s) : KeptOk q (fillUnit c core d s k) := by
  unfold fillUnit
  dsimp only
  split
  · exact ok_kept (putLocal_kept h)
  · exact ok_kept (putLocal_kept h)
  · split
    · rename_i x y e
      exact error_kept
    · rename_i e
      have ht := (readElem_kept h) _ e
      exact ok_kept (putLocal_kept ht)
  · split
    · exact error_kept
    · exact ok_kept (putLocal_kept (gRead_kept h))

theorem drainUnit_kept {c core b : Nat} {d : Decl} {a : Drain} {k : Nat} {a' : Drain} (h : Kept q a.s)
    (e : drainUnit c core b d a k = .ok a') : Kept q a'.s := by
  unfold drainUnit at e
  dsimp only at e
  split at e
  · cases e
    exact h
  · cases e
    exact h
  · split at e
    · cases e
    · rename_i hs
      cases e
      exact shapeSpot_kept h _ hs
    · rename_i hs
      split at e
      · cases e
      · cases e
        exact gWrite_kept (lLook_kept (shapeSpot_kept h _ hs))
  · split at e
    · cases e
    · cases e
      exact gWrite_kept (lLook_kept h)

theorem drainPoison_kept {a : Drain} (h : Kept q a.s) : Kept q (drainPoison a) := by
  unfold drainPoison
  dsimp only
  exact addPoison_kept (h.same rfl)

theorem copyStop_kept {b h' n : Nat} {k : AccKind} {f : Option (Nat × Xl)} {fin : HandleSt} (h : Kept q s) :
    Kept q (copyStop s b h' n k f fin) := by
  unfold copyStop
  dsimp only
  exact updBlk_kept h (fun _ _ h => h) (fun _ h => h)

theorem runUnits_fill_kept {c core : Nat} {d : Decl} {ks : List Nat} {n : Nat} (h : Kept q s) :
    Kept q (runUnits (fillUnit c core d) s ks n).1 := by
  induction ks generalizing s n with
  | nil => exact h
  | cons k r ih =>
    unfold runUnits
    split
    · exact h
    · rename_i a' e
      exact ih (fillUnit_kept h a' e)

theorem fillHandle_kept {b h' : Nat} (h : Kept q s) : Kept q (fillHandle s b h') := by
  unfold fillHandle
  split
  · exact h
  · split
    · exact h
    · exact copyStop_kept (runUnits_fill_kept h)

theorem runUnits_drain_kept {c core b : Nat} {d : Decl} {ks : List Nat} {n : Nat} {a : Drain} (h : Kept q a.s) :
    Kept q (runUnits (drainUnit c core b d) a ks n).1.s := by
  induction ks generalizing a n with
  | nil => exact h
  | cons k r ih =>
    unfold runUnits
    split
    · exact h
    · rename_i e
      exact ih (drainUnit_kept h e)

theorem drainHandle_kept {b h' : Nat} (h : Kept q s) : Kept q (drainHandle s b h') := by
  unfold drainHandle
  split
  · exact h
  · split
    · exact h
    · exact copyStop_kept (drainPoison_kept (runUnits_drain_kept h))

theorem execInputCopyComplete_kept {blk h' : Nat} (h : Kept q s) : KeptOut q (execInputCopyComplete blk h' s) := by
  unfold execInputCopyComplete
  exact blkEvent_kept h (fun t ht => fillHandle_kept ht)

theorem execOutputDrainComplete_kept {blk h' : Nat} (h : Kept q s) : KeptOut q (execOutputDrainComplete blk h' s) := by
  unfold execOutputDrainComplete
  exact blkEvent_kept h (fun t ht => drainHandle_kept ht)

/-! ### Banks and rings of a block -/

theorem dropRings_kept {b : Nat} (h : Kept q s) : Kept q (dropRings s b) := by
  unfold dropRings
  dsimp only
  refine rings_kept (foldl_kept h (fun u w hu => ?_)) (fun hr => ringsFit_filter hr) rfl rfl rfl
  split
  · exact unwait_kept hu
  · exact hu

/-! ### Contexts that come to rest (R390, R393) -/

theorem settleCtx_kept {c : Nat} (h : Kept q s) : Kept q (settleCtx s c) := by
  unfold settleCtx
  split
  · exact updCtx_kept h
  · exact h

/-! ### Retirement (R22 to R25) -/

theorem joinStep_kept {b : Nat} (h : Kept q s) : Kept q (joinStep s b).1 := by
  unfold joinStep
  dsimp only
  split
  · exact h
  · split
    · exact h
    · split
      · rename_i x t e
        have ht : Kept q t := e.subst (motive := KeptAcc q) (kAcc_kept h)
        exact ht
      · rename_i x t y e
        have ht : Kept q t := e.subst (motive := KeptAcc q) (kAcc_kept h)
        exact updBlk_kept ht (fun _ _ h => h) (fun _ h => h)
      · split
        · exact deferredRec_kept (rmwAt_kept h)
        · split
          · exact schedErr_kept (rmwAt_kept h)
          · split
            · refine Kept.same ?_ (by dsimp only)
              exact rmwAt_kept h
            · exact rmwAt_kept h

theorem orphanAll_kept {b : Nat} (h : Kept q s) : Kept q (orphanAll s b) := by
  unfold orphanAll
  refine foldl_kept h (fun t x ht => ?_)
  split
  · exact ht.same rfl
  · exact ht

theorem dropLaunch_kept {n : Nat} (h : Kept q s) : Kept q (dropLaunch s n) := by
  unfold dropLaunch
  split
  · exact h
  · split
    · exact h
    · exact updCtx_kept (h.same rfl)

theorem freeBlock_kept {b : Nat} (h : Kept q s) : Kept q (freeBlock s b) :=
  settleCtx_kept (dropLaunch_kept (filterBlocks_kept (p := fun k => !(k == b)) (dropRings_kept (orphanAll_kept h)) rfl rfl rfl rfl))

theorem retireBlock_kept {b : Nat} (h : Kept q s) : Kept q (retireBlock s b) := by
  unfold retireBlock
  dsimp only
  have hb := beginRetire_kept (b := b) h
  split
  · exact h
  · split
    · exact h
    · split
      · exact hb
      · split
        · split
          · exact updBlk_kept hb (fun _ _ h => h) (fun _ h => h)
          · split
            · rename_i p t e
              refine freeBlock_kept (Kept.fst (joinStep_kept ?_) e)
              refine updBlk_kept ?_ (fun _ _ h => h) (fun _ h => h)
              exact updBlk_kept hb (fun _ _ h => h) (fun _ h => h)
            · rename_i p t e
              refine Kept.fst (joinStep_kept ?_) e
              refine updBlk_kept ?_ (fun _ _ h => h) (fun _ h => h)
              exact updBlk_kept hb (fun _ _ h => h) (fun _ h => h)
        · split
          · exact hb
          · split
            · rename_i p t e
              refine freeBlock_kept (Kept.fst (joinStep_kept ?_) e)
              exact updBlk_kept hb (fun _ _ h => h) (fun _ h => h)
            · rename_i e
              refine Kept.fst (joinStep_kept ?_) e
              exact updBlk_kept hb (fun _ _ h => h) (fun _ h => h)

theorem execBlockRetire_kept {blk : Nat} (h : Kept q s) : KeptOut q (execBlockRetire blk s) := by
  unfold execBlockRetire
  exact blkEvent_kept h (fun t ht => retireBlock_kept ht)

/-! ### The placement of a saved block (R438, R440, R441) -/

theorem restoreMaps_kept {b : Nat} (h : Kept q s) : Kept q (restoreMaps s b) := by
  unfold restoreMaps
  dsimp only
  refine foldl_kept h (fun t x ht => ?_)
  refine Kept.same ?_ (by dsimp only)
  exact smapReclaim_kept ht

theorem restoreBanks_kept {b : Nat} (h : Kept q s) : Kept q (restoreBanks s b) := by
  refine addSramPoison_kept ?_
  refine rings_kept_of (s := { s with
    sram := (blkD s b).savedSram.foldl (fun m p => Memory.wr m (imageKey (blkD s b) p.1) p.2) s.sram }) ?_ (fun hq => ?_) rfl rfl rfl
  · exact sram_kept h (fun hs => wf_foldl_wr hs) rfl rfl rfl
  · subst hq
    exact ringsFit_foldl_mset h.1 (savedRings_fit h b)

theorem rebaseOps_kept {b : Nat} (h : Kept q s) : Kept q (rebaseOps s b) := by
  unfold rebaseOps
  dsimp only
  exact foldl_kept h (fun t x ht => fillAgain_kept (ht.same rfl))

theorem wakeReplays_kept {b : Nat} (h : Kept q s) : Kept q (wakeReplays s b) := by
  unfold wakeReplays
  refine foldl_kept h (fun t x ht => ?_)
  refine updFib_kept ht (hl := fun m y hy => ?_)
  split
  · simp only [updLanes]
    exact hy
  · exact hy

theorem clearOrphans_kept {kd : KDesc} {p : Spot4} (h : Kept q s) : Kept q (clearOrphans s kd p) := by
  unfold clearOrphans
  refine foldl_kept h (fun t x ht => ?_)
  refine foldl_kept ht (fun u y hu => ?_)
  split
  · exact hu
  · exact claimReclaim_kept hu

theorem placeOld_kept {b : Nat} {p : Spot4} (h : Kept q s) : Kept q (placeOld s b p) := by
  unfold placeOld
  dsimp only
  refine updCtx_kept (updBlk_kept (rebaseOps_kept (wakeReplays_kept (restoreMaps_kept (restoreBanks_kept (initBanks_kept (foldl_kept
    (updBlk_kept (reclaimBanks_kept (clearOrphans_kept h)) (fun _ _ h => h) (fun _ h => h)) (fun t x ht => trimStash_kept ht)))))))
      (fun _ _ hx => hx) (fun _ _ => ?_))
  exact fun _ hr => absurd hr List.not_mem_nil

theorem placeOldGang_kept {bs : List Nat} (h : Kept q s) : KeptOpt q (placeOldGang s bs) := by
  suffices ha : ∀ a, KeptOpt q a → KeptOpt q (bs.foldl (fun a b => match a with
      | none => none
      | some t => (spotOld t (blkD t b)).map (placeOld t b)) a) from ha (some s) (some_kept h)
  induction bs with
  | nil => exact fun _ ha => ha
  | cons b r ih =>
    refine fun a ha => ih _ ?_
    dsimp only
    split
    · exact none_kept
    · rename_i t
      intro u hu
      obtain ⟨p, -, rfl⟩ := Option.map_eq_some_iff.1 hu
      exact placeOld_kept (ha t rfl)

/-! ### The next placement (R28, R456) -/

theorem tryCand_kept {x : Cand} {level : Nat} {p : List Nat × State} (h : Kept q s) (e : tryCand s x level = some p) : Kept q p.2 := by
  unfold tryCand at e
  split at e
  · cases e
  · split at e
    · split at e
      · dsimp only at e
        split at e
        · obtain ⟨t, ht, rfl⟩ := Option.map_eq_some_iff.1 e
          exact placeOldGang_kept h t ht
        · cases e
      · obtain ⟨p, -, rfl⟩ := Option.map_eq_some_iff.1 e
        exact placeOld_kept h
    · split at e
      · obtain ⟨t, ht, rfl⟩ := Option.map_eq_some_iff.1 e
        exact (placeGang_kept h t ht).same rfl
      · split at e
        · cases e
        · split at e
          · cases e
            exact Kept.same (placeNew_kept h) rfl
          · cases e

theorem firstFit_kept {held : List (Nat × Nat)} {back : List Nat} {cs : List (Nat × Cand)} {p : Nat × List Nat × State} (h : Kept q s)
    (e : firstFit s held back cs = some p) : Kept q p.2.2 := by
  induction cs generalizing held back with
  | nil => cases e
  | cons c r ih =>
    unfold firstFit at e
    split at e
    · exact ih e
    · split at e
      · rename_i hp
        cases e
        exact tryCand_kept h hp
      · split at e
        · exact ih e
        · exact ih e

theorem nextPlacement_kept {p : Nat × List Nat × State} (h : Kept q s) (e : nextPlacement s = some p) : Kept q p.2.2 := firstFit_kept h e

theorem placeBlock_kept {n task : Nat} (h : Kept q s) : Kept q (placeBlock s n task) := by
  unfold placeBlock
  split
  · rename_i e
    split
    · exact nextPlacement_kept h e
    · exact h
  · exact h

theorem execBlockPlacement_kept {launch task : Nat} (h : Kept q s) : KeptOut q (execBlockPlacement launch task s) := by
  unfold execBlockPlacement
  exact event_kept h (fun t ht => placeBlock_kept ht)

/-! ### What lands (R436) -/

theorem keepOp_kept {id : Nat} (h : Kept q s) : Kept q (keepOp s id) := by
  unfold keepOp
  dsimp only
  split
  · exact h
  · split <;> exact h.same rfl

theorem landAtomic_kept {id : Nat} {o : Op} (h : Kept q s) : Kept q (landAtomic s id o) := by
  unfold landAtomic
  dsimp only
  split
  · exact finishOp_kept (applyAtomics_kept h)
  · refine Kept.same ?_ (by dsimp only)
    exact applyAtomics_kept h

theorem landGather_kept {id : Nat} {o : Op} (h : Kept q s) : Kept q (landGather s id o) := by
  unfold landGather
  dsimp only
  split
  · exact retrieverComplete_kept h
  · refine Kept.same ?_ (by dsimp only)
    exact gatherLate_kept h

theorem landWindow_kept {k : Nat} (h : Kept q s) : Kept q (landWindow s k) := by
  unfold landWindow
  dsimp only
  split
  · exact h
  · split
    · exact h.same rfl
    · exact windowPart_kept (h.same rfl)

theorem landOp_kept {id : Nat} (h : Kept q s) : Kept q (landOp s id) := by
  unfold landOp
  dsimp only
  split
  · exact h
  · split
    · exact h
    · split
      · exact keepOp_kept h
      · split
        · exact landAtomic_kept h
        · split
          · exact retrieverComplete_kept h
          · exact landGather_kept h
        · exact keepOp_kept (retrieverComplete_kept h)
        · exact keepOp_kept (binComplete_kept h)
        · exact keepOp_kept (retrieverComplete_kept (mapGetD_kept h (fun x => landWindow_kept h)))
        · exact keepOp_kept (retrieverComplete_kept (mapGetD_kept h (fun x => landWindow_kept h)))
        · exact keepOp_kept (stashComplete_kept h)

theorem landOps_kept {b : Nat} (h : Kept q s) : Kept q (landOps s b) := by
  unfold landOps
  dsimp only
  refine foldl_fst_kept h (fun p x hp => ?_)
  split
  · exact keepOp_kept hp
  · exact landOp_kept hp

/-! ### Lane accesses and tile stores (R342, R436, R437) -/

theorem awaitAgain_kept {x : Flight} {n : Nat} (h : Kept q s) : Kept q (awaitAgain s x n) := by
  unfold awaitAgain
  exact foldl_kept h (fun t y ht => awaitArch_kept (updSlot_kept ht (fun _ _ h => h)))

theorem keepRequest_kept {r : Request} (h : Kept q s) : Kept q (keepRequest s r).1 := by
  unfold keepRequest
  dsimp only
  split
  · exact foldl_kept h (fun t x ht => undoPart_kept ht)
  · refine Kept.same ?_ (by dsimp only)
    exact foldl_kept (foldl_kept h (fun t x ht => undoPart_kept ht)) (fun t x ht => awaitAgain_kept ht)

theorem keepRequests_kept {b : Nat} (h : Kept q s) : Kept q (keepRequests s b) := by
  have hf := foldr_fst_kept (l := (requests s b)) (b := (([] : List Replay), ([] : List (Nat × List Nat)))) h
    (g := fun r (p : State × List Replay × List (Nat × List Nat)) =>
      let u : State := { p.1 with replays := s.replays ++ p.2.1 }
      if stays u b p.2.2 r then
        let (v, es) := keepRequest p.1 r
        (v, es ++ p.2.1, p.2.2)
      else (p.1, p.2.1, r.lanes.map (fun l => (laneAgent b r.slot r.fib l, r.locs)) ++ p.2.2))
    (fun p x hp => by
      dsimp only
      split
      · exact keepRequest_kept hp
      · exact hp)
  exact hf.same rfl

theorem keepTile_kept {p : Pend} (h : Kept q s) : Kept q (keepTile s p) := by
  unfold keepTile
  dsimp only
  split
  · exact h
  · refine Kept.same ?_ (by dsimp only)
    exact foldl_kept h (fun t x ht => undoPart_kept ht)

theorem keepStores_kept {b : Nat} (h : Kept q s) : Kept q (keepStores s b) := by
  unfold keepStores
  dsimp only
  refine Kept.same ?_ (by dsimp only)
  exact showParts_kept (foldl_kept (keepRequests_kept h) (fun t x ht => keepTile_kept ht))

/-! ### Replay (R429, R438) -/

theorem holdReplay_kept {r : Replay} (h : Kept q s) : Kept q (holdReplay s r) := by
  unfold holdReplay
  split
  · exact h
  · exact updFib_kept h (fun _ _ h => h)

theorem parkReplay_kept {r : Replay} {k : AccKind} {what : Nat} {f : Nat × Xl} (h : Kept q s) : Kept q (parkReplay s r k what f) := by
  unfold parkReplay
  dsimp only
  split
  · split
    · exact updSeq_kept h
    · exact updFib_kept h (fun _ _ h => h)
  · split
    · exact h
    · exact holdReplay_kept h

theorem dropReplay_kept {r : Replay} (h : Kept q s) : Kept q (dropReplay s r) := by
  unfold dropReplay
  dsimp only
  split
  · exact h.same rfl
  · exact updFib_kept (h.same rfl) (fun _ _ h => h)

theorem replayResult_kept {r : Replay} {x : Flight} {bs : List Byte} {bad : List Bool} (h : Kept q s) :
    Kept q (replayResult s r x bs bad) := by
  unfold replayResult
  dsimp only
  exact foldl_kept h (fun t y ht => poisonArch_kept (updSlot_kept ht (fun _ _ h => h)))

theorem replayUpdate_kept {r : Replay} {x : Flight} {h' : Home} (h : Kept q s) : Kept q (replayUpdate s r x h') := by
  unfold replayUpdate
  dsimp only
  exact replayResult_kept (performStore_kept (updateAt_kept (h.same rfl)))

theorem replayGlobal_kept {r : Replay} {a w : Nat} {bs : List Byte} (h : Kept q s) : Kept q (replayGlobal s r a w bs) := by
  unfold replayGlobal
  dsimp only
  split
  · exact parkReplay_kept h
  · exact dropReplay_kept (gWrite_kept h)
  · split
    · exact dropReplay_kept (replayResult_kept (gReadBy_kept h))
    · exact dropReplay_kept (replayUpdate_kept h)

theorem replayLocal_kept {r : Replay} {a w : Nat} {bs : List Byte} (h : Kept q s) : Kept q (replayLocal s r a w bs) := by
  unfold replayLocal
  dsimp only
  split
  · exact trapFibre_kept h
  · split
    · rename_i p t e
      have ht := Kept.fst (meetLines_kept h) e
      split
      · exact dropReplay_kept (lWrite_kept ht)
      · split
        · split
          · exact dropReplay_kept (replayUpdate_kept ht)
          · exact dropReplay_kept (replayResult_kept (lReadBy_kept ht))
        · split
          · exact dropReplay_kept (replayUpdate_kept ht)
          · exact dropReplay_kept (replayResult_kept (lReadBy_kept ht))
    · rename_i p t x _ _ _ e
      have ht := Kept.fst (meetLines_kept h) e
      exact parkReplay_kept ht
    · rename_i e
      have ht := Kept.fst (meetLines_kept h) e
      exact holdReplay_kept ht

theorem replayEntry_kept {r : Replay} (h : Kept q s) : Kept q (replayEntry s r) := by
  unfold replayEntry
  split
  · split
    · exact parkReplay_kept h
    · exact dropReplay_kept (foldl_kept h (fun t x ht => gWrite_kept ht))
  · split
    · exact dropReplay_kept h
    · split
      · exact replayLocal_kept h
      · exact replayGlobal_kept h

theorem replayOne_kept {r : Replay} (h : Kept q s) : Kept q (replayOne s r) := by
  unfold replayOne
  split
  · exact dropReplay_kept h
  · split
    · exact h
    · split
      · exact h
      · exact replayEntry_kept h

theorem replayStores_kept {b : Nat} (h : Kept q s) : Kept q (replayStores s b) := by
  unfold replayStores
  dsimp only
  split
  · split
    · exact retryAtomics_kept h
    · exact h
  · split
    · exact retryAtomics_kept (foldl_kept h (fun t x ht => replayOne_kept ht))
    · exact foldl_kept h (fun t x ht => replayOne_kept ht)

theorem replayAll_kept (h : Kept q s) : Kept q (replayAll s) := by
  unfold replayAll
  exact foldl_kept h (fun t x ht => replayStores_kept ht)

/-! ### Issue stops (R435, R436) -/

theorem unissueFib_kept {b k f : Nat} (h : Kept q s) : Kept q (unissueFib s b k f) := by
  unfold unissueFib
  dsimp only
  refine updFib_kept ?_ (fun _ _ h => h)
  split
  · split
    · exact h
    · exact unwait_kept h
  · exact h

theorem recallAcq_kept {a : Acq} (h : Kept q s) : Kept q (recallAcq s a) := by
  unfold recallAcq
  dsimp only
  exact updFib_kept (updSlot_kept (h.same rfl) (fun _ _ h => h)) (fun _ _ h => h)

theorem recallAcqs_kept {p : Acq → Bool} (h : Kept q s) : Kept q (recallAcqs s p) := by
  unfold recallAcqs
  exact foldl_kept h (fun t x ht => recallAcq_kept ht)

theorem stopBlock_kept {b : Nat} (h : Kept q s) : Kept q (stopBlock s b) := by
  unfold stopBlock
  dsimp only
  split
  · exact updBlk_kept h (fun _ _ h => h) (fun _ h => h)
  · split
    · exact endBlock_kept h
    · split
      · exact h
      · exact updBlk_kept (foldl_kept (recallAcqs_kept (landOps_kept (foldl_kept (updBlk_kept (keepStores_kept h) (fun _ _ h => h)
          (fun _ h => h)) (fun t x ht =>
          closeWindow_kept ht)))) (fun t x ht => unissueFib_kept ht)) (hl := fun m x hx => blockLow_map hx (fun _ _ h => h)) (hr :=
            fun _ h => h)

theorem quiesce_kept {b : Nat} {head : Bool} (h : Kept q s) : Kept q (quiesce s b head) := by
  unfold quiesce
  exact foldl_kept h (fun t x ht => stopBlock_kept (updBlk_kept ht (fun _ _ h => h) (fun _ h => h)))

theorem execForcedPreemption_kept {blk : Nat} (h : Kept q s) : KeptOut q (execForcedPreemption blk s) := by
  unfold execForcedPreemption
  refine blkEvent_kept h (fun t ht => ?_)
  split
  · exact quiesce_kept ht
  · exact ht

/-! ### The save (R440, R441, R455, R493) -/

theorem saveMaps_kept {b : Nat} (h : Kept q s) : Kept q (saveMaps s b) := by
  unfold saveMaps
  dsimp only
  exact updBlk_kept (foldl_kept h (fun t x ht => deleteMapping_kept ht)) (fun _ _ h => h) (fun _ h => h)

theorem saveBanks_kept {b : Nat} (h : Kept q s) : Kept q (saveBanks s b) := by
  refine dropRings_kept (updBlk_kept_of h (fun _ _ hx => hx) (fun hq _ _ => ?_))
  subst hq
  exact ringsFit_foldl_mset (fun _ hr => absurd hr List.not_mem_nil) (fun r hr => h.1 r (List.mem_filter.1 hr).1)

theorem saveLost_kept {b : Nat} (h : Kept q s) : Kept q (saveLost s b) := by
  unfold saveLost
  split
  · exact h
  · exact updSeq_kept (matrixLoss_kept h)

theorem enterWaits_kept {b : Nat} (h : Kept q s) : Kept q (enterWaits s b) := by
  unfold enterWaits
  dsimp only
  exact updBlk_kept (updCtx_kept h) (fun _ _ h => h) (fun _ h => h)

theorem saveBlock_kept {b : Nat} (h : Kept q s) : Kept q (saveBlock s b) := by
  unfold saveBlock
  dsimp only
  split
  · exact h
  · exact settleCtx_kept (enterWaits_kept (updBlk_kept (saveLost_kept (saveBanks_kept (saveMaps_kept h))) (hl := fun m x hx =>
      blockLow_map hx (fun _ _ h => h)) (hr := fun _ h => h)))

theorem saveUnit_kept {b : Nat} (h : Kept q s) : Kept q (saveUnit s b) := by
  unfold saveUnit
  dsimp only
  split
  · exact h
  · refine Kept.same ?_ (by dsimp only)
    exact foldl_kept h (fun t x ht => saveBlock_kept ht)

theorem execBlockSave_kept {blk : Nat} (h : Kept q s) : KeptOut q (execBlockSave blk s) := by
  unfold execBlockSave
  exact blkEvent_kept h (fun t ht => saveUnit_kept ht)

/-! ### The start (R21 steps 2 to 5, R156, R438) -/

theorem readDict_kept {b k : Nat} (h : Kept q s) : KeptOkFst q (readDict s b k) := by
  unfold readDict
  dsimp only
  split
  · rename_i x _ y e
    have ht := (fetchParcels_kept h) _ e
    exact ok_keptFst (seekTlb_kept ht)
  · rename_i x y z _ _ e
    split
    · exact error_keptFst
    · exact ok_keptFst (noteBadLeaf_kept h)
  · exact error_keptFst

theorem settleEntry_kept {b k : Nat} (h : Kept q s) : Kept q (settleEntry s b k) := by
  unfold settleEntry
  split
  · exact h
  · split
    · rename_i x _ y e
      have ht := (readDict_kept h) _ e
      exact updBlk_kept ht (fun _ _ h => h) (fun _ h => h)
    · split
      · exact h
      · exact askMigration_kept h

theorem readDicts_kept {b k n : Nat} {out : List DictEnt} (h : Kept q s) : KeptOkFst q (readDicts s b k n out) := by
  induction n generalizing s k out with
  | zero => exact ok_keptFst h
  | succ m ih =>
    unfold readDicts
    split
    · exact error_keptFst
    · rename_i t e he
      exact ih (readDict_kept h (t, e) he)

theorem loadDict_kept {b : Nat} (h : Kept q s) : Kept q (loadDict s b).1 := by
  unfold loadDict
  split
  · rename_i x _ y e
    have ht := (readDicts_kept h) _ e
    exact updBlk_kept ht (fun _ _ h => h) (fun _ h => h)
  · split
    · exact h
    · exact askMigration_kept h

theorem startFib_low {m : Nat → Nat} {entry : DWord} {mask seed : Word} {wb : Nat} : Low m (startFib entry mask wb seed) :=
  fun c => low_default c

theorem firstFibs_low {m : Nat → Nat} {b k : Nat} : ∀ y ∈ firstFibs s b k, Low m y := by
  intro y hy
  obtain ⟨f, -, rfl⟩ := List.mem_map.1 hy
  dsimp only
  split
  · exact low_default
  · exact startFib_low

theorem runBlock_kept {b : Nat} (h : Kept q s) : Kept q (runBlock s b) := by
  unfold runBlock
  dsimp only
  split
  · refine updBlk_kept h (fun m x _ => blockLow_of_all (fun y hy k => slotLow_of_all ?_)) (fun _ h => h)
    obtain ⟨j, -, rfl⟩ := List.mem_map.1 hy
    exact fun z hz _ => firstFibs_low z hz
  · exact updBlk_kept h (fun m x hx => blockLow_map hx (fun _ _ hy => slotLow_map hy (fun _ _ h => h))) (fun _ h => h)

theorem obeyHalt_kept {b : Nat} (h : Kept q s) : Kept q (obeyHalt s b) := by
  unfold obeyHalt
  split
  · exact quiesce_kept (updBlk_kept h (fun _ _ h => h) (fun _ h => h))
  · exact h

theorem startBlock_kept {b : Nat} (h : Kept q s) : Kept q (startBlock s b) := by
  unfold startBlock
  dsimp only
  split
  · exact h
  · split
    · refine foldl_kept h (fun t x ht => ?_)
      split
      · exact replayStores_kept ht
      · exact ht
    · split
      · refine foldl_fst_kept ?_ (fun p x hp => ?_)
        · refine foldl_kept h (fun t x ht => ?_)
          split
          · exact replayStores_kept ht
          · exact ht
        · split
          · exact loadDict_kept hp
          · exact hp
      · refine foldl_kept ?_ (fun t x ht => obeyHalt_kept ht)
        refine foldl_kept ?_ (fun t x ht => runBlock_kept ht)
        refine foldl_fst_kept ?_ (fun p x hp => ?_)
        · refine foldl_kept h (fun t x ht => ?_)
          split
          · exact replayStores_kept ht
          · exact ht
        · split
          · exact loadDict_kept hp
          · exact hp

theorem execBlockStart_kept {blk : Nat} (h : Kept q s) : KeptOut q (execBlockStart blk s) := by
  unfold execBlockStart
  refine blkEvent_kept h (fun t ht => ?_)
  split
  · exact startBlock_kept ht
  · exact ht

/-! ### What firmware finds (R428) -/

theorem verdict_kept {c : Nat} {i : FaultInfo} (h : Kept q s) : KeptVerdict q (verdict s c i) := by
  unfold verdict
  split
  · exact trivial
  · split
    · exact askMigration_kept h
    · exact trivial

theorem examineLane_kept {b k f : Nat} {p : Nat × FaultInfo} (h : Kept q s) : Kept q (examineLane b k f s p) := by
  unfold examineLane
  dsimp only
  split
  · exact h
  · split
    · rename_i x e
      exact updFib_kept h (fun _ _ h => h)
    · rename_i x t e
      have ht : Kept q t := e.subst (motive := KeptVerdict q) (verdict_kept h)
      exact ht
    · exact updFib_kept (noteBadLeaf_kept h) (fun _ _ h => h)

theorem opTicket_kept {id : Nat} {o : Op} {i : FaultInfo} (h : Kept q s) : Kept q (opTicket s id o i) := by
  unfold opTicket
  dsimp only
  exact newTicket_kept h

theorem examineOp_kept {id : Nat} (h : Kept q s) : Kept q (examineOp s id) := by
  unfold examineOp
  dsimp only
  split
  · exact h
  · split
    · exact h
    · split
      · exact h
      · split
        · rename_i x e
          exact h.same rfl
        · rename_i x t e
          have ht : Kept q t := e.subst (motive := KeptVerdict q) (verdict_kept h)
          exact ht
        · exact opTicket_kept (noteBadLeaf_kept (h.same rfl))

theorem examineSeq_kept {b : Nat} (h : Kept q s) : Kept q (examineSeq s b) := by
  unfold examineSeq
  dsimp only
  split
  · exact h
  · split
    · exact h
    · split
      · rename_i x e
        exact updSeq_kept h
      · rename_i x t e
        have ht : Kept q t := e.subst (motive := KeptVerdict q) (verdict_kept h)
        exact ht
      · exact newTicket_kept (noteBadLeaf_kept (updSeq_kept h))

theorem examineCopy_kept {b h' : Nat} (h : Kept q s) : Kept q (examineCopy b s h') := by
  unfold examineCopy
  dsimp only
  split
  · exact h
  · split
    · exact h
    · split
      · rename_i x e
        exact updBlk_kept h (fun _ _ h => h) (fun _ h => h)
      · rename_i x t e
        have ht : Kept q t := e.subst (motive := KeptVerdict q) (verdict_kept h)
        exact ht
      · exact newTicket_kept (noteBadLeaf_kept (updBlk_kept h (fun _ _ h => h) (fun _ h => h)))

theorem examineJoin_kept {b : Nat} (h : Kept q s) : Kept q (examineJoin s b) := by
  unfold examineJoin
  dsimp only
  split
  · exact h
  · split
    · exact h
    · split
      · rename_i x e
        exact updBlk_kept h (fun _ _ h => h) (fun _ h => h)
      · rename_i x t e
        have ht : Kept q t := e.subst (motive := KeptVerdict q) (verdict_kept h)
        exact ht
      · exact newTicket_kept (noteBadLeaf_kept (updBlk_kept h (fun _ _ h => h) (fun _ h => h)))

theorem examineFaults_kept {b k f : Nat} (h : Kept q s) : Kept q (examineFaults s b k f) := by
  unfold examineFaults
  dsimp only
  split
  · exact h
  · split
    · exact examineJoin_kept (foldl_kept (examineSeq_kept h) (fun t x ht => examineCopy_kept ht))
    · exact reportParked_kept (foldl_kept (foldl_kept h (fun t x ht => examineLane_kept ht)) (fun t x ht => examineOp_kept ht))

theorem execFaultExamine_kept {blk slot fib : Nat} (h : Kept q s) : KeptOut q (execFaultExamine blk slot fib s) := by
  unfold execFaultExamine
  exact blkEvent_kept h (fun t ht => examineFaults_kept ht)

/-! ### Groups (R36, R163) -/

theorem groupSelect_kept {b k f : Nat} (h : Kept q s) : Kept q (groupSelect s b k f) := by
  unfold groupSelect
  split
  · exact updFib_kept h (fun _ _ h => h)
  · exact h

theorem execGroupSelect_kept {blk slot fib : Nat} (h : Kept q s) : KeptOut q (execGroupSelect blk slot fib s) := by
  unfold execGroupSelect
  exact event_kept h (fun t ht => groupSelect_kept ht)

/-! ### Forced switches (R33) -/

theorem forcedSwitch_kept {b k f : Nat} (h : Kept q s) : Kept q (forcedSwitch s b k f) := by
  unfold forcedSwitch
  split
  · exact h
  · split
    · exact updSlot_kept (passOn_kept h) (fun _ _ h => h)
    · exact updFib_kept h (fun _ _ h => h)

theorem execForcedSwitch_kept {blk slot fib : Nat} (h : Kept q s) : KeptOut q (execForcedSwitch blk slot fib s) := by
  unfold execForcedSwitch
  exact event_kept h (fun t ht => forcedSwitch_kept ht)

/-! ### Returns (R32, R35, R61) -/

theorem returnReg_kept {b k a : Nat} (h : Kept q s) : Kept q (returnReg s b k a) := by
  unfold returnReg
  dsimp only
  exact updSlot_kept (landFlights_kept (foldl_kept h (fun t x ht => relook_kept ht))) (fun _ _ h => h)

theorem execRegisterResultReturn_kept {blk slot reg : Nat} (h : Kept q s) : KeptOut q (execRegisterResultReturn blk slot reg s) := by
  unfold execRegisterResultReturn
  exact event_kept h (fun t ht => returnReg_kept ht)

theorem refillDone_kept {b k c : Nat} (h : Kept q s) : Kept q (refillDone s b k c) := by
  unfold refillDone
  exact updSlot_kept h (fun _ _ h => h)

theorem execChunkRefillComplete_kept {blk slot chunk : Nat} (h : Kept q s) : KeptOut q (execChunkRefillComplete blk slot chunk s) := by
  unfold execChunkRefillComplete
  exact event_kept h (fun t ht => refillDone_kept ht)

/-! ### The reads of TRYW and TRYWL (R214) -/

theorem Out_get_kept {o : Out} (h : Kept q s) (ho : KeptOut q o) : Kept q (Out.get o s) := by
  cases o with
  | next t => exact ho t rfl
  | fault _ => exact h
  | refused _ => exact h

theorem readAgain_kept {b k f : Nat} (h : Kept q s) : Kept q (readAgain s b k f) := by
  unfold readAgain
  dsimp only
  split
  · exact h
  · split
    · exact h
    · refine Out_get_kept h ?_
      split
      · exact execTryw_kept (h.same rfl)
      · exact execTrywl_kept (h.same rfl)

theorem execTrywRecheck_kept {blk slot fib : Nat} (h : Kept q s) : KeptOut q (execTrywRecheck blk slot fib s) := by
  unfold execTrywRecheck
  exact event_kept h (fun t ht => readAgain_kept ht)

theorem execTrywPoll_kept {blk slot fib : Nat} (h : Kept q s) : KeptOut q (execTrywPoll blk slot fib s) := by
  unfold execTrywPoll
  exact event_kept h (fun t ht => readAgain_kept ht)

/-! ### Lending and reclaim (R394, R395) -/

theorem reclaimQuads_kept {die mask : Nat} (h : Kept q s) : Kept q (reclaimQuads s die mask) := by
  unfold reclaimQuads
  exact foldl_kept h (fun t x ht => quiesce_kept ht)

theorem writeLend_kept {c k : Nat} {v : Word} (h : Kept q s) : Kept q (writeLend s c k v) := by
  unfold writeLend
  dsimp only
  split
  · exact h
  · split
    · exact h
    · exact reclaimQuads_kept (updCtx_kept h)

theorem execLendWrite_kept {ctx k : Nat} {v : Word} (h : Kept q s) : KeptOut q (execLendWrite ctx k v s) := by
  unfold execLendWrite
  exact event_kept h (fun t ht => writeLend_kept ht)

theorem reclaimQuad_kept {c vd q' : Nat} (h : Kept q s) : Kept q (reclaimQuad s c vd q') := by
  unfold reclaimQuad
  split
  · exact h
  · split
    · exact reclaimQuads_kept h
    · exact h

theorem reclaimDue_kept (h : Kept q s) : Kept q (reclaimDue s) := by
  unfold reclaimDue
  refine foldl_kept h (fun t x ht => ?_)
  refine foldl_kept ht (fun u y hu => ?_)
  split
  · exact hu
  · split
    · exact hu
    · exact reclaimQuads_kept hu

theorem execQuadReclaim_kept {ctx vd quad : Nat} (h : Kept q s) : KeptOut q (execQuadReclaim ctx vd quad s) := by
  unfold execQuadReclaim
  exact ctxEvent_kept h (fun t ht => reclaimQuad_kept ht)

/-! ### Slices (R458) -/

theorem addCredit_kept {h' c d : Nat} (h : Kept q s) : Kept q (addCredit h' c s d) := by
  unfold addCredit
  dsimp only
  exact updCtx_kept h

theorem chooseOne_kept {h' c : Nat} (h : Kept q s) : Kept q (chooseOne s h' c).1 := by
  unfold chooseOne
  dsimp only
  exact updCtx_kept (updCtx_kept (foldl_kept h (fun t x ht => addCredit_kept ht)))

theorem chooseTenant_kept {h' n c : Nat} (h : Kept q s) : Kept q (chooseTenant s h' n c) := by
  induction n generalizing s c with
  | zero => exact h
  | succ k ih =>
    have hp := chooseOne_kept (h' := h') (c := c) h
    unfold chooseTenant
    dsimp only
    split
    · exact hp
    · exact ih hp

theorem evictTenant_kept {h' old : Nat} (h : Kept q s) : Kept q (evictTenant s h' old) := by
  unfold evictTenant
  exact foldl_kept h (fun t x ht => quiesce_kept ht)

theorem sliceBoundary_kept {h' : Nat} (h : Kept q s) : Kept q (sliceBoundary s h') := by
  unfold sliceBoundary
  dsimp only
  split
  · exact h
  · split
    · exact chooseTenant_kept h
    · exact evictTenant_kept (chooseTenant_kept h)

theorem crossSlices_kept {u0 : Nat} (h : Kept q s) : Kept q (crossSlices s u0) := by
  unfold crossSlices
  exact foldl_kept h (fun t x ht => foldl_kept ht (fun u y hu => sliceBoundary_kept hu))

/-! ### Collective group entries (R467) -/

theorem writeGroup_kept {c g : Nat} {v : DWord} (h : Kept q s) : Kept q (writeGroup s c g v) := by
  unfold writeGroup
  split
  · exact h
  · exact updCtx_kept h

theorem execGroupWrite_kept {ctx g : Nat} {v : DWord} (h : Kept q s) : KeptOut q (execGroupWrite ctx g v s) := by
  unfold execGroupWrite
  exact event_kept h (fun t ht => writeGroup_kept ht)

/-! ### Invalidation (R423) -/

/-- The windows of some contexts are cut off from the fibres that fill them. -/
def cutWindows (s : State) (cs : List Nat) : State :=
  { s with blocks := s.blocks.map (fun p => if cs.contains p.2.ctx then (p.1, { p.2 with slots := p.2.slots.map (fun k =>
      { k with fibs := k.fibs.map (fun f => { f with window := none }) }) }) else p) }

theorem cutWindows_kept {cs : List Nat} (h : Kept q s) : Kept q (cutWindows s cs) := by
  refine mapBlocks_kept h (hb := rfl) (hk := fun p => by split <;> rfl) (hl := fun m p hp => ?_) (hr := fun p => by split <;> rfl)
    (hrs := rfl) (hm := rfl) (hs := rfl)
  split
  · exact blockLow_map hp (fun _ _ hx => slotLow_map hx (fun _ _ h => h))
  · exact hp

theorem flushOps_kept {cs : List Nat} (h : Kept q s) : Kept q (flushOps s cs) := by
  have ht := foldl_kept (l := (s.windows.filter (fun p => cs.contains (blkD s p.2.blk).ctx)).map (·.1)) (cutWindows_kept (cs := cs) h)
    (fun u k hu => windowApply_kept (k := k) (Kept.same (t := { u with windows := mupd u.windows k (fun w => { w with shut := true })
      }) hu rfl))
  unfold flushOps
  dsimp only
  refine Kept.same (foldl_kept ?_ (fun u id hu => atomicComplete_kept (retrieverComplete_kept hu))) (by dsimp only)
  exact ht

theorem flushLines_kept {cs frames : List Nat} (h : Kept q s) : Kept q (flushLines s cs frames) := by
  unfold flushLines
  refine foldl_kept h (fun t x ht => ?_)
  refine foldl_kept ht (fun u y hu => ?_)
  split
  · exact invalidateLine_kept hu
  · exact hu

theorem dropTlb_kept {cs : List Nat} (h : Kept q s) : Kept q (dropTlb s cs) := h.same rfl

theorem flushAcqs_kept {cs frames : List Nat} (h : Kept q s) : Kept q (flushAcqs s cs frames) := by
  unfold flushAcqs
  exact recallAcqs_kept h

theorem invalidate_kept {cs frames : List Nat} (h : Kept q s) : Kept q (invalidate s cs frames) := by
  unfold invalidate
  exact dropTlb_kept (flushLines_kept (flushAcqs_kept (flushOps_kept h)))

/-! ### Removal of a mapping (R407) -/

theorem setHeld_kept {c frame : Nat} {v : Bool} (h : Kept q s) : Kept q (setHeld s c frame v) := by
  unfold setHeld
  exact foldl_kept h (fun t x ht => updLeaf_kept ht)

theorem dropLeaf_kept {c : Nat} {e : S2} (h : Kept q s) : Kept q (dropLeaf s c e) := by
  unfold dropLeaf
  dsimp only
  split
  · split
    · exact setHeld_kept (updCtx_kept h)
    · exact updCtx_kept h
  · exact updCtx_kept h

theorem dropThrough_kept {n c frame : Nat} (h : Kept q s) : Kept q (dropThrough s n c frame) := by
  induction n generalizing s c with
  | zero => exact h
  | succ k ih => exact foldl_kept h (fun t d ht => foldl_kept ht (fun u e hu => dropLeaf_kept (ih hu)))

theorem unmapPage_kept {c page : Nat} (h : Kept q s) : Kept q (unmapPage s c page) := by
  unfold unmapPage
  split
  · exact h
  · exact dropLeaf_kept (dropThrough_kept h)

theorem unmapRange_kept {c lo n : Nat} (h : Kept q s) : Kept q (unmapRange s c lo n) := by
  unfold unmapRange
  exact foldl_kept h (fun t x ht => unmapPage_kept ht)

/-! ### Map records (R406) -/

theorem noteBehind_kept {c : Nat} {m : MapRec} (h : Kept q s) : Kept q (noteBehind s c m) := by
  unfold noteBehind
  dsimp only
  refine foldl_kept h (fun t x ht => ?_)
  split
  · exact ht
  · exact mapGetD_kept ht (fun y => noteBadLeaf_kept ht)

theorem mapPage_kept {from' to' page : Nat} {m : MapRec} {e : S2} (h : Kept q s) : Kept q (mapPage s from' to' page m e) := by
  unfold mapPage
  dsimp only
  split
  · exact setHeld_kept (updCtx_kept (unmapPage_kept h))
  · exact updCtx_kept (unmapPage_kept h)

theorem mapRange_kept {c n : Nat} {m : MapRec} (h : Kept q s) : Kept q (mapRange s c n m).2 := by
  unfold mapRange
  dsimp only
  split
  · exact noteBehind_kept h
  · split
    · exact h
    · split
      · exact h
      · exact foldl_kept (invalidate_kept h) (fun t x ht => mapPage_kept ht)

/-! ### Names (R386, R388) -/

theorem sysOp_kept {r : Raw} {body : Env → State → State × After} (h : Kept q s) (hbody : ∀ x0 t, Kept q t → Kept q (body x0 t).1) :
    KeptOut q (sysOp r s body) := by
  unfold sysOp
  refine perIssueOp_kept h (fun x0 t ht => ?_)
  split
  · exact wrAll_kept ht
  · exact hbody _ _ ht

theorem status_kept {r : Raw} {e : Env} {n : Nat} (h : Kept q s) : Kept q (Machine.status r e n s).1 := wrAll_kept h

/-! ### CTXNEW (R401) -/

theorem ctxNew_kept {p : Nat} (h : Kept q s) : Kept q (ctxNew s p).2 := by
  unfold ctxNew
  dsimp only
  split
  · exact h
  · split
    · exact h
    · split
      · exact h
      · split
        · exact h
        · exact h.same rfl

theorem execCtxnew_kept {r : R3} (h : Kept q s) : KeptOut q (execCtxnew r s) := by
  unfold execCtxnew
  dsimp only
  refine sysOp_kept h (fun x0 t ht => ?_)
  split
  · exact status_kept ht
  · exact status_kept (ctxNew_kept ht)

/-! ### CTXGRANT and CTXTAKE (R392, R393, R402) -/

theorem lowerCeil_kept {c ceil : Nat} (h : Kept q s) : Kept q (lowerCeil s c ceil) := by
  have ht := foldl_kept (l := subtree s c) (g := fun u d => updCtx u d (fun x => { x with
    ceil := if d = c then ceil else min x.ceil ceil })) h (fun t x ht => updCtx_kept ht)
  exact mapBlocks_kept ht (hk := fun p => by split <;> rfl) (hl := fun m p hp => by split <;> exact hp)
    (hr := fun p => by split <;> rfl) (hb := rfl) (hrs := rfl) (hm := rfl) (hs := rfl)

theorem grantKind_kept {p n : Nat} {b : Budget} (h : Kept q s) : Kept q (grantKind s p n b).2 := by
  unfold grantKind
  dsimp only
  split
  · split
    · exact updCtx_kept (updCtx_kept h)
    · exact h
  · split
    · exact updCtx_kept h
    · exact h
  · split
    · exact updCtx_kept h
    · exact h
  · split
    · exact updCtx_kept h
    · exact h
  · split
    · exact lowerCeil_kept h
    · exact h
  · split
    · exact updCtx_kept h
    · exact h
  · split
    · exact updCtx_kept h
    · exact h
  · split
    · exact h
    · split
      · exact h
      · exact updCtx_kept (updCtx_kept h)

theorem execCtxgrant_kept {r : R3} (h : Kept q s) : KeptOut q (execCtxgrant r s) := by
  unfold execCtxgrant
  dsimp only
  refine sysOp_kept h (fun x0 t ht => ?_)
  split
  · exact status_kept ht
  · exact status_kept (grantKind_kept ht)

theorem takeQuads_kept {p n die mask : Nat} (h : Kept q s) : Kept q (takeQuads s p n die mask).2 := by
  unfold takeQuads
  dsimp only
  split
  · exact h
  · exact foldl_kept (updCtx_kept (foldl_kept h (fun t x ht => updCtx_kept ht))) (fun t x ht => quiesce_kept ht)

theorem lowerSbank_kept {n a : Nat} (h : Kept q s) : Kept q (lowerSbank s n a) := by
  unfold lowerSbank
  dsimp only
  exact foldl_kept (foldl_kept h (fun t x ht => updCtx_kept ht)) (fun t x ht => foldl_kept ht (fun u y hu => trimStash_kept hu))

theorem takeKind_kept {p n : Nat} {b : Budget} (h : Kept q s) : Kept q (takeKind s p n b).2 := by
  unfold takeKind
  dsimp only
  split
  · exact takeQuads_kept h
  · split
    · exact updCtx_kept h
    · exact h
  · split
    · exact lowerSbank_kept h
    · exact h
  · split
    · exact updCtx_kept h
    · exact h
  · split
    · exact lowerCeil_kept h
    · exact h
  · split
    · exact updCtx_kept h
    · exact h
  · split
    · exact updCtx_kept h
    · exact h
  · split
    · exact h
    · split
      · exact h
      · exact updCtx_kept (updCtx_kept h)

theorem takeWait_kept {e : Env} {die mask : Nat} {bs : List Nat} (h : Kept q s) : Kept q (takeWait e s die mask bs).1 := by
  unfold takeWait
  exact waitWith_kept h

theorem execCtxtake_kept {r : R3} (h : Kept q s) : KeptOut q (execCtxtake r s) := by
  unfold execCtxtake
  dsimp only
  refine sysOp_kept h (fun x0 t ht => ?_)
  split
  · split
    · exact status_kept ht
    · exact takeWait_kept ht
  · split
    · exact status_kept ht
    · split
      · split
        · exact takeWait_kept (takeKind_kept ht)
        · exact status_kept (takeKind_kept ht)
      · split
        · exact takeWait_kept (takeKind_kept ht)
        · exact status_kept (takeKind_kept ht)

/-! ### CTXRUN, CTXSTOP, CTXREVOKE (R403, R404) -/

theorem ctxRun_kept {n : Nat} (h : Kept q s) : Kept q (ctxRun s n).2 := by
  unfold ctxRun
  split
  · exact updCtx_kept h
  · exact updCtx_kept h
  · exact h
  · exact h

theorem execCtxrun_kept {r : R3} (h : Kept q s) : KeptOut q (execCtxrun r s) := by
  unfold execCtxrun
  dsimp only
  refine sysOp_kept h (fun x0 t ht => ?_)
  split
  · exact status_kept ht
  · exact status_kept (ctxRun_kept ht)

theorem forceStop_kept {n : Nat} (h : Kept q s) : Kept q (forceStop s n) := by
  unfold forceStop
  exact foldl_kept h (fun t x ht => quiesce_kept ht)

theorem ctxStop_kept {n : Nat} {force : Bool} (h : Kept q s) : Kept q (ctxStop s n force) := by
  unfold ctxStop
  dsimp only
  split
  · exact updCtx_kept h
  · refine settleCtx_kept ?_
    split
    · exact forceStop_kept (updCtx_kept h)
    · exact updCtx_kept h
  · split
    · exact settleCtx_kept (forceStop_kept (updCtx_kept h))
    · exact h
  · exact h

theorem execCtxstop_kept {r : R3} (h : Kept q s) : KeptOut q (execCtxstop r s) := by
  unfold execCtxstop
  dsimp only
  refine sysOp_kept h (fun x0 t ht => ?_)
  split
  · split
    · exact status_kept ht
    · exact waitRetry_kept ht
  · split
    · exact status_kept ht
    · split
      · exact status_kept ht
      · split
        · exact status_kept ht
        · split
          · split
            · exact status_kept (ctxStop_kept ht)
            · exact waitRetry_kept (ctxStop_kept ht)
          · exact status_kept (ctxStop_kept ht)

theorem execCtxrevoke_kept {r : R3} (h : Kept q s) : KeptOut q (execCtxrevoke r s) := by
  unfold execCtxrevoke
  dsimp only
  refine sysOp_kept h (fun x0 t ht => ?_)
  split
  · split
    · exact waitRetry_kept ht
    · exact status_kept ht
  · split
    · split
      · split <;> exact status_kept ht
      · exact status_kept ht
    · split
      · exact status_kept ht
      · split
        · split
          · exact waitRetry_kept ht
          · exact status_kept ht
        · split
          · exact waitRetry_kept (startRevoke_kept ht)
          · exact status_kept (startRevoke_kept ht)

/-! ### CTXQRY (R405) -/

theorem sysWrite_kept {r : Raw} {e : Env} {a : Nat} {bs : List Byte} (h : Kept q s) : Kept q (sysWrite r e a bs s).1 := by
  unfold sysWrite
  split
  · exact parkAll_kept h
  · exact status_kept (gWrite_kept (asked_kept h))

theorem execCtxqry_kept {r : R3} (h : Kept q s) : KeptOut q (execCtxqry r s) := by
  unfold execCtxqry
  dsimp only
  refine sysOp_kept h (fun x0 t ht => ?_)
  split
  · exact trapAll_kept ht
  · split
    · exact sysWrite_kept ht
    · split
      · exact sysWrite_kept ht
      · exact status_kept ht

/-! ### CTXMAP (R406, R407) -/

theorem sysRead_kept {e : Env} {a n : Nat} {k : State → List Byte → State × After} (h :
    Kept q s) (hk : ∀ t x0, Kept q t → Kept q (k t x0).1) : Kept q (sysRead e s a n k).1 := by
  unfold sysRead
  dsimp only
  split
  · exact parkAll_kept h
  · exact hk _ _ (gRead_kept (asked_kept h))

theorem mapOp_kept {r : R3} (h : Kept q s) : KeptOut q (mapOp r s) := by
  unfold mapOp
  dsimp only
  refine sysOp_kept h (fun x0 t ht => ?_)
  split
  · exact trapAll_kept ht
  · split
    · exact status_kept ht
    · refine sysRead_kept ht (fun u x hu => ?_)
      split
      · exact status_kept hu
      · split
        · exact status_kept hu
        · split
          · exact status_kept (unmapRange_kept (invalidate_kept hu))
          · exact status_kept (mapRange_kept hu)

/-! ### The return from a trap (R409, R429, R430) -/

theorem rereadDict_kept {b : Nat} (h : Kept q s) : Kept q (rereadDict s b) := by
  unfold rereadDict
  refine foldl_kept h (fun t x ht => ?_)
  split
  · exact ht
  · exact settleEntry_kept (updBlk_kept ht (fun _ _ h => h) (fun _ h => h))

theorem resumeTicket_kept {id : Nat} (h : Kept q s) : Kept q (resumeTicket s id) := by
  unfold resumeTicket
  dsimp only
  split
  · exact h
  · split
    · split
      · exact h.same rfl
      · refine settleFib_kept ?_
        refine obeyStop_kept ?_
        refine updFib_kept (rereadDict_kept (h.same rfl)) (hl := fun m x hx => ?_)
        simp only [thawFib]
        simp only [updLanes]
        refine foldl_low hx (fun y z hy => ?_)
        refine mapGetD_low hy (fun y1 => ?_)
        simp only [putFib]
        split
        · simp only [updLanes]
          exact hy
        · simp only [updLanes]
          exact hy
        · exact hy
        · exact hy
        · exact hy
        · exact hy
        · exact hy
    · exact updSeq_kept (h.same rfl)
    · exact h.same rfl
    · exact updBlk_kept (h.same rfl) (fun _ _ h => h) (fun _ h => h)
    · exact updBlk_kept (h.same rfl) (fun _ _ h => h) (fun _ h => h)
    · exact h.same rfl
    · exact h.same rfl

theorem execTrapret_kept {r : R3} (h : Kept q s) : KeptOut q (execTrapret r s) := by
  unfold execTrapret
  dsimp only
  refine sysOp_kept h (fun x0 t ht => ?_)
  split
  · exact status_kept ht
  · exact status_kept (resumeTicket_kept ht)

theorem execTrapfwd_kept {r : R3} (h : Kept q s) : KeptOut q (execTrapfwd r s) := by
  unfold execTrapfwd
  dsimp only
  refine sysOp_kept h (fun x0 t ht => ?_)
  split
  · exact status_kept ht
  · exact status_kept (passTicket_kept ht)

theorem execTrapinfo_kept {r : R3} (h : Kept q s) : KeptOut q (execTrapinfo r s) := by
  unfold execTrapinfo
  dsimp only
  refine perIssueOp_kept h (fun x0 t ht => ?_)
  split
  · exact wrD_kept (wrD_kept ht)
  · split
    · exact wrD_kept (wrD_kept ht)
    · split <;> exact wrD_kept (wrD_kept ht)

/-! ### Invalidations (R410) -/

theorem dropRange_kept {cs : List Nat} {base pages : Nat} (h : Kept q s) : Kept q (dropRange s cs base pages) := by
  unfold dropRange
  dsimp only
  refine Kept.same ?_ (by dsimp only)
  exact recallAcqs_kept (flushOps_kept h)

theorem execTlbinv_kept {r : R3} (h : Kept q s) : KeptOut q (execTlbinv r s) := by
  unfold execTlbinv
  dsimp only
  refine sysOp_kept h (fun x0 t ht => ?_)
  split
  · exact status_kept ht
  · split
    · exact status_kept ht
    · exact status_kept (dropRange_kept ht)

theorem dropCodes_kept {cs : List Nat} {base len : Nat} {kinds : List FetchBy} (h : Kept q s) :
    Kept q (dropCodes s cs base len kinds) := by
  unfold dropCodes
  exact foldl_kept h (fun t x ht => ht.same rfl)

theorem execIcinv_kept {r : R3} (h : Kept q s) : KeptOut q (execIcinv r s) := by
  unfold execIcinv
  dsimp only
  refine sysOp_kept h (fun x0 t ht => ?_)
  split
  · exact status_kept ht
  · split
    · exact status_kept ht
    · exact status_kept (dropCodes_kept ht)

theorem reloadDicts_kept {cs : List Nat} {a : Nat} (h : Kept q s) : Kept q (reloadDicts s cs a).1 := by
  unfold reloadDicts
  dsimp only
  refine foldl_fst_kept (dropCodes_kept h) (fun p x hp => ?_)
  split
  · exact loadDict_kept hp
  · exact hp

theorem execDctinv_kept {r : R3} (h : Kept q s) : KeptOut q (execDctinv r s) := by
  unfold execDctinv
  dsimp only
  refine sysOp_kept h (fun x0 t ht => ?_)
  split
  · exact status_kept ht
  · split
    · exact status_kept (reloadDicts_kept ht)
    · exact reloadDicts_kept ht

/-! ### System registers (R411, R412, R466) -/

theorem writeSys_kept {n idx : Nat} {v : DWord} (h : Kept q s) : Kept q (writeSys s n idx v).2 := by
  unfold writeSys
  extract_lets w upd
  have hu : ∀ c g, Kept q (upd c g).2 := by
    intro c g
    simp only [upd]
    split
    · exact updCtx_kept h
    · exact h
  clear_value upd
  iterate 5 (split; · exact hu _ _)
  split
  · exact writeLend_kept h
  · iterate 2 (split; · exact hu _ _)
    split
    · exact writeQdesc_kept h
    · split
      · exact writeGroup_kept h
      · exact h

theorem writeFrozen_kept {id : Nat} {t : Ticket} {sel : Nat} {v : DWord} (h : Kept q s) : Kept q (writeFrozen s id t sel v).2 := by
  unfold writeFrozen
  split
  · exact h
  · split
    · exact h
    · split
      · exact writeArch_kept h
      · split
        · exact h
        · exact h.same rfl
      · split
        · exact h
        · exact h.same rfl
      · exact h

theorem execSrw_kept {r : R3} (h : Kept q s) : KeptOut q (execSrw r s) := by
  unfold execSrw
  dsimp only
  refine sysOp_kept h (fun x0 t ht => ?_)
  split
  · split
    · exact status_kept ht
    · split
      · exact status_kept ht
      · exact status_kept (writeSys_kept ht)
  · split
    · split
      · exact status_kept ht
      · exact status_kept (writeFrozen_kept ht)
    · exact status_kept ht

theorem execSrr_kept {r : R3} (h : Kept q s) : KeptOut q (execSrr r s) := by
  unfold execSrr
  refine perIssueOp_kept h (fun e t ht => ?_)
  dsimp only
  exact wrD_kept (wrD_kept (wrD_kept (wrD_kept ht)))

/-! ### Experiments (R480 to R482) -/

theorem tallyIssue_kept {q' : Machine.Issued} (h : Kept q s) : Kept q (tallyIssue s q') := h.same rfl

theorem tallyEvents_kept {u : State} (h : Kept q s) : Kept q (tallyEvents u s) := h.same rfl

/-! ### PROF (R475, R476, R479) -/

theorem sysWrites_kept {r : Raw} {e : Env} {ps : List (Nat × List Byte)} {g : State → State} (h : Kept q s)
    (hg : ∀ t, Kept q t → Kept q (g t)) : Kept q (sysWrites r e s ps g).1 := by
  unfold sysWrites
  dsimp only
  split
  · exact parkAll_kept h
  · refine status_kept (hg _ (foldl_kept (asked_kept h) (fun v p hv => ?_)))
    split
    · exact gWrite_kept hv
    · exact hv

theorem profOpen_kept {w : Raw} {e : Env} {n : Nat} {m : ProfRec} (h : Kept q s) : Kept q (profOpen w e s n m).1 := by
  unfold profOpen
  dsimp only
  split
  · exact status_kept h
  · split
    · exact status_kept h
    · split
      · exact status_kept h
      · exact sysWrites_kept h (fun t ht => ht.same rfl)

theorem profRead_kept {w : Raw} {e : Env} {n : Nat} {m : ProfRec} (h : Kept q s) : Kept q (profRead w e s n m).1 := by
  unfold profRead
  split
  · exact status_kept h
  · exact sysWrites_kept h (fun _ ht => ht)

theorem profClose_kept {w : Raw} {e : Env} {n : Nat} {m : ProfRec} (h : Kept q s) : Kept q (profClose w e s n m).1 := by
  unfold profClose
  split
  · exact status_kept h
  · exact sysWrites_kept h (fun t ht => ht.same rfl)

theorem profExport_kept {w : Raw} {e : Env} {n : Nat} {m : ProfRec} (h : Kept q s) : Kept q (profExport w e s n m).1 := by
  unfold profExport
  split
  · exact status_kept h
  · split
    · exact status_kept h
    · exact sysWrites_kept h (fun t ht => ht.same rfl)

theorem profImport_kept {w : Raw} {e : Env} {n : Nat} {m : ProfRec} (h : Kept q s) : Kept q (profImport w e s n m).1 := by
  unfold profImport
  dsimp only
  split
  · exact status_kept h
  · refine sysRead_kept h (fun t x0 ht => ?_)
    split
    · exact status_kept ht
    · split
      · exact status_kept ht
      · split
        · exact status_kept ht
        · exact sysWrites_kept ht (fun u hu => hu.same rfl)

theorem profOp_kept {r : R3} (h : Kept q s) : KeptOut q (profOp r s) := by
  unfold profOp
  dsimp only
  refine sysOp_kept h (fun x0 t ht => ?_)
  split
  · exact trapAll_kept ht
  · split
    · exact status_kept ht
    · refine sysRead_kept ht (fun u x hu => ?_)
      split
      · exact status_kept hu
      · split
        · exact status_kept hu
        · split
          · exact profOpen_kept hu
          · exact profRead_kept hu
          · exact profClose_kept hu
          · exact profExport_kept hu
          · exact profImport_kept hu

/-! ### TRIAL (R480) -/

theorem trialStart_kept {w : Raw} {e : Env} {n : Nat} {m : TrialRec} (h : Kept q s) : Kept q (trialStart w e s n m).1 := by
  unfold trialStart
  dsimp only
  split
  · exact status_kept h
  · split
    · exact status_kept h
    · exact sysWrites_kept h (fun t ht => ht.same rfl)

theorem trialRead_kept {w : Raw} {e : Env} {n : Nat} {m : TrialRec} (h : Kept q s) : Kept q (trialRead w e s n m).1 := by
  unfold trialRead
  split
  · exact status_kept h
  · exact sysWrites_kept h (fun _ ht => ht)

theorem trialAbort_kept {w : Raw} {e : Env} {n : Nat} {m : TrialRec} (h : Kept q s) : Kept q (trialAbort w e s n m).1 := by
  unfold trialAbort
  split
  · exact status_kept h
  · exact status_kept (h.same rfl)

theorem trialOp_kept {r : R3} (h : Kept q s) : KeptOut q (trialOp r s) := by
  unfold trialOp
  dsimp only
  refine sysOp_kept h (fun x0 t ht => ?_)
  split
  · exact trapAll_kept ht
  · split
    · exact status_kept ht
    · refine sysRead_kept ht (fun u x hu => ?_)
      split
      · exact status_kept hu
      · split
        · exact status_kept hu
        · split
          · exact trialStart_kept hu
          · exact trialRead_kept hu
          · exact trialAbort_kept hu

/-! ### Samples (R478) -/

theorem sample_kept {sid core : Nat} (h : Kept q s) : Kept q (sample s sid core) := by
  unfold sample
  dsimp only
  split
  · exact h
  · split
    · exact h
    · split
      · exact h
      · refine updSlot_kept ?_ (fun _ _ h => h)
        refine Kept.same ?_ (by dsimp only)
        exact kWrite_kept h

theorem sampleAll_kept {sid : Nat} (h : Kept q s) : Kept q (sampleAll s sid) := by
  unfold sampleAll
  split
  · exact h
  · exact foldl_kept h (fun t x ht => sample_kept ht)

theorem atClk_kept (h : Kept q s) : Kept q (atClk s) := by
  unfold atClk
  dsimp only
  exact foldl_kept (foldl_kept h (fun t x ht => ht.same rfl)) (fun t x ht => sampleAll_kept ht)

theorem passClk_kept {fuel n : Nat} (h : Kept q s) : Kept q (passClk fuel s n) := by
  induction fuel generalizing s n with
  | zero => exact h.same rfl
  | succ k ih =>
    unfold passClk
    dsimp only
    split
    · exact h.same rfl
    · split
      · exact h.same rfl
      · exact ih (atClk_kept (h.same rfl))

/-! ### Shapes of COLLT (R294, R338) -/

theorem collShape_kept {o : Op} {a : Nat} (h : Kept q s) : KeptOkFst q (collShape s o a) := by
  unfold collShape
  dsimp only
  split
  · rename_i x y e
    exact error_keptFst
  · rename_i e
    have ht := (engineRead_kept h) _ e
    exact ok_keptFst ht

theorem collShapes_kept {o : Op} (h : Kept q s) : KeptOkFst q (collShapes s o) := by
  unfold collShapes
  dsimp only
  split
  · rename_i x y e
    exact error_keptFst
  · rename_i e
    have ht := (collShape_kept h) _ e
    split
    · rename_i z x1 e'
      exact error_keptFst
    · rename_i e'
      have hu := (collShape_kept ht) _ e'
      exact ok_keptFst hu

/-! ### The whistle (R468) -/

theorem updWhistle_kept {k : Nat} {g : Whistle → Whistle} (h : Kept q s) : Kept q (updWhistle s k g) := h.same rfl

theorem sendWhistle_kept {k : Nat} (h : Kept q s) : Kept q (sendWhistle s k) := by
  unfold sendWhistle
  dsimp only
  split
  · exact h
  · split
    · exact h
    · split
      · exact h
      · split
        · exact h
        · split
          · exact h.same rfl
          · split <;> exact h.same rfl

theorem whistleAt_kept {c g gid step : Nat} (h : Kept q s) : Kept q (whistleAt s c g gid step).1 := by
  unfold whistleAt
  split
  · exact h
  · exact h.same rfl

theorem joinWhistle_kept {id : Nat} {o : Op} (h : Kept q s) : Kept q (joinWhistle s id o) := by
  unfold joinWhistle
  dsimp only
  exact sendWhistle_kept (updWhistle_kept (whistleAt_kept h))

theorem decideOp_kept {id : Nat} {o : Op} {st : Nat} (h : Kept q s) : Kept q (decideOp s id o st) := h.same rfl

theorem stepShapes_kept {o : Op} (h : Kept q s) : KeptOkFst q (stepShapes s o) := by
  unfold stepShapes
  dsimp only
  split
  · exact collShapes_kept h
  · exact ok_keptFst h

theorem bindGroup_kept {o : Op} (h : Kept q s) : Kept q (bindGroup s o) := by
  unfold bindGroup
  dsimp only
  split
  · exact h
  · exact updCtx_kept h

theorem collArrive_kept {id : Nat} {o : Op} (h : Kept q s) : Kept q (collArrive s id o) := by
  unfold collArrive
  dsimp only
  split
  · exact decideOp_kept (bindGroup_kept h)
  · split
    · exact decideOp_kept (bindGroup_kept h)
    · split
      · exact decideOp_kept (bindGroup_kept h)
      · exact joinWhistle_kept (bindGroup_kept h)

theorem collOp_kept {r : Raw} {x : Bool} (hq : q.Full) (h : Kept q s) : KeptOut q (collOp r x s) := by
  unfold collOp
  refine laneInsn_kept h (fun e t ht => ?_)
  split
  · split
    · exact ht
    · rename_i hc
      exact startOp_kept hq ht (room_of_not_full hc)
  · dsimp only
    split
    · exact trapAll_kept ht
    · split
      · exact parkAll_kept ht
      · rename_i pas _
        split
        · exact ht
        · rename_i hc
          have hw : ∀ kind g, Kept q (startOp (gRead (asked t e.i .read (spanOf (pr e.a 0 e.low).toNat 64) pas) (ctxIs t e.i) pas).1
              e.i 4 kind g) := by
            intro kind g
            refine startOp_kept hq ?_ ((room_of_not_full hc).mono fun m hm => ?_)
            · exact gRead_kept (asked_kept ht)
            · exact gRead_kept (asked_kept hm)
          generalize hg : startOp _ _ 4 OpKind.coll _ = w
          have hw' : Kept q w := hg ▸ hw _ _
          split
          · exact collArrive_kept hw'
          · exact hw'

/-! ### The step (R295, R297) -/

theorem readElems_kept {c core : Nat} {h' : Shape} {n k : Nat} {out : List Nat} (h : Kept q s) :
    KeptOkFst q (readElems s c core h' n k out) := by
  induction n generalizing s k out with
  | zero => exact ok_keptFst h
  | succ m ih =>
    unfold readElems
    split
    · exact error_keptFst
    · rename_i t v bad e
      exact ih (readElem_kept h (t, v, bad) e)

theorem writeElems_kept {c core : Nat} {h' : Shape} {k : Nat} {vs : List Nat} (h : Kept q s) :
    KeptOk q (writeElems s c core h' k vs) := by
  induction vs generalizing s k with
  | nil => exact ok_kept h
  | cons v r ih =>
    unfold writeElems
    split
    · exact error_kept
    · rename_i t e
      exact ih (writeElem_kept h t e)

theorem readSource_kept {id : Nat} {o : Op} {k : Nat} {h' : Shape} (h : Kept q s) : Kept q (readSource s id o k h').1 := by
  unfold readSource
  dsimp only
  split
  · exact h
  · split
    · exact h
    · split
      · rename_i x y e
        exact holdOp_kept h
      · rename_i e
        have ht := (readElems_kept h) _ e
        exact ht.same rfl

theorem putStatus_kept {id : Nat} {o : Op} {st : Nat} (h : Kept q s) : Kept q (putStatus s id o st).1 := by
  unfold putStatus
  split
  · rename_i x y e
    exact holdOp_kept h
  · rename_i e
    have ht := (engineRead_kept h) _ e
    exact gWrite_kept ht

theorem collStatus_kept {id : Nat} {o : Op} {st : Nat} (h : Kept q s) : Kept q (collStatus s id o st) := by
  unfold collStatus
  dsimp only
  split
  · exact finishOp_kept (putStatus_kept h)
  · exact putStatus_kept h

theorem stepStatus_kept {id : Nat} {o : Op} {k st : Nat} (h : Kept q s) : Kept q (stepStatus s id o k st) := by
  unfold stepStatus
  dsimp only
  split
  · exact updWhistle_kept (putStatus_kept h)
  · exact putStatus_kept h

theorem collWrite_kept {id : Nat} {o : Op} {k : Nat} {b : Shape} {vs : List Nat} (h : Kept q s) : Kept q (collWrite s id o k b vs) := by
  unfold collWrite
  split
  · rename_i x _ e
    exact holdOp_kept h
  · rename_i e
    have ht := (writeElems_kept h) _ e
    exact stepStatus_kept ht

theorem takeShapes_kept {id : Nat} {o : Op} {k : Nat} (h : Kept q s) : Kept q (takeShapes s id o k) := by
  unfold takeShapes
  split
  · rename_i x y e
    exact holdOp_kept h
  · rename_i x t e
    have ht := (stepShapes_kept h) _ e
    exact ht.same rfl
  · rename_i e
    have ht := (stepShapes_kept h) _ e
    exact ht.same rfl

theorem collPerform_kept {id : Nat} {o : Op} {k : Nat} (h : Kept q s) : Kept q (collPerform s id o k) := by
  unfold collPerform
  dsimp only
  split
  · exact takeShapes_kept h
  · split
    · exact readSource_kept h
    · split
      · exact readSource_kept h
      · split
        · exact readSource_kept h
        · split
          · exact stepStatus_kept (readSource_kept h)
          · exact collWrite_kept (readSource_kept h)

theorem collLeave_kept {id k : Nat} {w : Whistle} (h : Kept q s) : Kept q (collLeave s id k w) := by
  unfold collLeave
  dsimp only
  split
  · exact h
  · split
    · exact finishOp_kept h
    · refine Kept.same ?_ (by dsimp only)
      exact finishOp_kept h

theorem collStep_kept {id : Nat} (h : Kept q s) : Kept q (collStep s id) := by
  unfold collStep
  dsimp only
  split
  · exact h
  · split
    · exact h
    · split
      · exact finishOp_kept h
      · split
        · exact collStatus_kept h
        · split
          · exact collArrive_kept h
          · split
            · exact sendWhistle_kept h
            · split
              · exact collLeave_kept (sendWhistle_kept h)
              · split
                · exact stepStatus_kept (sendWhistle_kept h)
                · split
                  · exact sendWhistle_kept h
                  · exact collPerform_kept (sendWhistle_kept h)

theorem execCollectiveStepComplete_kept {op : Nat} (h : Kept q s) : KeptOut q (execCollectiveStepComplete op s) := by
  unfold execCollectiveStepComplete
  exact event_kept h (fun t ht => collStep_kept ht)

/-! ### What other modules send (R468) -/

theorem countFlit_kept {f : Flit} (h : Kept q s) : Kept q (countFlit s f) := by
  unfold countFlit
  dsimp only
  split
  · exact h
  · exact updWhistle_kept (whistleAt_kept h)

theorem execWhistleFlit_kept {w : Flit} (h : Kept q s) : KeptOut q (execWhistleFlit w s) := by
  unfold execWhistleFlit
  exact event_kept h (fun t ht => countFlit_kept ht)

theorem execWhistleGo_kept {gid step : Nat} {data : List (List Byte)} (h : Kept q s) : KeptOut q (execWhistleGo gid step data s) := by
  unfold execWhistleGo
  exact event_kept h (fun t ht => ht.same rfl)

theorem takeAbort_kept {gid step code : Nat} (h : Kept q s) : Kept q (takeAbort s gid step code) := by
  unfold takeAbort
  dsimp only
  exact foldl_kept h (fun t x ht => updWhistle_kept (whistleAt_kept ht))

theorem execWhistleAbort_kept {gid step code : Nat} (h : Kept q s) : KeptOut q (execWhistleAbort gid step code s) := by
  unfold execWhistleAbort
  exact event_kept h (fun t ht => takeAbort_kept ht)

theorem lateWhistles_kept (h : Kept q s) : Kept q (lateWhistles s) := h.same rfl

/-! ### Meanings of the floating-point and conversion instructions (R228 to R250) -/

theorem drawRs_kept {rm : Rm} {e : Env} (h : Kept q s) : Kept q (drawRs rm e s).1 := by
  unfold drawRs
  dsimp only
  split
  · exact updIs_kept h (fun _ _ h => h)
  · exact h

theorem fpOp_kept {r : Raw} {rm : Rm} {g : (Nat → Nat → Nat) → Env → Nat → Nat} (h : Kept q s) : KeptOut q (fpOp r rm s g) := by
  unfold fpOp
  dsimp only
  exact laneInsn_kept h (fun x0 t ht => wrD_kept (drawRs_kept ht))

theorem fpOp2_kept {r : Raw} {rm : Rm} {g : (Nat → Nat → Nat) → Env → Nat → Nat} (h : Kept q s) : KeptOut q (fpOp2 r rm s g) := by
  unfold fpOp2
  dsimp only
  exact laneInsn_kept h (fun x0 t ht => wrD2_kept (drawRs_kept ht))

/-! ### Element types (R244) -/

theorem cvtOut_kept {r : Raw} {dt : Nat} {rm : Rm} {g : (Nat → Nat → Nat) → Env → Nat → Nat} (h : Kept q s) :
    KeptOut q (cvtOut r dt rm s g) := by
  unfold cvtOut
  split
  · exact fpOp2_kept h
  · exact fpOp_kept h

/-! ### Block-scaled data (R247 to R250) -/

theorem packOp_kept {r : Raw} {n w : Nat} (h : Kept q s) : KeptOut q (packOp r n w s) := by
  unfold packOp
  exact fpOp_kept h

theorem unpackOp_kept {r : Raw} {n w : Nat} (h : Kept q s) : KeptOut q (unpackOp r n w s) := by
  unfold unpackOp
  exact laneInsn_kept h (fun x0 t ht => foldl_kept ht (fun u x hu => wrD_kept hu))

theorem execBscale_kept {r : RX} (h : Kept q s) : KeptOut q (execBscale r s) := by
  unfold execBscale
  dsimp only
  refine laneInsn_kept h (fun x0 t ht => ?_)
  split
  · exact wrD_kept (wrD_kept ht)
  · exact wrD_kept ht

/-! ### Meanings of the stream instructions (R304 to R309) -/

theorem setStream_kept {i : Issue} {k : Nat} {st : Machine.Stream} (h : Kept q s) : Kept q (setStream s i k st) := by
  unfold setStream
  exact updIs_kept h (fun _ _ h => h)

/-- The state of a walk has the property, where the walk has met no failure. -/
def KeptWalk {α : Type} (q : Bound) (w : α → Walk) (o : Except RpErr α) : Prop := ∀ a, o = .ok a → Kept q (w a).s

theorem ok_keptWalk {α : Type} {w : α → Walk} {a : α} (h : Kept q (w a).s) : KeptWalk q w (.ok a) := fun _ e => by
  cases e
  exact h

theorem error_keptWalk {α : Type} {w : α → Walk} {x : RpErr} : KeptWalk q w (.error x) := fun _ e => by cases e

theorem rpRead_kept {i : Issue} {w : Walk} {r : Nat} (h : Kept q w.s) : KeptWalk q Prod.fst (rpRead i w r) := by
  unfold rpRead
  dsimp only
  split
  · exact error_keptWalk
  · split
    · exact ok_keptWalk (gReadBy_kept (asked_kept h))
    · exact error_keptWalk

theorem startRow_kept {i : Issue} {w : Walk} (h : Kept q w.s) : KeptWalk q id (startRow i w) := by
  unfold startRow
  split
  · exact ok_keptWalk h
  · split
    · exact error_keptWalk
    · rename_i w1 x e
      have hw : Kept q w1.s := rpRead_kept h (w1, x) e
      exact ok_keptWalk hw

theorem skipRows_kept {i : Issue} {n : Nat} {w : Walk} (h : Kept q w.s) : KeptWalk q id (skipRows i n w) := by
  induction n generalizing w with
  | zero => exact ok_keptWalk h
  | succ k ih =>
    unfold skipRows
    split
    · exact error_keptWalk
    · rename_i w1 x e
      have hw : Kept q w1.s := rpRead_kept h (w1, x) e
      split
      · exact ih hw
      · split
        · exact ok_keptWalk hw
        · exact ok_keptWalk hw

theorem nextElem_kept {i : Issue} {w : Walk} {first : Bool} (h : Kept q w.s) : KeptWalk q Prod.fst (nextElem i w first) := by
  unfold nextElem
  split
  · exact ok_keptWalk h
  · split
    · exact error_keptWalk
    · rename_i w1 e
      have h1 : Kept q w1.s := skipRows_kept h w1 e
      split
      · exact ok_keptWalk h1
      · split
        · exact error_keptWalk
        · rename_i w2 x e'
          have h2 : Kept q w2.s := rpRead_kept h1 (w2, x) e'
          exact ok_keptWalk h2

theorem nextLanes_kept {i : Issue} {ls : List Nat} {w : Walk} {first : Bool} {out : List (Nat × Quad)} (h : Kept q w.s) :
    KeptWalk q Prod.fst (nextLanes i ls w first out) := by
  induction ls generalizing w first out with
  | nil => exact ok_keptWalk h
  | cons l r ih =>
    have hn := nextElem_kept (i := i) (w := { w with lane := l }) (first := first) h
    unfold nextLanes
    split
    · exact error_keptWalk
    · rename_i w1 e
      exact ih (hn (w1, none) e)
    · rename_i w1 x e
      exact ih (hn (w1, some x) e)

theorem streamStop_kept {e : Env} {x : RpErr} (h : Kept q s) : Kept q (streamStop s e x).1 := by
  unfold streamStop
  split
  · exact trapAll_kept h
  · exact parkAll_kept h

theorem execSopen_kept {r : R3} (h : Kept q s) : KeptOut q (execSopen r s) := by
  unfold execSopen
  refine perIssueOp_kept h (fun e t ht => ?_)
  dsimp only
  split
  · exact trapAll_kept ht
  · split
    · exact streamStop_kept ht
    · rename_i w hw
      exact setStream_kept (startRow_kept (by exact ht) w hw)

theorem execSnext_kept {r : R3} (h : Kept q s) : KeptOut q (execSnext r s) := by
  unfold execSnext
  refine perIssueOp_kept h (fun e t ht => ?_)
  dsimp only
  split
  · exact streamStop_kept ht
  · rename_i k qs hk
    have hw : Kept q k.s := nextLanes_kept (w := { s := t, lane := e.low, st := streamD (fibIs t e.i) r.a.toNat }) ht (k, qs) hk
    exact foldl_kept (wrD_kept (wrD_kept (wrD_kept (wrD_kept (setStream_kept hw))))) (fun u j hu => poisonArch_kept hu)

theorem execSclose_kept {r : R3} (h : Kept q s) : KeptOut q (execSclose r s) := by
  unfold execSclose
  dsimp only
  exact perIssueOp_kept h (fun x0 t ht => setStream_kept ht)

theorem execSskip_kept {r : R3} (h : Kept q s) : KeptOut q (execSskip r s) := by
  unfold execSskip
  refine perIssueOp_kept h (fun e t ht => ?_)
  dsimp only
  split
  · exact ht
  · split
    · exact streamStop_kept ht
    · rename_i w hw
      exact setStream_kept (startRow_kept (by exact ht) w hw)

theorem execSpos_kept {r : R3} (h : Kept q s) : KeptOut q (execSpos r s) := by
  unfold execSpos
  dsimp only
  exact perIssueOp_kept h (fun x0 t ht => wrD_kept (wrD_kept ht))

/-! ### Instructions that run another one -/

theorem illegalAt_kept {i : Issue} {reason : Nat} (h : Kept q s) : Kept q (illegalAt s i reason) := by
  unfold illegalAt
  dsimp only
  refine Kept.same ?_ (by dsimp only)
  exact trapFibre_kept h

theorem trapRaw_kept {reason : Nat} (h : Kept q s) : KeptOut q (trapRaw s reason) := by
  unfold trapRaw
  split
  · exact fault_kept
  · exact next_kept (illegalAt_kept h)

theorem runHigh_kept {r : Raw} (hq : q.Full) (h : Kept q s) : KeptOut q (runHigh r s) := by
  unfold runHigh
  dsimp only
  split
  · exact execSopen_kept h
  · exact execSnext_kept h
  · exact aluOp_kept h
  · exact execSclose_kept h
  · exact execSskip_kept h
  · exact execSpos_kept h
  iterate 2 exact binOp_kept hq h
  · exact execBinr_kept h
  · exact execCtxnew_kept h
  · exact execCtxgrant_kept h
  · exact execCtxtake_kept h
  · exact execCtxrun_kept h
  · exact execCtxstop_kept h
  · exact execCtxrevoke_kept h
  · exact execCtxqry_kept h
  · exact mapOp_kept h
  · exact execTrapret_kept h
  · exact execTrapfwd_kept h
  · exact execTrapinfo_kept h
  · exact execTlbinv_kept h
  · exact execIcinv_kept h
  · exact execDctinv_kept h
  · exact profOp_kept h
  · exact trialOp_kept h
  · exact execSrw_kept h
  · exact execSrr_kept h
  · exact trapRaw_kept h

theorem runMid_kept {r : Raw} (hq : q.Full) (h : Kept q s) : KeptOut q (runMid r s) := by
  unfold runMid
  dsimp only
  split
  · exact execFence_kept h
  · exact execAcqx_kept h
  · exact execAcqs_kept h
  · exact execRel_kept h
  · exact execBind_kept h
  · exact execUnbind_kept h
  · exact execSmap_kept hq h
  · exact execSunmap_kept hq h
  iterate 3 exact rangeOp_kept hq h
  · exact aluOp_kept h
  · exact execSadopt_kept h
  · exact execHwait_kept h
  · exact aluOp_kept h
  · exact execHdrain_kept h
  · exact execHfree_kept h
  · exact aluOp_kept h
  · exact putOp_kept h
  · exact getOp_kept h
  · exact putOp_kept h
  · exact getOp_kept h
  · exact execQcount_kept h
  · exact execQclose_kept h
  · exact execWaitc_kept h
  · exact aluOp_kept h
  · exact execRet_kept h
  · exact execExit_kept h
  iterate 2 exact maskOp_kept h
  · exact execWaitm_kept h
  iterate 5 exact maskOp_kept h
  · exact arriveAt_kept h
  · exact execBarwait_kept h
  · exact arriveAt_kept h
  · exact execBartry_kept h
  iterate 3 exact arriveAt_kept h
  · exact execWin_kept h
  · exact execFyield_kept h
  · exact execFspawn_kept h
  · exact execFstop_kept h
  · exact arriveAt_kept h
  · exact execKill_kept h
  · exact execNop_kept h
  · exact execSpawn_kept h
  · exact execJoinc_kept h
  · exact execTaskend_kept h
  iterate 2 exact aluOp_kept h
  · exact execTrap_kept h
  · exact execBrk_kept h
  · exact runHigh_kept hq h

/-- A choice keeps the property where both of its branches do. -/
theorem dite_keptOut {c : Prop} [Decidable c] {f : c → Out} {g : ¬c → Out} (hf : ∀ e, KeptOut q (f e)) (hg : ∀ e, KeptOut q (g e)) :
    KeptOut q (dite c f g) := by
  split
  · exact hf _
  · exact hg _

/-- The rows of length (1). `split` does not take a match of so many rows: its tree of tests is taken apart, one opcode after the other. -/
theorem runLow_kept {r : Raw} (hq : q.Full) (h : Kept q s) : KeptOut q (runLow r s) := by
  unfold runLow
  generalize r.op.toNat = a
  generalize r.f.toNat = b
  delta runLow.match_1
  dsimp only
  refine dite_keptOut (fun e => ?_) (fun _ => ?_)
  · subst e
    iterate 8 refine dite_keptOut (fun e => by subst e; exact aluOp_kept h) (fun _ => ?_)
    exact runMid_kept hq h
  refine dite_keptOut (fun e => ?_) (fun _ => ?_)
  · subst e
    iterate 3 refine dite_keptOut (fun e => by subst e; exact aluOp_kept h) (fun _ => ?_)
    iterate 2 refine dite_keptOut (fun e => by subst e; exact aluOp2_kept h) (fun _ => ?_)
    exact runMid_kept hq h
  refine dite_keptOut (fun e => ?_) (fun _ => ?_)
  · subst e
    iterate 4 refine dite_keptOut (fun e => by subst e; exact aluOp_kept h) (fun _ => ?_)
    exact runMid_kept hq h
  refine dite_keptOut (fun e => ?_) (fun _ => ?_)
  · subst e
    iterate 3 refine dite_keptOut (fun e => by subst e; exact aluOp2_kept h) (fun _ => ?_)
    iterate 3 refine dite_keptOut (fun e => by subst e; exact aluOp_kept h) (fun _ => ?_)
    refine dite_keptOut (fun e => by subst e; exact aluOp2_kept h) (fun _ => ?_)
    exact runMid_kept hq h
  refine dite_keptOut (fun e => ?_) (fun _ => ?_)
  · subst e
    iterate 8 refine dite_keptOut (fun e => by subst e; exact aluOp_kept h) (fun _ => ?_)
    exact runMid_kept hq h
  refine dite_keptOut (fun e => ?_) (fun _ => ?_)
  · subst e
    iterate 5 refine dite_keptOut (fun e => by subst e; exact aluOp_kept h) (fun _ => ?_)
    iterate 3 refine dite_keptOut (fun e => by subst e; exact aluOp2_kept h) (fun _ => ?_)
    exact runMid_kept hq h
  refine dite_keptOut (fun e => ?_) (fun _ => ?_)
  · subst e
    iterate 5 refine dite_keptOut (fun e => by subst e; exact aluOp_kept h) (fun _ => ?_)
    iterate 3 refine dite_keptOut (fun e => by subst e; exact aluOp2_kept h) (fun _ => ?_)
    exact runMid_kept hq h
  refine dite_keptOut (fun e => ?_) (fun _ => ?_)
  · subst e
    iterate 8 refine dite_keptOut (fun e => by subst e; exact aluOp_kept h) (fun _ => ?_)
    exact runMid_kept hq h
  refine dite_keptOut (fun e => ?_) (fun _ => ?_)
  · subst e
    iterate 4 refine dite_keptOut (fun e => by subst e; exact aluOp_kept h) (fun _ => ?_)
    exact runMid_kept hq h
  refine dite_keptOut (fun e => ?_) (fun _ => ?_)
  · subst e
    exact aluOp_kept h
  refine dite_keptOut (fun e => ?_) (fun _ => ?_)
  · subst e
    iterate 7 refine dite_keptOut (fun e => by subst e; exact fpOp_kept h) (fun _ => ?_)
    exact runMid_kept hq h
  refine dite_keptOut (fun e => ?_) (fun _ => ?_)
  · subst e
    iterate 8 refine dite_keptOut (fun e => by subst e; exact aluOp_kept h) (fun _ => ?_)
    exact runMid_kept hq h
  refine dite_keptOut (fun e => ?_) (fun _ => ?_)
  · subst e
    iterate 6 refine dite_keptOut (fun e => by subst e; exact aluOp_kept h) (fun _ => ?_)
    exact runMid_kept hq h
  refine dite_keptOut (fun e => ?_) (fun _ => ?_)
  · subst e
    iterate 5 refine dite_keptOut (fun e => by subst e; exact fpOp2_kept h) (fun _ => ?_)
    exact runMid_kept hq h
  refine dite_keptOut (fun e => ?_) (fun _ => ?_)
  · subst e
    iterate 3 refine dite_keptOut (fun e => by subst e; exact aluOp2_kept h) (fun _ => ?_)
    exact runMid_kept hq h
  refine dite_keptOut (fun e => ?_) (fun _ => ?_)
  · subst e
    iterate 5 refine dite_keptOut (fun e => by subst e; exact fpOp_kept h) (fun _ => ?_)
    exact runMid_kept hq h
  refine dite_keptOut (fun e => ?_) (fun _ => ?_)
  · subst e
    iterate 5 refine dite_keptOut (fun e => by subst e; exact fpOp_kept h) (fun _ => ?_)
    exact runMid_kept hq h
  refine dite_keptOut (fun e => ?_) (fun _ => ?_)
  · subst e
    iterate 6 refine dite_keptOut (fun e => by subst e; exact aluOp_kept h) (fun _ => ?_)
    refine dite_keptOut (fun e => by subst e; exact execMwrite_kept h) (fun _ => ?_)
    exact runMid_kept hq h
  refine dite_keptOut (fun e => ?_) (fun _ => ?_)
  · subst e
    refine dite_keptOut (fun e => by subst e; exact aluOp_kept h) (fun _ => ?_)
    refine dite_keptOut (fun e => by subst e; exact aluOp2_kept h) (fun _ => ?_)
    exact runMid_kept hq h
  refine dite_keptOut (fun e => ?_) (fun _ => ?_)
  · subst e
    iterate 8 refine dite_keptOut (fun e => by subst e; exact aluOp_kept h) (fun _ => ?_)
    exact runMid_kept hq h
  refine dite_keptOut (fun e => ?_) (fun _ => ?_)
  · subst e
    iterate 4 refine dite_keptOut (fun e => by subst e; exact aluOp_kept h) (fun _ => ?_)
    exact runMid_kept hq h
  exact runMid_kept hq h

theorem runX_kept {r : Raw} {x : Xc} (hq : q.Full) (h : Kept q s) : KeptOut q (runX r x s) := by
  unfold runX
  dsimp only
  split
  · exact aluOp_kept h
  iterate 4 exact aluOp2_kept h
  iterate 4 exact aluOp_kept h
  iterate 4 exact fpOp_kept h
  · exact fpOp2_kept h
  iterate 4 exact fpOp_kept h
  iterate 2 exact cvtOut_kept h
  · exact packOp_kept h
  · exact unpackOp_kept h
  · exact packOp_kept h
  · exact unpackOp_kept h
  · exact execBscale_kept h
  · exact execShfl_kept h
  · exact execLd_kept h
  · exact execSt_kept h
  · exact execLdl_kept h
  · exact execStl_kept h
  iterate 2 exact atomicOp_kept hq h
  · exact execAtoml_kept h
  · exact atomicOp_kept hq h
  · exact prefOp_kept h
  iterate 2 exact collOp_kept hq h
  · exact execTryw_kept h
  · exact execTrywl_kept h
  · exact execGath_kept hq h
  iterate 3 exact scatterOp_kept hq h
  iterate 2 exact scatterLocalOp_kept h
  iterate 2 exact scatterOp_kept hq h
  · exact execEmbl_kept hq h
  · exact execEmbu_kept hq h
  · exact execEmbq_kept h
  · exact execEmbv_kept h
  · exact trapRaw_kept h

theorem runRaw_kept {r : Raw} (hq : q.Full) (h : Kept q s) : KeptOut q (runRaw r s) := by
  unfold runRaw
  split
  · exact runX_kept hq h
  · exact runLow_kept hq h

/-! ### REP (R159 to R163) -/

theorem parkEntry_kept {i : Issue} {f : FaultInfo} (h : Kept q s) : Kept q (parkEntry s i f) := by
  unfold parkEntry
  dsimp only
  refine Kept.same ?_ (by dsimp only)
  exact updIs_kept h (fun _ _ h => h)

/-! ### Orders (R123 to R125, R131) -/

theorem orderAll_kept (h : Kept q s) : Kept q (orderAll s) := by
  unfold orderAll
  split
  · exact showStores_kept h
  · exact landLanes_kept (showStores_kept h)

theorem orderRaw_kept {r : Raw} (h : Kept q s) : Kept q (orderRaw r s) := by
  unfold orderRaw
  split
  · exact h
  · exact orderAll_kept h

theorem settleEntryOf_kept {i : Issue} {p : Parcel16} (h : Kept q s) : Kept q (settleEntryOf s i p) := by
  unfold settleEntryOf
  exact mapGetD_kept h (fun x => settleEntry_kept h)

theorem repAt_kept {r : Raw} {i : Issue} {a : DWord} (hq : q.Full) (h : Kept q s) : KeptOut q (repAt r i a s) := by
  have hf : KeptOkFst q (if i.target.isEmpty then fetchCode s (coreIs s i) (ctxIs s i) a.toNat .lane else .ok (s, i.target)) := by
    split
    · exact fetchCode_kept h
    · exact ok_keptFst h
  unfold repAt
  dsimp only
  split
  · exact next_kept ((parkFetch_kept h).same rfl)
  · rename_i s0 ps e
    have hs : Kept q (settleEntryOf s0 i (par ps 0)) := settleEntryOf_kept (hf (s0, ps) e)
    split
    · exact next_kept (illegalAt_kept hs)
    · exact next_kept (parkEntry_kept hs)
    · exact next_kept (hs.same rfl)
    · split
      · exact next_kept (illegalAt_kept hs)
      · exact runRaw_kept hq (orderRaw_kept (hs.same rfl))

theorem execRep_kept {r : R3} (hq : q.Full) (h : Kept q s) : KeptOut q (execRep r s) := by
  unfold execRep
  split
  · exact fault_kept
  · exact repAt_kept hq h

/-! ### Dictionary parcels (R155 to R157) -/

theorem execDictionaryParcel_kept {r : Parcel} (hq : q.Full) (h : Kept q s) : KeptOut q (execDictionaryParcel r s) := by
  unfold execDictionaryParcel
  split
  · exact fault_kept
  · rename_i i _
    have hu : Kept q (settleEntryOf s i (parcelOf r)) := settleEntryOf_kept h
    dsimp only
    split
    · exact next_kept (illegalAt_kept hu)
    · exact next_kept (parkEntry_kept hu)
    · exact next_kept (hu.same rfl)
    · split
      · exact repAt_kept hq (hu.same rfl)
      · exact runRaw_kept hq (orderRaw_kept (hu.same rfl))

/-! ### Work that ends with no save (R397 step 2, R445 step 1) -/

theorem endOp_kept {id : Nat} (h : Kept q s) : Kept q (endOp s id) := by
  unfold endOp
  split
  · exact h
  · exact landOp_kept h

theorem dropBlocks_kept {cs : List Nat} (h : Kept q s) : Kept q (dropBlocks s cs) := by
  unfold dropBlocks
  dsimp only
  exact filterBlocks_kept (p := fun k => !((blocksIn s cs).map (·.1)).contains k)
    (foldl_kept (showParts_kept (cutStores_kept h)) (fun t b ht => dropRings_kept ht)) rfl rfl rfl rfl

theorem dropTickets_kept {cs : List Nat} (h : Kept q s) : Kept q (dropTickets s cs) := by
  unfold dropTickets
  dsimp only
  refine Kept.same ?_ (by dsimp only)
  refine foldl_kept h (fun t x ht => ?_)
  split
  · exact schedErr_kept ht
  · exact ht

/-! ### Revocation (R397) -/

theorem scrubBanks_kept {m : Mapping} (h : Kept q s) : Kept q (scrubBanks s m) := sram_kept h (fun hs => Memory.wf_zero hs _ _) rfl
    rfl rfl

theorem discardMaps_kept {cs : List Nat} (h : Kept q s) : Kept q (discardMaps s cs) := by
  unfold discardMaps
  exact foldl_kept h (fun t x ht => scrubBanks_kept (deleteMapping_kept ht))

theorem scrubFrame_kept {frame : Nat} (h : Kept q s) : Kept q (scrubFrame s frame) :=
  memory_kept h (fun hm => Memory.wf_zero hm _ _) rfl rfl rfl

theorem returnFrames_kept {cs : List Nat} (h : Kept q s) : Kept q (returnFrames s cs) := by
  unfold returnFrames
  exact foldl_kept h (fun t x ht => setHeld_kept (scrubFrame_kept ht))

theorem failTdis_kept {vfs : List Nat} (h : Kept q s) : Kept q (failTdis s vfs) := by
  unfold failTdis
  exact updKen_kept h

theorem returnHoldings_kept {cs : List Nat} {p : Nat} (h : Kept q s) : Kept q (returnHoldings s cs p) := by
  unfold returnHoldings
  dsimp only
  refine updCtx_kept ?_
  refine foldl_kept (failTdis_kept (foldl_kept h (fun t x ht => foldl_kept ht (fun u y hu => reclaimQuads_kept hu)))) (fun t x ht => ?_)
  refine foldl_kept ht (fun u y hu => ?_)
  split
  · exact hu
  · exact updCtx_kept hu

theorem freeNumbers_kept {cs : List Nat} {p : Nat} (h : Kept q s) : Kept q (freeNumbers s cs p) := by
  unfold freeNumbers
  dsimp only
  refine Kept.same ?_ (by dsimp only)
  exact foldl_kept h (fun t x ht => updCtx_kept ht)

theorem endProfiles_kept {cs : List Nat} (h : Kept q s) : Kept q (endProfiles s cs) := h.same rfl

theorem revokeTree_kept {c : Nat} (h : Kept q s) : Kept q (revokeTree s c) := by
  unfold revokeTree
  dsimp only
  refine Kept.same ?_ (by dsimp only)
  exact freeNumbers_kept (endProfiles_kept (returnHoldings_kept (returnFrames_kept (dropTlb_kept (discardMaps_kept (dropTickets_kept
    (dropBlocks_kept (foldl_kept h (fun t x ht => endOp_kept ht)))))))))

theorem execRevocation_kept {ctx : Nat} (h : Kept q s) : KeptOut q (execRevocation ctx s) := by
  unfold execRevocation
  refine event_kept h (fun t ht => ?_)
  split
  · exact revokeTree_kept ht
  · exact ht

/-! ### Retagging (R496) -/

theorem retagLines_kept {c : Nat} (h : Kept q s) : Kept q (retagLines s c) := by
  unfold retagLines
  dsimp only
  split
  · exact h
  · exact updCtx_kept (h.same rfl)

theorem execMscRetag_kept {ctx : Nat} (h : Kept q s) : KeptOut q (execMscRetag ctx s) := by
  unfold execMscRetag
  exact event_kept h (fun t ht => retagLines_kept ht)

/-! ### Function level reset (R396, R445) -/

theorem resetWindow_kept {k : Nat} {w : Window} (h : Kept q s) : Kept q (resetWindow s k w).1 := by
  unfold resetWindow
  dsimp only
  exact windowPart_kept h

theorem resetRecord_kept {c vf : Nat} {x : Option CutOp} (h : Kept q s) : Kept q (resetRecord s c vf x) := by
  unfold resetRecord
  exact newTicket_kept h

theorem emptyQueue_kept {c q' : Nat} (h : Kept q s) : Kept q (emptyQueue c s q') := by
  unfold emptyQueue
  split
  · rename_i p t e
    have ht := Kept.fst (kRead_kept h) e
    exact ht
  · rename_i e
    have ht := Kept.fst (kRead_kept h) e
    exact kWrite_kept ht

theorem emptyQueues_kept {cs : List Nat} (h : Kept q s) : Kept q (emptyQueues s cs) := by
  unfold emptyQueues
  exact foldl_kept h (fun t x ht => foldl_kept ht (fun u y hu => emptyQueue_kept hu))

theorem resetFunction_kept {c vf : Nat} (h : Kept q s) : Kept q (resetFunction s c vf) := by
  unfold resetFunction
  dsimp only
  exact resetRecord_kept (foldl_kept (foldl_kept (emptyQueues_kept (dropTickets_kept (foldl_kept (dropBlocks_kept (foldl_kept
    (foldl_fst_kept h (fun p x hp => resetWindow_kept hp)) (fun t x ht => endOp_kept ht))) (fun t x ht => deleteMapping_kept ht))))
      (fun t x ht => updCtx_kept ht)) (fun t x ht => resetRecord_kept ht))

theorem execFunctionLevelReset_kept {vf : Nat} (h : Kept q s) : KeptOut q (execFunctionLevelReset vf s) := by
  unfold execFunctionLevelReset
  dsimp only
  refine event_kept h (fun t ht => ?_)
  split
  · split
    · exact failTdis_kept ht
    · exact resetFunction_kept (failTdis_kept ht)
  · exact failTdis_kept ht

/-! ### The passing of time (R66, R389, R444, R454, R458, R468, R478, R481, R513, R514), the events that fall when a clock reaches a value, and what comes before an issue -/

theorem addCtime_kept {n : Nat} (h : Kept q s) : Kept q (addCtime s n) := h.same rfl

theorem expireMig_kept {f : Nat} (h : Kept q s) : Kept q (expireMig s f) := by
  unfold expireMig
  dsimp only
  split
  · exact mapRemote_kept (invalidate_kept (h.same rfl))
  · exact h.same rfl

theorem expireMigs_kept (h : Kept q s) : Kept q (expireMigs s) := by
  unfold expireMigs
  exact foldl_kept h (fun t x ht => expireMig_kept ht)

theorem noOwner_kept (h : Kept q s) : Kept q (noOwner s) := by
  unfold noOwner
  exact updKen_kept h

theorem lapseOwner_kept (h : Kept q s) : Kept q (lapseOwner s) := by
  unfold lapseOwner
  split
  · split
    · exact noOwner_kept h
    · exact h
  · exact h

theorem lapsePending_kept (h : Kept q s) : Kept q (lapsePending s) := by
  unfold lapsePending
  split
  · exact updKen_kept h
  · exact h

theorem elapse_kept {n u : Nat} (h : Kept q s) : Kept q (elapse s n u) := by
  unfold elapse
  dsimp only
  split
  · refine lapsePending_kept ?_
    refine lapseOwner_kept ?_
    refine expireMigs_kept ?_
    refine lateWhistles_kept ?_
    refine crossSlices_kept ?_
    refine addWaits_kept ?_
    refine addCtime_kept ?_
    refine Kept.same ?_ (by dsimp only)
    exact passClk_kept h
  · exact h

theorem passTime_kept (h : Kept q s) : Kept q (passTime s) := by
  unfold passTime
  split
  · exact h
  · exact elapse_kept h

theorem execTrywTimeout_kept {blk slot fib lane : Nat} (h : Kept q s) : KeptOut q (execTrywTimeout blk slot fib lane s) := by
  unfold execTrywTimeout
  exact event_kept h (fun t ht => readAgain_kept (elapse_kept ht))

theorem ageBlock_kept {n task : Nat} (h : Kept q s) : Kept q (ageBlock s n task) := by
  unfold ageBlock
  split
  · exact h
  · exact elapse_kept h

theorem execPriorityAging_kept {launch task : Nat} (h : Kept q s) : KeptOut q (execPriorityAging launch task s) := by
  unfold execPriorityAging
  exact event_kept h (fun t ht => ageBlock_kept ht)

theorem nextSlice_kept {c : Nat} (h : Kept q s) : Kept q (nextSlice s c) := by
  unfold nextSlice
  split
  · exact h
  · exact elapse_kept h

theorem reachClk_kept {due : Option Nat} (h : Kept q s) : Kept q (reachClk s due) := by
  unfold reachClk
  split
  · exact h
  · exact elapse_kept h

theorem execTrialEpochEnd_kept {slice : Nat} (h : Kept q s) : KeptOut q (execTrialEpochEnd slice s) := by
  unfold execTrialEpochEnd
  exact event_kept h (fun t ht => reachClk_kept ht)

theorem execProfileSample_kept {sid core : Nat} (h : Kept q s) : KeptOut q (execProfileSample sid core s) := by
  unfold execProfileSample
  exact event_kept h (fun t ht => reachClk_kept ht)

theorem execOwnerLapse_kept (h : Kept q s) : KeptOut q (execOwnerLapse s) := by
  unfold execOwnerLapse
  refine event_kept h (fun t ht => ?_)
  split
  · exact elapse_kept ht
  · exact ht

theorem execHandoverTimeout_kept (h : Kept q s) : KeptOut q (execHandoverTimeout s) := by
  unfold execHandoverTimeout
  refine event_kept h (fun t ht => ?_)
  split
  · exact ht
  · exact elapse_kept ht

theorem nextLimit_kept {gid step : Nat} (h : Kept q s) : Kept q (nextLimit s gid step) := by
  unfold nextLimit
  split
  · exact h
  · exact elapse_kept h

theorem execWhistleTimeout_kept {gid step : Nat} (h : Kept q s) : KeptOut q (execWhistleTimeout gid step s) := by
  unfold execWhistleTimeout
  exact event_kept h (fun t ht => nextLimit_kept ht)

theorem execSliceBoundary_kept {ctx : Nat} (h : Kept q s) : KeptOut q (execSliceBoundary ctx s) := by
  unfold execSliceBoundary
  exact event_kept h (fun t ht => nextSlice_kept ht)

/-! ### What comes before an issue (R31, R33, R36, R123 to R125, R162, R224) -/

theorem nextClk_kept {b k f : Nat} (h : Kept q s) : Kept q (nextClk s b k f) := by
  unfold nextClk
  dsimp only
  exact updFib_kept (updBlk_kept (passClk_kept h) (fun _ _ h => h) (fun _ h => h)) (fun _ _ h => h)

theorem orderFor_kept {i : Instr} (h : Kept q s) : Kept q (orderFor i s) := by
  unfold orderFor
  split
  · exact orderRaw_kept h
  · split
    · exact h
    · exact showStores_kept h

/-! ### A frame is moved (R443) -/

theorem copyFrame_kept {old new : Nat} (h : Kept q s) : Kept q (copyFrame s old new) := by
  unfold copyFrame
  dsimp only
  exact dropNodes_kept (Kept.same (copyBytes_kept h) (by dsimp only))

theorem repoint_kept {old new : Nat} {g : Nat → S2 → S2} (h : Kept q s) : Kept q (repoint s old new g) := by
  unfold repoint
  exact foldl_kept h (fun t x ht => foldl_kept ht (fun u y hu => updLeaf_kept hu))

theorem moveFrame_kept {old new : Nat} {g : Nat → S2 → S2} (h : Kept q s) : Kept q (moveFrame s old new g) := by
  unfold moveFrame
  dsimp only
  exact repoint_kept (copyFrame_kept (invalidate_kept h))

/-! ### Migration (R442 to R444) -/

theorem newFrame_kept {old new : Nat} (h : Kept q s) : Kept q (newFrame s old new) := by
  unfold newFrame
  split
  · exact dueFrames_kept h
  · exact h

theorem migrate_kept {c page frame : Nat} (h : Kept q s) : Kept q (migrate s c page frame) := by
  unfold migrate
  dsimp only
  split
  · exact h
  · split
    · exact h
    · split
      · refine newFrame_kept ?_
        refine Kept.same ?_ (by dsimp only)
        exact moveFrame_kept h
      · split
        · refine newFrame_kept ?_
          refine Kept.same ?_ (by dsimp only)
          exact moveFrame_kept h
        · exact h

theorem execMigration_kept {ctx page frame : Nat} (h : Kept q s) : KeptOut q (execMigration ctx page frame s) := by
  unfold execMigration
  exact event_kept h (fun t ht => migrate_kept ht)

theorem nextExpiry_kept {c page : Nat} (h : Kept q s) : Kept q (nextExpiry s c page) := by
  unfold nextExpiry
  split
  · exact h
  · split
    · exact elapse_kept h
    · exact h

theorem execRemoteMapExpiry_kept {ctx page : Nat} (h : Kept q s) : KeptOut q (execRemoteMapExpiry ctx page s) := by
  unfold execRemoteMapExpiry
  exact event_kept h (fun t ht => nextExpiry_kept ht)

/-! ### Retirement (R497, R498) -/

theorem retireFrame_kept {f : Nat} (h : Kept q s) : Kept q (retireFrame s f) := by
  unfold retireFrame
  dsimp only
  split
  · exact h
  · split
    · exact updKen_kept (updKen_kept h)
    · split
      · exact updKen_kept h
      · refine updKen_kept ?_
        split
        · exact repoint_kept (scrubFrame_kept (invalidate_kept (updKen_kept h)))
        · exact moveFrame_kept (updKen_kept h)

theorem execPageRetire_kept {frame : Nat} (h : Kept q s) : KeptOut q (execPageRetire frame s) := by
  unfold execPageRetire
  exact event_kept h (fun t ht => retireFrame_kept ht)

/-! ### Stops beyond a context (R500) -/

theorem closeEdges_kept {ds : List Nat} (h : Kept q s) : Kept q (closeEdges s ds) := by
  unfold closeEdges
  exact updKen_kept h

theorem loseLines_kept {ds : List Nat} (h : Kept q s) : Kept q (loseLines s ds) := by
  unfold loseLines
  dsimp only
  exact addPoison_kept (h.same rfl)

theorem hardStop_kept {h' : Nat} (h : Kept q s) : Kept q (hardStop s h') := by
  unfold hardStop
  dsimp only
  split
  · exact h
  · refine updKen_kept ?_
    refine closeEdges_kept ?_
    refine loseLines_kept ?_
    refine addPoison_kept ?_
    refine foldl_kept ?_ (fun t x ht => deleteMapping_kept ht)
    refine Kept.same ?_ (by dsimp only)
    exact showParts_kept h

theorem hardFatal_kept {unit loc die : Nat} (h : Kept q s) : Kept q (hardFatal s unit loc die) := by
  unfold hardFatal
  split
  · exact noteError_kept (hardStop_kept h)
  · exact noteError_kept h

theorem packageFatal_kept (h : Kept q s) : Kept q (packageFatal s) := by
  unfold packageFatal
  dsimp only
  exact noteError_kept (updKen_kept (foldl_kept h (fun t x ht => hardStop_kept ht)))

/-! ### The memory-side cache (R494, R495, R499) -/

theorem quarantineWay_kept {die way : Nat} (h : Kept q s) : Kept q (quarantineWay s die way) := by
  unfold quarantineWay
  split
  · exact h
  · exact updKen_kept h

theorem loseLine_kept {unit : Nat} {l : MscLine} (h : Kept q s) : Kept q (loseLine unit s l) := by
  unfold loseLine
  dsimp only
  exact updKen_kept (addPoison_kept (h.same rfl))

theorem examineLoss_kept (h : Kept q s) : Kept q (examineLoss s) := by
  unfold examineLoss
  dsimp only
  split
  · exact h
  · split
    · exact noteError_kept (updKen_kept h)
    · exact bearLoss_kept (updKen_kept h)

theorem execMscLossExamine_kept (h : Kept q s) : KeptOut q (execMscLossExamine s) := by
  unfold execMscLossExamine
  exact event_kept h (fun t ht => examineLoss_kept ht)

theorem sweepWay_kept {die way : Nat} (h : Kept q s) : Kept q (sweepWay s die way) := by
  unfold sweepWay
  split
  · exact h
  · exact updKen_kept (h.same rfl)

theorem execSweeperWayClear_kept {die way : Nat} (h : Kept q s) : KeptOut q (execSweeperWayClear die way s) := by
  unfold execSweeperWayClear
  exact event_kept h (fun t ht => sweepWay_kept ht)

/-! ### Links (R488, R513) -/

theorem linkDown_kept {l : LinkId} (h : Kept q s) : Kept q (linkDown s l) := by
  unfold linkDown
  dsimp only
  split
  · exact h
  · split
    · exact hardFatal_kept (updKen_kept h)
    · exact noteError_kept (updKen_kept h)
    · exact noteError_kept (updKen_kept h)
    · exact updKen_kept h

theorem execLinkDown_kept {l : LinkId} (h : Kept q s) : KeptOut q (execLinkDown l s) := by
  unfold execLinkDown
  exact event_kept h (fun t ht => linkDown_kept ht)

theorem execLinkUp_kept {l : LinkId} (h : Kept q s) : KeptOut q (execLinkUp l s) := by
  unfold execLinkUp
  exact event_kept h (fun t ht => updKen_kept ht)

/-! ### Corrections and fates (R488, R493) -/

theorem countLine_kept {line : Nat} (h : Kept q s) : Kept q (countLine s line) := by
  unfold countLine
  dsimp only
  split
  · exact dueFrames_kept (updKen_kept h)
  · exact updKen_kept h

theorem countSet_kept {die way set : Nat} (h : Kept q s) : Kept q (countSet s die way set).1 := by
  unfold countSet
  dsimp only
  split
  · split
    · exact quarantineWay_kept (updKen_kept h)
    · exact updKen_kept h
  · split
    · exact quarantineWay_kept (updKen_kept h)
    · exact updKen_kept h

theorem correctedSet_kept {e : MemErr} {r : ErrRec} (h : Kept q s) : Kept q (correctedSet s e r) := by
  unfold correctedSet
  dsimp only
  exact noteError_kept (countSet_kept h)

theorem corrected_kept {e : MemErr} (h : Kept q s) : Kept q (corrected s e) := by
  unfold corrected
  dsimp only
  split
  · exact noteError_kept (countLine_kept h)
  · exact correctedSet_kept h
  · exact correctedSet_kept h
  · exact h
  · exact h
  · exact h
  · exact noteError_kept h

theorem harmlessError_kept {unit die way addr : Nat} (h : Kept q s) : Kept q (harmlessError s unit die way addr) := by
  unfold harmlessError
  exact noteError_kept (quarantineWay_kept h)

theorem mscDataError_kept {e : MemErr} (h : Kept q s) : Kept q (mscDataError s e) := by
  unfold mscDataError
  split
  · exact harmlessError_kept h
  · split
    · exact loseLine_kept (quarantineWay_kept h)
    · exact harmlessError_kept (h.same rfl)

theorem mscTagError_kept {e : MemErr} (h : Kept q s) : Kept q (mscTagError s e) := by
  unfold mscTagError
  dsimp only
  split
  · exact harmlessError_kept (foldl_kept h (fun t x ht => quarantineWay_kept ht))
  · exact foldl_kept (foldl_kept h (fun t x ht => quarantineWay_kept ht)) (fun t x ht => loseLine_kept ht)

theorem wordError_kept {e : MemErr} (h : Kept q s) : Kept q (wordError s e) := by
  unfold wordError
  dsimp only
  split
  · exact h
  · exact updSlot_kept (poisonArch_kept h) (fun _ _ h => h)

theorem uncorrected_kept {e : MemErr} (h : Kept q s) : Kept q (uncorrected s e) := by
  unfold uncorrected
  dsimp only
  split
  · exact noteError_kept (wordError_kept h)
  · exact noteError_kept (h.same rfl)
  · exact noteError_kept h
  · split
    · exact noteError_kept h
    · exact noteError_kept (addPoison_kept h)
  · exact hardFatal_kept h
  · exact mscDataError_kept h
  · exact mscTagError_kept h
  · exact noteError_kept (addPoison_kept h)
  · exact updSeq_kept h
  · exact packageFatal_kept h
  · exact updLeaf_kept h
  · exact noteError_kept h
  · exact linkDown_kept h
  · exact linkDown_kept h
  · exact linkDown_kept h

theorem execMemoryErrorDetect_kept {e : MemErr} (h : Kept q s) : KeptOut q (execMemoryErrorDetect e s) := by
  unfold execMemoryErrorDetect
  refine event_kept h (fun t ht => ?_)
  split
  · exact corrected_kept ht
  · exact uncorrected_kept ht

theorem scrubLine_kept {line : Nat} (h : Kept q s) : Kept q (scrubLine s line) := by
  unfold scrubLine
  split
  · exact h
  · split
    · exact h
    · exact corrected_kept h
    · exact uncorrected_kept h

theorem execPatrolScrub_kept {line : Nat} (h : Kept q s) : KeptOut q (execPatrolScrub line s) := by
  unfold execPatrolScrub
  exact event_kept h (fun t ht => scrubLine_kept ht)

/-! ### Records (R501, R502) -/

theorem loseRecord_kept {c hdr lost : Nat} (h : Kept q s) : Kept q (loseRecord s c hdr lost) := by
  unfold loseRecord
  dsimp only
  exact kWrite_kept (updCtx_kept h)

theorem deliverTo_kept {r : ErrRec} {c : Nat} (h : Kept q s) : Kept q (deliverTo r s c) := by
  unfold deliverTo
  dsimp only
  split
  · rename_i p t e
    have ht := Kept.fst (kRead_kept h) e
    exact updCtx_kept ht
  · rename_i e
    have ht := Kept.fst (kRead_kept h) e
    split
    · exact loseRecord_kept ht
    · split
      · rename_i p' u e'
        have hu := Kept.fst (kWrite_kept ht) e'
        exact loseRecord_kept hu
      · rename_i e'
        have hu := Kept.fst (kWrite_kept ht) e'
        exact kWrite_kept (updCtx_kept hu)

theorem deliver_kept {r : ErrRec} (h : Kept q s) : Kept q (deliver s r) := by
  unfold deliver
  exact foldl_kept (postEvent_kept h) (fun t x ht => deliverTo_kept ht)

theorem deliverNext_kept (h : Kept q s) : Kept q (deliverNext s) := by
  unfold deliverNext
  split
  · exact h
  · exact deliver_kept (updKen_kept h)

theorem execErrorRecordDelivery_kept (h : Kept q s) : KeptOut q (execErrorRecordDelivery s) := by
  unfold execErrorRecordDelivery
  exact event_kept h (fun t ht => deliverNext_kept ht)

theorem foldNext_kept (h : Kept q s) : Kept q (foldNext s) := by
  unfold foldNext
  dsimp only
  split
  · exact h
  · exact deliver_kept (updKen_kept h)

theorem execCorrectedEventFold_kept (h : Kept q s) : KeptOut q (execCorrectedEventFold s) := by
  unfold execCorrectedEventFold
  exact event_kept h (fun t ht => foldNext_kept ht)

/-! ### Requests from outside the package -/

theorem outerWrite_kept {c : Nat} {pas : List Nat} {bs : List Byte} (h : Kept q s) : Kept q (outerWrite s c pas bs) := by
  unfold outerWrite
  exact gWrite_kept (h.same rfl)

/-! ### The host (R141, R469) -/

theorem noteAperture_kept {q' : HostReq} {n : Nat} {k : AccKind} (h : Kept q s) : Kept q (noteAperture s q' n k) := by
  unfold noteAperture
  split
  · exact h
  · split
    · exact h
    · split
      · exact h
      · split
        · exact h
        · exact noteBadLeaf_kept h

theorem hostWrite_kept {q' : HostReq} (h : Kept q s) : Kept q (hostWrite s q') := by
  unfold hostWrite
  split
  · exact outerWrite_kept h
  · exact physWrite_kept (h.same rfl)
  · exact h
  · exact noteAperture_kept h

theorem execHostWrite_kept {q' : HostReq} (h : Kept q s) : KeptOut q (execHostWrite q' s) := by
  unfold execHostWrite
  exact event_kept h (fun t ht => hostWrite_kept ht)

theorem outerRead_kept {agent : Nat} {pas : List Nat} (h : Kept q s) : Kept q (outerRead s agent pas) := by
  unfold outerRead
  dsimp only
  refine Kept.same ?_ (by dsimp only)
  exact seeLocs_kept (recalls_kept h)

theorem hostRead_kept {q' : HostReq} (h : Kept q s) : Kept q (hostRead s q') := by
  unfold hostRead
  dsimp only
  split
  · exact outerRead_kept h
  · exact h.same rfl
  · refine Kept.same ?_ (by dsimp only)
    exact noteAperture_kept h

theorem execHostRead_kept {q' : HostReq} (h : Kept q s) : KeptOut q (execHostRead q' s) := by
  unfold execHostRead
  exact event_kept h (fun t ht => hostRead_kept ht)

theorem hostAnswers_kept {pa : Nat} {how : Completion} (h : Kept q s) : Kept q (hostAnswers s pa how) := by
  unfold hostAnswers
  dsimp only
  split
  · exact h
  · split
    · exact h.same rfl
    · exact h.same rfl
    · exact noteError_kept (addPoison_kept h)

theorem execHostCompletion_kept {pa : Nat} {how : Completion} (h : Kept q s) : KeptOut q (execHostCompletion pa how s) := by
  unfold execHostCompletion
  exact event_kept h (fun t ht => hostAnswers_kept ht)

theorem execCompletionTimeout_kept {pa : Nat} (h : Kept q s) : KeptOut q (execCompletionTimeout pa s) := by
  unfold execCompletionTimeout
  exact event_kept h (fun t ht => hostAnswers_kept ht)

/-! ### A peer module (R471) -/

theorem peerRequest_kept {q' : PeerReq} (h : Kept q s) : Kept q (peerRequest s q') := by
  unfold peerRequest
  dsimp only
  split
  · exact h.same rfl
  · split
    · exact outerWrite_kept h
    · exact outerRead_kept h

theorem execPeerRequest_kept {q' : PeerReq} (h : Kept q s) : KeptOut q (execPeerRequest q' s) := by
  unfold execPeerRequest
  exact event_kept h (fun t ht => peerRequest_kept ht)

/-! ### Bring-up (R505, R509) -/

theorem resetDie_kept {d : Nat} (h : Kept q s) : Kept q (resetDie s d) := by
  unfold resetDie
  dsimp only
  split
  · exact updKen_kept h
  · exact postEvent_kept (updKen_kept h)

theorem resetDies_kept {ds : List Nat} (h : Kept q s) : Kept q (resetDies s ds) := by
  unfold resetDies
  exact foldl_kept h (fun t x ht => resetDie_kept ht)

theorem reportTrips_kept (h : Kept q s) : Kept q (reportTrips s) := by
  unfold reportTrips
  exact updKen_kept (foldl_kept h (fun t x ht => postEvent_kept ht))

/-- A reset keeps memory, and leaves no block and no ring. -/
theorem coldState_kept {ph : Phase} (h : Kept q s) : Kept q (coldState s ph) := by
  cases q with
  | memory => exact ⟨h.1, rfl⟩
  | counters m => exact fun b k f c => (fibD_reset b k f) ▸ low_default c
  | rings => exact resetCanonical.2.2.2

theorem bringUp_kept (h : Kept q s) : Kept q (bringUp s) := by
  unfold bringUp
  dsimp only
  split
  · exact updKen_kept h
  · exact reportTrips_kept (resetDies_kept (updKen_kept (h.same rfl)))

theorem execPackageReset_kept (h : Kept q s) : KeptOut q (execPackageReset s) := by
  unfold execPackageReset
  exact event_kept h (fun t ht => bringUp_kept (coldState_kept ht))

theorem powerOff_kept (h : Kept q s) : Kept q (powerOff s) := by
  unfold powerOff
  exact coldState_kept h

theorem execPowerLoss_kept (h : Kept q s) : KeptOut q (execPowerLoss s) := by
  unfold execPowerLoss
  exact event_kept h (fun t ht => powerOff_kept ht)

theorem finishFlash_kept (h : Kept q s) : Kept q (finishFlash s) := by
  unfold finishFlash
  dsimp only
  split
  · exact h
  · split
    · exact coldState_kept (updKen_kept h)
    · exact updKen_kept h

/-! ### The owner's event ring (R517) -/

theorem ringEvent_kept {e : Event} (h : Kept q s) : Kept q (ringEvent s e) := by
  unfold ringEvent
  dsimp only
  split
  · exact updKen_kept (physWrite_kept h)
  · exact updKen_kept (physWrite_kept (physWrite_kept h))

theorem flushEvents_kept (h : Kept q s) : Kept q (flushEvents s) := by
  unfold flushEvents
  split
  · exact h
  · split
    · exact h
    · split
      · exact updKen_kept h
      · split
        · exact h
        · exact foldl_kept (updKen_kept h) (fun t x ht => ringEvent_kept ht)

/-! ### Mailboxes (R510, R511) -/

theorem answer_kept {r : Mbx} {cmd st rs : Nat} (h : Kept q s) : Kept q (answer s r cmd st rs) := by
  unfold answer
  exact updKen_kept h

theorem command_kept {cmd : Nat} {any : Bool} {r : Mbx} {body : State → Nat × Nat × State} (h : Kept q s)
    (hbody : ∀ t, Kept q t → Kept q (body t).2.2) : KeptOut q (command cmd any r s body) := by
  unfold command
  refine event_kept h (fun t ht => ?_)
  split
  · exact ht
  · split
    · exact answer_kept ht
    · split
      · exact answer_kept ht
      · exact answer_kept (hbody t ht)

/-! ### Ownership (R511, R513, R514) -/

theorem newOwner_kept {m : Nat} (h : Kept q s) : Kept q (newOwner s m) := by
  unfold newOwner
  exact postEvent_kept (updKen_kept h)

theorem execClaim_kept {r : Mbx} (h : Kept q s) : KeptOut q (execClaim r s) := by
  unfold execClaim
  refine command_kept h (fun t ht => ?_)
  split
  · exact ht
  · exact elapse_kept (newOwner_kept ht)

theorem execHandover_kept {r : Mbx} (h : Kept q s) : KeptOut q (execHandover r s) := by
  unfold execHandover
  exact command_kept h (fun t ht => updKen_kept ht)

theorem execAccept_kept {r : Mbx} (h : Kept q s) : KeptOut q (execAccept r s) := by
  unfold execAccept
  refine command_kept h (fun t ht => ?_)
  split
  · exact newOwner_kept ht
  · exact ht

theorem execRelease_kept {r : Mbx} (h : Kept q s) : KeptOut q (execRelease r s) := by
  unfold execRelease
  exact command_kept h (fun t ht => noOwner_kept ht)

theorem execStatusq_kept {r : Mbx} (h : Kept q s) : KeptOut q (execStatusq r s) := by
  unfold execStatusq
  exact command_kept h (fun t ht => ht)

/-! ### The image loader (R507, R511) -/

theorem becomeLoader_kept {m off : Nat} (h : Kept q s) : Kept q (becomeLoader s m off) := by
  unfold becomeLoader
  split
  · exact updKen_kept h
  · exact h

theorem execImgload_kept {r : Mbx} (h : Kept q s) : KeptOut q (execImgload r s) := by
  unfold execImgload
  dsimp only
  refine command_kept h (fun t ht => ?_)
  split
  · exact becomeLoader_kept ht
  · split
    · exact becomeLoader_kept ht
    · exact updKen_kept (becomeLoader_kept ht)

theorem execImgcommit_kept {r : Mbx} (h : Kept q s) : KeptOut q (execImgcommit r s) := by
  unfold execImgcommit
  dsimp only
  refine command_kept h (fun t ht => ?_)
  split
  · exact updKen_kept ht
  · exact ht

/-! ### Events, limits, telemetry, resets (R517 to R520) -/

theorem execEvring_kept {r : Mbx} (h : Kept q s) : KeptOut q (execEvring r s) := by
  unfold execEvring
  dsimp only
  refine command_kept h (fun t ht => ?_)
  split
  · exact ht
  · exact flushEvents_kept (updKen_kept ht)

theorem execTelem_kept {r : Mbx} (h : Kept q s) : KeptOut q (execTelem r s) := by
  unfold execTelem
  exact command_kept h (fun t ht => ht)

theorem execPlimit_kept {r : Mbx} (h : Kept q s) : KeptOut q (execPlimit r s) := by
  unfold execPlimit
  dsimp only
  refine command_kept h (fun t ht => ?_)
  split
  · exact updKen_kept ht
  · exact ht

theorem execPreset_kept {r : Mbx} (h : Kept q s) : KeptOut q (execPreset r s) := by
  unfold execPreset
  exact command_kept h (fun t ht => coldState_kept ht)

theorem execPowerControl_kept {steps : Nat} (h : Kept q s) : KeptOut q (execPowerControl steps s) := by
  unfold execPowerControl
  exact event_kept h (fun t ht => updKen_kept ht)

theorem heat_kept {d temp : Nat} {g : Bool → Bool} (h : Kept q s) : Kept q (heat s d temp g) := by
  unfold heat
  exact updKen_kept h

theorem thermal_kept {d temp : Nat} (h : Kept q s) : Kept q (thermal s d temp) := by
  unfold thermal
  split
  · exact powerOff_kept (updKen_kept (heat_kept h))
  · split
    · exact postEvent_kept (heat_kept h)
    · exact heat_kept h

theorem execThermalThrottle_kept {die temp : Nat} (h : Kept q s) : KeptOut q (execThermalThrottle die temp s) := by
  unfold execThermalThrottle
  exact event_kept h (fun t ht => thermal_kept ht)

theorem execThermalRecover_kept {die temp : Nat} (h : Kept q s) : KeptOut q (execThermalRecover die temp s) := by
  unfold execThermalRecover
  exact event_kept h (fun t ht => thermal_kept ht)

theorem execThermalTrip_kept {die temp : Nat} (h : Kept q s) : KeptOut q (execThermalTrip die temp s) := by
  unfold execThermalTrip
  exact event_kept h (fun t ht => thermal_kept ht)

/-! ### Configuration entries (R515) -/

theorem execConfig_kept {r : Mbx} (h : Kept q s) : KeptOut q (execConfig r s) := by
  unfold execConfig
  dsimp only
  refine command_kept h (fun t ht => ?_)
  split
  · exact ht
  · split
    · exact ht
    · exact updKen_kept ht

/-! ### COMMIT (R516) -/

theorem setEdges_kept {ds : List Nat} (h : Kept q s) : Kept q (setEdges s ds) := by
  unfold setEdges
  dsimp only
  exact updKen_kept h

theorem makeRoots_kept {hs : List Nat} (h : Kept q s) : Kept q (makeRoots s hs) := by
  unfold makeRoots
  dsimp only
  refine foldl_kept h (fun t x ht => ?_)
  split
  · exact ht.same rfl
  · exact ht

theorem writeRoots_kept {hs : List Nat} (h : Kept q s) : Kept q (writeRoots s hs).2 :=
  foldl_of (st := Prod.snd) h (fun _ _ hw => writeSys_kept hw)

theorem commitAll_kept (h : Kept q s) : Kept q (commitAll s).2 := by
  unfold commitAll
  dsimp only
  split
  · exact h
  · exact writeRoots_kept (makeRoots_kept (updKen_kept (setEdges_kept h)))

theorem execCommit_kept {r : Mbx} (h : Kept q s) : KeptOut q (execCommit r s) := by
  unfold execCommit
  dsimp only
  refine command_kept h (fun t ht => ?_)
  split
  · exact ht
  · split
    · exact commitAll_kept ht
    · exact ht

/-! ### HRESET and SLICESET (R511) -/

theorem forgetCode_kept {cs : List Nat} (h : Kept q s) : Kept q (forgetCode s cs) := h.same rfl

theorem clearHard_kept {h' : Nat} (h : Kept q s) : Kept q (clearHard s h') := by
  unfold clearHard
  dsimp only
  refine Kept.same ?_ (by dsimp only)
  exact foldl_kept (failTdis_kept (forgetCode_kept (dropTlb_kept (foldl_kept (endProfiles_kept (dropTickets_kept (dropBlocks_kept
    h))) (fun t x ht => deleteMapping_kept ht))))) (fun t x ht => updCtx_kept ht)

theorem keepSpares_kept (h : Kept q s) : Kept q (keepSpares s) := by
  unfold keepSpares
  exact foldl_kept h (fun t x ht => repoint_kept ht)

theorem hardReset_kept {h' : Nat} (h : Kept q s) : Kept q (hardReset s h') := by
  unfold hardReset
  dsimp only
  exact writeRoots_kept (keepSpares_kept (makeRoots_kept (updKen_kept (setEdges_kept (resetDies_kept (clearHard_kept h))))))

theorem execHreset_kept {r : Mbx} (h : Kept q s) : KeptOut q (execHreset r s) := by
  unfold execHreset
  dsimp only
  refine command_kept h (fun t ht => ?_)
  split
  · exact ht
  · split
    · exact ht
    · exact hardReset_kept ht

theorem execSliceset_kept {r : Mbx} (h : Kept q s) : KeptOut q (execSliceset r s) := by
  unfold execSliceset
  dsimp only
  refine command_kept h (fun t ht => ?_)
  split
  · exact ht
  · split
    · exact ht
    · exact updKen_kept ht

/-! ### ROOTSR (R521) -/

theorem rootsr_kept {r : Mbx} (h : Kept q s) : KeptOut q (rootsr r s) := by
  unfold rootsr
  dsimp only
  refine command_kept h (fun t ht => ?_)
  split
  · exact ht
  · split
    · exact ht
    · split
      · exact writeSys_kept ht
      · split <;> exact ht

/-! ### MTRAP (R512) -/

theorem showRecord_kept {m : Nat} {t : Ticket} (h : Kept q s) : Kept q (showRecord s m t) := by
  unfold showRecord
  exact updKen_kept h

theorem mtrapDo_kept {r : Mbx} (h : Kept q s) : Kept q (mtrapDo s r).2.2 := by
  unfold mtrapDo
  dsimp only
  split
  · exact h
  · split
    · exact h
    · split
      · exact resumeTicket_kept h
      · split
        · exact h
        · split
          · exact h
          · exact startRevoke_kept h
      · exact h
      · exact h

theorem mtrap_kept {r : Mbx} (h : Kept q s) : KeptOut q (mtrap r s) := by
  unfold mtrap
  dsimp only
  refine event_kept h (fun t ht => ?_)
  split
  · exact ht
  · split
    · exact answer_kept ht
    · split
      · exact answer_kept ht
      · split
        · exact mapGetD_kept (answer_kept (mtrapDo_kept ht)) (fun x => showRecord_kept (answer_kept (mtrapDo_kept ht)))
        · exact answer_kept (mtrapDo_kept ht)

/-! ### Migration commands (R470) -/

theorem migSet_kept {cmd : Nat} {v : Bool} {r : Mbx} (h : Kept q s) : KeptOut q (migSet cmd v r s) := by
  unfold migSet
  dsimp only
  refine command_kept h (fun t ht => ?_)
  split
  · exact ht
  · split
    · exact ht
    · refine foldl_kept ?_ (fun u x hu => updLeaf_kept hu)
      split
      · exact invalidate_kept ht
      · exact ht

theorem hostWins_kept {c f : Nat} (h : Kept q s) : Kept q (hostWins s c f) := by
  unfold hostWins
  exact countConflict_kept (mapRemote_kept (h.same rfl))

theorem execMigreq_kept {r : Mbx} (h : Kept q s) : KeptOut q (execMigreq r s) := by
  unfold execMigreq
  dsimp only
  refine command_kept h (fun t ht => ?_)
  split
  · exact ht
  · split
    · exact ht
    · split
      · exact ht
      · split
        · exact hostWins_kept ht
        · split
          · exact countConflict_kept (ht.same rfl)
          · exact ht.same rfl

theorem execMiggrant_kept {r : Mbx} (h : Kept q s) : KeptOut q (execMiggrant r s) := by
  unfold execMiggrant
  refine command_kept h (fun t ht => ?_)
  split
  · exact ht
  · split
    · exact ht.same rfl
    · exact ht

/-! ### SPDM (R518) -/

theorem updSpdm_kept {m : Nat} {g : Spdm → Spdm} (h : Kept q s) : Kept q (updSpdm s m g) := by
  unfold updSpdm
  exact updKen_kept h

theorem spdmDo_kept {m : Nat} {ok : Spdm → Bool} {g : State → Spdm → Spdm} (h : Kept q s) : KeptOut q (spdmDo m s ok g) := by
  unfold spdmDo
  refine event_kept h (fun t ht => ?_)
  split
  · exact ht
  · exact updSpdm_kept ht

/-! ### TDISP (R427) -/

theorem tdisp_kept {vf : Nat} {ok : TdiSt → Bool} {g : State → State} {resp : State → List Byte} (h :
    Kept q s) (hg : ∀ t, Kept q t → Kept q (g t)) : KeptOut q (tdisp vf s ok g resp) := by
  unfold tdisp
  dsimp only
  refine event_kept h (fun t ht => ?_)
  split
  · exact ht
  · split
    · exact updSpdm_kept ht
    · exact updSpdm_kept (hg _ ht)

theorem setTdi_kept {vf : Nat} {x : TdiSt} (h : Kept q s) : Kept q (setTdi vf x s) := by
  unfold setTdi
  exact updKen_kept h

theorem execGetTdispVersion_kept {vf : Nat} (h : Kept q s) : KeptOut q (execGetTdispVersion vf s) := by
  unfold execGetTdispVersion
  exact tdisp_kept h (fun _ ht => ht)

theorem execGetTdispCapabilities_kept {vf : Nat} (h : Kept q s) : KeptOut q (execGetTdispCapabilities vf s) := by
  unfold execGetTdispCapabilities
  exact tdisp_kept h (fun _ ht => ht)

theorem execLockInterfaceRequest_kept {vf : Nat} (h : Kept q s) : KeptOut q (execLockInterfaceRequest vf s) := by
  unfold execLockInterfaceRequest
  exact tdisp_kept h (fun t ht => setTdi_kept ht)

theorem execGetDeviceInterfaceReport_kept {vf : Nat} (h : Kept q s) : KeptOut q (execGetDeviceInterfaceReport vf s) := by
  unfold execGetDeviceInterfaceReport
  exact tdisp_kept h (fun _ ht => ht)

theorem execGetDeviceInterfaceState_kept {vf : Nat} (h : Kept q s) : KeptOut q (execGetDeviceInterfaceState vf s) := by
  unfold execGetDeviceInterfaceState
  exact tdisp_kept h (fun _ ht => ht)

theorem execStartInterfaceRequest_kept {vf : Nat} (h : Kept q s) : KeptOut q (execStartInterfaceRequest vf s) := by
  unfold execStartInterfaceRequest
  exact tdisp_kept h (fun t ht => setTdi_kept ht)

theorem execStopInterfaceRequest_kept {vf : Nat} (h : Kept q s) : KeptOut q (execStopInterfaceRequest vf s) := by
  unfold execStopInterfaceRequest
  exact tdisp_kept h (fun t ht => setTdi_kept ht)

/-! ### Walking ahead (R425) -/

theorem walkMiss_kept {who c va : Nat} {k : AccKind} (h : Kept q s) : Kept q (walkMiss s who c va k) := by
  unfold walkMiss
  split
  · exact h
  · split
    · exact h.same rfl
    · exact h

theorem execTlbMissWalk_kept {core ctx : Nat} {va : DWord} {kind : AccKind} (h : Kept q s) :
    KeptOut q (execTlbMissWalk core ctx va kind s) := by
  unfold execTlbMissWalk
  exact event_kept h (fun t ht => walkMiss_kept ht)

/-! ### One arm per constructor of `Instr` -/

/-- Every instruction and every event keeps the properties. -/
theorem exec_kept {i : Instr} (hq : q.Full) (h : Kept q s) : KeptOut q (exec i s) := by
  unfold exec
  split
  iterate 13 exact aluOp_kept h
  iterate 2 exact aluOp2_kept h
  · exact aluOp_kept h
  iterate 2 exact aluOp2_kept h
  iterate 4 exact aluOp_kept h
  iterate 3 exact aluOp2_kept h
  iterate 3 exact aluOp_kept h
  iterate 3 exact aluOp2_kept h
  iterate 17 exact aluOp_kept h
  iterate 3 exact aluOp2_kept h
  iterate 5 exact aluOp_kept h
  iterate 3 exact aluOp2_kept h
  iterate 18 exact aluOp_kept h
  iterate 11 exact fpOp_kept h
  iterate 14 exact aluOp_kept h
  iterate 6 exact fpOp2_kept h
  iterate 3 exact aluOp2_kept h
  iterate 14 exact fpOp_kept h
  iterate 2 exact cvtOut_kept h
  · exact packOp_kept h
  · exact unpackOp_kept h
  · exact packOp_kept h
  · exact unpackOp_kept h
  · exact execBscale_kept h
  · exact execShfl_kept h
  iterate 6 exact aluOp_kept h
  · exact execMwrite_kept h
  · exact aluOp_kept h
  · exact aluOp2_kept h
  iterate 12 exact aluOp_kept h
  · exact execLd_kept h
  · exact execSt_kept h
  · exact execLdl_kept h
  · exact execStl_kept h
  iterate 2 exact atomicOp_kept hq h
  · exact execAtoml_kept h
  · exact atomicOp_kept hq h
  · exact execFence_kept h
  · exact execAcqx_kept h
  · exact execAcqs_kept h
  · exact execRel_kept h
  · exact execBind_kept h
  · exact execUnbind_kept h
  · exact prefOp_kept h
  · exact execSmap_kept hq h
  · exact execSunmap_kept hq h
  iterate 3 exact rangeOp_kept hq h
  · exact aluOp_kept h
  · exact execSadopt_kept h
  · exact execHwait_kept h
  · exact aluOp_kept h
  · exact execHdrain_kept h
  · exact execHfree_kept h
  · exact aluOp_kept h
  · exact putOp_kept h
  · exact getOp_kept h
  · exact putOp_kept h
  · exact getOp_kept h
  · exact execQcount_kept h
  · exact execQclose_kept h
  · exact execWaitc_kept h
  · exact aluOp_kept h
  iterate 2 exact collOp_kept hq h
  · exact execRet_kept h
  · exact execExit_kept h
  · exact execBra_kept h
  · exact execBnz_kept h
  · exact execBz_kept h
  · exact execCall_kept h
  · exact execBrx_kept h
  · exact execCallx_kept h
  iterate 2 exact maskOp_kept h
  · exact execWaitm_kept h
  iterate 5 exact maskOp_kept h
  iterate 2 exact setMeet_kept h
  · exact arriveAt_kept h
  · exact execBarwait_kept h
  · exact arriveAt_kept h
  · exact execBartry_kept h
  iterate 3 exact arriveAt_kept h
  · exact execTryw_kept h
  · exact execTrywl_kept h
  · exact execWin_kept h
  · exact execFyield_kept h
  · exact execFspawn_kept h
  · exact execFstop_kept h
  · exact arriveAt_kept h
  · exact execKill_kept h
  · exact execNop_kept h
  · exact execRep_kept hq h
  · exact execSpawn_kept h
  · exact execJoinc_kept h
  · exact execTaskend_kept h
  iterate 2 exact aluOp_kept h
  · exact execTrap_kept h
  · exact execBrk_kept h
  · exact execDictionaryParcel_kept hq h
  · exact execBrk16_kept h
  · exact execSopen_kept h
  · exact execSnext_kept h
  · exact aluOp_kept h
  · exact execSclose_kept h
  · exact execSskip_kept h
  · exact execSpos_kept h
  · exact execGath_kept hq h
  iterate 3 exact scatterOp_kept hq h
  iterate 2 exact scatterLocalOp_kept h
  iterate 2 exact scatterOp_kept hq h
  · exact execEmbl_kept hq h
  · exact execEmbu_kept hq h
  · exact execEmbq_kept h
  · exact execEmbv_kept h
  iterate 2 exact binOp_kept hq h
  · exact execBinr_kept h
  · exact execMshape_kept h
  · exact execMfmt_kept h
  · exact execMqadd_kept h
  · exact execMqset_kept h
  · exact execMwld_kept h
  iterate 2 exact mmaOp_kept h
  · exact execMmas_kept h
  · exact execMst_kept h
  · exact execMstadd_kept h
  · exact execMstatom_kept h
  · exact execMldt_kept h
  · exact execMzero_kept h
  · exact execMarv_kept h
  · exact execMwait_kept h
  · exact execMjmp_kept h
  · exact execMloop_kept h
  · exact execMend_kept h
  · exact execMscale_kept h
  · exact execMact_kept h
  iterate 2 exact rowOp_kept h
  · exact execCtxnew_kept h
  · exact execCtxgrant_kept h
  · exact execCtxtake_kept h
  · exact execCtxrun_kept h
  · exact execCtxstop_kept h
  · exact execCtxrevoke_kept h
  · exact execCtxqry_kept h
  iterate 2 exact mapOp_kept h
  · exact execTrapret_kept h
  · exact execTrapfwd_kept h
  · exact execTrapinfo_kept h
  · exact execTlbinv_kept h
  · exact execIcinv_kept h
  · exact execDctinv_kept h
  iterate 5 exact profOp_kept h
  iterate 3 exact trialOp_kept h
  · exact execSrw_kept h
  · exact execSrr_kept h
  · exact execQdescWrite_kept h
  · exact execLendWrite_kept h
  · exact execGroupWrite_kept h
  · exact execHandlerTaskPush_kept h
  · exact execQueueEntryExamine_kept h
  · exact execQueueHeaderPoll_kept h
  · exact execBlockPlacement_kept h
  · exact execInputCopyComplete_kept h
  · exact execBlockStart_kept h
  · exact execRegisterResultReturn_kept h
  · exact execChunkRefillComplete_kept h
  · exact execForcedSwitch_kept h
  · exact execGroupSelect_kept h
  · exact execBlockRetire_kept h
  · exact execOutputDrainComplete_kept h
  · exact execContinuationPush_kept h
  · exact execTlbMissWalk_kept h
  · exact execFaultExamine_kept h
  · exact execStashFillReturn_kept h
  · exact execStashOwnershipGrant_kept h
  · exact execStashInvalidate_kept h
  · exact execStashRecall_kept h
  · exact execStashCapacityEviction_kept h
  · exact execRetrieverOpComplete_kept h
  · exact execAtomicUpdateComplete_kept h
  · exact execStashOpComplete_kept h
  · exact execCollectiveStepComplete_kept h
  · exact execBinningComplete_kept h
  · exact execScatterWindowClose_kept h
  · exact execScatterWindowApply_kept h
  · exact execTrywRecheck_kept h
  · exact execTrywPoll_kept h
  · exact execTrywTimeout_kept h
  · exact execForcedPreemption_kept h
  · exact execBlockSave_kept h
  · exact execSliceBoundary_kept h
  · exact execPriorityAging_kept h
  · exact execQuadReclaim_kept h
  · exact execRevocation_kept h
  · exact execMscRetag_kept h
  · exact execFunctionLevelReset_kept h
  · exact execMigration_kept h
  · exact execRemoteMapExpiry_kept h
  · exact execPageRetire_kept h
  · exact execMemoryErrorDetect_kept h
  · exact execMscLossExamine_kept h
  · exact execSweeperWayClear_kept h
  · exact execPatrolScrub_kept h
  · exact execErrorRecordDelivery_kept h
  · exact execCorrectedEventFold_kept h
  · exact execLinkDown_kept h
  · exact execHostWrite_kept h
  · exact execHostRead_kept h
  · exact execHostCompletion_kept h
  · exact execPeerRequest_kept h
  · exact execWhistleFlit_kept h
  · exact execWhistleGo_kept h
  · exact execWhistleAbort_kept h
  · exact execWhistleTimeout_kept h
  · exact execProfileSample_kept h
  · exact execTrialEpochEnd_kept h
  · exact execPackageReset_kept h
  · exact execOwnerLapse_kept h
  · exact execHandoverTimeout_kept h
  · exact execPowerControl_kept h
  · exact execThermalThrottle_kept h
  · exact execThermalRecover_kept h
  · exact execThermalTrip_kept h
  · exact execClaim_kept h
  · exact execHandover_kept h
  · exact execAccept_kept h
  · exact execRelease_kept h
  · exact execStatusq_kept h
  · exact execImgload_kept h
  · exact execImgcommit_kept h
  · exact execConfig_kept h
  · exact execCommit_kept h
  · exact execEvring_kept h
  · exact execTelem_kept h
  · exact execPlimit_kept h
  · exact execPreset_kept h
  · exact execHreset_kept h
  · exact execSliceset_kept h
  iterate 4 exact mtrap_kept h
  iterate 2 exact rootsr_kept h
  iterate 2 exact migSet_kept h
  · exact execMigreq_kept h
  · exact execMiggrant_kept h
  iterate 12 exact spdmDo_kept h
  · exact execGetTdispVersion_kept h
  · exact execGetTdispCapabilities_kept h
  · exact execLockInterfaceRequest_kept h
  · exact execGetDeviceInterfaceReport_kept h
  · exact execGetDeviceInterfaceState_kept h
  · exact execStartInterfaceRequest_kept h
  · exact execStopInterfaceRequest_kept h
  · exact execCompletionTimeout_kept h
  · exact execAccessPerformed_kept h
  · exact execPowerLoss_kept h
  · exact execLinkUp_kept h

/-! ### What may happen next -/

theorem settleEnding_kept (h : Kept q s) : Kept q (settleEnding s) := by
  unfold settleEnding
  dsimp only
  refine foldl_kept h (fun t x ht => ?_)
  split
  · exact endBlock_kept ht
  · exact ht

/-! ### Issue of a group (R31, R33, R36, R145 to R147, R167) -/

theorem runIssue_kept {i : Issue} (hq : q.Full) (h : Kept q s) : KeptOut q (runIssue i s) := by
  unfold runIssue
  split
  · exact next_kept (illegalAt_kept h)
  · exact exec_kept hq ((orderFor_kept h).same rfl)

theorem issueGroup_kept {b k f : Nat} (hq : q.Full) (h : Kept q s) : KeptOut q (issueGroup b k f s) := by
  unfold issueGroup
  dsimp only
  split
  · exact next_kept (illegalAt_kept (updFib_kept (nextClk_kept h) (fun _ _ h => h)))
  · split
    · rename_i x y e
      refine next_kept ?_
      refine Kept.same ?_ (by dsimp only)
      exact parkFetch_kept (updFib_kept (nextClk_kept h) (fun _ _ h => h))
    · rename_i e
      refine runIssue_kept hq (fetchCode_kept ?_ _ e)
      exact updFib_kept (nextClk_kept h) (fun _ _ h => h)

theorem issueFib_kept {b k f : Nat} (hq : q.Full) (h : Kept q s) : KeptOut q (issueFib b k f s) := by
  unfold issueFib
  dsimp only
  split
  · exact exec_kept hq h
  · split
    · exact exec_kept hq h
    · exact issueGroup_kept hq (groupSelect_kept (forcedSwitch_kept h))

theorem retryFib_kept {b k f : Nat} (hq : q.Full) (h : Kept q s) : KeptOut q (retryFib b k f s) := by
  unfold retryFib
  split
  · exact next_kept (h.same rfl)
  · split
    · exact next_kept (h.same rfl)
    · exact exec_kept hq (h.same rfl)

theorem issueSeq_kept {b : Nat} (hq : q.Full) (h : Kept q s) : KeptOut q (issueSeq b s) := by
  unfold issueSeq
  dsimp only
  split
  · refine next_kept (Kept.same ?_ (by dsimp only))
    exact trapSeq_kept h
  · split
    · refine next_kept (Kept.same ?_ (by dsimp only))
      exact updSeq_kept h
    · exact next_kept (h.same rfl)
    · rename_i t ps e
      have ht : Kept q t := fetchCode_kept h (t, ps) e
      split
      · refine next_kept (Kept.same ?_ (by dsimp only))
        exact trapSeq_kept ht
      · exact exec_kept hq (ht.same rfl)

theorem runAct_kept {a : Act} (hq : q.Full) (h : Kept q s) : KeptOut q (runAct a s) := by
  unfold runAct
  split
  · exact issueFib_kept hq h
  · exact retryFib_kept hq h
  · exact issueSeq_kept hq h
  · exact exec_kept hq (orderFor_kept h)

/-! ### After a step (R69, R389, R477 to R482, R507, R517) -/

theorem tick_kept {a : Option Act} {u : State} (hq : q.Full) (h : Kept q s) : Kept q (tick a u s) := by
  unfold tick
  dsimp only
  refine Kept.same ?_ (by dsimp only)
  refine flushEvents_kept ?_
  split
  · exact finishFlash_kept (tallyEvents_kept (passTime_kept (mapGetD_kept (reclaimDue_kept (settleEnding_kept (replayAll_kept
      (settle_kept hq h)))) (fun x => tallyIssue_kept (reclaimDue_kept (settleEnding_kept (replayAll_kept (settle_kept hq h))))))))
  · exact tallyEvents_kept (passTime_kept (mapGetD_kept (reclaimDue_kept (settleEnding_kept (replayAll_kept (settle_kept hq h))))
      (fun x => tallyIssue_kept (reclaimDue_kept (settleEnding_kept (replayAll_kept (settle_kept hq h)))))))

theorem withTick_kept {a : Option Act} {u : State} {o : Out} (hq : q.Full) (h : KeptOut q o) : KeptOut q (withTick a u o) := by
  cases o with
  | next t => exact next_kept (tick_kept hq (h t rfl))
  | fault _ => exact fault_kept
  | refused _ => exact fun _ e => by cases e

theorem step_kept (hq : q.Full) (h : Kept q s) : KeptOut q (step s) := by
  unfold step
  split
  · split
    · exact withTick_kept hq (exec_kept hq ((orderFor_kept h).same rfl))
    · exact next_kept (h.same rfl)
  · split
    · exact withTick_kept hq (runAct_kept hq h)
    · exact next_kept (tick_kept hq (h.same rfl))

/-! ### The obligation -/

/-- A state whose next state is `t` hands a property on that lets every counter be as high as 63. -/
theorem step_next_kept (hq : q.Full) (h : Kept q s) (e : step s = .next t) : Kept q t := step_kept hq h t e

/-- Settles O57: each of the three properties is handed on by every operation of the state that a step is made of (`step_kept`); for the
counters the bound is 63 everywhere. -/
theorem memoryStaysCanonical : Obligations.MemoryStaysCanonical := by
  intro s t e
  refine ⟨fun hm hs => ?_, fun hc => ?_, fun hr => ?_⟩
  · exact step_next_kept (q := .memory) trivial ⟨hm, hs⟩ e
  · exact (countersHold_iff t).2 (step_next_kept (fun _ _ _ _ => rfl) ((countersHold_iff s).1 hc) e)
  · exact step_next_kept (q := .rings) trivial hr e

end Sys2Proof.Safety
end

section
/-!
SUPPORT. An instruction of the lane stream that issues with no active lane (R154): it goes on, or does not issue for want of room in an
engine counter; either way memory, SRAM and registers stay, but for marked registers that die (R56).
-/

namespace Sys2Proof.Safety

open Sys2Proof.Machine

/-! ### States with the same memory, SRAM and registers -/

/-- Memory, SRAM and every register are as before, and the issuing fibre waits as before. -/
structure Unwritten (i : Issue) (s t : State) : Prop where
  mem : t.mem = s.mem
  sram : t.sram = s.sram
  regs : ∀ b k a, reg t b k a = reg s b k a
  wait : (fibIs t i).wait = (fibIs s i).wait

section

variable {i : Issue} {s t u : State}

theorem Unwritten.refl (i : Issue) (s : State) : Unwritten i s s := ⟨rfl, rfl, fun _ _ _ => rfl, rfl⟩

theorem Unwritten.trans (h : Unwritten i s t) (g : Unwritten i t u) : Unwritten i s u :=
  ⟨g.mem.trans h.mem, g.sram.trans h.sram, fun b k a => (g.regs b k a).trans (h.regs b k a), g.wait.trans h.wait⟩

/-- A change outside blocks, memory and SRAM. -/
theorem Unwritten.of_same (e : (t.blocks, t.mem, t.sram) = (s.blocks, s.mem, s.sram)) : Unwritten i s t := by
  simp only [Prod.mk.injEq] at e
  obtain ⟨hb, hm, hs⟩ := e
  have hslot : ∀ b k, slotD t b k = slotD s b k := fun b k => by simp only [slotD, blkD, hb]
  exact ⟨hm, hs, fun b k a => by simp only [reg, hslot], by simp only [fibIs, fibD, hslot]⟩

theorem Unwritten.same (h : Unwritten i s t) (e : (u.blocks, u.mem, u.sram) = (t.blocks, t.mem, t.sram)) : Unwritten i s u :=
  h.trans (Unwritten.of_same e)

theorem Unwritten.windows {w : Map Window} (h : Unwritten i s t) : Unwritten i s { t with windows := w } := h.same rfl

theorem Unwritten.capFree {j : Issue} (h : Unwritten i s t) : Unwritten i s (capFree t j) := h.same rfl

theorem Unwritten.updIs {g : Fibre → Fibre} (h : Unwritten i s t) (hg : ∀ x, (g x).wait = x.wait) : Unwritten i s (updIs t i g) := by
  refine h.trans ⟨rfl, rfl, fun b k a => regAt_updFib t _ _ _ b k a g, ?_⟩
  simp only [fibIs, Machine.updIs, fibD_updFib]
  split
  · exact hg _
  · rfl

theorem Unwritten.updSlot {b k : Nat} {g : Slot → Slot} (h : Unwritten i s t) (hr : ∀ x, (g x).regs = x.regs)
    (hf : ∀ x, (g x).fibs = x.fibs) : Unwritten i s (updSlot t b k g) :=
  h.trans ⟨rfl, rfl, fun c j a => regAt_updSlot t b k c j a g (hr _), congrArg Fibre.wait (fibD_updSlot t _ _ _ _ _ g (hf _))⟩

theorem Within.mem (h : Within i s t) : t.mem = s.mem := by rw [h.world]

theorem Within.sram (h : Within i s t) : t.sram = s.sram := by rw [h.world]

theorem Unwritten.closeWindow (h : Unwritten i s t) : Unwritten i s (closeWindow t i.blk i.slot i.fib) :=
  have m := (closeWindow_tail i t).toMoves
  h.trans ⟨m.within.mem, m.within.sram, m.regs, closeWindow_wait i t⟩

theorem Unwritten.landLanes {ls : List Nat} (h : Unwritten i s t) : Unwritten i s (landLanes t i ls) := by
  unfold Machine.landLanes
  rw [landFlights_eq]
  exact h.same rfl

theorem Unwritten.startOp {c : Nat} {kind : OpKind} {g : Op → Op} (h : Unwritten i s t) : Unwritten i s (startOp t i c kind g) := by
  unfold Machine.startOp
  dsimp only
  exact Unwritten.updIs (h.landLanes.same rfl) (fun _ => rfl)

theorem drawRs_unwritten (rm : Rm) (e : Env) (s : State) : Unwritten e.i s (drawRs rm e s).1 := by
  unfold drawRs
  split
  · exact (Unwritten.refl _ _).updIs (fun _ => rfl)
  · exact Unwritten.refl _ _

theorem Unwritten.addDrops {n : Nat} (h : Unwritten i s t) : Unwritten i s (addDrops t i.blk i.slot i.fib n) := by
  unfold Machine.addDrops
  exact Unwritten.updIs (h.updSlot (fun _ => rfl) (fun _ => rfl)) (fun _ => rfl)

/-! ### Accesses and results of no lane -/

theorem wrDs_nil {r : Raw} {e : Env} {k : Nat} {g : Nat → Word} (hw : (fibIs t e.i).wait = none) : wrDs r e k [] g t = t :=
  wrDs_issue hw k [] g

theorem wrD_idle {r : Raw} {e : Env} {k : Nat} {g : Nat → Word} (he : e.act = []) (hw : (fibIs t e.i).wait = none) :
    wrD r e k g t = t := by
  rw [wrD, he, wrDs_nil hw]

theorem wrD2_idle {r : Raw} {e : Env} {g : Nat → DWord} (he : e.act = []) (hw : (fibIs t e.i).wait = none) :
    wrD2 r e g t = t := by
  rw [wrD2, wrD_idle he hw, wrD_idle he hw]

theorem poisonArch_nil (s : State) (b k a : Nat) : poisonArch s b k a [] = s := rfl

theorem awaitArch_nil (s : State) (b k f a id : Nat) : awaitArch s b k f a id [] = s := rfl

theorem writeLoad_nil {r : Raw} {e : Env} {f w : Nat} (hw : (fibIs t e.i).wait = none) : writeLoad r e f w [] t = t := by
  simp only [writeLoad, List.map_nil, List.filter_nil, poisonArch_nil]
  generalize List.range (widthRegs w) = js
  induction js with
  | nil => rfl
  | cons j js ih => rw [List.foldl_cons, wrDs_nil hw, ih]

theorem gMeet_nil (s : State) (i : Issue) (k : AccKind) (w : Nat) (ea : Nat → Nat) :
    gMeet s i k w ea [] = { s := s, stall := false, ok := [], bad := [] } := by
  simp [gMeet, capStalls, missStall, seekTlb, addTally, nub]

theorem engineMeet_nil (s : State) (i : Issue) (k : AccKind) (w : Nat) (ea : Nat → Nat) :
    engineMeet s i k w ea [] = { s := s, stall := false, ok := [], bad := [] } := by
  simp [engineMeet, seekTlb, addTally, nub]

theorem lMeet_nil (s : State) (i : Issue) (store : Bool) (w : Nat) (la : Nat → Nat) : lMeet s i store w la [] = (s, {}) := rfl

theorem sendAll_nil (q : Retain) (i : Issue) (core : Nat) (k : AccKind) (lo : Nat) (s : State) :
    sendAll q i core k lo s [] = capFree s i := by
  simp [sendAll, nub]

/-- R154: an access to global memory by no lane goes on. -/
theorem globalAccess_idle {q : Retain} {e : Env} {k : AccKind} {al w : Nat} {ea : Nat → Nat} {eff : State → List GLane → State}
    (he : e.act = []) : globalAccess q e t k al w ea eff = (capFree (eff t []) e.i, .advance) := by
  simp [globalAccess, he, gMeet_nil, sendAll_nil]

/-- R154: an access to SRAM by no lane goes on. -/
theorem localAccess_idle {e : Env} {store : Bool} {al w : Nat} {la : Nat → Nat} {eff : State → List (Nat × Nat × Nat) → State}
    (he : e.act = []) : localAccess e t store al w la eff = (eff (capFree t e.i) [], .advance) := by
  simp [localAccess, he, lMeet_nil]

/-! ### The answers of an instruction's body -/

/-- R154: the body goes on and writes nothing, or does not issue and leaves the state as it is. -/
def Rests (e : Env) (s : State) (p : State × After) : Prop := (p.2 = .advance ∧ Unwritten e.i s p.1) ∨ p = (s, .stay)

theorem Rests.goes {e : Env} (h : Unwritten e.i s t) : Rests e s (t, .advance) := .inl ⟨rfl, h⟩

theorem Rests.same {e : Env} : Rests e s (s, .advance) := Rests.goes (Unwritten.refl _ _)

theorem Rests.stays {e : Env} : Rests e s (s, .stay) := .inr rfl

/-- R313: the window that an issue of no lane joins. -/
theorem joinWindow_unwritten (i : Issue) (s : State) (fn ty rw : Nat) : Unwritten i s (joinWindow s i fn ty rw none).1 := by
  unfold joinWindow closeUnfit
  dsimp only
  split
  · exact Unwritten.refl _ _
  · split
    · exact Unwritten.refl _ _
    · exact (Unwritten.refl _ _).closeWindow

variable {e : Env}

/-- R154: the read, modify and write of no lane. -/
theorem updateLanes_unwritten {r : Raw} {w scope ord : Nat} {ea b c : Nat → Nat} (h : Unwritten e.i s t)
    (hw : (fibIs s e.i).wait = none) : Unwritten e.i s (updateLanes r e w scope ord t [] ea b c) := by
  have h : Unwritten e.i s (addStore (if ord / 2 % 2 = 1 then landLanes t e.i e.act else t) e.i scope .atom) := by
    by_cases ho : ord / 2 % 2 = 1
    · simp only [ho, if_true]
      exact h.landLanes.same rfl
    · simp only [ho, if_false]
      exact h.same rfl
  simp only [updateLanes, List.foldl_nil, List.map_nil, fly, writeLoad_nil (h.wait.trans hw)]
  exact h

/-- R214: the end of a TRYW or TRYWL of no lane. -/
theorem tryw_rests {r : Raw} {got : Nat → Option Word} {bad : Nat → Bool} (hw : (fibIs s e.i).wait = none) (h : Unwritten e.i s t) :
    Rests e s (trywEnd r e t [] [] got bad) := by
  have ht := h.wait.trans hw
  simp only [trywEnd, ht, List.all_nil, if_true, wrDs_nil ht, reached, waitId, List.filter_nil, poisonArch_nil, List.isEmpty_nil]
  exact Rests.goes h

variable (he : e.act = [])

include he

theorem wrD_rests {r : Raw} {k : Nat} {g : Nat → Word} (h : Unwritten e.i s t) (hw : (fibIs s e.i).wait = none) :
    Rests e s (wrD r e k g t, .advance) := by
  rw [wrD_idle he (h.wait.trans hw)]
  exact Rests.goes h

theorem wrD2_rests {r : Raw} {g : Nat → DWord} (h : Unwritten e.i s t) (hw : (fibIs s e.i).wait = none) :
    Rests e s (wrD2 r e g t, .advance) := by
  rw [wrD2_idle he (h.wait.trans hw)]
  exact Rests.goes h

/-- R313: the issue of a scatter of no lane. -/
theorem Unwritten.startScatter {kind : OpKind} {fn ty rw base bound drops : Nat} {els : List Elem} (h : Unwritten e.i s t) :
    Unwritten e.i s (startScatter t e kind fn ty rw base bound drops els) := by
  have hj := h.trans (joinWindow_unwritten e.i t fn ty rw)
  unfold Machine.startScatter
  simp only [he, List.isEmpty_nil, if_true]
  generalize joinWindow t e.i fn ty rw none = p at hj
  split
  · exact hj.startOp
  · split
    · exact Unwritten.closeWindow (Unwritten.updIs hj.startOp.windows (fun _ => rfl))
    · exact Unwritten.updIs hj.startOp.windows (fun _ => rfl)

end

/-! ### The instructions that can have a guard -/

/-- R154: an instruction of the lane stream that writes nothing where no lane is active. -/
def Idles (r : Raw) (s : State) (o : Out) : Prop :=
  ∃ body, o = laneInsn r s body ∧ ∀ e t, e.act = [] → (fibIs t e.i).wait = none → Rests e t (body e t)

section

variable (s : State) (r : Raw)

theorem aluOp_idles (g : Env → Nat → Word) : Idles r s (aluOp r s g) :=
  ⟨_, rfl, fun _ _ he hw => wrD_rests he (Unwritten.refl _ _) hw⟩

theorem aluOp2_idles (g : Env → Nat → DWord) : Idles r s (aluOp2 r s g) :=
  ⟨_, rfl, fun _ _ he hw => wrD2_rests he (Unwritten.refl _ _) hw⟩

theorem fpOp_idles (rm : Rm) (g : (Nat → Nat → Nat) → Env → Nat → Nat) : Idles r s (fpOp r rm s g) :=
  ⟨_, rfl, fun e t he hw => wrD_rests he (drawRs_unwritten rm e t) hw⟩

theorem packOp_idles (n w : Nat) : Idles r s (packOp r n w s) := fpOp_idles s r _ _

theorem fpOp2_idles (rm : Rm) (g : (Nat → Nat → Nat) → Env → Nat → Nat) : Idles r s (fpOp2 r rm s g) :=
  ⟨_, rfl, fun e t he hw => wrD2_rests he (drawRs_unwritten rm e t) hw⟩

theorem cvtOut_idles (dt : Nat) (rm : Rm) (g : (Nat → Nat → Nat) → Env → Nat → Nat) : Idles r s (cvtOut r dt rm s g) := by
  unfold cvtOut
  split
  · exact fpOp2_idles s r rm g
  · exact fpOp_idles s r rm g

theorem unpackOp_idles (n w : Nat) : Idles r s (unpackOp r n w s) := by
  refine ⟨_, rfl, fun e t he hw => ?_⟩
  generalize List.range n = js
  induction js with
  | nil => exact Rests.same
  | cons j js ih => simpa only [List.foldl_cons, wrD_idle he hw] using ih

theorem bscale_idles (r : RX) : Idles (r.raw 0x20#7 4#3) s (execBscale r s) := by
  refine ⟨_, rfl, fun e t he hw => ?_⟩
  simp only [wrD_idle he hw, ite_self]
  exact Rests.same

theorem perIssueOp_idles (body : Env → State → State × After) : Idles r s (perIssueOp r s body) := by
  refine ⟨_, rfl, fun e t he _ => ?_⟩
  simp only [he, List.isEmpty_nil, if_true]
  exact Rests.same

theorem ld_idles (r : RXF) : Idles (r.raw 0x28#7) s (execLd r s) := by
  refine ⟨_, rfl, fun e t he hw => ?_⟩
  simp only [globalAccess_idle he, gReadLanesBy, List.foldl_nil, List.map_nil, fly, writeLoad_nil hw]
  exact Rests.goes (Unwritten.refl _ _).capFree

theorem st_idles (r : RXF) : Idles (r.raw 0x29#7) s (execSt r s) := by
  refine ⟨_, rfl, fun e t he _ => ?_⟩
  simp only [globalAccess_idle he, List.foldl_nil]
  exact Rests.goes (Unwritten.capFree (Unwritten.of_same rfl))

theorem ldl_idles (r : RXF) : Idles (r.raw 0x2A#7) s (execLdl r s) := by
  refine ⟨_, rfl, fun e t he hw => ?_⟩
  have hc : Unwritten e.i t (capFree t e.i) := (Unwritten.refl _ _).capFree
  simp only [localAccess_idle he, lReadLanes, List.foldl_nil, List.map_nil, fly, writeLoad_nil (hc.wait.trans hw)]
  exact Rests.goes hc

theorem stl_idles (r : RXF) : Idles (r.raw 0x2B#7) s (execStl r s) := by
  refine ⟨_, rfl, fun e t he _ => ?_⟩
  simp only [localAccess_idle he, List.foldl_nil]
  have hc : Unwritten e.i t (capFree t e.i) := (Unwritten.refl _ _).capFree
  exact Rests.goes (hc.same rfl)

theorem atoml_idles (r : RXF) : Idles (r.raw 0x2E#7) s (execAtoml r s) := by
  refine ⟨_, rfl, fun e t he hw => ?_⟩
  simp only [localAccess_idle he, List.map_nil]
  exact Rests.goes (updateLanes_unwritten (Unwritten.refl _ _).capFree hw)

theorem atomicOp_idles : Idles r s (atomicOp r s) := by
  refine ⟨_, rfl, fun e t he hw => ?_⟩
  generalize ((Forms.immOf r).testBit 5 || decide (r.op = 0x2F)) = nr
  split
  · exact Rests.stays
  · rw [globalAccess_idle he]
    refine Rests.goes (Unwritten.capFree ?_)
    cases nr with
    | true =>
      simp only [he, List.isEmpty_nil, Bool.not_true, Bool.false_eq_true, and_false, if_true, if_false, postUpdate, List.foldl_nil,
        ite_self]
      exact (Unwritten.refl _ _).startOp
    | false =>
      simp only [Bool.false_eq_true, if_false, List.map_nil]
      exact updateLanes_unwritten (Unwritten.refl _ _) hw

theorem prefOp_idles (msc : Bool) : Idles r s (prefOp r msc s) := by
  refine ⟨_, rfl, fun e t he _ => ?_⟩
  simp only [he, List.foldl_nil]
  exact Rests.same

theorem collOp_idles (timed : Bool) : Idles r s (collOp r timed s) := by
  refine ⟨_, rfl, fun e t he _ => ?_⟩
  simp only [he, List.isEmpty_nil, if_true]
  split
  · exact Rests.stays
  · exact Rests.goes (Unwritten.refl _ _).startOp

theorem tryw_idles (r : RX) : Idles (r.raw 0x3C#7 0#3) s (execTryw r s) := by
  refine ⟨_, rfl, fun e t he hw => ?_⟩
  simp only [he, List.find?_nil, gMeet_nil, gReadLanes, gReadLanesBy, List.foldl_nil, Bool.false_eq_true, if_false, List.flatMap_nil,
    sendAll_nil, hw, Option.isSome_none, parkBad, List.map_nil]
  exact tryw_rests hw (Unwritten.refl _ _).capFree

theorem trywl_idles (r : RX) : Idles (r.raw 0x3C#7 1#3) s (execTrywl r s) := by
  refine ⟨_, rfl, fun e t he hw => ?_⟩
  simp only [he, List.find?_nil, lMeet_nil, lReadLanes, List.foldl_nil, Bool.false_eq_true, if_false, hw, Option.isSome_none, parkLocal,
    List.map_nil]
  exact tryw_rests hw (Unwritten.refl _ _)

/-- R311: the gather of no lane. -/
theorem gatherRegs_unwritten {e : Env} {w : Nat} {t u : State} (h : Unwritten e.i t u) (hw : (fibIs t e.i).wait = none) :
    Unwritten e.i t (gatherRegs r e w u [] []) := by
  have hu := h.wait.trans hw
  have hf : ∀ as : List Nat, as.foldl (fun v a => awaitArch v e.i.blk e.i.slot e.i.fib a u.nextId []) u = u := fun as => by
    induction as with
    | nil => rfl
    | cons a as ih => exact ih
  simp only [gatherRegs, List.filter_nil, gReadLanes, gReadLanesBy, List.foldl_nil, List.map_nil, List.append_nil, writeLoad_nil hu,
    List.isEmpty_nil, if_true, hf]
  exact h.startOp

theorem gath_idles (r : RXF) : Idles (r.raw 0x61#7) s (execGath r s) := by
  refine ⟨_, rfl, fun e t he hw => ?_⟩
  have hc : Unwritten e.i t (closeWindow t e.i.blk e.i.slot e.i.fib) := (Unwritten.refl _ _).closeWindow
  simp only [he, laneTrap, List.findSome?_nil, List.filter_nil, engineMeet_nil, List.isEmpty_nil, Bool.not_true, Bool.false_eq_true,
    and_false, if_false, if_true]
  split
  · exact Rests.stays
  · refine Rests.goes ?_
    split
    · unfold gatherRows
      exact hc.startOp
    · exact gatherRegs_unwritten _ hc hw

theorem scatterOp_idles (fn : Nat) : Idles r s (scatterOp r fn s) := by
  refine ⟨_, rfl, fun e t he _ => ?_⟩
  simp only [he, laneTrap, List.findSome?_nil, List.filter_nil, engineMeet_nil, List.isEmpty_nil, Bool.not_true, Bool.false_eq_true,
    and_false, if_false, if_true]
  split
  · exact Rests.stays
  · exact Rests.goes ((Unwritten.refl _ _).startScatter he)

theorem scatterLocalOp_idles (fn : Nat) : Idles r s (scatterLocalOp r fn s) := by
  refine ⟨_, rfl, fun e t he _ => ?_⟩
  simp only [he, List.filter_nil, List.find?_nil]
  rw [localAccess_idle rfl]
  exact Rests.goes (Unwritten.addDrops (Unwritten.refl _ _).capFree)

theorem embOp_idles (shut : State → Issue → State) (eff : Env → State → Nat → State)
    (h : ∀ e t, e.act = [] → Unwritten e.i t (eff e t 0)) : Idles r s (embOp r s shut eff) := by
  refine ⟨_, rfl, fun e t he _ => ?_⟩
  simp only [he, List.isEmpty_nil, if_true]
  split
  · exact Rests.stays
  · exact Rests.goes (h e t he)

end

/-- Only a guard can leave an issue without an active lane (R151). -/
theorem guarded_of_idle {r : Raw} {i : Issue} {s : State} (h : issuing i s = true) (he : (ops r i s).act = []) : r.x ≠ none := by
  intro hx
  have hl : (ops r i s).act = i.lanes := by simp only [mkEnv, activeLanes, hx]
  rw [hl] at he
  simp [issuing, he] at h

/-- R154: every instruction of the lane stream that has an X word. -/
theorem exec_idles {ins : Instr} {r : Raw} (h : inLanes ins r) (hx : r.x ≠ none) (s : State) : Idles r s (exec ins s) := by
  obtain ⟨hr, hm, -⟩ := h
  cases ins
  all_goals cases hr
  all_goals try exact absurd rfl hx
  case imad r | bfx r | bfxi r | bfi r | sel r => unfold exec; exact aluOp_idles s _ _
  case imadw r | imadwn r | lea r | lean r => unfold exec; exact aluOp2_idles s _ _
  case faddx r | fsubx r | fmulx r | ffma r | hfma2 r | bfma2 r | hdot2 r | bdot2 r => unfold exec; exact fpOp_idles s _ _ _
  case pack8 r | pack4 r => unfold exec; exact packOp_idles s _ _ _
  case dfma r => unfold exec; exact fpOp2_idles s _ _ _
  case cvt r | frnd r => unfold exec; exact cvtOut_idles s _ _ _ _
  case unpack8 r | unpack4 r => unfold exec; exact unpackOp_idles s _ _ _
  case bscale r => unfold exec; exact bscale_idles s r
  case shfl r => unfold exec; exact aluOp_idles s _ _
  case ld r => unfold exec; exact ld_idles s r
  case st r => unfold exec; exact st_idles s r
  case ldl r => unfold exec; exact ldl_idles s r
  case stl r => unfold exec; exact stl_idles s r
  case atoml r => unfold exec; exact atoml_idles s r
  case atom r | atomb r | red r => unfold exec; exact atomicOp_idles s _
  case pref r => unfold exec; exact prefOp_idles s _ _
  case coll r | collt r => unfold exec; exact collOp_idles s _ _
  case tryw r => unfold exec; exact tryw_idles s r
  case trywl r => unfold exec; exact trywl_idles s r
  case gath r => unfold exec; exact gath_idles s r
  case scata r | scatai r | scatab r | scat r | scatmin r => unfold exec; exact scatterOp_idles s _ _
  case scatal r | scatali r => unfold exec; exact scatterLocalOp_idles s _ _
  case embl r => unfold exec; exact embOp_idles s _ _ _ (fun e t _ => (Unwritten.refl _ _).closeWindow.startOp)
  case embu r => unfold exec; exact embOp_idles s _ _ _ (fun e t he => (Unwritten.refl _ _).startScatter he)
  case embq r | embv r => unfold exec; exact perIssueOp_idles s _ _

/-! ### The issue -/

/-- Memory and SRAM are as before; every register is as before, or was marked for its last use and is dead (R56). -/
structure OnlyDeaths (r : Raw) (i : Issue) (s t : State) : Prop where
  mem : t.mem = s.mem
  sram : t.sram = s.sram
  regs : ∀ b k a, reg t b k a = reg s b k a ∨
    (b = i.blk ∧ k = i.slot ∧ a ∈ markedRegs r (fibIs s i).wb ∧ reg t b k a = none)

section

variable {r : Raw} {i : Issue} {s t u : State}

theorem touch_onlyDeaths (r : Raw) (i : Issue) (s : State) : OnlyDeaths r i s (touch r i s) :=
  have ht : Residence i (landed r i s) (touch r i s) := touchRegs_residence r (ops r i s) s
  ⟨ht.within.mem, ht.within.sram, fun b k a => .inl (ht.regs b k a)⟩

theorem prep_onlyDeaths (he : exists' i s) : OnlyDeaths r i s (prep r i s) where
  mem := (prep_step he).within.mem
  sram := (prep_step he).within.sram
  regs b k a := by
    by_cases hbk : b = i.blk ∧ k = i.slot
    · obtain ⟨rfl, rfl⟩ := hbk
      rw [(prep_step he).regs, reg_landed]
      by_cases hk : a ∈ markedRegs r (fibIs s i).wb
      · exact .inr ⟨rfl, rfl, hk, by simp [killed, hk]⟩
      · exact .inl (by simp [killed, hk])
    · exact .inl ((prep_step he).others hbk a)

/-- A change that leaves memory, SRAM and registers as they are. -/
theorem OnlyDeaths.trans (h : OnlyDeaths r i s t) (hm : u.mem = t.mem) (hs : u.sram = t.sram)
    (hr : ∀ b k a, reg u b k a = reg t b k a) : OnlyDeaths r i s u :=
  ⟨hm.trans h.mem, hs.trans h.sram, fun b k a => by
    rw [hr]
    exact h.regs b k a⟩

theorem OnlyDeaths.moves (h : OnlyDeaths r i s t) (m : Moves i t u) : OnlyDeaths r i s u :=
  h.trans m.within.mem m.within.sram m.regs

/-- The end of an issue whose own effect writes nothing. -/
theorem OnlyDeaths.finish {a : After} (h : OnlyDeaths r i s t) (hu : Unwritten i t u) :
    OnlyDeaths r i s (finish r i a (noteLanes (ops r i s) u)) :=
  (h.trans hu.mem hu.sram hu.regs).moves (Moves.trans (noteLanes_moves (ops r i s) u) (finish_moves r i a _))

/-- An instruction whose body writes nothing, whether it goes on or does not issue. -/
theorem laneInsn_onlyDeaths {body : Env → State → State × After} (hr : ready r i s = true)
    (hb : ∀ t, (fibIs t i).wait = none → Rests (ops r i s) t (body (ops r i s) t)) :
    ∃ t, laneInsn r s body = .next t ∧ OnlyDeaths r i s t := by
  have hi := (ready_parts hr).1
  rw [laneInsn_ready hr]
  rcases hb _ (prep_wait hi) with ⟨ha, hu⟩ | hs
  · rw [ha]
    exact ⟨_, rfl, (prep_onlyDeaths (issuing_exists hi)).finish hu⟩
  · rw [hs]
    have ht := touch_onlyDeaths r i s
    rcases hb _ (touch_wait hr) with ⟨ha, hu⟩ | hs
    · rw [ha]
      exact ⟨_, rfl, ht.finish hu⟩
    · have hw : (fibIs (touch r i s) (ops r i s).i).wait = none := touch_wait hr
      rw [hs, beginWait_none hw]
      exact ⟨_, rfl, ht.moves (finish_moves r i .stay _)⟩

end

/-- Settles O31: only a guard leaves an issue without an active lane, and no instruction with a guard writes where no lane is active. -/
theorem noActiveLane : Obligations.NoActiveLane := by
  intro ins r i s hin _ hr he
  obtain ⟨body, hx, hb⟩ := exec_idles hin (guarded_of_idle (ready_parts hr).1 he) s
  obtain ⟨t, ht, h⟩ := laneInsn_onlyDeaths hr (fun t hw => hb _ t he hw)
  exact ⟨t, hx.trans ht, h.mem, h.sram, h.regs⟩

end Sys2Proof.Safety
end

section
/-!
SUPPORT. Results in number formats (R228 to R250): packed words, conversions and block-scaled data.
-/

namespace Sys2Proof.Safety

open Sys2Proof.Machine

/-! ### FP32 and packed operands (R232 to R234, R242, R243) -/

/-- R232 to R234: an instruction of the FP32 table makes the rounded word of its row. -/
theorem fp32Row_exec {ins : Instr} {r : Raw} {g : FRow} (hg : fp32Row ins = some g) (hr : rawOf ins = some r) (s : State) :
    exec ins s = fpOp r g.rm s g.val := by
  unfold fp32Row at hg
  split at hg <;> cases hg <;> cases hr
  all_goals rfl

/-- R70: the two spellings of a word of two halves. -/
theorem halves_eq : halves = twoHalves :=
  funext fun g => by simp only [halves, twoHalves, Nat.mul_comm, Nat.reducePow]

/-- R242, R243: an instruction of the packed table makes the rounded word of its row. -/
theorem packedRow_exec {ins : Instr} {r : Raw} {g : FRow} (hg : packedRow ins = some g) (hr : rawOf ins = some r) (s : State) :
    exec ins s = fpOp r g.rm s g.val := by
  unfold packedRow at hg
  rw [← halves_eq] at hg
  split at hg <;> cases hg <;> cases hr
  all_goals rfl

/-! ### Conversions (R246, R249) -/

/-- The low word of a pair. -/
theorem ofNat_low (x : Nat) : (BitVec.ofNat 64 x).extractLsb' 0 32 = .ofNat 32 x := by
  apply BitVec.eq_of_toNat_eq
  simp only [BitVec.extractLsb'_toNat, BitVec.toNat_ofNat, Nat.shiftRight_zero]
  omega

/-- The high word of a pair. -/
theorem ofNat_high (x : Nat) : (BitVec.ofNat 64 x).extractLsb' 32 32 = .ofNat 32 (x / 2 ^ 32) := by
  apply BitVec.eq_of_toNat_eq
  simp only [BitVec.extractLsb'_toNat, BitVec.toNat_ofNat, Nat.shiftRight_eq_div_pow]
  omega

/-- R246: a result whose type is FP64 is a pair, any other a word. -/
theorem cvtOut_result {r : Raw} {i : Issue} {s : State} (dt : Nat) (rm : Rm) (g : (Nat → Nat → Nat) → Env → Nat → Nat)
    (hr : ready r i s = true) (hd : dt = 0 → r.d.toNat % 2 = 0) :
    ∃ t, cvtOut r dt rm s g = .next t ∧
      Advances r i (drawn rm (fibIs s i)) (if dt = 0 then [dstReg r i s 0, dstReg r i s 1] else [dstReg r i s 0]) s t ∧
      Receives r i s t 0 (fun l => .ofNat 32 (g (draw rm (fibIs s i)) (ops r i s) l)) ∧
      (dt = 0 → Receives r i s t 1 (fun l => .ofNat 32 (g (draw rm (fibIs s i)) (ops r i s) l / 2 ^ 32))) := by
  unfold cvtOut
  by_cases h : dt = 0
  · obtain ⟨t, hx, ha, h0, h1⟩ := fpOp2_result rm g hr (hd h)
    simp only [ofNat_low, ofNat_high] at h0 h1
    simp only [if_pos h]
    exact ⟨t, hx, ha, h0, fun _ => h1⟩
  · obtain ⟨t, hx, ha, h0⟩ := fpOp_result rm g hr
    simp only [if_neg h]
    exact ⟨t, hx, ha, h0, fun k => absurd k h⟩

/-- R246: CVT and FRND convert to the type code `dt` of their row, which makes field D a pair where it is FP64. -/
theorem convertRow_exec {ins : Instr} {r : Raw} {g : FRow} {pair : Bool} (hg : convertRow ins = some (g, pair))
    (hr : rawOf ins = some r) (s : State) :
    ∃ dt, pair = decide (dt = 0) ∧ exec ins s = cvtOut r dt g.rm s g.val ∧ (dt = 0 → (Forms.ofRaw r).d = Forms.v2) := by
  unfold convertRow at hg
  split at hg <;> cases hg <;> cases hr
  case h_1 => exact ⟨_, rfl, rfl, fun h => if_pos h⟩
  case h_2 => exact ⟨_, rfl, rfl, fun h => if_pos h⟩

/-- R249: PACK8 and PACK4 make the sum of their row's elements, in the mode of IMM13. -/
theorem packOp_eq (r : Raw) (x : Xc) (hx : r.x = some x) (n w : Nat) (s : State) :
    packOp r n w s = fpOp r (modeOf x) s (packedElems x n w) := by
  have hm : Forms.immOf r = x.imm.toNat := by rw [Forms.immOf, hx]
  unfold packOp rmImm
  rw [hm]
  refine congrArg (fpOp r (modeOf x) s) (funext₃ fun u e l => ?_)
  exact List.sum_eq_foldl.symm

/-- R249: PACK8 and PACK4 make the packed word of their row. -/
theorem packRow_exec {ins : Instr} {r : Raw} {g : FRow} (hg : packRow ins = some g) (hr : rawOf ins = some r) (s : State) :
    exec ins s = fpOp r g.rm s g.val := by
  unfold packRow at hg
  split at hg <;> cases hg <;> cases hr
  case h_1 => exact packOp_eq _ _ rfl 4 8 s
  case h_2 => exact packOp_eq _ _ rfl 8 4 s

/-! ### Instructions that write several registers of field D (R248, R250) -/

/-- Registers 0 to n − 1 of field D are written in turn, each with its own word per active lane. -/
def writeEach (r : Raw) (e : Env) (g : Nat → Nat → Word) (n : Nat) (t : State) : State :=
  (List.range n).foldl (fun v j => wrD r e j (g j) v) t

theorem writeEach_succ (r : Raw) (e : Env) (g : Nat → Nat → Word) (n : Nat) (t : State) :
    writeEach r e g (n + 1) t = wrD r e n (g n) (writeEach r e g n t) := by
  simp only [writeEach, List.range_succ, List.foldl_append, List.foldl_cons, List.foldl_nil]

/-- R50, R52: the `n` registers of an aligned field D differ: as `n` divides 112, where the names outside the window begin, either all of
them or none are in the window. -/
theorem dstReg_ne {r : Raw} (i : Issue) (s : State) {n : Nat} (hn : n ∣ 112) (hd : n ∣ r.d.toNat) {j k : Nat} (hj : j < n) (hk : k < n)
    (h : j ≠ k) : dstReg r i s j ≠ dstReg r i s k := by
  obtain ⟨p, hp⟩ := hn
  obtain ⟨q, hq⟩ := hd
  have side : r.d.toNat + n ≤ 112 ∨ 112 ≤ r.d.toNat := by
    rw [hp, hq]
    by_cases hpq : p ≤ q
    · exact .inr (Nat.mul_le_mul_left n hpq)
    · exact .inl (Nat.mul_le_mul_left n (Nat.lt_of_not_le hpq))
  simp only [dstReg, archReg]
  split <;> split <;> omega

section

variable {r : Raw} {i : Issue} {s t : State} {g : Nat → Nat → Word}

/-- What the writes of several registers leave as it was. -/
theorem writeEach_frame (he : exists' i t) (hw : (fibIs t i).wait = none) (n : Nat) :
    Within i t (writeEach r (ops r i s) g n t) ∧ fibIs (writeEach r (ops r i s) g n t) i = fibIs t i ∧
    ∀ a, a ∉ (List.range n).map (dstReg r i s) → reg (writeEach r (ops r i s) g n t) i.blk i.slot a = reg t i.blk i.slot a := by
  induction n with
  | zero => exact ⟨Within.refl i t, rfl, fun _ _ => rfl⟩
  | succ n ih =>
    obtain ⟨hin, hfib, hreg⟩ := ih
    rw [writeEach_succ]
    obtain ⟨_, _, hs⟩ := wrDs_step (r := r) (s := s) (hin.keeps he) ((congrArg Fibre.wait hfib).trans hw) n (ops r i s).act (g n)
    refine ⟨hin.trans hs.within, (hs.fibs _ _ _).trans hfib, fun a ha => ?_⟩
    simp only [List.range_succ, List.map_append, List.map_cons, List.map_nil, List.mem_append, List.mem_singleton, not_or] at ha
    exact (hs.regs a).trans ((if_pos (.inr ha.2)).trans (hreg a ha.1))

/-- R34, R55: each of several destination registers is written once, where they differ. -/
theorem writeEach_reg (he : exists' i t) (hw : (fibIs t i).wait = none) {n : Nat}
    (hne : ∀ j k, j < n → k < n → j ≠ k → dstReg r i s j ≠ dstReg r i s k) {j : Nat} (hj : j < n) :
    ∃ m due, reg (writeEach r (ops r i s) g n t) i.blk i.slot (dstReg r i s j) =
      if (ops r i s).act.isEmpty then reg t i.blk i.slot (dstReg r i s j)
      else some (Reg.write (reg t i.blk i.slot (dstReg r i s j)) i.fib m due (ops r i s).act (g j)) := by
  induction n with
  | zero => exact absurd hj (Nat.not_lt_zero j)
  | succ n ih =>
    obtain ⟨hin, hfib, hreg⟩ := writeEach_frame (r := r) (s := s) (g := g) he hw n
    obtain ⟨m, due, hs⟩ := wrDs_step (r := r) (s := s) (hin.keeps he) ((congrArg Fibre.wait hfib).trans hw) n (ops r i s).act (g n)
    rw [writeEach_succ, wrD, hs.regs]
    rcases Nat.lt_succ_iff_lt_or_eq.1 hj with hlt | rfl
    · rw [if_pos (.inr (hne j n hj (Nat.lt_succ_self n) (Nat.ne_of_lt hlt)))]
      exact ih (fun a b ha hb => hne a b (Nat.lt_succ_of_lt ha) (Nat.lt_succ_of_lt hb)) hlt
    · have hold : dstReg r i s j ∉ (List.range j).map (dstReg r i s) := fun hm => by
        obtain ⟨k, hk, hkj⟩ := List.mem_map.1 hm
        have hk := List.mem_range.1 hk
        exact hne k j (Nat.lt_succ_of_lt hk) (Nat.lt_succ_self j) (Nat.ne_of_lt hk) hkj
      exact ⟨m, due, by simp only [ne_eq, not_true_eq_false, or_false, hreg _ hold]⟩

/-- An instruction whose only effect is a word per active lane in each of the `n` registers of field D. -/
theorem laneInsn_writeEach {n : Nat} {body : Env → State → State × After} (hr : ready r i s = true) (hn : n ∣ 112) (hd : n ∣ r.d.toNat)
    (hb : ∀ t, body (ops r i s) t = (writeEach r (ops r i s) g n t, .advance)) :
    ∃ t, laneInsn r s body = .next t ∧ Advances r i (fibIs s i) ((List.range n).map (dstReg r i s)) s t ∧
      ∀ j, j < n → Receives r i s t j (g j) := by
  have hi := (ready_parts hr).1
  have he := issuing_exists hi
  have he' := (prep_step (r := r) he).within.keeps he
  obtain ⟨hin, hfib, hreg⟩ := writeEach_frame (r := r) (s := s) (g := g) he' (prep_wait hi) n
  have hfib := hfib.trans (prep_fibre he)
  obtain ⟨t, hx, ha, ht⟩ := laneInsn_advances hr (hb _) hin hreg (congrArg Fibre.lanes hfib) (congrArg Fibre.icount hfib)
  rw [hfib] at ha
  refine ⟨t, hx, ha, fun j hj => receives_of he ?_ (ht _)⟩
  exact writeEach_reg he' (prep_wait hi) (fun _ _ => dstReg_ne i s hn hd) hj

end

/-- R52, R247: a field D that names a group of registers is aligned to their number. -/
theorem aligned_of_check {m : Bool} {r : Raw} {offs : List Nat} {n : Nat} (h : Forms.check m r = none)
    (hd : (Forms.ofRaw r).d = .v offs n) : n ∣ r.d.toNat := by
  have h := (check_fields h).1
  simp only [hd, Forms.useReasons, List.append_eq_nil_iff, ite_eq_left_iff, reduceCtorEq, imp_false, not_not] at h
  exact Nat.dvd_of_mod_eq_zero h.1

/-- R71, R250: an unpacked element: its bits, the NaN of a scale 0xFF, or its scaled value as FP32. -/
theorem unpackElem_word (x : Xc) (w : Nat) (e : Env) (l j : Nat) :
    BitVec.ofNat 32 (unpackElem x.imm.toNat w e l j) = unpackedWord x w e l j := by
  simp only [unpackElem, unpackedWord]
  split
  · rfl
  · by_cases hs : scaleByte e j l = 0xFF
    · rw [mxValue, if_pos hs]
      exact (if_pos hs).symm
    · rw [mxValue, if_neg hs]
      exact (if_neg hs).symm

/-- R250: UNPACK8 and UNPACK4 write the unpacked words in turn. -/
theorem unpackOp_writeEach (r : Raw) (x : Xc) (hx : r.x = some x) (n w : Nat) (s : State) :
    unpackOp r n w s = laneInsn r s (fun e t => (writeEach r e (fun j l => unpackedWord x w e l j) n t, .advance)) := by
  have hm : Forms.immOf r = x.imm.toNat := by rw [Forms.immOf, hx]
  unfold unpackOp
  simp only [hm, unpackElem_word]
  rfl

/-- R250: UNPACK8 and UNPACK4 write `n` registers. -/
theorem unpackOp_result {r : Raw} {x : Xc} {i : Issue} {s : State} {n : Nat} (w : Nat) (hx : r.x = some x) (hr : ready r i s = true)
    (hn : n ∣ 112) (hd : n ∣ r.d.toNat) :
    ∃ t, unpackOp r n w s = .next t ∧ Advances r i (fibIs s i) ((List.range n).map (dstReg r i s)) s t ∧
      ∀ j, j < n → Receives r i s t j (fun l => unpackedWord x w (ops r i s) l j) := by
  rw [unpackOp_writeEach r x hx]
  exact laneInsn_writeEach hr hn hd (fun _ => rfl)

/-- R248: the number of registers that BSCALE writes: two for the eight values of a 4-bit format, else one. -/
def scaleRegs (x : Xc) : Nat := if x.imm.toNat / 8 % 8 = 2 then 2 else 1

/-- R248: the word of four scale bytes that BSCALE writes to register `k`. -/
def scaleBytes (x : Xc) (e : Env) (k : Nat) : Word :=
  .ofNat 32 (((List.range 4).map (fun j => scaleByteOf x e (4 * k + j) * 2 ^ (8 * j))).sum)

theorem scaleWord_eq (x : Xc) (e : Env) (k : Nat) : scaleWord x.imm.toNat e k = scaleBytes x e k :=
  congrArg (BitVec.ofNat 32) List.sum_eq_foldl.symm

/-- R248: BSCALE writes the words of scale bytes in turn, each to every active lane. -/
theorem execBscale_writeEach (r : RX) (s : State) : execBscale r s =
    laneInsn (r.raw 0x20#7 4#3) s (fun e t =>
      (writeEach (r.raw 0x20#7 4#3) e (fun k _ => scaleBytes r.x e k) (scaleRegs r.x) t, .advance)) := by
  simp only [execBscale, scaleWord_eq, scaleRegs]
  split <;> rfl

/-- R247, R248: BSCALE of a 4-bit format names a pair in field D. -/
theorem bscale_fields {r : RX} (h : r.x.imm.toNat / 8 % 8 = 2) : (Forms.ofRaw (r.raw 0x20#7 4#3)).d = Forms.v2 := by
  change (if r.x.imm.toNat / 8 % 8 = 2 then ({ d := Forms.v2, a := Forms.v8 } : Form) else _).d = _
  rw [if_pos h]

/-- R52, R248: field D of a well-formed BSCALE is aligned to the number of registers that it writes. -/
theorem scaleRegs_aligned {r : RX} (hw : wf (.bscale r) = true) : scaleRegs r.x ∣ r.d.toNat := by
  unfold scaleRegs
  split
  case isTrue h => exact aligned_of_check (check_of_wf hw rfl) (bscale_fields h)
  case isFalse => exact Nat.one_dvd _

theorem scaleRegs_divides (x : Xc) : scaleRegs x ∣ 112 := by
  unfold scaleRegs
  split <;> decide

/-- R248: BSCALE writes one or two registers, each with its scale bytes in every active lane. -/
theorem execBscale_result {r : RX} {i : Issue} {s : State} (hw : wf (.bscale r) = true) (hr : ready (r.raw 0x20#7 4#3) i s = true) :
    ∃ t, execBscale r s = .next t ∧
      Advances (r.raw 0x20#7 4#3) i (fibIs s i) ((List.range (scaleRegs r.x)).map (dstReg (r.raw 0x20#7 4#3) i s)) s t ∧
      ∀ k, k < scaleRegs r.x → Receives (r.raw 0x20#7 4#3) i s t k (fun _ => scaleBytes r.x (ops (r.raw 0x20#7 4#3) i s) k) := by
  rw [execBscale_writeEach]
  exact laneInsn_writeEach hr (scaleRegs_divides r.x) (scaleRegs_aligned hw) (fun _ => rfl)

/-! ### The obligations -/

/-- Settles O7: every instruction of the table is `fpOp` of its row's word. The sign of an exact zero sum in mode .rd is log entry 65. -/
theorem singleResults : Obligations.SingleResults := by
  intro ins r g i s hg hr _ hready
  rw [fp32Row_exec hg hr]
  exact fpOp_result g.rm g.val hready

/-- Settles O8: every instruction of the table is `fpOp` of its row's word. The sign of an exact zero sum in mode .rd, and of a sum of
three addends, is log entry 65. -/
theorem packedResults : Obligations.PackedResults := by
  intro ins r g i s hg hr _ hready
  rw [packedRow_exec hg hr]
  exact fpOp_result g.rm g.val hready

/-- Settles O12: CVT and FRND are `cvtOut` of their row's value, whose pair is even; PACK8 and PACK4 are `fpOp` of their packed word. -/
theorem conversionResults : Obligations.ConversionResults := by
  refine ⟨fun ins r g pair i s hg hr hw hready => ?_, fun ins r g i s hg hr _ hready => ?_⟩
  · obtain ⟨dt, rfl, hx, hd⟩ := convertRow_exec hg hr s
    rw [hx]
    simpa only [decide_eq_true_eq] using cvtOut_result dt g.rm g.val hready (fun h => even_of_check (check_of_wf hw hr) (hd h))
  · rw [packRow_exec hg hr]
    exact fpOp_result g.rm g.val hready

/-- Settles O13: UNPACK8, UNPACK4 and BSCALE write the registers of field D in turn, which differ because the field is aligned. -/
theorem blockFormatResults : Obligations.BlockFormatResults := by
  refine ⟨fun r i s hw hready => ?_, fun r i s hw hready => ?_, fun r i s hw hready => ?_⟩
  · exact unpackOp_result 8 rfl hready (by decide) (aligned_of_check (check_of_wf hw rfl) rfl)
  · exact unpackOp_result 4 rfl hready (by decide) (aligned_of_check (check_of_wf hw rfl) rfl)
  · obtain ⟨t, hx, ha, hv⟩ := execBscale_result hw hready
    exact ⟨t, scaleRegs r.x, hx, rfl, ha, hv⟩

end Sys2Proof.Safety
end

section
/-!
SUPPORT. Completions of operations, stash lines, windows and collective steps (R104, R133, R297, R314): for each event, the effect that
the model gives it is the state of the table.
-/

namespace Sys2Proof.Safety

open Sys2Proof.Machine

/-! ### Stash lines (R104) -/

/-- R104: STASH_FILL_RETURN. -/
theorem fillReturn_event (s : State) (core ln : Nat) : engineEvents (.stashFillReturn core ln) s = some (fillReturn s core ln) := by
  simp only [engineEvents, fillReturn, fillLine]
  cases lineAt s core ln with
  | none => rfl
  | some p => cases h : mget s.mappings p.1 <;> simp only [h]

/-- R104: STASH_OWNERSHIP_GRANT. -/
theorem grantOwnership_event (s : State) (core ln : Nat) :
    engineEvents (.stashOwnershipGrant core ln) s = some (grantOwnership s core ln) := by
  simp only [engineEvents, grantOwnership]
  cases lineAt s core ln <;> rfl

/-- R104: STASH_CAPACITY_EVICTION. -/
theorem evictLine_event (s : State) (core ln : Nat) :
    engineEvents (.stashCapacityEviction core ln) s = some (onLine s core ln evictLine) := by
  simp only [engineEvents, onLine, evictLine, invalidateLine]
  cases lineAt s core ln with
  | none => rfl
  | some p => cases h : (lineD s p.1 p.2).st <;> simp only [h]

/-! ### Operations (R133, R297, R326) -/

/-- R133: the operation that may complete, of one that stands. -/
theorem due_of {s : State} {id : Nat} {o : Op} (h : mget s.ops id = some o) (c : Nat) :
    due s id c = if o.cls ≠ c ∨ !isOldest s id o ∨ o.fault.isSome then none else some o := by
  simp only [due, h, Option.filter_some]
  by_cases hc : o.cls = c <;> cases isOldest s id o <;> cases o.fault <;> simp [hc]

theorem due_of_none {s : State} {id : Nat} (h : mget s.ops id = none) (c : Nat) : due s id c = none := by
  simp only [due, h, Option.filter_none]

/-- R133, R301: RETRIEVER_OP_COMPLETE: a window that is not yet applied holds the operation. -/
theorem retrieverComplete_event (s : State) (id : Nat) :
    engineEvents (.retrieverOpComplete id) s = some (retrieverComplete s id) := by
  simp only [engineEvents, retrieverComplete]
  cases h : mget s.ops id with
  | none => rw [due_of_none h, Option.filter_none]
  | some o =>
    rw [due_of h]
    dsimp only
    by_cases hc : o.cls ≠ 0 ∨ !isOldest s id o ∨ o.fault.isSome
    · rw [if_pos hc, if_pos (by tauto), Option.filter_none]
    · rw [if_neg hc, Option.filter_some]
      cases hw : o.win with
      | some w => rw [if_neg (by simp), if_pos (.inr (.inr (.inr rfl)))]
      | none =>
        rw [if_pos Option.isNone_none, if_neg (by simpa only [Option.isSome_none, Bool.false_eq_true, or_false] using hc)]
        dsimp only
        cases o.kind with
        | gather => cases hp : (refreshOp s id o .read).2.ready <;> rfl
        | _ => rfl

/-- R133: ATOMIC_UPDATE_COMPLETE. -/
theorem atomicComplete_event (s : State) (id : Nat) :
    engineEvents (.atomicUpdateComplete id) s = some (atomicComplete s id) := by
  simp only [engineEvents, atomicComplete]
  cases h : mget s.ops id with
  | none => rw [due_of_none h]
  | some o =>
    rw [due_of h]
    by_cases hc : o.cls ≠ 2 ∨ !isOldest s id o ∨ o.fault.isSome
    · simp only [if_pos hc]
    · simp only [if_neg hc]
      split <;> rfl

/-- R133: STASH_OP_COMPLETE. -/
theorem stashComplete_event (s : State) (id : Nat) : engineEvents (.stashOpComplete id) s = some (stashComplete s id) := by
  simp only [engineEvents, stashComplete]
  cases h : mget s.ops id with
  | none => rfl
  | some o =>
    dsimp only
    split
    · rfl
    · cases stashOpEffect s o <;> rfl

/-- R326: BINNING_COMPLETE. -/
theorem binComplete_event (s : State) (id : Nat) : engineEvents (.binningComplete id) s = some (binComplete s id) := by
  simp only [engineEvents, binComplete]
  cases h : mget s.ops id with
  | none => rw [due_of_none h]
  | some o =>
    rw [due_of h]
    by_cases hc : o.cls ≠ 5 ∨ !isOldest s id o ∨ o.fault.isSome
    · simp only [if_pos hc]
    · simp only [if_neg hc]
      cases (binRun s o).fault with
      | some f => rfl
      | none => cases (binRun s o).poison <;> rfl

/-- R296, R297: COLLECTIVE_STEP_COMPLETE. -/
theorem collStep_event (s : State) (id : Nat) : engineEvents (.collectiveStepComplete id) s = some (collStep s id) := by
  have hd : (mget s.ops id).filter (fun o => decide (o.cls = 4) && isOldest s id o && decide (o.fault = none)) = due s id 4 := rfl
  simp only [engineEvents, collStep, hd]
  cases h : mget s.ops id with
  | none => rw [due_of_none h]
  | some o =>
    rw [due_of h]
    by_cases hc : o.cls ≠ 4 ∨ !isOldest s id o ∨ o.fault.isSome
    · simp only [if_pos hc]
    · simp only [if_neg hc]
      split
      · rfl
      · split
        · rfl
        · cases whistleOf s id with
          | none => rfl
          | some k =>
            dsimp only
            cases (sendWhistle s k).whistles[k]? with
            | none => rfl
            | some w =>
              dsimp only
              split
              · rfl
              · cases w.abort with
                | some c => rfl
                | none => cases w.go <;> rfl

/-! ### Windows (R313, R314) -/

/-- R314: SCATTER_WINDOW_APPLY. -/
theorem windowApply_event (s : State) (k : Nat) : engineEvents (.scatterWindowApply k) s = some (windowApply s k) := by
  simp only [engineEvents, windowApply, windowPart]
  cases h : mget s.windows k with
  | none => rfl
  | some w =>
    dsimp only
    have hs : (w.shut = false ∨ (blkD s w.blk).st = .saved ∨ windowHeld s k w = true) ↔
        (!w.shut ∨ (blkD s w.blk).st = .saved ∨ windowHeld s k w) := by rw [Bool.not_eq_true']
    by_cases hc : !w.shut ∨ (blkD s w.blk).st = .saved ∨ windowHeld s k w
    · rw [if_pos (hs.2 hc), if_pos hc]
    · rw [if_neg (hs.not.2 hc), if_neg hc]
      by_cases h8 : w.fn = 8
      · rw [if_pos h8, if_pos (.inl h8), if_pos h8]
      · rw [if_neg h8]
        by_cases hr : w.ready
        · rw [if_pos hr, if_pos (.inr hr), if_neg h8]
        · rw [if_neg hr, if_neg (by tauto)]
          cases w.ops.findSome? (fun id => (mget s.ops id).map (fun o => (id, o))) with
          | none => rfl
          | some p =>
            dsimp only
            cases refreshElems s p.2 .atomic w.elems with
            | error f => rfl
            | ok els => simp only [if_neg h8]

/-- R313: SCATTER_WINDOW_CLOSE. -/
theorem idleWindow_event (s : State) (b k f : Nat) : engineEvents (.scatterWindowClose b k f) s = some (idleWindow s b k f) := by
  simp only [engineEvents, idleWindow, apply_ite some]
  congr 1
  simp [Option.isSome_iff_ne_none]

/-! ### The obligation -/

/-- The event of a table whose meaning is an effect that leaves the state of the table. -/
theorem does_of_event {table : Events} {ins : Instr} {s t : State} (f : State → State) (hx : exec ins s = event s f)
    (he : table ins s = some (f s)) (h : table ins s = some t) : exec ins s = .next { t with choice := s.choice + 1 } :=
  hx.trans (event_next s t f (Option.some.inj (he.symm.trans h)))

end Sys2Proof.Safety

namespace Sys2Proof.Laws

open Sys2Proof.Machine Sys2Proof.Safety

/-- Settles O42: each event of the table has as its meaning the effect whose state the table gives. The table rests on the model's
choices of log entries 16, 17, 19, 47 and 58. -/
theorem engineEvents : Obligations.EngineEvents := by
  intro ins s t h
  cases ins
  case stashFillReturn core ln => exact does_of_event (fillReturn · core ln) rfl (fillReturn_event s core ln) h
  case stashOwnershipGrant core ln => exact does_of_event (grantOwnership · core ln) rfl (grantOwnership_event s core ln) h
  case stashInvalidate core ln => exact does_of_event (onLine · core ln invalidateLine) rfl rfl h
  case stashRecall core ln => exact does_of_event (onLine · core ln recallLine) rfl rfl h
  case stashCapacityEviction core ln => exact does_of_event (onLine · core ln evictLine) rfl (evictLine_event s core ln) h
  case retrieverOpComplete id => exact does_of_event (retrieverComplete · id) rfl (retrieverComplete_event s id) h
  case atomicUpdateComplete id => exact does_of_event (atomicComplete · id) rfl (atomicComplete_event s id) h
  case stashOpComplete id => exact does_of_event (stashComplete · id) rfl (stashComplete_event s id) h
  case binningComplete id => exact does_of_event (binComplete · id) rfl (binComplete_event s id) h
  case collectiveStepComplete id => exact does_of_event (collStep · id) rfl (collStep_event s id) h
  case scatterWindowClose b k f => exact does_of_event (idleWindow · b k f) rfl (idleWindow_event s b k f) h
  case scatterWindowApply k => exact does_of_event (windowApply · k) rfl (windowApply_event s k) h
  case accessPerformed id => exact does_of_event (performStore · id) rfl rfl h
  all_goals cases h

end Sys2Proof.Laws
end

section
/-!
SUPPORT. What the operations of the memory side leave of the machine's places (R116, R117, R463, R465): one lemma per operation says that
blocks, memory, SRAM and mappings stay, that blocks alone stay, or that every block keeps its slots, fibres and lanes.
-/

namespace Sys2Proof.Safety

open Sys2Proof.Machine

/-- A relation that every state has to itself, and that follows on, holds across a sequence of changes where it holds across each. -/
theorem foldl_related {α σ : Type} {R : σ → σ → Prop} (hr : ∀ s, R s s) (ht : ∀ {s t u}, R s t → R t u → R s u) {g : σ → α → σ}
    (hg : ∀ t x, R t (g t x)) (l : List α) (s : σ) : R s (l.foldl g s) := by
  induction l generalizing s with
  | nil => exact hr s
  | cons x l ih => exact ht (hg s x) (ih _)

/-! ### Operations that leave blocks, memory, SRAM and mappings -/

/-- Blocks, memory, SRAM and mappings are as before. -/
structure Quiet (s t : State) : Prop where
  blocks : t.blocks = s.blocks
  mem : t.mem = s.mem
  sram : t.sram = s.sram
  mappings : t.mappings = s.mappings

section

variable {s t u : State}

theorem Quiet.refl (s : State) : Quiet s s := ⟨rfl, rfl, rfl, rfl⟩

theorem Quiet.trans (h : Quiet s t) (k : Quiet t u) : Quiet s u :=
  ⟨k.blocks.trans h.blocks, k.mem.trans h.mem, k.sram.trans h.sram, k.mappings.trans h.mappings⟩

/-- A change of other fields. -/
theorem Quiet.of_same (e : (t.blocks, t.mem, t.sram, t.mappings) = (s.blocks, s.mem, s.sram, s.mappings)) : Quiet s t := by
  simp only [Prod.mk.injEq] at e
  exact ⟨e.1, e.2.1, e.2.2.1, e.2.2.2⟩

theorem foldl_quiet {α : Type} {g : State → α → State} (hg : ∀ t x, Quiet t (g t x)) (l : List α) (s : State) :
    Quiet s (l.foldl g s) := foldl_related Quiet.refl Quiet.trans hg l s

/-- A sequence of changes that gather a result beside the state. -/
theorem foldl_fst_quiet {α β : Type} {g : State × β → α → State × β} (hg : ∀ p x, Quiet p.1 (g p x).1) (l : List α) (p : State × β) :
    Quiet p.1 (l.foldl g p).1 := foldl_related (R := fun p q => Quiet p.1 q.1) (fun p => Quiet.refl p.1) Quiet.trans hg l p

end

theorem showParts_quiet (s : State) (f : Pend → Shard → Bool) : Quiet s (showParts s f) := by
  unfold showParts
  split <;> exact Quiet.of_same rfl

theorem dropPieces_quiet (s : State) (locs : List Nat) : Quiet s (dropPieces s locs) := showParts_quiet s _

theorem mapParts_quiet (s : State) (g : Pend → Shard → Shard) : Quiet s (mapParts s g) := by
  unfold mapParts
  split <;> exact Quiet.of_same rfl

theorem joinView_quiet (s : State) (a v : Nat) : Quiet s (joinView s a v) := mapParts_quiet s _

theorem seeLocs_quiet (s : State) (v : Nat) (locs : List Nat) : Quiet s (seeLocs s v locs) := mapParts_quiet s _

theorem fenceBy_quiet (s : State) (sc a : Nat) : Quiet s (fenceBy s sc a) := by
  unfold fenceBy
  split
  · exact Quiet.refl s
  · exact (joinView_quiet s _ _).trans (joinView_quiet _ _ _)

theorem acquireAt_quiet (s : State) (locs : List Nat) (agent scope : Nat) (obj : Bool) : Quiet s (acquireAt s locs agent scope obj) :=
  foldl_quiet (fun t _ => joinView_quiet t _ _) _ s

theorem endReleases_quiet (s : State) (locs : List Nat) : Quiet s (endReleases s locs) := by
  unfold endReleases
  split <;> exact Quiet.of_same rfl

theorem landFlights_quiet (s : State) (p : Flight → Bool) : Quiet s (landFlights s p) := by
  rw [landFlights_eq]
  exact Quiet.of_same rfl

theorem landAt_quiet (s : State) (a : Nat) (locs : List Nat) : Quiet s (landAt s a locs) := landFlights_quiet s _

theorem landLanes_quiet (s : State) (i : Issue) (ls : List Nat) : Quiet s (landLanes s i ls) := landFlights_quiet s _

theorem lookUnit_quiet (r : Reader) (s : State) (j : Nat) (locs : List Nat) (bs : List Byte) : Quiet s (lookUnit r s j locs bs).1 := by
  unfold lookUnit
  split <;> exact Quiet.of_same rfl

theorem lookParts_quiet (r : Reader) (s : State) (ns locs : List Nat) (bs : List Byte) : Quiet s (lookParts r s ns locs bs).1 := by
  unfold lookParts
  split
  · exact Quiet.refl s
  · dsimp only
    exact foldl_fst_quiet (g := fun p j => (_, p.2 ++ _)) (fun p j => lookUnit_quiet r p.1 j _ _) _ (s, [])

theorem lookBytes_quiet (r : Reader) (s : State) (a : Nat) (locs : List Nat) (bs : List Byte) : Quiet s (lookBytes r s a locs bs).1 :=
  lookParts_quiet r s _ locs bs

theorem fillMsc_quiet (s : State) (c : Nat) (wr low : Bool) (ln : Nat) : Quiet s (fillMsc s c wr low ln) := by
  unfold fillMsc
  dsimp only
  split <;> exact Quiet.of_same rfl

theorem touchMscBy_quiet (p : Retain) (s : State) (c : Nat) (wr : Bool) (pas : List Nat) : Quiet s (touchMscBy p s c wr pas) := by
  refine foldl_quiet (fun t ln => ?_) _ s
  split
  · exact Quiet.of_same rfl
  · split
    · exact Quiet.refl t
    · exact fillMsc_quiet t _ _ _ ln

theorem touchL2_quiet (p : Retain) (s : State) (die : Nat) (wr : Bool) (ln : Nat) : Quiet s (touchL2 p s die wr ln) := by
  have fill : ∀ t, Quiet s t → Quiet s (if inL2 t die ln then t else fillL2 t die (decide (p = .low)) ln) := fun t ht => by
    split
    · exact ht
    · exact ht.trans (Quiet.of_same rfl)
  exact fill _ (by split <;> exact Quiet.of_same rfl)

theorem addTally_quiet (s : State) (c e n : Nat) : Quiet s (addTally s c e n) := by
  unfold addTally
  split <;> exact Quiet.of_same rfl

theorem seekTlb_quiet (s : State) (c core : Nat) (k : AccKind) (vas : List Nat) : Quiet s (seekTlb s c core k vas) :=
  addTally_quiet s _ _ _

theorem sendLine_quiet (p : Retain) (c core : Nat) (upd wr : Bool) (lo hi : Nat) (s : State) (ln : Nat) :
    Quiet s (sendLine p c core upd wr lo hi s ln) := by
  unfold sendLine
  dsimp only
  refine Quiet.trans ?_ (touchL2_quiet p _ _ _ _)
  split
  · exact Quiet.refl s
  · exact (addTally_quiet s _ _ _).trans (Quiet.of_same rfl)

theorem capFree_quiet (s : State) (i : Issue) : Quiet s (capFree s i) := Quiet.of_same rfl

theorem capHold_quiet (s : State) (i : Issue) : Quiet s (capHold s i) := by
  unfold capHold
  split
  · exact Quiet.refl s
  · exact (addTally_quiet s _ _ _).trans (Quiet.of_same rfl)

theorem sendAll_quiet (q : Retain) (i : Issue) (core : Nat) (k : AccKind) (lo : Nat) (s : State) (pas : List Nat) :
    Quiet s (sendAll q i core k lo s pas) :=
  (foldl_quiet (fun t ln => sendLine_quiet _ _ _ _ _ _ _ t ln) _ s).trans (capFree_quiet _ i)

theorem noteBadLeaf_quiet (s : State) (c va : Nat) (k : AccKind) : Quiet s (noteBadLeaf s c va k) := by
  unfold noteBadLeaf
  split <;> exact Quiet.of_same rfl

/-! ### Operations that leave blocks -/

theorem foldl_blocks {α : Type} {g : State → α → State} (hg : ∀ t x, (g t x).blocks = t.blocks) (l : List α) (s : State) :
    (l.foldl g s).blocks = s.blocks :=
  (foldl_related (R := fun s t => s.blocks = t.blocks) (fun _ => rfl) Eq.trans (fun t x => (hg t x).symm) l s).symm

theorem foldl_fst_blocks {α β : Type} {g : State × β → α → State × β} (hg : ∀ p x, (g p x).1.blocks = p.1.blocks) (l : List α)
    (p : State × β) : (l.foldl g p).1.blocks = p.1.blocks :=
  (foldl_related (R := fun p q => p.1.blocks = q.1.blocks) (fun _ => rfl) Eq.trans (fun p x => (hg p x).symm) l p).symm

@[simp] theorem writeBack_blocks (s : State) (m j : Nat) : (writeBack s m j).blocks = s.blocks := by
  unfold writeBack
  split <;> rfl

@[simp] theorem recallLine_blocks (s : State) (m j : Nat) : (recallLine s m j).blocks = s.blocks := by
  unfold recallLine
  split
  · exact writeBack_blocks s m j
  · rfl

@[simp] theorem invalidateLine_blocks (s : State) (m j : Nat) : (invalidateLine s m j).blocks = s.blocks := by
  unfold invalidateLine
  split
  · rfl
  · rfl
  · exact writeBack_blocks s m j
  · rfl

@[simp] theorem recalls_blocks (s : State) (but : Option (Nat × Nat)) (wr : Bool) (pas : List Nat) :
    (recalls s but wr pas).blocks = s.blocks := by
  refine foldl_blocks (fun t ln => foldl_blocks (fun u p => ?_) _ t) _ s
  cases wr
  · exact recallLine_blocks u _ _
  · exact invalidateLine_blocks u _ _

@[simp] theorem gPut_blocks (p : Retain) (s : State) (c : Nat) (pas : List Nat) (bs : List Byte) :
    (gPut p s c pas bs).blocks = s.blocks :=
  (touchMscBy_quiet p _ c true pas).blocks.trans (recalls_blocks s none true pas)

@[simp] theorem gLook_blocks (p : Retain) (s : State) (c : Nat) (r : Reader) (pas : List Nat) :
    (gLook p s c r pas).1.blocks = s.blocks :=
  (lookBytes_quiet r _ _ pas _).blocks.trans ((touchMscBy_quiet p _ c false pas).blocks.trans (recalls_blocks s none false pas))

@[simp] theorem gReadBy_blocks (q : Retain) (s : State) (c a : Nat) (pas : List Nat) : (gReadBy q s c a pas).1.blocks = s.blocks :=
  (gLook_blocks q _ c _ pas).trans (landAt_quiet s a pas).blocks

@[simp] theorem gReadLanesBy_blocks (q : Retain) (s : State) (i : Issue) (ls : List GLane) :
    (gReadLanesBy q s i ls).1.blocks = s.blocks := by
  unfold gReadLanesBy
  refine foldl_fst_blocks (fun p l => ?_) ls (s, [])
  exact gReadBy_blocks q p.1 _ _ l.2

theorem addPieces_quiet (s : State) (id agent : Nat) (xs : List Shard) : Quiet s (addPieces s id agent xs) := Quiet.of_same rfl

@[simp] theorem gStore_blocks (q : Retain) (s : State) (i : Issue) (id lane va : Nat) (pas : List Nat) (bs : List Byte) :
    (gStore q s i id lane va pas bs).blocks = s.blocks := by
  unfold gStore
  dsimp only
  rw [(addPieces_quiet _ _ _ _).blocks, (endReleases_quiet _ _).blocks, gPut_blocks, (landAt_quiet _ _ _).blocks]

theorem updLine_blocks (s : State) (m j : Nat) (g : SLine → SLine) : (updLine s m j g).blocks = s.blocks := rfl

theorem noteWrite_blocks (s t : State) (pas : List Nat) : (noteWrite s t pas).blocks = t.blocks := rfl

@[simp] theorem lPut_blocks (s : State) (core off : Nat) (bs : List Byte) : (lPut s core off bs).blocks = s.blocks := by
  have lines : ∀ (h : Nat × Nat → SLine → SLine) (ps : List (Nat × Nat)) (t : State), t.blocks = s.blocks →
      (ps.foldl (fun t p => updLine t p.1 p.2 (h p)) t).blocks = s.blocks := fun h ps t ht =>
    (foldl_blocks (g := fun t p => updLine t p.1 p.2 (h p)) (fun t p => updLine_blocks t _ _ _) ps t).trans ht
  unfold lPut
  dsimp only
  split
  · exact lines _ _ _ rfl
  · exact (noteWrite_blocks _ _ _).trans (lines _ _ _ rfl)

@[simp] theorem lStore_blocks (s : State) (i : Issue) (id lane la core off : Nat) (bs : List Byte) :
    (lStore s i id lane la core off bs).blocks = s.blocks := by
  unfold lStore lStoreBy
  dsimp only
  rw [(addPieces_quiet _ _ _ _).blocks, (endReleases_quiet _ _).blocks, lPut_blocks, (landAt_quiet _ _ _).blocks]

theorem lReadBy_quiet (s : State) (a la core off w : Nat) : Quiet s (lReadBy s a la core off w).1 :=
  (landAt_quiet s a _).trans (lookBytes_quiet _ _ _ _ _)

theorem lReadLanes_quiet (s : State) (i : Issue) (w : Nat) (la : Nat → Nat) (ls : List (Nat × Nat × Nat)) :
    Quiet s (lReadLanes s i w la ls).1 := by
  unfold lReadLanes
  refine foldl_fst_quiet (fun p l => ?_) ls (s, [])
  exact lReadBy_quiet p.1 _ _ _ _ w

@[simp] theorem newest_blocks (h : Home) (s : State) (c w : Nat) : (h.newest s c w).1.blocks = s.blocks := by
  cases h with
  | glob pas => exact (touchMscBy_quiet .usual _ c false pas).blocks.trans (recalls_blocks s none false pas)
  | loc core off => rfl

@[simp] theorem put_blocks (h : Home) (s : State) (c : Nat) (bs : List Byte) : (h.put s c bs).blocks = s.blocks := by
  cases h with
  | glob pas => exact gPut_blocks .usual s c pas bs
  | loc core off => exact lPut_blocks s core off bs

@[simp] theorem acquireHere_blocks (s : State) (u : Updater) (locs : List Nat) : (acquireHere s u locs).blocks = s.blocks := by
  unfold acquireHere
  split
  · rfl
  · exact (acquireAt_quiet s _ _ _ _).blocks

@[simp] theorem releaseHere_blocks (s : State) (u : Updater) (locs : List Nat) : (releaseHere s u locs).blocks = s.blocks := by
  unfold releaseHere
  split
  · rfl
  · exact (joinView_quiet s _ _).blocks

@[simp] theorem updateAt_blocks (s : State) (u : Updater) (h : Home) (w : Nat) (g : Nat → Option Nat) :
    (updateAt s u h w g).1.blocks = s.blocks := by
  have hn : (h.newest (landAt s u.agent (h.locs s w)) u.ctx w).1.blocks = s.blocks :=
    (newest_blocks h _ u.ctx w).trans (landAt_quiet s _ _).blocks
  unfold updateAt
  dsimp only
  generalize h.locs s w = locs at hn ⊢
  generalize h.newest (landAt s u.agent locs) u.ctx w = n at hn ⊢
  generalize (if (rival n.1 u.kind u.scope u.agent locs).isSome = true then
    Config.freePick n.1.choice (2 ^ 35 + u.id) (32 * locs.headD 0 + u.lane) % 3 else 0) = k
  have hs : (seeLocs n.1 u.agent locs).blocks = s.blocks := (seeLocs_quiet _ _ _).blocks.trans hn
  have ha : (acquireHere (if k = 0 then seeLocs n.1 u.agent locs else n.1) u locs).blocks = s.blocks := by
    rw [acquireHere_blocks]
    split
    · exact hs
    · exact hn
  split
  · exact hs
  · split
    · exact ha
    · split
      · exact ha
      · rw [releaseHere_blocks, (addPieces_quiet _ _ _ _).blocks, put_blocks]
        exact ha

/-! ### Operations that keep slots, fibres and lanes -/

/-- Every block stands with as many slots, every slot with as many fibres, every fibre with as many lanes. -/
structure Shape (s t : State) : Prop where
  present : ∀ b, (mget t.blocks b).isSome = (mget s.blocks b).isSome
  slots : ∀ b, (blkD t b).slots.length = (blkD s b).slots.length
  fibs : ∀ b k, (slotD t b k).fibs.length = (slotD s b k).fibs.length
  lanes : ∀ b k f, (fibD t b k f).lanes.length = (fibD s b k f).lanes.length

section

variable {s t u : State}

theorem Shape.refl (s : State) : Shape s s := ⟨fun _ => rfl, fun _ => rfl, fun _ _ => rfl, fun _ _ _ => rfl⟩

theorem Shape.trans (h : Shape s t) (k : Shape t u) : Shape s u :=
  ⟨fun b => (k.present b).trans (h.present b), fun b => (k.slots b).trans (h.slots b), fun b j => (k.fibs b j).trans (h.fibs b j),
    fun b j f => (k.lanes b j f).trans (h.lanes b j f)⟩

theorem Shape.of_blocks (h : t.blocks = s.blocks) : Shape s t := by
  constructor <;> intros <;> simp only [fibD, slotD, blkD, h]

theorem Shape.exists' {i : Issue} (h : Shape s t) (he : exists' i s) : exists' i t :=
  ⟨by rw [h.present]; exact he.1, by rw [h.slots]; exact he.2.1, by rw [h.fibs]; exact he.2.2⟩

/-- A change of a slot that keeps its fibres. -/
theorem updSlot_shape (s : State) (b k : Nat) (g : Slot → Slot) (hg : ∀ x, (g x).fibs = x.fibs) : Shape s (updSlot s b k g) := by
  refine ⟨fun c => mget_updSlot s b k c g, fun c => slots_length_updSlot s b k c g, fun c j => ?_, fun c j f => ?_⟩
  · rw [slotD_updSlot]
    split
    · next hc => rw [hg, hc.1, hc.2.1]
    · rfl
  · rw [fibD_updSlot s b k c j f g (hg _)]

/-- A change of a fibre that keeps its number of lanes. -/
theorem updFib_shape (s : State) (b k f : Nat) (g : Fibre → Fibre) (hg : ∀ x, (g x).lanes.length = x.lanes.length) :
    Shape s (updFib s b k f g) := by
  refine ⟨fun c => mget_updSlot s b k c _, fun c => slots_length_updSlot s b k c _, fun c j => ?_, fun c j e => ?_⟩
  · rw [updFib, slotD_updSlot]
    split
    · next hc => rw [List.length_modify, hc.1, hc.2.1]
    · rfl
  · rw [fibD_updFib]
    split
    · next hc => rw [hg, hc.1, hc.2.1, hc.2.2.1]
    · rfl

theorem foldl_shape {α : Type} {g : State → α → State} (hg : ∀ t x, Shape t (g t x)) (l : List α) (s : State) :
    Shape s (l.foldl g s) := foldl_related Shape.refl Shape.trans hg l s

end

theorem takeVictim_shape (s : State) (b k : Nat) : Shape s (takeVictim s b k) := by
  unfold takeVictim
  dsimp only
  split
  · exact Shape.refl s
  · split <;> exact updSlot_shape s _ _ _ (fun _ => rfl)

theorem allocChunk_shape (s : State) (b k c : Nat) : Shape s (allocChunk s b k c) := by
  unfold allocChunk
  dsimp only
  split
  · exact Shape.refl s
  · refine Shape.trans ?_ (updSlot_shape _ b k _ (fun _ => rfl))
    split
    · exact takeVictim_shape s b k
    · exact Shape.refl s

theorem writeArch_shape (s : State) (b k f a : Nat) (lat : Option Nat) (ls : List Nat) (g : Nat → Word) :
    Shape s (writeArch s b k f a lat ls g) := by
  unfold writeArch
  split
  · exact Shape.refl s
  · exact (allocChunk_shape s b k _).trans (updSlot_shape _ b k _ (fun _ => rfl))

theorem returnArch_shape (s : State) (b k a id : Nat) (g : Nat → Word) : Shape s (returnArch s b k a id g) := by
  unfold returnArch
  dsimp only
  split
  · exact Shape.refl s
  · exact updSlot_shape s b k _ (fun _ => rfl)

theorem wrDs_shape (r : Raw) (e : Env) (k : Nat) (ls : List Nat) (g : Nat → Word) (s : State) : Shape s (wrDs r e k ls g s) := by
  unfold wrDs
  split
  · exact returnArch_shape s _ _ _ _ g
  · exact writeArch_shape s _ _ _ _ _ ls g

theorem poisonArch_shape (s : State) (b k a : Nat) (ls : List Nat) : Shape s (poisonArch s b k a ls) := by
  unfold poisonArch
  split
  · exact Shape.refl s
  · exact updSlot_shape s b k _ (fun _ => rfl)

theorem writeLoad_shape (r : Raw) (e : Env) (f w : Nat) (gs : List Got) (s : State) : Shape s (writeLoad r e f w gs s) :=
  foldl_shape (fun t j => (wrDs_shape r e j _ _ t).trans (poisonArch_shape _ _ _ _ _)) _ s

theorem fly_shape (s : State) (fs : List Flight) : Shape s (fly s fs) := by
  unfold fly
  split
  · exact Shape.refl s
  · refine Shape.trans (foldl_shape (fun t j => ?_) _ s) (Shape.of_blocks (landFlights_quiet _ _).blocks)
    exact updSlot_shape t _ _ _ (fun _ => rfl)

theorem parkLanes_shape (s : State) (i : Issue) (ls : List Nat) (g : Nat → Park) : Shape s (parkLanes s i ls g) :=
  updFib_shape s _ _ _ _ (fun x => updLanes_length x ls _)

theorem parkBad_shape (s : State) (i : Issue) (bad : List (Nat × FaultInfo)) : Shape s (parkBad s i bad) :=
  foldl_shape (fun t _ => parkLanes_shape t i _ _) bad s

theorem parkLocal_shape (s : State) (i : Issue) (ps : List (Nat × Park)) : Shape s (parkLocal s i ps) :=
  foldl_shape (fun t _ => parkLanes_shape t i _ _) ps s

theorem startOp_shape (s : State) (i : Issue) (cls : Nat) (kind : OpKind) (g : Op → Op) : Shape s (startOp s i cls kind g) := by
  unfold startOp
  refine Shape.trans (Shape.of_blocks ?_) (updFib_shape _ _ _ _ _ (fun _ => rfl))
  exact (landLanes_quiet s i i.lanes).blocks

theorem updateLanes_shape (r : Raw) (e : Env) (w scope ord : Nat) (s : State) (ls : List (Nat × Home)) (ea b c : Nat → Nat) :
    Shape s (updateLanes r e w scope ord s ls ea b c) := by
  unfold updateLanes
  refine Shape.trans (Shape.trans (Shape.of_blocks ?_) (writeLoad_shape _ _ _ _ _ _)) (fly_shape _ _)
  refine (foldl_fst_blocks (fun p l => ?_) ls (_, [])).trans ?_
  · exact updateAt_blocks p.1 _ _ _ _
  dsimp only [addStore]
  split
  · exact (landLanes_quiet s e.i e.act).blocks
  · rfl

end Sys2Proof.Safety
end

section
/-!
SUPPORT. An issue examines its access on the state it would complete from, with its marked registers dead (`prep`), and on the state with
them alive (`touch`). The two differ in the blocks alone, and what an access meets does not tell them apart.
-/

namespace Sys2Proof.Safety

open Sys2Proof.Machine

/-- The state with other blocks. -/
def under (s : State) (B : Map Block) : State := { s with blocks := B }

/-- Blocks differ in nothing that an access meets: in no part but their slots, and in no fibre; and a result in flight stands in both. -/
structure Alike (s : State) (B : Map Block) : Prop where
  any : ∀ p : Nat × Block → Bool, (∀ n x ys, p (n, { x with slots := ys }) = p (n, x)) → B.any p = s.blocks.any p
  blk : ∀ b, blkD (under s B) b = { blkD s b with slots := (blkD (under s B) b).slots }
  fibs : ∀ b k f, fibD (under s B) b k f = fibD s b k f
  stands : ∀ x ∈ s.flights, x.stands (under s B) = x.stands s

/-- Blocks, accesses in flight and the kennel's records are as before. -/
structure Steady (s t : State) : Prop where
  blocks : t.blocks = s.blocks
  flights : t.flights = s.flights
  ken : t.ken = s.ken

theorem any_congr_mem {α : Type} {l : List α} {p q : α → Bool} (h : ∀ x ∈ l, p x = q x) : l.any p = l.any q := by
  rw [Bool.eq_iff_iff, List.any_eq_true, List.any_eq_true]
  exact exists_congr (fun x => and_congr_right (fun hx => by rw [h x hx]))

section

variable {s t u : State} {B : Map Block}

theorem Steady.refl (s : State) : Steady s s := ⟨rfl, rfl, rfl⟩

theorem Steady.trans (h : Steady s t) (k : Steady t u) : Steady s u :=
  ⟨k.blocks.trans h.blocks, k.flights.trans h.flights, k.ken.trans h.ken⟩

theorem foldl_steady {α : Type} {g : State → α → State} (hg : ∀ t x, Steady t (g t x)) (l : List α) (s : State) :
    Steady s (l.foldl g s) := foldl_related Steady.refl Steady.trans hg l s

/-- A sequence of changes that gather a result beside the state. -/
theorem foldl_fst_steady {α β : Type} {g : State × β → α → State × β} (hg : ∀ p x, Steady p.1 (g p x).1) (l : List α)
    (p : State × β) : Steady p.1 (l.foldl g p).1 :=
  foldl_related (R := fun p q => Steady p.1 q.1) (fun p => Steady.refl p.1) Steady.trans hg l p

theorem Alike.steady (h : Alike s B) (k : Steady s t) : Alike t B := by
  have hb : ∀ b, blkD t b = blkD s b := fun b => by simp only [blkD, k.blocks]
  have hs : ∀ b j, slotD t b j = slotD s b j := fun b j => by simp only [slotD, hb]
  have hf : ∀ b j f, fibD t b j f = fibD s b j f := fun b j f => by simp only [fibD, hs]
  have hx : ∀ x : Flight, x.stands t = x.stands s := fun x => by simp only [Flight.stands, hs]
  exact ⟨fun p hp => by rw [k.blocks]; exact h.any p hp, fun b => by rw [hb]; exact h.blk b, fun b j f => by rw [hf]; exact h.fibs b j f,
    fun x hm => by rw [hx]; exact h.stands x (k.flights ▸ hm)⟩

theorem Alike.ctxIs (h : Alike s B) (i : Issue) : ctxIs (under s B) i = ctxIs s i := by
  unfold Machine.ctxIs
  rw [h.blk]

theorem Alike.coreIs (h : Alike s B) (i : Issue) : coreIs (under s B) i = coreIs s i := by
  unfold Machine.coreIs
  rw [h.blk]
  rfl

theorem Alike.fibIs (h : Alike s B) (i : Issue) : fibIs (under s B) i = fibIs s i := h.fibs _ _ _

/-- R93: what a local access may reach depends on no part of a block but what it is and holds. -/
theorem localOk_congr (hk : t.ken = s.ken)
    (ha : ∀ p : Nat × Block → Bool, (∀ n x ys, p (n, { x with slots := ys }) = p (n, x)) → t.blocks.any p = s.blocks.any p)
    (c core a n : Nat) (store : Bool) : localOk t c core a n store = localOk s c core a n store := by
  have hc : ∀ k, ctxOnCore t c k = ctxOnCore s c k := fun k => ha _ (fun _ _ _ => rfl)
  have hb : ∀ k j, bankReach t c k j = bankReach s c k j := fun k j => ha _ (fun _ _ _ => rfl)
  have hd : ∀ k o, inDraining t k o n = inDraining s k o n := fun k o => ha _ (fun _ _ _ => rfl)
  have he : ∀ k, coreEnabled t k = coreEnabled s k := fun k => by
    unfold coreEnabled
    rw [hk]
  simp only [localOk, he, hc, hb, hd]

theorem Alike.localOk (h : Alike s B) (c core a n : Nat) (store : Bool) :
    localOk (under s B) c core a n store = localOk s c core a n store := localOk_congr (s := s) (t := under s B) rfl h.any c core a n store

/-- R465: the misses that are outstanding. -/
theorem Alike.missStands (h : Alike s B) (x : Miss) : x.stands (under s B) = x.stands s := by
  unfold Miss.stands
  cases x.of with
  | access lo hi ln =>
    have hf : (under s B).flights = s.flights := rfl
    dsimp only
    congr 2
    rw [hf]
    exact any_congr_mem (fun y hy => by rw [h.stands y hy])
  | stash core ln => rfl

theorem Alike.missStall (h : Alike s B) (c core : Nat) (upd : Bool) (lns : List Nat) :
    missStall (under s B) c core upd lns = missStall s c core upd lns := by
  have hq : quadMisses (under s B) (core / 4) (ctxD (under s B) c).part = quadMisses s (core / 4) (ctxD s c).part := by
    simp only [quadMisses, h.missStands]
    rfl
  simp only [Machine.missStall, hq]
  rfl

theorem Alike.capStalls (h : Alike s B) (i : Issue) (core : Nat) (k : AccKind) (pas : List Nat) :
    capStalls (under s B) i core k pas = capStalls s i core k pas := by
  simp only [Machine.capStalls, h.missStall, h.ctxIs]

theorem foldl_under {α : Type} {g : State → α → State} (hg : ∀ t x, g (under t B) x = under (g t x) B) (l : List α) (s : State) :
    l.foldl g (under s B) = under (l.foldl g s) B := by
  induction l generalizing s with
  | nil => rfl
  | cons x l ih => rw [List.foldl_cons, List.foldl_cons, hg, ih]

theorem addTally_under (s : State) (B : Map Block) (c e n : Nat) : addTally (under s B) c e n = under (addTally s c e n) B := by
  cases n <;> rfl

theorem addTally_steady (s : State) (c e n : Nat) : Steady s (addTally s c e n) := by
  cases n <;> exact ⟨rfl, rfl, rfl⟩

theorem seekTlb_under (s : State) (B : Map Block) (c core : Nat) (k : AccKind) (vas : List Nat) :
    seekTlb (under s B) c core k vas = under (seekTlb s c core k vas) B := addTally_under s B _ _ _

theorem seekTlb_steady (s : State) (c core : Nat) (k : AccKind) (vas : List Nat) : Steady s (seekTlb s c core k vas) :=
  addTally_steady s _ _ _

theorem touchL2_under (p : Retain) (s : State) (B : Map Block) (die : Nat) (wr : Bool) (ln : Nat) :
    touchL2 p (under s B) die wr ln = under (touchL2 p s die wr ln) B := by
  have fill : ∀ t : State, (if inL2 (under t B) die ln then under t B else fillL2 (under t B) die (decide (p = .low)) ln) =
      under (if inL2 t die ln then t else fillL2 t die (decide (p = .low)) ln) B := fun t => by
    have hi : inL2 (under t B) die ln = inL2 t die ln := rfl
    rw [hi]
    cases inL2 t die ln <;> rfl
  cases wr
  · exact fill s
  · exact fill { s with l2 := s.l2.filter (fun x => x.line != ln || x.die == die) }

theorem touchL2_steady (p : Retain) (s : State) (die : Nat) (wr : Bool) (ln : Nat) : Steady s (touchL2 p s die wr ln) := by
  have fill : ∀ t, Steady s t → Steady s (if inL2 t die ln then t else fillL2 t die (decide (p = .low)) ln) := fun t ht => by
    split
    · exact ht
    · exact ht.trans ⟨rfl, rfl, rfl⟩
  cases wr
  · exact fill s (Steady.refl s)
  · exact fill _ ⟨rfl, rfl, rfl⟩

theorem addMiss_under (h : Alike s B) (c : Nat) (x : Miss) : addMiss (under s B) c x = under (addMiss s c x) B := by
  simp only [addMiss, h.missStands]
  rfl

theorem sendFill_under (h : Alike s B) (m : Mapping) (ln : Nat) (wr : Bool) (lns : List Nat) :
    sendFill (under s B) m ln wr lns = under (sendFill s m ln wr lns) B := by
  have hm : ∀ n x, addMiss (addTally (under s B) m.ctx 0x0040 n) m.ctx x = under (addMiss (addTally s m.ctx 0x0040 n) m.ctx x) B :=
    fun n x => by rw [addTally_under, addMiss_under (h.steady (addTally_steady s _ _ _))]
  have hl : (lns.filter (fun x => !inL2 (under s B) (m.core / 64) x)) = lns.filter (fun x => !inL2 s (m.core / 64) x) := rfl
  have hc : ctxD (under s B) m.ctx = ctxD s m.ctx := rfl
  unfold sendFill
  dsimp only
  rw [hl, hm, hc]
  split
  · exact foldl_under (fun t x => touchL2_under _ t B _ wr x) lns s
  · exact foldl_under (fun t x => touchL2_under _ t B _ wr x) lns _

theorem sendFill_steady (s : State) (m : Mapping) (ln : Nat) (wr : Bool) (lns : List Nat) : Steady s (sendFill s m ln wr lns) := by
  unfold sendFill
  dsimp only
  refine Steady.trans ?_ (foldl_steady (fun t x => touchL2_steady _ t _ wr x) lns _)
  split
  · exact Steady.refl s
  · exact (addTally_steady s _ _ _).trans ⟨rfl, rfl, rfl⟩

/-! ### Stash lines (R104) -/

theorem askLine_under (h : Alike s B) (m : Mapping) (p : Nat × Nat) (k : AccKind) (park : Meet) (g : List Nat → SLine → SLine) :
    askLine (under s B) m p k park g = (under (askLine s m p k park g).1 B, (askLine s m p k park g).2) := by
  have hl : linePas (under s B) m p.2 k = linePas s m p.2 k := rfl
  unfold askLine
  rw [hl]
  cases linePas s m p.2 k with
  | ok pas =>
    dsimp only
    rw [h.missStall, seekTlb_under, sendFill_under (h.steady (seekTlb_steady s _ _ _ _))]
    split <;> rfl
  | error e =>
    obtain ⟨va, x⟩ := e
    cases x <;> rfl

theorem askLine_steady (s : State) (m : Mapping) (p : Nat × Nat) (k : AccKind) (park : Meet) (g : List Nat → SLine → SLine) :
    Steady s (askLine s m p k park g).1 := by
  unfold askLine
  split
  · dsimp only
    split
    · exact Steady.refl s
    · exact ((seekTlb_steady s _ _ _ _).trans (sendFill_steady _ _ _ _ _)).trans ⟨rfl, rfl, rfl⟩
  · exact Steady.refl s
  · exact Steady.refl s

theorem meetLine_under (h : Alike s B) (right : Option Nat) (store : Bool) (p : Nat × Nat) :
    meetLine (under s B) right store p = (under (meetLine s right store p).1 B, (meetLine s right store p).2) := by
  have hm : (under s B).mappings = s.mappings := rfl
  simp only [meetLine, hm, askLine_under h]
  split
  · rfl
  · split
    · rfl
    · split
      · rfl
      · split
        case h_5 => split <;> rfl
        all_goals rfl

theorem meetLine_steady (s : State) (right : Option Nat) (store : Bool) (p : Nat × Nat) : Steady s (meetLine s right store p).1 := by
  unfold meetLine
  split
  · exact Steady.refl s
  · dsimp only
    split
    · exact Steady.refl s
    · split
      · exact Steady.refl s
      · split
        case h_5 =>
          split
          · exact Steady.refl s
          · exact askLine_steady s _ _ _ _ _
        case h_7 => exact askLine_steady s _ _ _ _ _
        case h_8 => exact askLine_steady s _ _ _ _ _
        all_goals exact Steady.refl s

theorem meetLines_steady (right : Option Nat) (store : Bool) (ps : List (Nat × Nat)) (s : State) :
    Steady s (meetLines s right store ps).1 := by
  induction ps generalizing s with
  | nil => exact Steady.refl s
  | cons p ps ih =>
    have hp := meetLine_steady s right store p
    unfold meetLines
    split
    · next t heq =>
      rw [heq] at hp
      exact hp.trans (ih t)
    · exact hp

theorem meetLines_under (right : Option Nat) (store : Bool) (ps : List (Nat × Nat)) (h : Alike s B) :
    meetLines (under s B) right store ps = (under (meetLines s right store ps).1 B, (meetLines s right store ps).2) := by
  induction ps generalizing s with
  | nil => rfl
  | cons p ps ih =>
    have hp := meetLine_steady s right store p
    simp only [meetLines, meetLine_under h]
    generalize meetLine s right store p = x at hp ⊢
    obtain ⟨t, q⟩ := x
    cases q
    case ok => exact ih (h.steady hp)
    all_goals rfl

/-! ### What an issue meets -/

/-- A sequence of changes that gather a result beside the state. -/
theorem foldl_fst_under {α β : Type} {f g : State × β → α → State × β} (hs : ∀ p x, Steady p.1 (g p x).1)
    (hf : ∀ p x, Alike p.1 B → f (under p.1 B, p.2) x = (under (g p x).1 B, (g p x).2)) (l : List α) (p : State × β) (h : Alike p.1 B) :
    l.foldl f (under p.1 B, p.2) = (under (l.foldl g p).1 B, (l.foldl g p).2) := by
  induction l generalizing p with
  | nil => rfl
  | cons x l ih =>
    rw [List.foldl_cons, List.foldl_cons, hf p x h]
    exact ih _ (h.steady (hs p x))

theorem faultInfo_under (h : Alike s B) (i : Issue) (k : AccKind) (what va cause stage level : Nat) :
    faultInfo (under s B) i k what va cause stage level = faultInfo s i k what va cause stage level := by
  simp only [faultInfo, h.ctxIs]
  rfl

/-- R104: a lane meets its stash lines (`lMeet`). -/
def lMeetLane (s : State) (i : Issue) (store : Bool) (w : Nat) (la : Nat → Nat) (p : State × LMet) (l : Nat) : State × LMet :=
  match localOk p.1 (ctxIs s i) (coreIs s i) (la l) w store with
  | none => p
  | some (core, off) =>
    match meetLines p.1 (laneD (fibIs s i) l).right store (stashLines p.1 core off w) with
    | (t, .ok) => (t, { p.2 with ok := p.2.ok ++ [(l, core, off)] })
    | (t, .line c n own) => (t, { p.2 with park := p.2.park ++ [(l, .line c n own)] })
    | (t, .behind c n) => (t, { p.2 with park := p.2.park ++ [(l, .unmap c n)] })
    | (t, .fault va c st lv) =>
      (t, { p.2 with park := p.2.park ++ [(l, .fault (faultInfo t i (if store then .atomic else .read) 4 va c st lv))] })
    | (t, .capped) => (t, { p.2 with stall := true, cap := true })
    | (t, .locked) => (t, { p.2 with stall := true })

theorem lMeet_eq (s : State) (i : Issue) (store : Bool) (w : Nat) (la : Nat → Nat) (ls : List Nat) :
    lMeet s i store w la ls = ls.foldl (lMeetLane s i store w la) (s, {}) := rfl

theorem lMeetLane_steady (s : State) (i : Issue) (store : Bool) (w : Nat) (la : Nat → Nat) (p : State × LMet) (l : Nat) :
    Steady p.1 (lMeetLane s i store w la p l).1 := by
  unfold lMeetLane
  split
  · exact Steady.refl _
  · next core off _ =>
    have hm := meetLines_steady (laneD (fibIs s i) l).right store (stashLines p.1 core off w) p.1
    split
    all_goals
      next heq =>
        rw [heq] at hm
        exact hm

theorem lMeetLane_under (h : Alike s B) (i : Issue) (store : Bool) (w : Nat) (la : Nat → Nat) (p : State × LMet) (l : Nat)
    (hp : Alike p.1 B) : lMeetLane (under s B) i store w la (under p.1 B, p.2) l =
      (under (lMeetLane s i store w la p l).1 B, (lMeetLane s i store w la p l).2) := by
  have hl : ∀ core off, stashLines (under p.1 B) core off w = stashLines p.1 core off w := fun _ _ => rfl
  simp only [lMeetLane, h.ctxIs, h.coreIs, h.fibIs, hp.localOk, hl, meetLines_under _ _ _ hp]
  split
  · rfl
  · next core off _ =>
    have hm := meetLines_steady (laneD (fibIs s i) l).right store (stashLines p.1 core off w) p.1
    generalize meetLines p.1 (laneD (fibIs s i) l).right store (stashLines p.1 core off w) = q at hm ⊢
    obtain ⟨t, x⟩ := q
    cases x
    case fault => simp only [faultInfo_under (hp.steady hm)]
    all_goals rfl

theorem lMeet_under (h : Alike s B) (i : Issue) (store : Bool) (w : Nat) (la : Nat → Nat) (ls : List Nat) :
    lMeet (under s B) i store w la ls = (under (lMeet s i store w la ls).1 B, (lMeet s i store w la ls).2) := by
  rw [lMeet_eq, lMeet_eq]
  exact foldl_fst_under (lMeetLane_steady s i store w la) (lMeetLane_under h i store w la) ls (s, ({} : LMet)) h

theorem lMeet_steady (s : State) (i : Issue) (store : Bool) (w : Nat) (la : Nat → Nat) (ls : List Nat) :
    Steady s (lMeet s i store w la ls).1 := by
  rw [lMeet_eq]
  exact foldl_fst_steady (lMeetLane_steady s i store w la) ls (s, ({} : LMet))

theorem capHold_under (h : Alike s B) (i : Issue) : capHold (under s B) i = under (capHold s i) B := by
  have hc : (under s B).capped = s.capped := rfl
  unfold capHold
  rw [hc, h.ctxIs, addTally_under]
  split <;> rfl

/-- R253: a lane's access is translated (`gMeet`). -/
def gMeetLane (s : State) (i : Issue) (k : AccKind) (w : Nat) (ea : Nat → Nat) (m : Met) (l : Nat) : Met :=
  match xlateAll (fun a => xlate s (ctxIs s i) (coreIs s i) a k) (spanOf (ea l) w) with
  | .ok pas => { m with ok := m.ok ++ [(l, pas)] }
  | .error (va, .fault c st lv) => { m with bad := m.bad ++ [(l, faultInfo s i k (accCode k) va c st lv)] }
  | .error _ => { m with stall := true }

/-- The lanes' accesses translated, before the miss cap is asked. -/
def gMeetLanes (s : State) (i : Issue) (k : AccKind) (w : Nat) (ea : Nat → Nat) (ls : List Nat) : Met :=
  ls.foldl (gMeetLane s i k w ea) { s := s, stall := false, ok := [], bad := [] }

theorem gMeet_eq (s : State) (i : Issue) (k : AccKind) (w : Nat) (ea : Nat → Nat) (ls : List Nat) :
    gMeet s i k w ea ls = if (gMeetLanes s i k w ea ls).stall then gMeetLanes s i k w ea ls
      else if capStalls s i (coreIs s i) k ((gMeetLanes s i k w ea ls).ok.flatMap (·.2)) then
        { gMeetLanes s i k w ea ls with s := capHold s i, stall := true }
      else { gMeetLanes s i k w ea ls with
        s := seekTlb s (ctxIs s i) (coreIs s i) k (ls.flatMap (fun l => spanOf (ea l) w)) } := rfl

theorem gMeetLane_under (h : Alike s B) (i : Issue) (k : AccKind) (w : Nat) (ea : Nat → Nat) (m : Met) (l : Nat) (v : State) :
    gMeetLane (under s B) i k w ea { m with s := v } l = { gMeetLane s i k w ea m l with s := v } := by
  have hx : ∀ c core a, xlate (under s B) c core a k = xlate s c core a k := fun _ _ _ => rfl
  simp only [gMeetLane, h.ctxIs, h.coreIs, hx, faultInfo_under h]
  split <;> rfl

theorem gMeetLanes_under (h : Alike s B) (i : Issue) (k : AccKind) (w : Nat) (ea : Nat → Nat) (ls : List Nat) :
    gMeetLanes (under s B) i k w ea ls = { gMeetLanes s i k w ea ls with s := under s B } := by
  suffices hm : ∀ m : Met, ls.foldl (gMeetLane (under s B) i k w ea) { m with s := under s B } =
      { ls.foldl (gMeetLane s i k w ea) m with s := under s B } from hm { s := s, stall := false, ok := [], bad := [] }
  induction ls with
  | nil => exact fun m => rfl
  | cons l ls ih =>
    intro m
    rw [List.foldl_cons, List.foldl_cons, gMeetLane_under h]
    exact ih _

theorem gMeetLanes_s (s : State) (i : Issue) (k : AccKind) (w : Nat) (ea : Nat → Nat) (ls : List Nat) :
    (gMeetLanes s i k w ea ls).s = s := by
  suffices hm : ∀ m : Met, (ls.foldl (gMeetLane s i k w ea) m).s = m.s from hm _
  induction ls with
  | nil => exact fun m => rfl
  | cons l ls ih =>
    intro m
    rw [List.foldl_cons, ih]
    unfold gMeetLane
    split <;> rfl

theorem gMeet_under (h : Alike s B) (i : Issue) (k : AccKind) (w : Nat) (ea : Nat → Nat) (ls : List Nat) :
    gMeet (under s B) i k w ea ls = { gMeet s i k w ea ls with s := under (gMeet s i k w ea ls).s B } := by
  simp only [gMeet_eq, gMeetLanes_under h, h.capStalls, h.coreIs, h.ctxIs, capHold_under h, seekTlb_under]
  split
  · rw [gMeetLanes_s]
  · split <;> rfl

theorem gMeet_quiet (s : State) (i : Issue) (k : AccKind) (w : Nat) (ea : Nat → Nat) (ls : List Nat) :
    Quiet s (gMeet s i k w ea ls).s := by
  rw [gMeet_eq]
  split
  · rw [gMeetLanes_s]
    exact Quiet.refl s
  · split
    · exact capHold_quiet s i
    · exact seekTlb_quiet s _ _ _ _

end

/-! ### The two states of an issue -/

theorem mupd_any {s : State} {b : Nat} {g : Block → Block} {p : Nat × Block → Bool} (hp : ∀ n x, p (n, g x) = p (n, x)) :
    (mupd s.blocks b g).any p = s.blocks.any p := by
  unfold mupd
  rw [List.any_map]
  refine any_congr_mem (fun q _ => ?_)
  dsimp only [Function.comp]
  split
  · exact hp _ _
  · rfl

/-- The state that an issue completes from, with its marked registers dead, differs in the blocks alone. -/
theorem prep_eq_under (r : Raw) (i : Issue) (s : State) : prep r i s = under (touch r i s) (prep r i s).blocks := by
  unfold prep killArch touch
  split <;> rfl

theorem ite_subset {c : Bool} {l : List Nat} {a : Nat} (h : a ∈ if c then l else []) : a ∈ l := by
  cases c
  · exact absurd h List.not_mem_nil
  · exact h

/-- R57: an instruction marks none but registers that it reads. -/
theorem markedRegs_subset (r : Raw) (wb : Nat) : markedRegs r wb ⊆ sourceRegs r wb := by
  unfold markedRegs sourceRegs
  cases r.x with
  | none => exact List.nil_subset _
  | some x =>
    intro a ha
    simp only [List.mem_append] at ha ⊢
    rcases ha with (h | h) | h
    · exact .inl (.inl (.inl (.inl (.inr (ite_subset h)))))
    · exact .inl (.inl (.inl (.inr (ite_subset h))))
    · exact .inl (.inl (.inr (ite_subset h)))

theorem prep_any (r : Raw) (i : Issue) (s : State) (p : Nat × Block → Bool)
    (hp : ∀ n x ys, p (n, { x with slots := ys }) = p (n, x)) : (prep r i s).blocks.any p = (touch r i s).blocks.any p := by
  unfold prep killArch touch
  split
  · rfl
  · exact mupd_any (g := fun x => { x with slots := x.slots.modify _ _ }) (fun n x => hp n x _)

theorem landFlights_flights {s : State} {p : Flight → Bool} {x : Flight} (hx : x ∈ (landFlights s p).flights) : p x = false := by
  unfold landFlights at hx
  dsimp only at hx
  split at hx
  · next he =>
    cases hp : p x
    · rfl
    · have hm : x ∈ s.flights.filter p := List.mem_filter.2 ⟨hx, hp⟩
      rw [List.isEmpty_iff.1 he] at hm
      exact absurd hm List.not_mem_nil
  · simpa using (List.mem_filter.1 hx).2

/-- R34: an access in flight after the reads of an issue returns none of the registers that the instruction reads. -/
theorem touch_flights {r : Raw} {i : Issue} {s : State} {x : Flight} (hx : x ∈ (touch r i s).flights) (hb : x.blk = i.blk)
    (hk : x.slot = i.slot) {j : Nat} (hj : j < (x.w + 3) / 4) : x.reg + j ∉ sourceRegs r (fibIs s i).wb := by
  intro ha
  have hp := landFlights_flights hx
  simp only [mkEnv, hb, hk, beq_self_eq_true, Bool.true_and, List.any_eq_false, Bool.and_eq_true, decide_eq_true_eq, not_and] at hp
  exact hp _ ha (Nat.le_add_right _ _) (by omega)

theorem touch_any (r : Raw) (i : Issue) (s : State) (p : Nat × Block → Bool)
    (hp : ∀ n x ys, p (n, { x with slots := ys }) = p (n, x)) : (touch r i s).blocks.any p = s.blocks.any p := by
  unfold touch touchRegs
  rw [landFlights_eq]
  exact mupd_any (g := fun x => { x with slots := x.slots.modify _ _ }) (fun n x => hp n x _)

/-- R93: an issue's local accesses reach what they reach where it begins. -/
theorem prep_localOk (r : Raw) {i : Issue} {s : State} (he : exists' i s) (a n : Nat) (store : Bool) :
    localOk (prep r i s) (ctxIs (prep r i s) i) (coreIs (prep r i s) i) a n store = localOk s (ctxIs s i) (coreIs s i) a n store := by
  have hw := (prep_step (r := r) he).within
  have hk : (prep r i s).ken = s.ken := by
    rw [hw.world]
    rfl
  have hb : blkD (prep r i s) i.blk = { blkD s i.blk with slots := (blkD (prep r i s) i.blk).slots } := hw.block i.blk
  have hc : ctxIs (prep r i s) i = ctxIs s i := by
    unfold ctxIs
    rw [hb]
  have hd : coreIs (prep r i s) i = coreIs s i := by
    unfold coreIs
    rw [hb]
    rfl
  rw [hc, hd]
  exact localOk_congr hk (fun p hp => (prep_any r i s p hp).trans (touch_any r i s p hp)) _ _ _ _ _

theorem prep_alike (r : Raw) {i : Issue} {s : State} (he : exists' i s) : Alike (touch r i s) (prep r i s).blocks := by
  have ht : Residence i (landed r i s) (touch r i s) := touchRegs_residence r (ops r i s) s
  have k := ht.within.keeps (show exists' i (landed r i s) from he)
  have hk : RegStep i (killed (markedRegs r (fibIs s i).wb)) (touch r i s) (prep r i s) := killArch_step i _ _ k.1 k.2.1
  rw [prep_eq_under] at hk
  refine ⟨prep_any r i s, hk.within.block, hk.fibs, fun x hx => ?_⟩
  unfold Flight.stands
  rw [Bool.eq_iff_iff, List.all_eq_true, List.all_eq_true]
  refine forall₂_congr (fun j hj => ?_)
  have hr : mget (slotD (under (touch r i s) (prep r i s).blocks) x.blk x.slot).regs (x.reg + j) =
      mget (slotD (touch r i s) x.blk x.slot).regs (x.reg + j) := by
    by_cases hc : x.blk = i.blk ∧ x.slot = i.slot
    · have hn := fun h => touch_flights hx hc.1 hc.2 (List.mem_range.1 hj) (markedRegs_subset r _ h)
      have ha := hk.regs (x.reg + j)
      rw [killed, if_neg (by simpa using hn)] at ha
      rw [hc.1, hc.2]
      exact ha
    · rw [hk.within.others _ _ hc]
  rw [hr]

end Sys2Proof.Safety
end

section
/-!
SUPPORT. The frames of a global and of a local access follow their courses (R253, R254, R93, R104), whatever the access performs.
-/

namespace Sys2Proof.Safety

open Sys2Proof.Machine

section

variable {r : Raw} {i : Issue} {s v : State}

/-- The issuing fibre is there, with its 32 lanes. -/
structure Placed (i : Issue) (v : State) : Prop where
  here : exists' i v
  lanes : (fibIs v i).lanes.length = 32

theorem Shape.placed (h : Shape s v) (hp : Placed i s) : Placed i v := ⟨h.exists' hp.here, (h.lanes _ _ _).trans hp.lanes⟩

theorem prep_placed (hr : ready r i s = true) : Placed i (prep r i s) := by
  have hi := (ready_parts hr).1
  exact ⟨(prep_step (r := r) (issuing_exists hi)).within.keeps (show exists' i (landed r i s) from issuing_exists hi),
    by rw [prep_fibre (issuing_exists hi)]; exact issuing_length hi⟩

theorem touch_placed (hr : ready r i s = true) : Placed i (touch r i s) := by
  have hi := (ready_parts hr).1
  have ht : Residence i (landed r i s) (touch r i s) := touchRegs_residence r (ops r i s) s
  exact ⟨ht.within.keeps (show exists' i (landed r i s) from issuing_exists hi),
    by rw [show fibIs (touch r i s) i = fibIs s i from ht.fibs _ _ _]; exact issuing_length hi⟩

theorem fibIs_of_blocks {t : State} (h : t.blocks = s.blocks) (i : Issue) : fibIs t i = fibIs s i := by
  simp only [fibIs, fibD, slotD, blkD, h]

variable {body : Env → State → State × After} {c : Course}

/-- An instruction goes on with a state that its access has changed. -/
theorem follows_run (hr : ready r i s = true) (hb : body (ops r i s) (prep r i s) = (v, .advance)) (hv : Shape (prep r i s) v) :
    Follows r i s (laneInsn r s body) (.goes v) :=
  have hp := hv.placed (prep_placed hr)
  follows_goes hr hb hp.here hp.lanes

theorem badGlobal_eq (al n a : Nat) : badGlobal al n a = (decide (a % al ≠ 0) || (spanOf a n).any (fun a => !canonical a)) := by
  simp only [badGlobal, List.not_all_eq_any_not]

/-- R253, R254. -/
theorem globalAccess_follows {q : Retain} {k : AccKind} {al n : Nat} {ea : Nat → Nat} {eff : State → List GLane → State}
    (hr : ready r i s = true)
    (hu : body (ops r i s) (prep r i s) = globalAccess q (ops r i s) (prep r i s) k al n ea eff)
    (hw : body (ops r i s) (touch r i s) = globalAccess q (ops r i s) (touch r i s) k al n ea eff)
    (hs : ∀ v ls, Shape v (eff v ls))
    (hc : globalCourse q i (ops r i s) (prep r i s) (touch r i s) k al n ea eff = some c) : Follows r i s (laneInsn r s body) c := by
  have ha := prep_alike r (issuing_exists (ready_parts hr).1)
  have hm := gMeet_under ha i k n ea (ops r i s).act
  rw [← prep_eq_under] at hm
  have hq : ∀ v, Shape v (sendAll q i (coreIs v i) k v.nextId (eff (gMeet v i k n ea (ops r i s).act).s
      (gMeet v i k n ea (ops r i s).act).ok) ((gMeet v i k n ea (ops r i s).act).ok.flatMap (·.2))) := fun v =>
    (Shape.of_blocks (gMeet_quiet v i k n ea _).blocks).trans ((hs _ _).trans (Shape.of_blocks (sendAll_quiet _ _ _ _ _ _ _).blocks))
  have hi : (ops r i s).i = i := rfl
  simp only [globalAccess, badGlobal_eq, hi] at hu hw
  simp only [globalCourse] at hc
  split at hc
  · next l hl =>
    rw [hl] at hu hw
    cases hc
    exact follows_traps hr hu hw (by simp)
  · next hl =>
    rw [hl] at hu hw
    dsimp only at hu hw
    split at hc
    · next hst =>
      rw [hm, if_pos hst] at hu
      rw [if_pos hst] at hw
      cases hc
      exact follows_asks hr hu hw (by rw [fibIs_of_blocks (gMeet_quiet _ i k n ea _).blocks]; exact touch_wait hr)
    · next hst =>
      rw [if_neg (by rw [hm]; exact hst)] at hu
      rw [if_neg hst] at hw
      split at hc
      · next hb =>
        rw [if_pos (by rw [hm]; exact List.isEmpty_iff.2 hb)] at hu
        cases hc
        exact follows_run hr hu (hq _)
      · next hb =>
        rw [if_neg (by rw [hm]; exact fun h => hb (List.isEmpty_iff.1 h))] at hu
        rw [if_neg (fun h => hb (List.isEmpty_iff.1 h))] at hw
        cases hc
        have hp := ((hq _).trans (parkBad_shape _ i (gMeet (touch r i s) i k n ea (ops r i s).act).bad)).placed (touch_placed hr)
        exact follows_parts hr hu hw hp.here hp.lanes

theorem stallLocal_steady (s : State) (i : Issue) (m : LMet) : Steady s (stallLocal s i m) := by
  unfold stallLocal
  split
  · unfold capHold
    split
    · exact Steady.refl s
    · exact (addTally_steady s _ _ _).trans ⟨rfl, rfl, rfl⟩
  · exact Steady.refl s

/-- R254, R93, R104. -/
theorem localAccess_follows {store : Bool} {al n : Nat} {la : Nat → Nat} {eff : State → List (Nat × Nat × Nat) → State}
    (hr : ready r i s = true)
    (hu : body (ops r i s) (prep r i s) = localAccess (ops r i s) (prep r i s) store al n la eff)
    (hw : body (ops r i s) (touch r i s) = localAccess (ops r i s) (touch r i s) store al n la eff)
    (hs : ∀ v ls, Shape v (eff v ls))
    (hc : localCourse i (ops r i s) (prep r i s) (touch r i s) store al n la eff = some c) : Follows r i s (laneInsn r s body) c := by
  have ha := prep_alike r (issuing_exists (ready_parts hr).1)
  have hm := lMeet_under ha i store n la (ops r i s).act
  have hk : ∀ a, localOk (prep r i s) (ctxIs (prep r i s) i) (coreIs (prep r i s) i) a n store =
      localOk (touch r i s) (ctxIs (touch r i s) i) (coreIs (touch r i s) i) a n store := fun a => by
    rw [prep_eq_under, ha.ctxIs, ha.coreIs, ha.localOk]
  rw [← prep_eq_under] at hm
  have hq : ∀ v, Shape v (eff (capFree (lMeet v i store n la (ops r i s).act).1 i) (lMeet v i store n la (ops r i s).act).2.ok) := fun v =>
    (Shape.of_blocks (lMeet_steady v i store n la _).blocks).trans ((Shape.of_blocks (capFree_quiet _ i).blocks).trans (hs _ _))
  have hi : (ops r i s).i = i := rfl
  simp only [localAccess, hi, hk] at hu hw
  simp only [localCourse, hk, ← Option.isNone_iff_eq_none, Bool.decide_eq_true] at hc
  split at hc
  · next l hl =>
    rw [hl] at hu hw
    cases hc
    exact follows_traps hr hu hw (by simp)
  · next hl =>
    rw [hl] at hu hw
    dsimp only at hu hw
    split at hc
    · next hst =>
      rw [hm, if_pos hst] at hu
      rw [if_pos hst] at hw
      cases hc
      exact follows_asks hr hu hw (by
        rw [fibIs_of_blocks ((lMeet_steady _ i store n la _).trans (stallLocal_steady _ i _)).blocks]
        exact touch_wait hr)
    · next hst =>
      rw [if_neg (by rw [hm]; exact hst)] at hu
      rw [if_neg hst] at hw
      split at hc
      · next hb =>
        rw [if_pos (by rw [hm]; exact List.isEmpty_iff.2 hb)] at hu
        cases hc
        exact follows_run hr hu (hq _)
      · next hb =>
        rw [if_neg (by rw [hm]; exact fun h => hb (List.isEmpty_iff.1 h))] at hu
        rw [if_neg (fun h => hb (List.isEmpty_iff.1 h))] at hw
        cases hc
        have hp := ((hq _).trans (parkLocal_shape _ i (lMeet (touch r i s) i store n la (ops r i s).act).2.park)).placed (touch_placed hr)
        exact follows_parts hr hu hw hp.here hp.lanes

end

end Sys2Proof.Safety
end

section
/-!
Settles O17 (`MemoryCourses`): every memory instruction follows its course.
-/

namespace Sys2Proof.Safety

open Sys2Proof.Machine

section

variable {i : Issue} {s : State} {c : Course}

/-! ### What the accesses keep -/

theorem loadGlobal_shape (w : Raw) (e : Env) (q : Retain) (f n : Nat) (fs : State → List GLane → List Flight) (v : State) (ls : List GLane) :
    Shape v (fly (writeLoad w e f n (gReadLanesBy q v i ls).2 (gReadLanesBy q v i ls).1) (fs v ls)) :=
  (Shape.of_blocks (gReadLanesBy_blocks q v i ls)).trans ((writeLoad_shape _ _ _ _ _ _).trans (fly_shape _ _))

theorem storeGlobal_shape (q : Retain) (ea : Nat → Nat) (bs : Nat → List Byte) (v : State) (ls : List GLane) :
    Shape v (ls.foldl (fun t l => gStore q t i v.nextId l.1 (ea l.1) l.2 (bs l.1)) (addStore v i 3 .plain)) := by
  refine Shape.of_blocks (Eq.trans (foldl_blocks (fun t l => ?_) ls _) ?_)
  · exact gStore_blocks q t i v.nextId l.1 (ea l.1) l.2 (bs l.1)
  · rfl

theorem loadLocal_shape (w : Raw) (e : Env) (f n : Nat) (la : Nat → Nat) (fs : State → List (Nat × Nat × Nat) → List Flight) (v : State)
    (ls : List (Nat × Nat × Nat)) :
    Shape v (fly (writeLoad w e f n (lReadLanes v i n la ls).2 (lReadLanes v i n la ls).1) (fs v ls)) :=
  (Shape.of_blocks (lReadLanes_quiet v i n la ls).blocks).trans ((writeLoad_shape _ _ _ _ _ _).trans (fly_shape _ _))

theorem storeLocal_shape (la : Nat → Nat) (bs : Nat → List Byte) (v : State) (ls : List (Nat × Nat × Nat)) :
    Shape v (ls.foldl (fun t l => lStore t i v.nextId l.1 (la l.1) l.2.1 l.2.2 (bs l.1)) (addStore v i 3 .plain)) := by
  refine Shape.of_blocks (Eq.trans (foldl_blocks (fun t l => ?_) ls _) ?_)
  · exact lStore_blocks t i v.nextId l.1 (la l.1) l.2.1 l.2.2 (bs l.1)
  · rfl

theorem posting_shape (r : Raw) (e : Env) (n : Nat) (v : State) (ls : List GLane) : Shape v (posting r i e n v ls) := by
  unfold posting
  split
  · exact Shape.refl v
  · refine Shape.trans (Shape.of_blocks ?_) (startOp_shape _ _ _ _ _)
    split
    · exact foldl_blocks (fun t l => (joinView_quiet t _ _).blocks) ls v
    · rfl

theorem returning_shape (r : Raw) (e : Env) (n : Nat) (v : State) (ls : List GLane) : Shape v (returning r e n v ls) :=
  updateLanes_shape r e n _ _ v _ _ _ _

/-! ### Loads and stores -/

theorem execLd_follows {x : RXF} (hr : ready (x.raw 0x28#7) i s = true)
    (hc : memoryCourse (.ld x) i (ops (x.raw 0x28#7) i s) (prep (x.raw 0x28#7) i s) (touch (x.raw 0x28#7) i s) = some c) :
    Follows (x.raw 0x28#7) i s (execLd x s) c :=
  globalAccess_follows hr rfl rfl (fun v ls => loadGlobal_shape _ _ _ _ _ (fun _ _ => _) v ls) hc

theorem execSt_follows {x : RXF} (hr : ready (x.raw 0x29#7) i s = true)
    (hc : memoryCourse (.st x) i (ops (x.raw 0x29#7) i s) (prep (x.raw 0x29#7) i s) (touch (x.raw 0x29#7) i s) = some c) :
    Follows (x.raw 0x29#7) i s (execSt x s) c :=
  globalAccess_follows hr rfl rfl (storeGlobal_shape _ _ _) hc

theorem stashAt_of_mappings {t v : State} (h : t.mappings = v.mappings) : stashAt t = stashAt v := by
  unfold stashAt
  rw [h]

theorem lineD_of_mappings {t v : State} (h : t.mappings = v.mappings) : lineD t = lineD v := by
  unfold lineD
  rw [h]

theorem localLocs_of_mappings {t v : State} (h : t.mappings = v.mappings) (core off n : Nat) :
    localLocs t core off n = localLocs v core off n := by
  unfold localLocs
  rw [stashAt_of_mappings h, lineD_of_mappings h]

theorem localLocs_lReadLanes (v : State) (n : Nat) (la : Nat → Nat) (ls : List (Nat × Nat × Nat)) (core off w : Nat) :
    localLocs (lReadLanes v i n la ls).1 core off w = localLocs v core off w :=
  localLocs_of_mappings (lReadLanes_quiet v i n la ls).mappings core off w

theorem execLdl_follows {x : RXF} (hr : ready (x.raw 0x2A#7) i s = true)
    (hc : memoryCourse (.ldl x) i (ops (x.raw 0x2A#7) i s) (prep (x.raw 0x2A#7) i s) (touch (x.raw 0x2A#7) i s) = some c) :
    Follows (x.raw 0x2A#7) i s (execLdl x s) c := by
  simp only [memoryCourse, localLocs_lReadLanes] at hc
  exact localAccess_follows hr rfl rfl (fun v ls => loadLocal_shape _ _ _ _ _ (fun _ _ => _) v ls) hc

theorem execStl_follows {x : RXF} (hr : ready (x.raw 0x2B#7) i s = true)
    (hc : memoryCourse (.stl x) i (ops (x.raw 0x2B#7) i s) (prep (x.raw 0x2B#7) i s) (touch (x.raw 0x2B#7) i s) = some c) :
    Follows (x.raw 0x2B#7) i s (execStl x s) c :=
  localAccess_follows hr rfl rfl (storeLocal_shape _ _) hc

/-! ### Atomics (R261, R263) -/

theorem execAtoml_follows {x : RXF} (hr : ready (x.raw 0x2E#7) i s = true)
    (hc : memoryCourse (.atoml x) i (ops (x.raw 0x2E#7) i s) (prep (x.raw 0x2E#7) i s) (touch (x.raw 0x2E#7) i s) = some c) :
    Follows (x.raw 0x2E#7) i s (execAtoml x s) c :=
  localAccess_follows hr rfl rfl (fun v _ => updateLanes_shape _ _ _ _ _ v _ _ _ _) hc

theorem execJoinc_follows {x : R3} (hr : ready (x.raw 0x3F#7 1#3) i s = true)
    (hc : memoryCourse (.joinc x) i (ops (x.raw 0x3F#7 1#3) i s) (prep (x.raw 0x3F#7 1#3) i s) (touch (x.raw 0x3F#7 1#3) i s) = some c) :
    Follows (x.raw 0x3F#7 1#3) i s (execJoinc x s) c :=
  globalAccess_follows hr rfl rfl (fun v _ => updateLanes_shape _ _ _ _ _ v _ _ _ _) hc

theorem postUpdate_eq_posting (r : Raw) (e : Env) (w : Nat) (v : State) (ls : List GLane) :
    (if ls.isEmpty ∧ !e.act.isEmpty then v else postUpdate r e w v ls) = posting r e.i e w v ls := by
  unfold posting
  have hc : ls = [] ∧ e.act ≠ [] ↔ (ls.isEmpty = true ∧ (!e.act.isEmpty) = true) := by simp
  simp only [hc]
  rfl

/-- ATOM, ATOMB and RED, with what the model and the course compute alike from the instruction's words. -/
theorem atomicOp_follows {r : Raw} {posts : Bool} {n : Nat} (hr : ready r i s = true)
    (hp : ((Forms.immOf r).testBit 5 || decide (r.op = 0x2F)) = posts) (hn : atomWidth r.op.toNat r.f.toNat = n)
    (hc : updateCourse r posts n i (ops r i s) (prep r i s) (touch r i s) = some c) : Follows r i s (atomicOp r s) c := by
  have hf : fibIs (touch r i s) i = fibIs (prep r i s) i := by
    rw [prep_eq_under, (prep_alike r (issuing_exists (ready_parts hr).1)).fibIs]
  unfold updateCourse at hc
  unfold atomicOp
  simp only [hp, hn, postUpdate_eq_posting, ctrFull]
  split at hc
  · next hq =>
    cases hc
    have hb : ∀ v, fibIs v i = fibIs (prep r i s) i → (posts && decide (63 ≤ (fibIs v i).ctrs.getD 2 0)) = true := fun v hv => by
      rw [hv, Bool.and_eq_true, decide_eq_true_eq]
      exact hq
    exact follows_stays hr (if_pos (hb _ rfl)) (if_pos (hb _ hf))
  · next hq =>
    have hb : ∀ v, fibIs v i = fibIs (prep r i s) i → ¬ (posts && decide (63 ≤ (fibIs v i).ctrs.getD 2 0)) = true := fun v hv => by
      rw [hv, Bool.and_eq_true, decide_eq_true_eq]
      exact hq
    refine globalAccess_follows hr (if_neg (hb _ rfl)) (if_neg (hb _ hf)) (fun v ls => ?_) hc
    split
    · exact posting_shape _ _ _ v ls
    · exact returning_shape _ _ _ v ls

theorem immOf_posts (x : RXF) (op : BitVec 7) (h : op ≠ 0x2F#7) :
    ((Forms.immOf (x.raw op)).testBit 5 || decide ((x.raw op).op = 0x2F)) = x.x.imm.getLsbD 5 := by
  have ho : decide ((x.raw op).op = 0x2F) = false := decide_eq_false h
  rw [ho, Bool.or_false]
  rfl

theorem atomWidth_of_ne {op : Nat} (f : Nat) (h : op ≠ 0x2D) : atomWidth op f = 4 := if_neg (fun k => h k.1)

theorem atomWidth_atomb (f : Nat) : atomWidth 0x2D f = if 6 ≤ f then 8 else 4 := by simp only [atomWidth, true_and]

theorem execAtom_follows {x : RXF} (hr : ready (x.raw 0x2C#7) i s = true)
    (hc : memoryCourse (.atom x) i (ops (x.raw 0x2C#7) i s) (prep (x.raw 0x2C#7) i s) (touch (x.raw 0x2C#7) i s) = some c) :
    Follows (x.raw 0x2C#7) i s (execAtom x s) c :=
  atomicOp_follows hr (immOf_posts x _ (by decide)) (atomWidth_of_ne (op := 0x2C) _ (by decide)) hc

theorem execAtomb_follows {x : RXF} (hr : ready (x.raw 0x2D#7) i s = true)
    (hc : memoryCourse (.atomb x) i (ops (x.raw 0x2D#7) i s) (prep (x.raw 0x2D#7) i s) (touch (x.raw 0x2D#7) i s) = some c) :
    Follows (x.raw 0x2D#7) i s (execAtomb x s) c :=
  atomicOp_follows hr (immOf_posts x _ (by decide)) (atomWidth_atomb _) hc

theorem execRed_follows {x : RXF} (hr : ready (x.raw 0x2F#7) i s = true)
    (hc : memoryCourse (.red x) i (ops (x.raw 0x2F#7) i s) (prep (x.raw 0x2F#7) i s) (touch (x.raw 0x2F#7) i s) = some c) :
    Follows (x.raw 0x2F#7) i s (execRed x s) c :=
  atomicOp_follows hr (Bool.or_true _) (atomWidth_of_ne (op := 0x2F) _ (by decide)) hc

/-! ### FENCE and PREF (R264, R272) -/

theorem execFence_follows {x : R3} (hr : ready (x.raw 0x30#7 0#3) i s = true)
    (hc : memoryCourse (.fence x) i (ops (x.raw 0x30#7 0#3) i s) (prep (x.raw 0x30#7 0#3) i s) (touch (x.raw 0x30#7 0#3) i s) = some c) :
    Follows (x.raw 0x30#7 0#3) i s (execFence x s) c := by
  cases hc
  exact follows_run hr rfl ((Shape.of_blocks (landLanes_quiet _ _ _).blocks).trans
    (Shape.of_blocks (foldl_blocks (fun t l => (fenceBy_quiet t _ _).blocks) _ _)))

theorem execPref_follows {x : RXF} (hr : ready (x.raw 0x31#7) i s = true)
    (hc : memoryCourse (.pref x) i (ops (x.raw 0x31#7) i s) (prep (x.raw 0x31#7) i s) (touch (x.raw 0x31#7) i s) = some c) :
    Follows (x.raw 0x31#7) i s (execPref x s) c := by
  cases hc
  unfold execPref prefOp
  simp only [Bool.not_eq_true', decide_eq_true_eq]
  refine follows_run hr rfl (Shape.of_blocks (foldl_blocks (fun t l => ?_) _ _))
  split
  · rfl
  · split
    · split
      · exact (touchMscBy_quiet _ _ _ _ _).blocks
      · exact (touchL2_quiet _ _ _ _ _).blocks
    · exact (noteBadLeaf_quiet _ _ _ _).blocks

end

end Sys2Proof.Safety

namespace Sys2Proof.Safety

open Sys2Proof.Machine

/-- Settles O17: loads, stores, atomics, JOINC, FENCE and PREF, one instruction at a time. -/
theorem memoryCourses : Obligations.MemoryCourses := by
  intro ins r i s c hraw _ hr hc
  unfold memoryCourse at hc
  split at hc
  case h_1 =>
    cases hraw
    exact execLd_follows hr hc
  case h_2 =>
    cases hraw
    exact execSt_follows hr hc
  case h_3 =>
    cases hraw
    exact execLdl_follows hr hc
  case h_4 =>
    cases hraw
    exact execStl_follows hr hc
  case h_5 =>
    cases hraw
    exact execAtom_follows hr hc
  case h_6 =>
    cases hraw
    exact execAtomb_follows hr hc
  case h_7 =>
    cases hraw
    exact execRed_follows hr hc
  case h_8 =>
    cases hraw
    exact execAtoml_follows hr hc
  case h_9 =>
    cases hraw
    exact execJoinc_follows hr hc
  case h_10 =>
    cases hraw
    exact execFence_follows hr hc
  case h_11 =>
    cases hraw
    exact execPref_follows hr hc
  case h_12 => exact absurd hc nofun

end Sys2Proof.Safety
end

section
/-!
Settles O19 (`StashCourses`): every stash instruction follows its course.
-/

namespace Sys2Proof.Safety

open Sys2Proof.Machine

/-! ### Changes of lanes throughout the machine keep its places -/

theorem mget_map_values {α : Type} (m : Map α) (h : α → α) (k : Nat) :
    mget (m.map (fun p => (p.1, h p.2))) k = (mget m k).map h := by
  induction m with
  | nil => rfl
  | cons p m ih =>
    simp only [List.map_cons, mget]
    split
    · rfl
    · exact ih

/-- What a map over a list leaves of every entry, it leaves of the entry at a place. -/
theorem getD_map_of_keeps {α γ : Type} {f : α → α} {φ : α → γ} (h : ∀ x, φ (f x) = φ x) (l : List α) (k : Nat) (d : α) :
    φ ((l.map f).getD k d) = φ (l.getD k d) := by
  simp only [List.getD_eq_getElem?_getD, List.getElem?_map]
  cases l[k]? with
  | none => rfl
  | some x => exact h x

/-- A fibre with its lanes changed. -/
def relaneFib (g : Lane → Lane) (f : Fibre) : Fibre := { f with lanes := f.lanes.map g }

/-- A slot with every lane changed. -/
def relaneSlot (g : Lane → Lane) (x : Slot) : Slot := { x with fibs := x.fibs.map (relaneFib g) }

/-- A block with every lane changed. -/
def relaneBlk (g : Lane → Lane) (x : Block) : Block := { x with slots := x.slots.map (relaneSlot g) }

theorem relane_shape (s : State) (g : Lane → Lane) : Shape s { s with blocks := s.blocks.map (fun p => (p.1, relaneBlk g p.2)) } := by
  have hf : ∀ x, (relaneFib g x).lanes.length = x.lanes.length := fun x => List.length_map _
  have hs : ∀ x f, (((relaneSlot g x).fibs.getD f {}).lanes.length = (x.fibs.getD f {}).lanes.length) := fun x f =>
    getD_map_of_keeps (φ := fun y : Fibre => y.lanes.length) hf x.fibs f {}
  have hb : ∀ b, blkD { s with blocks := s.blocks.map (fun p => (p.1, relaneBlk g p.2)) } b = relaneBlk g (blkD s b) := fun b => by
    simp only [blkD, mgetD, mget_map_values]
    cases mget s.blocks b <;> rfl
  constructor
  case present => exact fun b => by rw [mget_map_values, Option.isSome_map]
  case slots => exact fun b => by rw [hb]; exact List.length_map _
  case fibs =>
    intro b k
    simp only [slotD, hb]
    exact getD_map_of_keeps (φ := fun y : Slot => y.fibs.length) (fun x => List.length_map _) _ k {}
  case lanes =>
    intro b k f
    simp only [fibD, slotD, hb]
    exact getD_map_of_keeps (φ := fun y : Slot => (y.fibs.getD f {}).lanes.length) (fun x => hs x f) _ k {}

theorem wakeLine_shape (s : State) (core ln : Nat) : Shape s (wakeLine s core ln) := relane_shape s _

theorem wakeUnmapped_shape (s : State) (core ln : Nat) : Shape s (wakeUnmapped s core ln) := relane_shape s _

theorem wakeLines_shape (s : State) (core lo n : Nat) : Shape s (wakeLines s core lo n) :=
  foldl_shape (fun t _ => (wakeLine_shape t _ _).trans (wakeUnmapped_shape _ _ _)) _ s

theorem deleteMapping_shape (s : State) (m : Nat) (wb : Bool) : Shape s (deleteMapping s m wb) := by
  unfold deleteMapping
  split
  · exact Shape.refl s
  · refine Shape.trans (Shape.of_blocks ?_) (wakeLines_shape _ _ _ _)
    dsimp only
    split
    · exact foldl_blocks (fun t j => writeBack_blocks t m j) _ s
    · rfl

theorem smapReclaim_shape (s : State) (core lo n : Nat) : Shape s (smapReclaim s core lo n) := by
  unfold smapReclaim
  refine Shape.trans ?_ (foldl_shape (fun t (p : Nat × Mapping) => deleteMapping_shape t p.1 true) _ _)
  split
  · split
    · exact deleteMapping_shape s _ _
    · exact Shape.refl s
  · exact Shape.refl s

theorem createMapping_shape (s : State) (b core c : Nat) (tag : Word) (d : Desc) (ready : Bool) :
    Shape s (createMapping s b core c tag d ready) :=
  Shape.of_blocks (dropPieces_quiet _ _).blocks

/-! ### The frame of a per-issue instruction -/

section

variable {r : Raw} {i : Issue} {s : State} {B : Map Block} {c : Course}

/-- Without a guard some lane is active (R151), and the instruction does its own. -/
theorem perIssue_body (hr : ready r i s = true) (hx : r.x = none) (body : Env → State → State × After) (v : State) :
    (fun e t => if e.act.isEmpty then (t, After.advance) else body e t) (ops r i s) v = body (ops r i s) v :=
  if_neg (fun h => guarded_of_idle (ready_parts hr).1 (List.isEmpty_iff.1 h) hx)

theorem perIssue_goes {body : Env → State → State × After} {v : State} (hr : ready r i s = true) (hx : r.x = none)
    (hb : body (ops r i s) (prep r i s) = (v, .advance)) (hv : Shape (prep r i s) v) :
    Follows r i s (perIssueOp r s body) (.goes v) :=
  follows_run hr ((perIssue_body hr hx body _).trans hb) hv

theorem perIssue_stays {body : Env → State → State × After} {u : State} (hr : ready r i s = true) (hx : r.x = none)
    (hu : body (ops r i s) (prep r i s) = (u, .stay)) (hv : body (ops r i s) (touch r i s) = (touch r i s, .stay)) :
    Follows r i s (perIssueOp r s body) .stays :=
  follows_stays hr ((perIssue_body hr hx body _).trans hu) ((perIssue_body hr hx body _).trans hv)

theorem perIssue_traps {body : Env → State → State × After} {kind detail a : Nat} (hr : ready r i s = true) (hx : r.x = none)
    (hu : body (ops r i s) (prep r i s) = trapAll (prep r i s) (ops r i s) kind detail (addrField a))
    (hv : body (ops r i s) (touch r i s) = trapAll (touch r i s) (ops r i s) kind detail (addrField a)) :
    Follows r i s (perIssueOp r s body) (.traps kind detail (ops r i s).act [(12, a % 2 ^ 32), (13, a / 2 ^ 32)]) :=
  follows_traps hr ((perIssue_body hr hx body _).trans hu) ((perIssue_body hr hx body _).trans hv) (by simp)

/-! ### SMAP, SUNMAP and SADOPT -/

theorem smapTrap_eq_illegal (u : State) (b core : Nat) (d : Desc) : smapTrap u b core d = smapIllegal u b core d := by
  have hm : (u.mappings.map (·.2)).filter (fun m => decide (m.core = core)) = (coreMaps u core).map (·.2) := by
    simp only [coreMaps, List.filter_map, Function.comp_def]
  simp only [smapTrap, smapIllegal, hm, List.any_map, List.all_map, List.length_map, Function.comp_def]
  ac_rfl

theorem prep_coreIs (hr : ready r i s = true) : coreIs (prep r i s) i = coreIs (touch r i s) i := by
  rw [prep_eq_under, (prep_alike r (issuing_exists (ready_parts hr).1)).coreIs]

theorem prep_smapTrap (hr : ready r i s = true) (b core : Nat) (d : Desc) :
    smapTrap (prep r i s) b core d = smapTrap (touch r i s) b core d := by
  rw [prep_eq_under]
  unfold smapTrap
  rw [(prep_alike r (issuing_exists (ready_parts hr).1)).blk]
  rfl

theorem prep_ctrFull (hr : ready r i s = true) (cls : Nat) : ctrFull (prep r i s) i cls = ctrFull (touch r i s) i cls := by
  unfold ctrFull
  rw [prep_eq_under, (prep_alike r (issuing_exists (ready_parts hr).1)).fibIs]

theorem execSmap_follows {x : R3} (hr : ready (x.raw 0x32#7 0#3) i s = true)
    (hc : stashCourse (.smap x) i (ops (x.raw 0x32#7 0#3) i s) (prep (x.raw 0x32#7 0#3) i s) (touch (x.raw 0x32#7 0#3) i s) = some c) :
    Follows (x.raw 0x32#7 0#3) i s (execSmap x s) c := by
  simp only [stashCourse, ← smapTrap_eq_illegal] at hc
  split at hc
  · next hg =>
    cases hc
    exact perIssue_traps hr rfl (if_pos hg) (if_pos hg)
  · next hg =>
    split at hc
    · next ht =>
      have ht' := ht
      rw [prep_coreIs hr, prep_smapTrap hr] at ht'
      cases hc
      exact perIssue_traps hr rfl ((if_neg hg).trans (if_pos ht)) ((if_neg hg).trans (if_pos ht'))
    · next ht =>
      split at hc
      · next hf =>
        have ht' := ht
        have hf' : ctrFull (prep (x.raw 0x32#7 0#3) i s) i 3 = true := hf
        rw [prep_coreIs hr, prep_smapTrap hr] at ht'
        rw [prep_ctrFull hr] at hf'
        cases hc
        exact perIssue_stays hr rfl ((if_neg hg).trans ((if_neg ht).trans (if_pos hf))) ((if_neg hg).trans ((if_neg ht').trans (if_pos hf')))
      · next hf =>
        cases hc
        exact perIssue_goes hr rfl ((if_neg hg).trans ((if_neg ht).trans (if_neg hf)))
          ((smapReclaim_shape _ _ _ _).trans ((createMapping_shape _ _ _ _ _ _ _).trans (startOp_shape _ _ _ _ _)))

/-- R276: what SUNMAP does for the lowest lane's address (`execSunmap`). -/
def sunmapBody (e : Env) (t : State) : State × After :=
  match mappingAt t e.i.blk (coreIs t e.i) (wa e e.low).toNat with
  | none => trapAll t e 0x03 0 (addrField (wa e e.low).toNat)
  | some m =>
    if ctrFull t e.i 3 then (t, .stay) else
    (startOp { t with mappings := mupd t.mappings m (fun x => { x with unmapping := true }) } e.i 3 .sunmap
      (fun o => { o with x := m }), .advance)

theorem execSunmap_eq (x : R3) (s : State) : execSunmap x s = perIssueOp (x.raw 0x32#7 1#3) s sunmapBody := rfl

theorem sunmapBody_none {e : Env} {t : State} (hn : mappingAt t e.i.blk (coreIs t e.i) (wa e e.low).toNat = none) :
    sunmapBody e t = trapAll t e 0x03 0 (addrField (wa e e.low).toNat) := by
  unfold sunmapBody
  rw [hn]

theorem sunmapBody_some {e : Env} {t : State} {m : Nat} (hn : mappingAt t e.i.blk (coreIs t e.i) (wa e e.low).toNat = some m) :
    sunmapBody e t = if ctrFull t e.i 3 then (t, .stay) else
      (startOp { t with mappings := mupd t.mappings m (fun x => { x with unmapping := true }) } e.i 3 .sunmap
        (fun o => { o with x := m }), .advance) := by
  unfold sunmapBody
  rw [hn]

theorem execSunmap_follows {x : R3} (hr : ready (x.raw 0x32#7 1#3) i s = true)
    (hc : stashCourse (.sunmap x) i (ops (x.raw 0x32#7 1#3) i s) (prep (x.raw 0x32#7 1#3) i s) (touch (x.raw 0x32#7 1#3) i s) = some c) :
    Follows (x.raw 0x32#7 1#3) i s (execSunmap x s) c := by
  have hm : ∀ a, mappingAt (prep (x.raw 0x32#7 1#3) i s) i.blk (coreIs (prep (x.raw 0x32#7 1#3) i s) i) a =
      mappingAt (touch (x.raw 0x32#7 1#3) i s) i.blk (coreIs (touch (x.raw 0x32#7 1#3) i s) i) a := fun a => by
    rw [prep_coreIs hr, prep_eq_under]
    rfl
  rw [execSunmap_eq]
  simp only [stashCourse] at hc
  split at hc
  · next hn =>
    cases hc
    exact perIssue_traps hr rfl (sunmapBody_none hn) (sunmapBody_none ((hm _).symm.trans hn))
  · next m hn =>
    split at hc
    · next hf =>
      have hf' : ctrFull (prep (x.raw 0x32#7 1#3) i s) i 3 = true := hf
      rw [prep_ctrFull hr] at hf'
      cases hc
      exact perIssue_stays hr rfl ((sunmapBody_some hn).trans (if_pos hf))
        ((sunmapBody_some ((hm _).symm.trans hn)).trans (if_pos hf'))
    · next hf =>
      cases hc
      refine perIssue_goes hr rfl ((sunmapBody_some hn).trans (if_neg hf)) (Shape.trans ?_ (startOp_shape _ _ _ _ _))
      exact Shape.of_blocks rfl

/-- A result to every active lane. -/
theorem wrD_eq_gives {x : R3} {e : Env} {t : State} (op : BitVec 7) (f : BitVec 3) (hw : (fibIs t e.i).wait = none) (g : Nat → Word) :
    wrD (x.raw op f) e 0 g t = gives e (archReg e.wb x.d.toNat) g t := wrDs_issue hw 0 _ _

/-- R252: a status to every active lane. -/
theorem wrAll_eq_status {x : R3} {e : Env} {t : State} (op : BitVec 7) (f : BitVec 3) (hw : (fibIs t e.i).wait = none) (w : Word) :
    wrAll (x.raw op f) e w t = status e x w t := wrD_eq_gives op f hw _

theorem status_shape (e : Env) (x : R3) (w : Word) (u : State) : Shape u (status e x w u) := writeArch_shape _ _ _ _ _ _ _ _

/-- R279: what SADOPT does for the lowest lane's tag (`execSadopt`). -/
def sadoptBody (x : R3) (e : Env) (t : State) : State × After :=
  match adoptable t e.i.blk (coreIs t e.i) (wa e e.low) with
  | none => (wrAll (x.raw 0x32#7 6#3) e 0xFFFFFFFF t, .advance)
  | some m =>
    (wrAll (x.raw 0x32#7 6#3) e (BitVec.ofNat 32 (((mget t.mappings m).map (·.lbase)).getD 0))
      { t with mappings := mupd t.mappings m (fun y => { y with blk := some e.i.blk }) }, .advance)

theorem execSadopt_eq (x : R3) (s : State) : execSadopt x s = perIssueOp (x.raw 0x32#7 6#3) s (sadoptBody x) := rfl

theorem sadoptBody_none {x : R3} {e : Env} {t : State} (hn : adoptable t e.i.blk (coreIs t e.i) (wa e e.low) = none)
    (hw : (fibIs t e.i).wait = none) : sadoptBody x e t = (status e x 0xFFFFFFFF t, .advance) := by
  unfold sadoptBody
  rw [hn]
  exact congrArg (·, After.advance) (wrAll_eq_status _ _ hw _)

theorem sadoptBody_some {x : R3} {e : Env} {t : State} {m : Nat} (hn : adoptable t e.i.blk (coreIs t e.i) (wa e e.low) = some m)
    (hw : (fibIs t e.i).wait = none) :
    sadoptBody x e t = (status e x (.ofNat 32 (((mget t.mappings m).map (·.lbase)).getD 0))
      { t with mappings := mupd t.mappings m (fun y => { y with blk := some e.i.blk }) }, .advance) := by
  unfold sadoptBody
  rw [hn]
  refine congrArg (·, After.advance) (wrAll_eq_status _ _ ?_ _)
  exact hw

theorem execSadopt_follows {x : R3} (hr : ready (x.raw 0x32#7 6#3) i s = true)
    (hc : stashCourse (.sadopt x) i (ops (x.raw 0x32#7 6#3) i s) (prep (x.raw 0x32#7 6#3) i s) (touch (x.raw 0x32#7 6#3) i s) = some c) :
    Follows (x.raw 0x32#7 6#3) i s (execSadopt x s) c := by
  have hw := prep_wait (r := x.raw 0x32#7 6#3) (ready_parts hr).1
  rw [execSadopt_eq]
  simp only [stashCourse] at hc
  split at hc
  · next hn =>
    cases hc
    exact perIssue_goes hr rfl (sadoptBody_none hn hw) (status_shape _ _ _ _)
  · next m hn =>
    cases hc
    refine perIssue_goes hr rfl (sadoptBody_some hn hw) (Shape.trans ?_ (status_shape _ _ _ _))
    exact Shape.of_blocks rfl

/-- An instruction whose only effect is one result word per active lane. -/
theorem aluOp_goes {x : R3} {op : BitVec 7} {f : BitVec 3} (hr : ready (x.raw op f) i s = true) (g : Env → Nat → Word) :
    Follows (x.raw op f) i s (aluOp (x.raw op f) s g) (.goes (gives (ops (x.raw op f) i s)
      (archReg (ops (x.raw op f) i s).wb x.d.toNat) (g (ops (x.raw op f) i s)) (prep (x.raw op f) i s))) := by
  have hw : (fibIs (prep (x.raw op f) i s) (ops (x.raw op f) i s).i).wait = none := prep_wait (ready_parts hr).1
  refine follows_run hr ?_ (writeArch_shape _ _ _ _ _ _ _ _)
  rw [wrD_eq_gives op f hw]

theorem squeryWord_of_mappings {t u : State} (h : t.mappings = u.mappings) (b core a : Nat) :
    squeryWord t b core a = squeryWord u b core a := by
  unfold squeryWord
  rw [stashAt_of_mappings h, lineD_of_mappings h, h]

/-- R278: SQUERY reads the stash as the issue found it; the deaths of its registers do not change it. -/
theorem execSquery_follows {x : R3} (hr : ready (x.raw 0x32#7 5#3) i s = true)
    (hc : stashCourse (.squery x) i (ops (x.raw 0x32#7 5#3) i s) (prep (x.raw 0x32#7 5#3) i s) (touch (x.raw 0x32#7 5#3) i s) = some c) :
    Follows (x.raw 0x32#7 5#3) i s (execSquery x s) c := by
  cases hc
  have hp := (prep_step (r := x.raw 0x32#7 5#3) (issuing_exists (ready_parts hr).1)).within
  have hm : (prep (x.raw 0x32#7 5#3) i s).mappings = s.mappings := by
    rw [hp.world]
    rfl
  have hk : coreIs s i = coreIs (prep (x.raw 0x32#7 5#3) i s) i := by
    unfold coreIs
    rw [hp.block]
    rfl
  have hq : (fun l => squeryWord s i.blk (coreIs s i) (wa (ops (x.raw 0x32#7 5#3) i s) l).toNat) =
      fun l => squeryWord (prep (x.raw 0x32#7 5#3) i s) i.blk (coreIs (prep (x.raw 0x32#7 5#3) i s) i)
        (wa (ops (x.raw 0x32#7 5#3) i s) l).toNat :=
    funext (fun l => by rw [hk, squeryWord_of_mappings hm])
  rw [← hq]
  exact aluOp_goes hr _

/-! ### SFILL, SCLEAN and SDROP (R274, R277) -/

/-- The fills that a range operation asks for. -/
def rangeFill (kind : OpKind) (t : State) (core : Nat) (lns : List Nat) : Except (Nat × Xl) (State × Bool) :=
  if kind = .sfill then fillLines t core lns else .ok (t, false)

/-- The course of a range operation, as `stashCourse` has it for its three instructions. -/
def rangeCourse (kind : OpKind) (i : Issue) (e : Env) (u w : State) : Option Course :=
  let core := coreIs u i
  let a := (wa e e.low).toNat
  let n := (wb e e.low).toNat
  if rangeTrap u i.blk core a n then some (.traps 0x03 0 e.act [(12, a % 2 ^ 32), (13, a / 2 ^ 32)])
  else if decide (63 ≤ (fibIs u i).ctrs.getD 3 0) = true then some .stays
  else
    let lns := rangeLines a n
    match rangeFill kind u core lns with
    | .ok (v, cap) =>
      if cap = true ∧ v.misses = u.misses then some (.asks (capHold w i)) else
      some (.goes (startOp (capFree v i) i 3 kind (fun o => { o with elems := lns.map (fun ln =>
        { lane := 0, ok := kind = .sfill && isPresent (lineSt v core ln), loc := ln }) })))
    | .error (va, .fault c st lv) =>
      some (.parts (parkLanes w i e.act (fun _ => .fault (faultInfo w i .read 4 va c st lv))))
    | .error _ => some .stays

/-- R274: what a range operation does (`rangeOp`). -/
def rangeBody (kind : OpKind) (e : Env) (t : State) : State × After :=
  let a := (wa e e.low).toNat
  let lns := rangeLines a (wb e e.low).toNat
  let core := coreIs t e.i
  if rangeTrap t e.i.blk core a (wb e e.low).toNat then trapAll t e 0x03 0 (addrField a)
  else if ctrFull t e.i 3 then (t, .stay)
  else match rangeFill kind t core lns with
    | .error f => parkAll t e .read 4 f
    | .ok (t1, cap) =>
      if cap && t1.misses == t.misses then (capHold t e.i, .stay) else
      (startOp (capFree t1 e.i) e.i 3 kind (fun o => { o with elems := lns.map (fun ln =>
        { lane := 0, ok := kind = .sfill && isPresent (lineSt t1 core ln), loc := ln }) }), .advance)

theorem rangeOp_eq (r : Raw) (kind : OpKind) (s : State) : rangeOp r kind s = perIssueOp r s (rangeBody kind) := rfl

theorem fillLines_steady (core : Nat) (lns : List Nat) (s : State) {t : State} {cap : Bool}
    (h : fillLines s core lns = .ok (t, cap)) : Steady s t := by
  induction lns generalizing s with
  | nil =>
    cases h
    exact Steady.refl _
  | cons ln r ih =>
    unfold fillLines at h
    split at h
    · exact ih s h
    · next m j _ =>
      split at h
      · next x _ _ =>
        have ha := askLine_steady s x (m, j) .read .ok (fun pas y => { y with st := .filling, own := false, pas := pas })
        split at h
        · next heq =>
          rw [heq] at ha
          exact ha.trans (ih _ h)
        · next heq =>
          rw [heq] at ha
          cases h
          exact ha
        · cases h
        · cases h
      · exact ih s h

theorem fillLines_under (core : Nat) (lns : List Nat) (h : Alike s B) :
    fillLines (under s B) core lns = (fillLines s core lns).map (fun p => (under p.1 B, p.2)) := by
  induction lns generalizing s with
  | nil => rfl
  | cons ln r ih =>
    have hl : lineAt (under s B) core ln = lineAt s core ln := rfl
    have hm : (under s B).mappings = s.mappings := rfl
    have hd : ∀ m j, lineD (under s B) m j = lineD s m j := fun _ _ => rfl
    simp only [fillLines, hl, hm, hd, askLine_under h, ih h]
    split
    · rfl
    · next m j _ =>
      split
      · next x _ _ =>
        have ha := askLine_steady s x (m, j) .read .ok (fun pas y => { y with st := .filling, own := false, pas := pas })
        generalize askLine s x (m, j) .read .ok (fun pas y => { y with st := .filling, own := false, pas := pas }) = q at ha ⊢
        obtain ⟨t, k⟩ := q
        cases k
        case ok => exact ih (h.steady ha)
        all_goals rfl
      · rfl

/-- What stops a fill is a page fault or a locked page. -/
theorem fillLines_error (core : Nat) (lns : List Nat) (s : State) {f : Nat × Xl} (h : fillLines s core lns = .error f) :
    (∃ va c st lv, f = (va, .fault c st lv)) ∨ f = (0, .locked) := by
  induction lns generalizing s with
  | nil => cases h
  | cons ln r ih =>
    unfold fillLines at h
    split at h
    · exact ih s h
    · split at h
      · split at h
        · exact ih _ h
        · cases h
        · cases h
          exact .inl ⟨_, _, _, _, rfl⟩
        · cases h
          exact .inr rfl
      · exact ih s h

theorem rangeFill_steady {kind : OpKind} {t v : State} {core : Nat} {lns : List Nat} {cap : Bool}
    (h : rangeFill kind t core lns = .ok (v, cap)) : Steady t v := by
  unfold rangeFill at h
  split at h
  · exact fillLines_steady core lns t h
  · cases h
    exact Steady.refl _

theorem rangeFill_under (h : Alike s B) (kind : OpKind) (core : Nat) (lns : List Nat) :
    rangeFill kind (under s B) core lns = (rangeFill kind s core lns).map (fun p => (under p.1 B, p.2)) := by
  unfold rangeFill
  split
  · exact fillLines_under core lns h
  · rfl

theorem rangeFill_error {kind : OpKind} {t : State} {core : Nat} {lns : List Nat} {f : Nat × Xl}
    (h : rangeFill kind t core lns = .error f) : (∃ va c st lv, f = (va, .fault c st lv)) ∨ f = (0, .locked) := by
  unfold rangeFill at h
  split at h
  · exact fillLines_error core lns t h
  · cases h

section

variable {kind : OpKind} {e : Env} {t : State}

theorem rangeBody_ok {v : State} {cap : Bool}
    (ht : ¬rangeTrap t e.i.blk (coreIs t e.i) (wa e e.low).toNat (wb e e.low).toNat = true) (hf : ¬ctrFull t e.i 3 = true)
    (hv : rangeFill kind t (coreIs t e.i) (rangeLines (wa e e.low).toNat (wb e e.low).toNat) = .ok (v, cap)) :
    rangeBody kind e t = if cap && v.misses == t.misses then (capHold t e.i, .stay) else
      (startOp (capFree v e.i) e.i 3 kind (fun o => { o with
        elems := (rangeLines (wa e e.low).toNat (wb e e.low).toNat).map (fun ln =>
          { lane := 0, ok := kind = .sfill && isPresent (lineSt v (coreIs t e.i) ln), loc := ln }) }), .advance) := by
  refine (if_neg ht).trans ((if_neg hf).trans ?_)
  rw [hv]

theorem rangeBody_error {f : Nat × Xl}
    (ht : ¬rangeTrap t e.i.blk (coreIs t e.i) (wa e e.low).toNat (wb e e.low).toNat = true) (hf : ¬ctrFull t e.i 3 = true)
    (hv : rangeFill kind t (coreIs t e.i) (rangeLines (wa e e.low).toNat (wb e e.low).toNat) = .error f) :
    rangeBody kind e t = parkAll t e .read 4 f := by
  refine (if_neg ht).trans ((if_neg hf).trans ?_)
  rw [hv]

end

theorem prep_rangeTrap (hr : ready r i s = true) (a n : Nat) :
    rangeTrap (prep r i s) i.blk (coreIs (prep r i s) i) a n = rangeTrap (touch r i s) i.blk (coreIs (touch r i s) i) a n := by
  rw [prep_coreIs hr, prep_eq_under]
  rfl

/-- The fills are the same before and after the deaths of the issue's registers. -/
theorem prep_rangeFill (hr : ready r i s = true) (kind : OpKind) (lns : List Nat) :
    rangeFill kind (prep r i s) (coreIs (prep r i s) i) lns =
      (rangeFill kind (touch r i s) (coreIs (touch r i s) i) lns).map (fun p => (under p.1 (prep r i s).blocks, p.2)) := by
  rw [prep_coreIs hr, ← rangeFill_under (prep_alike r (issuing_exists (ready_parts hr).1)), ← prep_eq_under]

theorem prep_misses : (prep r i s).misses = (touch r i s).misses := by
  rw [prep_eq_under]
  rfl

theorem rangeOp_follows {kind : OpKind} (hr : ready r i s = true) (hx : r.x = none)
    (hc : rangeCourse kind i (ops r i s) (prep r i s) (touch r i s) = some c) : Follows r i s (rangeOp r kind s) c := by
  rw [rangeOp_eq]
  unfold rangeCourse at hc
  dsimp only at hc
  split at hc
  · next ht =>
    cases hc
    exact perIssue_traps hr hx (if_pos ht) (if_pos ((prep_rangeTrap hr _ _).symm.trans ht))
  · next ht =>
    have ht' := ht
    rw [prep_rangeTrap hr] at ht'
    split at hc
    · next hf =>
      cases hc
      exact perIssue_stays hr hx ((if_neg ht).trans (if_pos hf)) ((if_neg ht').trans (if_pos ((prep_ctrFull hr 3).symm.trans hf)))
    · next hf =>
      have hf' : ¬ctrFull (touch r i s) i 3 = true := fun h => hf ((prep_ctrFull hr 3).trans h)
      have hv := prep_rangeFill hr kind (rangeLines (wa (ops r i s) (ops r i s).low).toNat (wb (ops r i s) (ops r i s).low).toNat)
      generalize hw : rangeFill kind (touch r i s) (coreIs (touch r i s) i)
        (rangeLines (wa (ops r i s) (ops r i s).low).toNat (wb (ops r i s) (ops r i s).low).toNat) = q at hv
      cases q with
      | ok p =>
        obtain ⟨v, cap⟩ := p
        have hu : rangeFill kind (prep r i s) (coreIs (prep r i s) i)
          (rangeLines (wa (ops r i s) (ops r i s).low).toNat (wb (ops r i s) (ops r i s).low).toNat) =
            .ok (under v (prep r i s).blocks, cap) := hv
        have hb := rangeBody_ok (e := ops r i s) ht hf hu
        have hb' := rangeBody_ok (e := ops r i s) ht' hf' hw
        rw [hu] at hc
        dsimp only at hc
        split at hc
        · next hq =>
          have hu' : (cap && (under v (prep r i s).blocks).misses == (prep r i s).misses) = true := by simpa using hq
          have hw' : (cap && v.misses == (touch r i s).misses) = true := prep_misses (r := r) ▸ hu'
          cases hc
          refine follows_asks hr ((perIssue_body hr hx _ _).trans (hb.trans (if_pos hu')))
            ((perIssue_body hr hx _ _).trans (hb'.trans (if_pos hw'))) ?_
          rw [fibIs_of_blocks (capHold_quiet (touch r i s) i).blocks]
          exact touch_wait hr
        · next hq =>
          have hu' : ¬(cap && (under v (prep r i s).blocks).misses == (prep r i s).misses) = true := by simpa using hq
          cases hc
          refine perIssue_goes hr hx (hb.trans (if_neg hu')) ?_
          exact (Shape.of_blocks (rangeFill_steady hu).blocks).trans ((Shape.of_blocks (capFree_quiet _ i).blocks).trans (startOp_shape _ _ _ _ _))
      | error f =>
        have hu : rangeFill kind (prep r i s) (coreIs (prep r i s) i)
          (rangeLines (wa (ops r i s) (ops r i s).low).toNat (wb (ops r i s) (ops r i s).low).toNat) = .error f := hv
        have hb := (perIssue_body hr hx (rangeBody kind) _).trans (rangeBody_error (e := ops r i s) ht hf hu)
        have hb' := (perIssue_body hr hx (rangeBody kind) _).trans (rangeBody_error (e := ops r i s) ht' hf' hw)
        rw [hu] at hc
        rcases rangeFill_error hw with ⟨va, c, st, lv, rfl⟩ | rfl
        · cases hc
          have hp := (parkLanes_shape (touch r i s) i (ops r i s).act
            (fun _ => .fault (faultInfo (touch r i s) i .read 4 va c st lv))).placed (touch_placed hr)
          exact follows_parts hr hb hb' hp.here hp.lanes
        · cases hc
          exact follows_stays hr hb hb'

end

end Sys2Proof.Safety

namespace Sys2Proof.Safety

open Sys2Proof.Machine

/-- Settles O19: the stash instructions, one at a time. -/
theorem stashCourses : Obligations.StashCourses := by
  intro ins r i s c hraw _ hr hc
  unfold stashCourse at hc
  split at hc
  case h_1 =>
    cases hraw
    exact execSmap_follows hr hc
  case h_2 =>
    cases hraw
    exact execSunmap_follows hr hc
  case h_3 =>
    cases hraw
    exact rangeOp_follows (kind := .sfill) hr rfl hc
  case h_4 =>
    cases hraw
    exact rangeOp_follows (kind := .sclean) hr rfl hc
  case h_5 =>
    cases hraw
    exact rangeOp_follows (kind := .sdrop) hr rfl hc
  case h_6 =>
    cases hraw
    exact execSquery_follows hr hc
  case h_7 =>
    cases hraw
    exact execSadopt_follows hr hc
  case h_8 => exact absurd hc nofun

end Sys2Proof.Safety
end

section
/-!
Settles O35 (`LocalStoredBytes`): STL where no stash mapping stands.
-/

namespace Sys2Proof.Safety

open Sys2Proof.Machine

/-! ### Bytes written one by one -/

theorem rd_foldl_wr_of_ne {α : Type} {at' : α → Nat} {v : α → Byte} {c : Nat} {l : List α} {m : Memory} (hm : m.wf = true)
    (h : ∀ x ∈ l, at' x ≠ c) : Memory.rd (l.foldl (fun m x => Memory.wr m (at' x) (v x)) m) c = Memory.rd m c := by
  induction l generalizing m with
  | nil => rfl
  | cons x l ih =>
    rw [List.foldl_cons, ih (Memory.wf_wr hm _ _) (fun y hy => h y (List.mem_cons_of_mem _ hy)), Memory.rd_wr hm,
      if_neg (Ne.symm (h x List.mem_cons_self))]

theorem rd_foldl_wr_of_mem {α : Type} {at' : α → Nat} {v : α → Byte} {c : Nat} {b : Byte} {l : List α} {m : Memory} (hm : m.wf = true)
    (he : ∃ x ∈ l, at' x = c) (hv : ∀ x ∈ l, at' x = c → v x = b) :
    Memory.rd (l.foldl (fun m x => Memory.wr m (at' x) (v x)) m) c = b := by
  induction l generalizing m with
  | nil => simp at he
  | cons x l ih =>
    rw [List.foldl_cons]
    by_cases hl : ∃ y ∈ l, at' y = c
    · exact ih (Memory.wf_wr hm _ _) hl (fun y hy => hv y (List.mem_cons_of_mem _ hy))
    · have hx : at' x = c := by simpa [hl] using he
      rw [rd_foldl_wr_of_ne (Memory.wf_wr hm _ _) (fun y hy hc => hl ⟨y, hy, hc⟩), Memory.rd_wr hm, if_pos hx.symm]
      exact hv x List.mem_cons_self hx

/-- Bytes written from an address, as a store writes them. -/
def putFrom (m : Memory) (b : Nat) (bs : List Byte) : Memory :=
  (List.range bs.length).foldl (fun m k => Memory.wr m (b + k) (bs.getD k 0)) m

theorem putFrom_wf {m : Memory} (hm : m.wf = true) (b : Nat) (bs : List Byte) : (putFrom m b bs).wf = true := wf_foldl_wr hm

theorem rd_putFrom_out {m : Memory} (hm : m.wf = true) {b c : Nat} {bs : List Byte} (h : c < b ∨ b + bs.length ≤ c) :
    Memory.rd (putFrom m b bs) c = Memory.rd m c :=
  rd_foldl_wr_of_ne hm (fun k hk hc => by
    have := List.mem_range.1 hk
    omega)

theorem rd_putFrom_in {m : Memory} (hm : m.wf = true) (b : Nat) {bs : List Byte} {k : Nat} (h : k < bs.length) :
    Memory.rd (putFrom m b bs) (b + k) = bs.getD k 0 :=
  rd_foldl_wr_of_mem hm ⟨k, List.mem_range.2 h, rfl⟩ (fun j _ hj => by rw [Nat.add_left_cancel hj])

/-- The bytes of lanes, in order. -/
def putLanes (m : Memory) (b : Nat → Nat) (bs : Nat → List Byte) (ls : List Nat) : Memory :=
  ls.foldl (fun m l => putFrom m (b l) (bs l)) m

theorem rd_putLanes_out {m : Memory} (hm : m.wf = true) {b : Nat → Nat} {bs : Nat → List Byte} {ls : List Nat} {c : Nat}
    (h : ∀ l ∈ ls, c < b l ∨ b l + (bs l).length ≤ c) : Memory.rd (putLanes m b bs ls) c = Memory.rd m c := by
  induction ls generalizing m with
  | nil => rfl
  | cons l ls ih =>
    exact (ih (putFrom_wf hm _ _) (fun k hk => h k (List.mem_cons_of_mem _ hk))).trans (rd_putFrom_out hm (h l List.mem_cons_self))

/-- A byte reads as the last lane that reaches it stored it. -/
theorem rd_putLanes_in {m : Memory} (hm : m.wf = true) {b : Nat → Nat} {bs : Nat → List Byte} {ls : List Nat}
    (hs : ls.Pairwise (· < ·)) {l k : Nat} (hl : l ∈ ls) (hk : k < (bs l).length)
    (h : ∀ j ∈ ls, l < j → b l + k < b j ∨ b j + (bs j).length ≤ b l + k) :
    Memory.rd (putLanes m b bs ls) (b l + k) = (bs l).getD k 0 := by
  induction ls generalizing m with
  | nil => exact absurd hl List.not_mem_nil
  | cons x ls ih =>
    obtain ⟨hx, hs⟩ := List.pairwise_cons.1 hs
    rcases List.mem_cons.1 hl with rfl | hl
    · exact (rd_putLanes_out (putFrom_wf hm _ _) (fun j hj => h j (List.mem_cons_of_mem _ hj) (hx j hj))).trans (rd_putFrom_in hm _ hk)
    · exact ih (putFrom_wf hm _ _) hs hl (fun j hj => h j (List.mem_cons_of_mem _ hj))

section

variable {m : Memory} {place : Nat → Option Nat} {b : Nat → Nat} {bs : Nat → List Byte} {n : Nat} {ls : List Nat}

/-- Bytes outside the places of the lanes stay. -/
theorem putLanes_frame (hm : m.wf = true) (hb : ∀ l ∈ ls, place l = some (b l)) (hn : ∀ l, (bs l).length = n) (a : Nat)
    (ha : ∀ l ∈ ls, ∀ c, place l = some c → a < c ∨ c + n ≤ a) : Memory.rd (putLanes m b bs ls) a = Memory.rd m a :=
  rd_putLanes_out hm (fun l hl => by
    rw [hn]
    exact ha l hl _ (hb l hl))

/-- A byte that no later lane reaches reads as its lane stored it. -/
theorem putLanes_places (hm : m.wf = true) (hs : ls.Pairwise (· < ·)) (hb : ∀ l ∈ ls, place l = some (b l)) (hn : ∀ l, (bs l).length = n)
    {l k c : Nat} (hl : l ∈ ls) (hc : place l = some c) (hk : k < n)
    (h : ∀ j ∈ ls, l < j → ∀ d, place j = some d → c + k < d ∨ d + n ≤ c + k) :
    Memory.rd (putLanes m b bs ls) (c + k) = (bs l).getD k 0 := by
  obtain rfl : b l = c := Option.some.inj ((hb l hl).symm.trans hc)
  refine rd_putLanes_in hm hs hl (by rwa [hn]) (fun j hj hlt => ?_)
  rw [hn]
  exact h j hj hlt _ (hb j hj)

end

/-! ### The bytes of a lane -/

theorem natLe_length (n x : Nat) : (natLe n x).length = n := by
  induction n generalizing x with
  | zero => rfl
  | succ n ih => simp [natLe, ih]

theorem natLe_getD {n k : Nat} (h : k < n) (x : Nat) : (natLe n x).getD k 0 = BitVec.ofNat 8 (x / 256 ^ k) := by
  induction n generalizing x k with
  | zero => omega
  | succ n ih =>
    cases k with
    | zero => simp [natLe]
    | succ k =>
      rw [natLe, List.getD_cons_succ, ih (by omega), Nat.div_div_eq_div_mul, Nat.pow_succ, Nat.mul_comm]

theorem storeBytes_length (e : Env) (n l : Nat) : (storeBytes e n l).length = n := natLe_length _ _

theorem storeWidth_le (f : Nat) : Forms.storeWidth f ≤ 16 := by
  unfold Forms.storeWidth
  split <;> omega

theorem byte_low {d : Nat} (y : Nat) {k : Nat} (hk : k < 4) :
    BitVec.ofNat 8 ((d + 2 ^ 32 * y) / 256 ^ k) = BitVec.ofNat 8 (d / 256 ^ k) := by
  apply BitVec.eq_of_toNat_eq
  simp only [BitVec.toNat_ofNat]
  interval_cases k <;> omega

theorem byte_high {d : Nat} (hd : d < 2 ^ 32) (y k : Nat) : (d + 2 ^ 32 * y) / 256 ^ (k + 4) = y / 256 ^ k := by
  rw [show 256 ^ (k + 4) = 2 ^ 32 * 256 ^ k by ring, ← Nat.div_div_eq_div_mul, Nat.add_mul_div_left _ _ (by decide),
    Nat.div_eq_of_lt hd, Nat.zero_add]

/-- R257: the words of field D from the lowest, little-endian. -/
theorem storeBytes_getD (e : Env) {n k : Nat} (l : Nat) (hn : n ≤ 16) (hk : k < n) : (storeBytes e n l).getD k 0 = storedByte e l k := by
  have hd : ∀ j, (wd e.d j l).toNat < 2 ^ 32 := fun j => (wd e.d j l).isLt
  have he : ∀ j, 2 ^ (8 * j) = 256 ^ j := fun j => by rw [Nat.pow_mul]
  unfold storeBytes storedByte
  rw [natLe_getD hk, he, show (wd e.d 0 l).toNat + 2 ^ 32 * (wd e.d 1 l).toNat + 2 ^ 64 * (wd e.d 2 l).toNat + 2 ^ 96 * (wd e.d 3 l).toNat =
    (wd e.d 0 l).toNat + 2 ^ 32 * ((wd e.d 1 l).toNat + 2 ^ 32 * ((wd e.d 2 l).toNat + 2 ^ 32 * (wd e.d 3 l).toNat)) by ring]
  obtain ⟨q, j, hq, hj, rfl⟩ : ∃ q j, q < 4 ∧ j < 4 ∧ k = j + 4 * q := ⟨k / 4, k % 4, by omega, by omega, by omega⟩
  rw [show (j + 4 * q) / 4 = q by omega, show (j + 4 * q) % 4 = j by omega]
  match q, hq with
  | 0, _ => exact byte_low _ hj
  | 1, _ => rw [byte_high (hd 0), byte_low _ hj]
  | 2, _ => rw [show j + 4 * 2 = j + 4 + 4 by omega, byte_high (hd 0), byte_high (hd 1), byte_low _ hj]
  | 3, _ =>
    rw [show j + 4 * 3 = j + 4 + 4 + 4 by omega, byte_high (hd 0), byte_high (hd 1), byte_high (hd 2)]

/-- R31, R36: the active lanes stand in ascending order. -/
theorem act_ascending {r : Raw} {i : Issue} {s : State} (hi : issuing i s = true) : (ops r i s).act.Pairwise (· < ·) := by
  have hl : i.lanes.Pairwise (· < ·) := by
    simp only [issuing, Bool.and_eq_true, decide_eq_true_eq] at hi
    rw [← hi.2.1.2]
    exact List.pairwise_lt_range.sublist List.filter_sublist
  simp only [mkEnv, activeLanes]
  split
  · exact hl
  · split
    · exact hl.sublist List.filter_sublist
    · exact hl

end Sys2Proof.Safety
end

section
/-!
Settles O35 (`LocalStoredBytes`), continued: the lanes of an STL where no stash mapping stands.
-/

namespace Sys2Proof.Safety

open Sys2Proof.Machine

section

variable {s : State} {i : Issue}

/-! ### Without a stash mapping (R101) -/

theorem stashAt_unmapped (h : s.mappings = []) (core off : Nat) : stashAt s core off = none := by
  simp only [stashAt, h, List.find?_nil, Option.map_none]

theorem stashLines_unmapped (h : s.mappings = []) (core off n : Nat) : stashLines s core off n = [] := by
  unfold stashLines
  simp only [stashAt_unmapped h]
  induction List.range n with
  | nil => rfl
  | cons k l ih => exact ih

/-- The place of a lane's local access. -/
def placeOf (s : State) (i : Issue) (store : Bool) (n : Nat) (la : Nat → Nat) (l : Nat) : Nat × Nat :=
  (localOk s (ctxIs s i) (coreIs s i) (la l) n store).getD (0, 0)

theorem lMeet_unmapped (h : s.mappings = []) {store : Bool} {n : Nat} {la : Nat → Nat} {ls : List Nat}
    (hl : ∀ l ∈ ls, (localOk s (ctxIs s i) (coreIs s i) (la l) n store).isSome) :
    lMeet s i store n la ls = (s, { ok := ls.map (fun l => (l, placeOf s i store n la l)) }) := by
  suffices hm : ∀ ok, ls.foldl (lMeetLane s i store n la) (s, { ok := ok }) =
      (s, { ok := ok ++ ls.map (fun l => (l, placeOf s i store n la l)) }) from hm []
  induction ls with
  | nil => exact fun ok => by rw [List.map_nil, List.append_nil]; rfl
  | cons l ls ih =>
    intro ok
    obtain ⟨⟨core, off⟩, hp⟩ := Option.isSome_iff_exists.1 (hl l List.mem_cons_self)
    have hv : placeOf s i store n la l = (core, off) := by rw [placeOf, hp]; rfl
    have hq : lMeetLane s i store n la (s, { ok := ok }) l = (s, { ok := ok ++ [(l, core, off)] }) := by
      unfold lMeetLane
      dsimp only
      rw [hp]
      dsimp only
      rw [stashLines_unmapped h]
      rfl
    rw [List.foldl_cons, hq, ih (fun k hk => hl k (List.mem_cons_of_mem _ hk)), List.map_cons, hv, List.append_assoc]
    rfl

theorem lPut_unmapped (h : s.mappings = []) (core off : Nat) (bs : List Byte) :
    lPut s core off bs = sramClears { s with sram := putFrom s.sram (sramKey core off) bs } core off bs.length := by
  have hk : ∀ k, sramKey core (off + k) = sramKey core off + k := fun k => (Nat.add_assoc _ _ _).symm
  unfold lPut
  simp only [stashLines_unmapped h, stashAt_unmapped h, List.filter_true, List.isEmpty_nil, if_true, List.foldl_nil, hk]
  rfl

/-- What a local store changes: the bytes of its place. -/
theorem lStore_unmapped (h : s.mappings = []) (id lane la core off : Nat) (bs : List Byte) :
    (lStore s i id lane la core off bs).sram = putFrom s.sram (sramKey core off) bs ∧
    (lStore s i id lane la core off bs).mem = s.mem ∧ (lStore s i id lane la core off bs).mappings = [] := by
  have hl := fun a locs => landAt_quiet s a locs
  unfold lStore lStoreBy
  dsimp only
  rw [lPut_unmapped ((hl _ _).mappings.trans h)]
  have hq := (endReleases_quiet (sramClears { landAt s (agentOf i lane) (localLocs s core off bs.length) with
      sram := putFrom (landAt s (agentOf i lane) (localLocs s core off bs.length)).sram (sramKey core off) bs } core off bs.length)
      (localLocs s core off bs.length)).trans (addPieces_quiet _ id (agentOf i lane)
      (piecesOf (localWriter s (agentOf i lane) lane la core off) (unitSizes off bs.length) (localLocs s core off bs.length)
        (lRead s core off bs.length) bs))
  refine ⟨hq.sram.trans ?_, hq.mem.trans (hl _ _).mem, hq.mappings.trans ((hl _ _).mappings.trans h)⟩
  exact congrArg (putFrom · _ _) (hl _ _).sram

/-- What the local stores of lanes change: the bytes of their places. -/
theorem lStores_unmapped (h : s.mappings = []) (id : Nat) (la : Nat → Nat) (p : Nat → Nat × Nat) (bs : Nat → List Byte) (ls : List Nat) :
    ((ls.map (fun l => (l, p l))).foldl (fun t l => lStore t i id l.1 (la l.1) l.2.1 l.2.2 (bs l.1)) s).sram =
      putLanes s.sram (fun l => sramKey (p l).1 (p l).2) bs ls ∧
    ((ls.map (fun l => (l, p l))).foldl (fun t l => lStore t i id l.1 (la l.1) l.2.1 l.2.2 (bs l.1)) s).mem = s.mem := by
  induction ls generalizing s with
  | nil => exact ⟨rfl, rfl⟩
  | cons l ls ih =>
    obtain ⟨hs, hm, hn⟩ := lStore_unmapped (i := i) h id l (la l) (p l).1 (p l).2 (bs l)
    obtain ⟨is, im⟩ := ih hn
    rw [List.map_cons, List.foldl_cons]
    exact ⟨is.trans (by rw [hs]; rfl), im.trans hm⟩

/-- A local access whose lanes all reach their places completes. -/
theorem localAccess_unmapped {e : Env} {store : Bool} {n : Nat} {la : Nat → Nat} (h : s.mappings = [])
    (hl : ∀ l ∈ e.act, (localOk s (ctxIs s e.i) (coreIs s e.i) (la l) n store).isSome) (eff : State → List (Nat × Nat × Nat) → State) :
    localAccess e s store 1 n la eff = (eff (capFree s e.i) (e.act.map (fun l => (l, placeOf s e.i store n la l))), .advance) := by
  have hf : e.act.find? (fun l => decide (la l % 1 ≠ 0) || (localOk s (ctxIs s e.i) (coreIs s e.i) (la l) n store).isNone) = none :=
    List.find?_eq_none.2 (fun l hm => by simp [Nat.mod_one, Option.isSome_iff_ne_none.1 (hl l hm)])
  unfold localAccess
  rw [hf, lMeet_unmapped h hl]
  rfl

theorem placeOf_prep (r : Raw) (he : exists' i s) (store : Bool) (n : Nat) (la : Nat → Nat) (l : Nat) :
    placeOf (prep r i s) i store n la l = placeOf s i store n la l := by
  unfold placeOf
  rw [prep_localOk r he]

/-- A local store completes where every lane's place is legal, and writes the lanes' bytes in ascending order (R93, R122). -/
theorem storeLocal_unmapped {r : Raw} {body : Env → State → State × After} {n : Nat} {la : Nat → Nat} {bs : Nat → List Byte}
    (hr : ready r i s = true) (hm : s.mappings = [])
    (hl : ∀ l ∈ (ops r i s).act, (localOk s (ctxIs s i) (coreIs s i) (la l) n true).isSome)
    (hb : body (ops r i s) (prep r i s) = localAccess (ops r i s) (prep r i s) true 1 n la (fun v ls =>
      ls.foldl (fun t l => lStore t i v.nextId l.1 (la l.1) l.2.1 l.2.2 (bs l.1)) (addStore v i 3 .plain))) :
    ∃ t, laneInsn r s body = .next t ∧ t.mem = s.mem ∧ t.sram = putLanes s.sram
      (fun l => sramKey (placeOf s i true n la l).1 (placeOf s i true n la l).2) bs (ops r i s).act := by
  have he := issuing_exists (ready_parts hr).1
  have hw := (prep_step (r := r) he).within
  have hp : (prep r i s).mappings = [] := by
    rw [hw.world]
    exact hm
  have hk : ∀ l ∈ (ops r i s).act, (localOk (prep r i s) (ctxIs (prep r i s) i) (coreIs (prep r i s) i) (la l) n true).isSome :=
    fun l h => by
      rw [prep_localOk _ he]
      exact hl l h
  obtain ⟨t, ht, hi⟩ : Follows r i s (laneInsn r s body) (.goes _) :=
    follows_run hr (hb.trans (localAccess_unmapped hp hk _)) ((Shape.of_blocks (capFree_quiet _ i).blocks).trans (storeLocal_shape _ _ _ _))
  have hv := lStores_unmapped (s := addStore (capFree (prep r i s) i) i 3 .plain) (i := i) hp (capFree (prep r i s) i).nextId la
    (placeOf (prep r i s) i true n la) bs (ops r i s).act
  refine ⟨t, ht, hi.within.mem.trans (hv.2.trans hw.mem), hi.within.sram.trans (hv.1.trans ?_)⟩
  simp only [placeOf_prep r he]
  exact congrArg (putLanes · _ _ _) hw.sram

end

end Sys2Proof.Safety

namespace Sys2Proof.Safety

open Sys2Proof.Machine

/-- Settles O35: the lanes' bytes are written in ascending order, and nothing else is. -/
theorem localStoredBytes : Obligations.LocalStoredBytes := by
  intro x i s w e n place _ hr hm hsram hall
  have hplace : ∀ l, place l = (localOk s (ctxIs s i) (coreIs s i) (localEa e x.x.imm.toInt l) n true).map (fun p => sramKey p.1 p.2) :=
    fun l => rfl
  have hsome : ∀ l ∈ e.act, (place l).isSome := List.all_eq_true.1 hall
  have hl : ∀ l ∈ e.act, (localOk s (ctxIs s i) (coreIs s i) (localEa e x.x.imm.toInt l) n true).isSome := fun l h => by
    rw [← Option.isSome_map (f := fun p : Nat × Nat => sramKey p.1 p.2)]
    exact hsome l h
  obtain ⟨t, ht, hmem, hs⟩ : ∃ t, execStl x s = .next t ∧ _ := storeLocal_unmapped hr hm hl rfl
  have hb : ∀ l ∈ e.act, place l = some (sramKey (placeOf s i true n (localEa e x.x.imm.toInt) l).1
      (placeOf s i true n (localEa e x.x.imm.toInt) l).2) := fun l h => by
    obtain ⟨p, hp⟩ := Option.isSome_iff_exists.1 (hl l h)
    rw [hplace, placeOf, hp]
    rfl
  have hlen : ∀ l, (storeBytes e n l).length = n := storeBytes_length e n
  refine ⟨t, ht, hmem, fun a ha => ?_, fun l k b hla hlb hk hj => ?_⟩
  · rw [hs]
    exact putLanes_frame hsram hb hlen a ha
  · rw [hs]
    exact (putLanes_places hsram (act_ascending (ready_parts hr).1) hb hlen hla hlb hk hj).trans
      (storeBytes_getD e l (storeWidth_le _) hk)

end Sys2Proof.Safety
end

section
/-!
Settles O34 (`StoreFrame`): a byte of memory that no lane's store reaches and no stash line maps stays, whatever else a store brings
about: recalled lines, whose bytes go back to memory, are lines of mappings.
-/

namespace Sys2Proof.Safety

open Sys2Proof.Machine

/-- Memory is canonical and reads some byte at an address, and no stash line maps that address (R101). -/
structure Untouched (a : Nat) (b : Byte) (s : State) : Prop where
  wf : s.mem.wf = true
  rd : Memory.rd s.mem a = b
  unmapped : ∀ p ∈ s.mappings, ∀ y ∈ p.2.lines, a ∉ y.pas

section

variable {a : Nat} {b : Byte} {s t : State}

theorem Untouched.of_same (h : Untouched a b s) (hm : t.mem = s.mem) (hp : t.mappings = s.mappings) : Untouched a b t :=
  ⟨by rw [hm]; exact h.wf, by rw [hm]; exact h.rd, by rw [hp]; exact h.unmapped⟩

theorem Untouched.quiet (h : Untouched a b s) (q : Quiet s t) : Untouched a b t := h.of_same q.mem q.mappings

theorem foldl_untouched {α : Type} {g : State → α → State} {l : List α} (hg : ∀ t, ∀ x ∈ l, Untouched a b t → Untouched a b (g t x))
    (h : Untouched a b s) : Untouched a b (l.foldl g s) := by
  induction l generalizing s with
  | nil => exact h
  | cons x l ih => exact ih (fun t y hy => hg t y (List.mem_cons_of_mem _ hy)) (hg s x List.mem_cons_self h)

/-- Bytes enter memory elsewhere. -/
theorem Untouched.putRaw (h : Untouched a b s) {pas : List Nat} (ha : a ∉ pas) (bs : List Byte) : Untouched a b (putRaw s pas bs) := by
  have hm : (Machine.putRaw s pas bs).mem = (pas.zip bs).foldl (fun m p => Memory.wr m p.1 p.2) s.mem := rfl
  refine ⟨by rw [hm]; exact Memory.wf_writes h.wf _, ?_, h.unmapped⟩
  rw [hm]
  refine (rd_foldl_wr_of_ne h.wf (fun p hp hc => ha ?_)).trans h.rd
  rw [← hc]
  exact (List.of_mem_zip hp).1

theorem mem_modify {α : Type} {l : List α} {j : Nat} {g : α → α} {y : α} (h : y ∈ l.modify j g) : ∃ z ∈ l, y = z ∨ y = g z := by
  obtain ⟨k, hk, rfl⟩ := List.mem_iff_getElem.1 h
  rw [List.length_modify] at hk
  refine ⟨l[k], List.getElem_mem hk, ?_⟩
  rw [List.getElem_modify]
  split
  · exact .inr rfl
  · exact .inl rfl

/-- An entry below the default stands in the list. -/
theorem getD_mem_of_lt {l : List Nat} {k d : Nat} (h : l.getD k d < d) (c : Nat) : l.getD k c ∈ l := by
  by_cases hn : k < l.length
  · rw [List.getD_eq_getElem _ _ hn]
    exact List.getElem_mem hn
  · rw [List.getD_eq_default _ _ (by omega)] at h
    exact absurd h (Nat.lt_irrefl d)

theorem addPoison_quiet (s : State) (lns : List Nat) : Quiet s (addPoison s lns) := Quiet.of_same rfl

/-- A stash line changes, but maps no address that it did not map. -/
theorem Untouched.updLine (h : Untouched a b s) (m j : Nat) {g : SLine → SLine} (hg : ∀ y, (g y).pas ⊆ y.pas) :
    Untouched a b (updLine s m j g) := by
  refine ⟨h.wf, h.rd, fun p hp y hy => ?_⟩
  obtain ⟨q, hq, rfl⟩ := List.mem_map.1 hp
  split at hy
  · obtain ⟨z, hz, rfl | rfl⟩ := mem_modify hy
    · exact h.unmapped q hq _ hz
    · exact fun hc => h.unmapped q hq z hz (hg z hc)
  · exact h.unmapped q hq y hy

/-- R104: the bytes that a stash line gives back are bytes that it maps. -/
theorem Untouched.writeBack (h : Untouched a b s) (m j : Nat) : Untouched a b (writeBack s m j) := by
  unfold Machine.writeBack
  split
  · exact h
  · next x hx =>
    have hl : a ∉ (x.lines.getD j {}).pas := by
      by_cases hj : j < x.lines.length
      · rw [List.getD_eq_getElem _ _ hj]
        exact h.unmapped _ (mget_mem hx) _ (List.getElem_mem hj)
      · rw [List.getD_eq_default _ _ (by omega)]
        exact List.not_mem_nil
    refine Untouched.updLine (Untouched.quiet (Untouched.putRaw h (fun hc => hl ?_) _) (addPoison_quiet _ _)) m j
      (fun y => List.Subset.refl _)
    obtain ⟨k, hk, rfl⟩ := List.mem_map.1 hc
    have hk' := (List.mem_filter.1 hk).2
    rw [Bool.and_eq_true, decide_eq_true_eq] at hk'
    exact getD_mem_of_lt hk'.2 0

theorem Untouched.recallLine (h : Untouched a b s) (m j : Nat) : Untouched a b (recallLine s m j) := by
  unfold Machine.recallLine
  split
  · exact (h.writeBack m j).updLine m j (fun y => List.Subset.refl _)
  · exact h

theorem Untouched.invalidateLine (h : Untouched a b s) (m j : Nat) : Untouched a b (invalidateLine s m j) := by
  unfold Machine.invalidateLine
  split
  · exact h.updLine m j (fun y => List.nil_subset _)
  · exact h.updLine m j (fun y => List.Subset.refl _)
  · exact (h.writeBack m j).updLine m j (fun y => List.nil_subset _)
  · exact h

theorem Untouched.recalls (h : Untouched a b s) (but : Option (Nat × Nat)) (wr : Bool) (pas : List Nat) :
    Untouched a b (recalls s but wr pas) := by
  refine foldl_untouched (fun t ln _ ht => foldl_untouched (fun u p _ hu => ?_) ht) h
  cases wr
  · exact hu.recallLine _ _
  · exact hu.invalidateLine _ _

/-- R104, R120: a store of a lane to other bytes. -/
theorem Untouched.gStore (h : Untouched a b s) (q : Retain) (i : Issue) (id lane va : Nat) {pas : List Nat} (ha : a ∉ pas) (bs : List Byte) :
    Untouched a b (gStore q s i id lane va pas bs) := by
  unfold Machine.gStore gPut
  dsimp only
  have hp := ((h.quiet (landAt_quiet s (agentOf i lane) pas)).recalls none true pas).putRaw ha bs
  exact ((hp.quiet (touchMscBy_quiet _ _ _ _ _)).quiet (endReleases_quiet _ _)).quiet (addPieces_quiet _ _ _ _)

end

/-! ### The lanes' bytes -/

theorem gMeetLane_ok {s : State} {i : Issue} {k : AccKind} {n : Nat} {ea : Nat → Nat} {m : Met} {l : Nat} {p : GLane}
    (hp : p ∈ (gMeetLane s i k n ea m l).ok) : p ∈ m.ok ∨ (p.1 = l ∧ laneBytes i s k n (ea p.1) = some p.2) := by
  unfold gMeetLane at hp
  split at hp
  · next pas heq =>
    rcases List.mem_append.1 hp with hp | hp
    · exact .inl hp
    · obtain rfl := List.mem_singleton.1 hp
      refine .inr ⟨rfl, ?_⟩
      unfold laneBytes
      rw [heq]
      rfl
  · exact .inl hp
  · exact .inl hp

/-- A lane performs its access at the bytes that its addresses translate to. -/
theorem gMeetLanes_ok {s : State} {i : Issue} {k : AccKind} {n : Nat} {ea : Nat → Nat} {ls : List Nat} {p : GLane}
    (hp : p ∈ (gMeetLanes s i k n ea ls).ok) : p.1 ∈ ls ∧ laneBytes i s k n (ea p.1) = some p.2 := by
  suffices hm : ∀ m : Met, p ∈ (ls.foldl (gMeetLane s i k n ea) m).ok → p ∈ m.ok ∨ (p.1 ∈ ls ∧ laneBytes i s k n (ea p.1) = some p.2) from
    (hm _ hp).resolve_left List.not_mem_nil
  clear hp
  induction ls with
  | nil => exact fun m hp => .inl hp
  | cons l ls ih =>
    intro m hp
    rcases ih _ hp with hp | ⟨hl, hb⟩
    · rcases gMeetLane_ok hp with hp | ⟨rfl, hb⟩
      · exact .inl hp
      · exact .inr ⟨List.mem_cons_self, hb⟩
    · exact .inr ⟨List.mem_cons_of_mem _ hl, hb⟩

theorem gMeet_ok_eq (s : State) (i : Issue) (k : AccKind) (n : Nat) (ea : Nat → Nat) (ls : List Nat) :
    (gMeet s i k n ea ls).ok = (gMeetLanes s i k n ea ls).ok := by
  rw [gMeet_eq]
  split
  · rfl
  · split <;> rfl

theorem laneBytes_touch (r : Raw) (i : Issue) (s : State) (k : AccKind) (n a : Nat) :
    laneBytes i (touch r i s) k n a = laneBytes i s k n a := by
  have hb : blkD (touch r i s) i.blk = { blkD s i.blk with slots := (blkD (touch r i s) i.blk).slots } :=
    (touchRegs_residence r (ops r i s) s).within.block i.blk
  have hc : ctxIs (touch r i s) i = ctxIs s i := by
    unfold ctxIs
    rw [hb]
  have hd : coreIs (touch r i s) i = coreIs s i := by
    unfold coreIs
    rw [hb]
    rfl
  have hx : ∀ c core va, xlate (touch r i s) c core va k = xlate s c core va k := fun c core va => by
    unfold touch touchRegs
    rw [landFlights_eq]
    rfl
  simp only [laneBytes, hc, hd, hx]

theorem laneBytes_prep {r : Raw} {i : Issue} {s : State} (he : exists' i s) (k : AccKind) (n a : Nat) :
    laneBytes i (prep r i s) k n a = laneBytes i s k n a := by
  have ha := prep_alike r he
  have hx : ∀ c core va, xlate (under (touch r i s) (prep r i s).blocks) c core va k = xlate (touch r i s) c core va k := fun _ _ _ => rfl
  rw [← laneBytes_touch r i s, prep_eq_under]
  simp only [laneBytes, ha.ctxIs, ha.coreIs, hx]

section

variable {a : Nat} {b : Byte} {i : Issue} {s v : State} {q : Retain} {n : Nat} {ea : Nat → Nat} {bs : Nat → List Byte} {ls : List Nat}

/-- The stores of an issue's lanes leave a byte that none of them reaches. -/
theorem stores_untouched (h : Untouched a b v) (hl : ∀ l ∈ ls, ∀ pas, laneBytes i v .write n (ea l) = some pas → a ∉ pas) :
    Untouched a b (sendAll q i (coreIs v i) .write v.nextId
      ((gMeet v i .write n ea ls).ok.foldl (fun t l => gStore q t i (gMeet v i .write n ea ls).s.nextId l.1 (ea l.1) l.2 (bs l.1))
        (addStore (gMeet v i .write n ea ls).s i 3 .plain)) ((gMeet v i .write n ea ls).ok.flatMap (·.2))) := by
  have h0 : Untouched a b (addStore (gMeet v i .write n ea ls).s i 3 .plain) := (h.quiet (gMeet_quiet v i _ _ _ _)).of_same rfl rfl
  refine Untouched.quiet (foldl_untouched (fun t p hp ht => ?_) h0) (sendAll_quiet _ _ _ _ _ _ _)
  rw [gMeet_ok_eq] at hp
  obtain ⟨hm, hb⟩ := gMeetLanes_ok hp
  exact ht.gStore q i _ p.1 _ (hl p.1 hm p.2 hb) _

theorem parkBad_mem (s : State) (i : Issue) (bad : List (Nat × FaultInfo)) : (parkBad s i bad).mem = s.mem := by
  unfold parkBad
  induction bad generalizing s with
  | nil => rfl
  | cons p bad ih => exact ih _

/-- What a lane's global access performs, once it has met its translations (`globalCourse`). -/
def performed (q : Retain) (i : Issue) (e : Env) (k : AccKind) (n : Nat) (ea : Nat → Nat) (eff : State → List GLane → State)
    (v : State) : State :=
  sendAll q i (coreIs v i) k v.nextId (eff (gMeet v i k n ea e.act).s (gMeet v i k n ea e.act).ok)
    ((gMeet v i k n ea e.act).ok.flatMap (·.2))

/-- A global access traps, asks again, goes on, or parks some lanes: it has a course in every state. -/
theorem globalCourse_cases (q : Retain) (i : Issue) (e : Env) (u w : State) (k : AccKind) (al n : Nat) (ea : Nat → Nat)
    (eff : State → List GLane → State) :
    (∃ l more, globalCourse q i e u w k al n ea eff = some (.traps 0x02 0 [l] more)) ∨
    globalCourse q i e u w k al n ea eff = some (.asks (gMeet w i k n ea e.act).s) ∨
    globalCourse q i e u w k al n ea eff = some (.goes (performed q i e k n ea eff u)) ∨
    globalCourse q i e u w k al n ea eff =
      some (.parts (parkBad (performed q i e k n ea eff w) i (gMeet w i k n ea e.act).bad)) := by
  unfold globalCourse
  split
  · exact .inl ⟨_, _, rfl⟩
  · dsimp only
    split
    · exact .inr (.inl rfl)
    · split
      · exact .inr (.inr (.inl rfl))
      · exact .inr (.inr (.inr rfl))

end

/-- Settles O34, by the course of ST: where it performs its stores, the invariant `Untouched` is kept by each of them. -/
theorem storeFrame : Obligations.StoreFrame := by
  intro x i s t w e hr hwf hstep a hl hm
  have he := issuing_exists (ready_parts hr).1
  have hu : Untouched a (Memory.rd s.mem a) s := ⟨hwf, rfl, hm⟩
  have hpw := (prep_step (r := w) he).within
  have htw : Residence i (landed w i s) (touch w i s) := touchRegs_residence w (ops w i s) s
  have hp : Untouched a (Memory.rd s.mem a) (prep w i s) := hu.of_same hpw.mem (by rw [hpw.world]; rfl)
  have ht : Untouched a (Memory.rd s.mem a) (touch w i s) := hu.of_same htw.within.mem (by rw [htw.within.world]; rfl)
  have hlp : ∀ l ∈ e.act, ∀ pas, laneBytes i (prep w i s) .write (Forms.storeWidth x.f.toNat) (globalEa e x.x.imm.toInt l) = some pas →
      a ∉ pas := fun l h pas hpas => hl l h pas ((laneBytes_prep he _ _ _).symm.trans hpas)
  have hlt : ∀ l ∈ e.act, ∀ pas, laneBytes i (touch w i s) .write (Forms.storeWidth x.f.toNat) (globalEa e x.x.imm.toInt l) = some pas →
      a ∉ pas := fun l h pas hpas => hl l h pas ((laneBytes_touch w i s _ _ _).symm.trans hpas)
  have next : ∀ t', execSt x s = .next t' → t' = t := fun t' h => Host.Outcome.next.inj (h.symm.trans hstep)
  rcases globalCourse_cases (retainOf x.b.toNat) i e (prep w i s) (touch w i s) .write 1 (Forms.storeWidth x.f.toNat)
    (globalEa e x.x.imm.toInt) (fun v ls => ls.foldl (fun t l => gStore (retainOf x.b.toNat) t i v.nextId l.1
      (globalEa e x.x.imm.toInt l.1) l.2 (storeBytes e (Forms.storeWidth x.f.toNat) l.1)) (addStore v i 3 .plain)) with
    ⟨l, more, hc⟩ | hc | hc | hc
  all_goals
    obtain ⟨t', ht', hf⟩ := execSt_follows hr hc
    obtain rfl := next t' ht'
  · exact congrArg (Memory.rd · a) hf.1.memory.1
  · have hq := gMeet_quiet (touch w i s) i .write (Forms.storeWidth x.f.toNat) (globalEa e x.x.imm.toInt) e.act
    rw [hf.within.mem, hq.mem]
    exact ht.rd
  · rw [hf.within.mem]
    exact (stores_untouched hp hlp).rd
  · rw [hf.within.mem, parkBad_mem]
    exact (stores_untouched ht hlt).rd

end Sys2Proof.Safety
end

section
/-!
SUPPORT. Global accesses whose lanes all reach their bytes (R253, R254, R465): what lands before an issue begins lets no more misses
stand, so that an access that goes out where the issue begins also goes out where it makes its effect; and it completes.
-/

namespace Sys2Proof.Safety

open Sys2Proof.Machine

section

variable {r : Raw} {i : Issue} {s : State} {e : Env} {k : AccKind} {n : Nat} {ea : Nat → Nat}

/-! ### Misses outstanding where an issue begins (R465) -/

/-- Landing accesses leaves the places of the parts of stores (R436). -/
theorem landFlights_locs (s : State) (p : Flight → Bool) (m : Nat → Bool) (c : List Nat → Bool) :
    (landFlights s p).stores.any (fun q => m q.id && q.pieces.any (fun y => c y.locs)) =
      s.stores.any (fun q => m q.id && q.pieces.any (fun y => c y.locs)) := by
  unfold landFlights mapParts
  dsimp only
  split
  · rfl
  · split
    · rfl
    · simp only [List.any_map, Function.comp_def]
      refine any_congr_mem (fun q _ => congrArg _ (any_congr_mem (fun y _ => ?_)))
      split <;> rfl

theorem touch_flights_sub {x : Flight} (h : x ∈ (touch r i s).flights) : x ∈ s.flights := by
  unfold touch touchRegs landFlights at h
  dsimp only at h
  split at h
  · exact h
  · exact (List.mem_filter.1 h).1

theorem touch_locs (r : Raw) (i : Issue) (s : State) (m : Nat → Bool) (c : List Nat → Bool) :
    (touch r i s).stores.any (fun q => m q.id && q.pieces.any (fun y => c y.locs)) =
      s.stores.any (fun q => m q.id && q.pieces.any (fun y => c y.locs)) := landFlights_locs (updSlot s _ _ _) _ m c

theorem flightStands_touch (r : Raw) (i : Issue) (s : State) (x : Flight) : x.stands (touch r i s) = x.stands s := by
  have h : ∀ b k a, mget (slotD (touch r i s) b k).regs a = mget (slotD s b k).regs a :=
    (touchRegs_residence r (ops r i s) s).regs
  simp only [Flight.stands, h]

/-- A miss that stands once an issue has begun stood before it. -/
theorem missStands_touch {x : Miss} (h : x.stands (touch r i s) = true) : x.stands s = true := by
  have hw : touch r i s = { s with blocks := (touch r i s).blocks, stores := (touch r i s).stores, flights := (touch r i s).flights } := by
    unfold touch touchRegs
    rw [landFlights_eq]
    rfl
  unfold Miss.stands at h ⊢
  split at h
  · dsimp only at h ⊢
    simp only [Bool.or_eq_true] at h ⊢
    rcases h with (h | h) | h
    · obtain ⟨y, hy, hm⟩ := List.any_eq_true.1 h
      rw [flightStands_touch] at hm
      exact .inl (.inl (List.any_eq_true.2 ⟨y, touch_flights_sub hy, hm⟩))
    · rw [hw] at h
      exact .inl (.inr h)
    · next lo hi ln _ =>
      exact .inr ((touch_locs r i s (fun n => decide (lo ≤ n) && decide (n < hi)) (fun ls => ls.any (fun a => a / 64 == ln))).symm.trans h)
  · rw [hw] at h
    exact h

/-- R465: an access that the misses outstanding let go out where the issue begins goes out where it makes its effect. -/
theorem capStalls_touch {core : Nat} {pas : List Nat} (h : capStalls s i core k pas = false) :
    capStalls (touch r i s) i core k pas = false := by
  have hw : touch r i s = { s with blocks := (touch r i s).blocks, stores := (touch r i s).stores, flights := (touch r i s).flights } := by
    unfold touch touchRegs
    rw [landFlights_eq]
    rfl
  have hb : blkD (touch r i s) i.blk = { blkD s i.blk with slots := (blkD (touch r i s) i.blk).slots } :=
    (touchRegs_residence r (ops r i s) s).within.block i.blk
  have hc : ctxIs (touch r i s) i = ctxIs s i := by
    unfold ctxIs
    rw [hb]
  have hk : ∀ c, ctxD (touch r i s) c = ctxD s c := fun c => by rw [hw]; rfl
  have hm : ∀ c, missCap (touch r i s) c = missCap s c := fun c => by rw [hw]; rfl
  have hl : ∀ die ln, inL2 (touch r i s) die ln = inL2 s die ln := fun die ln => by rw [hw]; rfl
  have hs : (touch r i s).misses = s.misses := by rw [hw]
  have hq : ∀ quad part, (quadMisses (touch r i s) quad part).length ≤ (quadMisses s quad part).length := fun quad part => by
    unfold quadMisses
    rw [hs]
    refine (List.monotone_filter_right s.misses (fun x hx => ?_)).length_le
    rw [Bool.and_eq_true] at hx ⊢
    exact ⟨hx.1, missStands_touch hx.2⟩
  unfold capStalls missStall at h ⊢
  rw [hc, hk, hm]
  simp only [hl, Bool.and_eq_false_iff, decide_eq_false_iff_not] at h ⊢
  exact h.imp_left (fun h => by have := hq (core / 4) (ctxD s (ctxIs s i)).part; omega)

/-! ### Lanes that reach their bytes -/

/-- The physical bytes of a lane's access, none where it is not translated. -/
def pasOf (i : Issue) (s : State) (k : AccKind) (n : Nat) (ea : Nat → Nat) (l : Nat) : List Nat := (laneBytes i s k n (ea l)).getD []

theorem pasOf_of_some {l : Nat} {pas : List Nat} (h : laneBytes i s k n (ea l) = some pas) : pasOf i s k n ea l = pas := by
  rw [pasOf, h]
  rfl

/-- Each lane with its bytes. -/
def lanePas (i : Issue) (s : State) (k : AccKind) (n : Nat) (ea : Nat → Nat) (ls : List Nat) : List GLane :=
  ls.map (fun l => (l, pasOf i s k n ea l))

theorem gMeetLane_reached {m : Met} {l : Nat} (h : (laneBytes i s k n (ea l)).isSome) :
    gMeetLane s i k n ea m l = { m with ok := m.ok ++ [(l, pasOf i s k n ea l)] } := by
  unfold gMeetLane pasOf
  unfold laneBytes at h ⊢
  split
  · next heq =>
    rw [heq]
    rfl
  · next heq =>
    rw [heq] at h
    cases h
  · next heq =>
    rw [heq] at h
    cases h

theorem gMeetLanes_reached {ls : List Nat} (h : ∀ l ∈ ls, (laneBytes i s k n (ea l)).isSome) :
    gMeetLanes s i k n ea ls = { s := s, stall := false, ok := lanePas i s k n ea ls, bad := [] } := by
  suffices hm : ∀ m : Met, ls.foldl (gMeetLane s i k n ea) m = { m with ok := m.ok ++ lanePas i s k n ea ls } from hm _
  induction ls with
  | nil => exact fun m => by simp [lanePas]
  | cons l ls ih =>
    intro m
    rw [List.foldl_cons, gMeetLane_reached (h l List.mem_cons_self), ih (fun j hj => h j (List.mem_cons_of_mem _ hj)) _]
    simp [lanePas]

/-- R253, R465: what `reaches` says. -/
theorem reaches_iff : reaches i e s k n ea = true ↔
    (∀ l ∈ e.act, (spanOf (ea l) n).all canonical = true ∧ (laneBytes i s k n (ea l)).isSome = true) ∧
      capStalls s i (coreIs s i) k ((lanePas i s k n ea e.act).flatMap (·.2)) = false := by
  simp only [reaches, Bool.and_eq_true, List.all_eq_true, Bool.not_eq_true', lanePas, List.flatMap_map]
  rfl

/-- Lanes that reach their bytes where the issue begins reach them where it makes its effect. -/
theorem reaches_prep (he : exists' i s) (h : reaches i e s k n ea = true) : reaches i e (prep r i s) k n ea = true := by
  have hc : coreIs (prep r i s) i = coreIs s i := by
    have hb : blkD (prep r i s) i.blk = { blkD s i.blk with slots := (blkD (prep r i s) i.blk).slots } := (prep_step he).within.block i.blk
    unfold coreIs
    rw [hb]
    rfl
  obtain ⟨hl, hs⟩ := reaches_iff.1 h
  refine reaches_iff.2 ⟨fun l hm => ?_, ?_⟩
  · rw [laneBytes_prep he]
    exact hl l hm
  · have hp : lanePas i (prep r i s) k n ea e.act = lanePas i s k n ea e.act := by
      simp only [lanePas, pasOf, laneBytes_prep he]
    rw [hc, hp, prep_eq_under, (prep_alike r he).capStalls]
    exact capStalls_touch hs

/-- What an access meets whose lanes all reach their bytes. -/
theorem gMeet_reached (h : reaches i e s k n ea = true) :
    gMeet s i k n ea e.act = { s := seekTlb s (ctxIs s i) (coreIs s i) k (e.act.flatMap (fun l => spanOf (ea l) n)), stall := false,
                               ok := lanePas i s k n ea e.act, bad := [] } := by
  obtain ⟨hl, hs⟩ := reaches_iff.1 h
  rw [gMeet_eq, gMeetLanes_reached (fun l hm => (hl l hm).2)]
  simp only [hs, Bool.false_eq_true, if_false]

/-- R253: a global access whose lanes all reach their bytes completes. -/
theorem globalAccess_reached {q : Retain} (hi : e.i = i) (h : reaches i e s k n ea = true) (eff : State → List GLane → State) :
    globalAccess q e s k 1 n ea eff = (performed q i e k n ea eff s, .advance) := by
  have hf : e.act.find? (fun l => badGlobal 1 n (ea l)) = none :=
    List.find?_eq_none.2 (fun l hm => by simp [badGlobal, Nat.mod_one, ((reaches_iff.1 h).1 l hm).1])
  unfold globalAccess performed
  rw [hf]
  subst hi
  dsimp only
  rw [gMeet_reached h]
  rfl

end

/-! ### Memory without stash mappings (R101) -/

theorem recalls_unmapped {s : State} (h : s.mappings = []) (but : Option (Nat × Nat)) (wr : Bool) (pas : List Nat) :
    recalls s but wr pas = s := by
  have hr : ∀ ln, recallAt s but wr ln = s := fun ln => by
    unfold recallAt holders
    rw [h]
    rfl
  unfold recalls
  induction nub (pas.map (· / 64)) with
  | nil => rfl
  | cons ln lns ih => rw [List.foldl_cons, hr, ih]

end Sys2Proof.Safety
end

section
/-!
Settles O33 (`StoredBytes`): ST where every byte is translated and no stash mapping stands.
-/

namespace Sys2Proof.Safety

open Sys2Proof.Machine

/-! ### Bytes written in order -/

/-- Bytes enter a memory one by one. -/
def putBytesAt (m : Memory) (ps : List (Nat × Byte)) : Memory := ps.foldl (fun m p => Memory.wr m p.1 p.2) m

/-- A byte reads as it was written last. -/
theorem rd_putBytesAt_last {m : Memory} (hm : m.wf = true) {ps : List (Nat × Byte)} {k a : Nat} {b : Byte} (hk : ps[k]? = some (a, b))
    (hl : ∀ j, k < j → ∀ p, ps[j]? = some p → p.1 ≠ a) : Memory.rd (putBytesAt m ps) a = b := by
  induction ps generalizing m k with
  | nil => simp at hk
  | cons p ps ih =>
    cases k with
    | zero =>
      obtain rfl : p = (a, b) := by simpa using hk
      refine (rd_foldl_wr_of_ne (Memory.wf_wr hm _ _) (fun q hq => ?_)).trans (by rw [Memory.rd_wr hm, if_pos rfl])
      obtain ⟨j, hj⟩ := List.mem_iff_getElem?.1 hq
      exact hl (j + 1) (Nat.succ_pos j) q (by simpa using hj)
    | succ k => exact ih (Memory.wf_wr hm _ _) (by simpa using hk) (fun j hj q hq => hl (j + 1) (by omega) q (by simpa using hq))

/-- The bytes of lanes, each at its places, in order. -/
def putLanesAt (m : Memory) (ps : Nat → List Nat) (bs : Nat → List Byte) (ls : List Nat) : Memory :=
  ls.foldl (fun m l => putBytesAt m ((ps l).zip (bs l))) m

section

variable {m : Memory} {ps : Nat → List Nat} {bs : Nat → List Byte} {ls : List Nat} {a : Nat}

theorem rd_putLanesAt_out (hm : m.wf = true) (h : ∀ l ∈ ls, a ∉ ps l) : Memory.rd (putLanesAt m ps bs ls) a = Memory.rd m a := by
  induction ls generalizing m with
  | nil => rfl
  | cons l ls ih =>
    refine (ih (Memory.wf_writes hm _) (fun j hj => h j (List.mem_cons_of_mem _ hj))).trans (rd_foldl_wr_of_ne hm (fun p hp hc => ?_))
    exact h l List.mem_cons_self (hc ▸ (List.of_mem_zip hp).1)

/-- A byte reads as the last lane that reaches it wrote it last. -/
theorem rd_putLanesAt_in (hm : m.wf = true) (hs : ls.Pairwise (· < ·)) {l k : Nat} (hl : l ∈ ls) (hk : (ps l)[k]? = some a)
    (hb : k < (bs l).length) (hlast : ∀ j, k < j → (ps l)[j]? ≠ some a) (h : ∀ j ∈ ls, l < j → a ∉ ps j) :
    Memory.rd (putLanesAt m ps bs ls) a = (bs l).getD k 0 := by
  induction ls generalizing m with
  | nil => exact absurd hl List.not_mem_nil
  | cons x ls ih =>
    obtain ⟨hx, hs⟩ := List.pairwise_cons.1 hs
    rcases List.mem_cons.1 hl with rfl | hl
    · refine (rd_putLanesAt_out (Memory.wf_writes hm _) (fun j hj => h j (List.mem_cons_of_mem _ hj) (hx j hj))).trans ?_
      refine rd_putBytesAt_last hm (List.getElem?_zip_eq_some.2 ⟨hk, ?_⟩) (fun j hj p hp hc => hlast j hj ?_)
      · rw [List.getD_eq_getElem _ _ hb]
        exact List.getElem?_eq_getElem hb
      · rw [← hc]
        exact (List.getElem?_zip_eq_some.1 hp).1
    · exact ih (Memory.wf_writes hm _) hs hl (fun j hj => h j (List.mem_cons_of_mem _ hj))

end

/-! ### The lanes' stores -/

section

variable {i : Issue} {s : State}

theorem putRaw_mem (s : State) (pas : List Nat) (bs : List Byte) : (putRaw s pas bs).mem = putBytesAt s.mem (pas.zip bs) := rfl

theorem putRaw_sram (s : State) (pas : List Nat) (bs : List Byte) : (putRaw s pas bs).sram = s.sram := rfl

theorem putRaw_mappings (s : State) (pas : List Nat) (bs : List Byte) : (putRaw s pas bs).mappings = s.mappings := rfl

/-- What a store of a lane changes of memory: its bytes. -/
theorem gStore_unmapped (h : s.mappings = []) (q : Retain) (id lane va : Nat) (pas : List Nat) (bs : List Byte) :
    (gStore q s i id lane va pas bs).mem = putBytesAt s.mem (pas.zip bs) ∧ (gStore q s i id lane va pas bs).sram = s.sram ∧
      (gStore q s i id lane va pas bs).mappings = [] := by
  have hl := landAt_quiet s (agentOf i lane) pas
  have hn := hl.mappings.trans h
  unfold gStore gPut
  dsimp only
  rw [recalls_unmapped hn]
  have hq := ((touchMscBy_quiet q (putRaw (landAt s (agentOf i lane) pas) pas bs) (blkD s i.blk).ctx true pas).trans
    (endReleases_quiet _ pas)).trans (addPieces_quiet _ id (agentOf i lane) (piecesOf (.global (agentOf i lane) lane va)
      (unitSizes (pas.headD 0) pas.length) pas (pas.map (fun pa => (newByte s pa).1)) bs))
  refine ⟨hq.mem.trans ?_, hq.sram.trans ?_, hq.mappings.trans ?_⟩
  · rw [putRaw_mem, hl.mem]
  · rw [putRaw_sram, hl.sram]
  · rw [putRaw_mappings, hn]

/-- What the stores of lanes change of memory: their bytes, in order. -/
theorem gStores_unmapped (h : s.mappings = []) (q : Retain) (id : Nat) (ea : Nat → Nat) (ps : Nat → List Nat) (bs : Nat → List Byte)
    (ls : List Nat) :
    ((ls.map (fun l => (l, ps l))).foldl (fun t l => gStore q t i id l.1 (ea l.1) l.2 (bs l.1)) s).mem = putLanesAt s.mem ps bs ls ∧
    ((ls.map (fun l => (l, ps l))).foldl (fun t l => gStore q t i id l.1 (ea l.1) l.2 (bs l.1)) s).sram = s.sram := by
  induction ls generalizing s with
  | nil => exact ⟨rfl, rfl⟩
  | cons l ls ih =>
    obtain ⟨hm, hs, hn⟩ := gStore_unmapped (i := i) h q id l (ea l) (ps l) (bs l)
    obtain ⟨im, is⟩ := ih hn
    rw [List.map_cons, List.foldl_cons]
    exact ⟨im.trans (by rw [hm]; rfl), is.trans hs⟩

theorem xlateAll_length {f : Nat → Xl} {vas ps : List Nat} (h : xlateAll f vas = .ok ps) : ps.length = vas.length := by
  induction vas generalizing ps with
  | nil =>
    cases h
    rfl
  | cons a vas ih =>
    unfold xlateAll at h
    split at h
    · split at h
      · next hr =>
        cases h
        rw [List.length_cons, ih hr, List.length_cons]
      · cases h
    · cases h

theorem laneBytes_length {k : AccKind} {n a : Nat} {pas : List Nat} (h : laneBytes i s k n a = some pas) : pas.length = n := by
  unfold laneBytes at h
  cases hx : xlateAll (fun x => xlate s (ctxIs s i) (coreIs s i) x k) (spanOf a n) with
  | error e =>
    rw [hx] at h
    cases h
  | ok ps =>
    rw [hx] at h
    obtain rfl : ps = pas := Option.some.inj h
    rw [xlateAll_length hx, spanOf, List.length_map, List.length_range]

/-- What a store whose lanes all reach their bytes changes. -/
theorem performed_stores {q : Retain} {e : Env} {n : Nat} {ea : Nat → Nat} {bs : Nat → List Byte} (h : s.mappings = [])
    (hr : reaches i e s .write n ea = true) :
    (performed q i e .write n ea (fun v ls => ls.foldl (fun t l => gStore q t i v.nextId l.1 (ea l.1) l.2 (bs l.1))
      (addStore v i 3 .plain)) s).mem = putLanesAt s.mem (pasOf i s .write n ea) bs e.act ∧
    (performed q i e .write n ea (fun v ls => ls.foldl (fun t l => gStore q t i v.nextId l.1 (ea l.1) l.2 (bs l.1))
      (addStore v i 3 .plain)) s).sram = s.sram := by
  have hm := gMeet_quiet s i .write n ea e.act
  have hs := fun u pas => sendAll_quiet q i (coreIs s i) .write s.nextId u pas
  have hok : (gMeet s i .write n ea e.act).ok = e.act.map (fun l => (l, pasOf i s .write n ea l)) := by
    rw [gMeet_reached hr]
    rfl
  obtain ⟨hmem, hsram⟩ := gStores_unmapped (i := i) (s := addStore (gMeet s i .write n ea e.act).s i 3 .plain) (hm.mappings.trans h) q
    (gMeet s i .write n ea e.act).s.nextId ea (pasOf i s .write n ea) bs e.act
  unfold performed
  dsimp only
  rw [hok]
  refine ⟨(hs _ _).mem.trans (hmem.trans ?_), (hs _ _).sram.trans (hsram.trans hm.sram)⟩
  rw [show (addStore (gMeet s i .write n ea e.act).s i 3 .plain).mem = s.mem from hm.mem]

end

/-- Settles O33: the lanes' bytes are written in ascending order, and nothing else is. -/
theorem storedBytes : Obligations.StoredBytes := by
  intro x i s w e n _ hr hm hwf hreach
  have he := issuing_exists (ready_parts hr).1
  have hw := (prep_step (r := w) he).within
  have hp : (prep w i s).mappings = [] := by
    rw [hw.world]
    exact hm
  have hpr := reaches_prep (r := w) he hreach
  obtain ⟨t, ht, hi⟩ : Follows w i s (execSt x s) (.goes _) :=
    follows_run hr (globalAccess_reached rfl hpr _) ((Shape.of_blocks (gMeet_quiet _ i _ _ _ _).blocks).trans
      ((storeGlobal_shape _ _ _ _ _).trans (Shape.of_blocks (sendAll_quiet _ _ _ _ _ _ _).blocks)))
  obtain ⟨hmem, hsram⟩ := performed_stores (q := retainOf x.b.toNat) (bs := storeBytes e n) hp hpr
  have hpas : pasOf i (prep w i s) .write n (globalAddr x.x e) = pasOf i s .write n (globalAddr x.x e) := funext fun l => by
    rw [pasOf, laneBytes_prep he, pasOf]
  have hreached : ∀ l ∈ e.act, laneBytes i s .write n (globalAddr x.x e l) = some (pasOf i s .write n (globalAddr x.x e) l) :=
    fun l hl => by
      obtain ⟨pas, h⟩ := Option.isSome_iff_exists.1 ((reaches_iff.1 hreach).1 l hl).2
      rw [h, pasOf_of_some h]
  have ht' : t.mem = putLanesAt s.mem (pasOf i s .write n (globalAddr x.x e)) (storeBytes e n) e.act := by
    rw [← hpas, ← show (prep w i s).mem = s.mem from hw.mem]
    exact hi.within.mem.trans hmem
  refine ⟨t, ht, hi.within.sram.trans (hsram.trans hw.sram), fun a ha => ?_, fun a l k pas hl hpa hk hlast hlater => ?_⟩
  · rw [ht']
    exact rd_putLanesAt_out hwf (fun l hl => ha l hl _ (hreached l hl))
  · have hkn : k < n := by
      obtain ⟨hlt, _⟩ := List.getElem?_eq_some_iff.1 hk
      rwa [laneBytes_length hpa] at hlt
    obtain rfl := pasOf_of_some hpa
    rw [ht', rd_putLanesAt_in hwf (act_ascending (ready_parts hr).1) hl hk (by rwa [storeBytes_length]) hlast
      (fun j hj hlt => hlater j hj hlt _ (hreached j hj))]
    exact storeBytes_getD e l (storeWidth_le _) hkn

end Sys2Proof.Safety
end

section
/-!
SUPPORT. What a lane reads of physical bytes (R116, R120): of the parts of stores at a location it sees some, oldest first, and at least
those that it had seen; and no read makes a part less seen or changes its bytes, so that what a later read finds, an earlier one could.
-/

namespace Sys2Proof.Safety

open Sys2Proof.Machine

/-! ### Parts that are seen by more and more agents -/

/-- The same part of a store, seen by at least the agents that saw it. -/
structure Kin (x y : Shard) : Prop where
  locs : y.locs = x.locs
  old : y.old = x.old
  new : y.new = x.new
  seen : ∀ a ∈ x.seen, a ∈ y.seen

theorem Kin.refl (x : Shard) : Kin x x := ⟨rfl, rfl, rfl, fun _ h => h⟩

theorem Kin.trans {x y z : Shard} (h : Kin x y) (k : Kin y z) : Kin x z :=
  ⟨k.locs.trans h.locs, k.old.trans h.old, k.new.trans h.new, fun a ha => k.seen a (h.seen a ha)⟩

theorem Kin.see (x : Shard) (v : Nat) : Kin x (x.see v) := by
  unfold Shard.see
  split
  · exact Kin.refl x
  · exact ⟨rfl, rfl, rfl, fun _ h => List.mem_append_left _ h⟩

theorem kin_trans_list {xs ys zs : List Shard} (h : List.Forall₂ Kin xs ys) (k : List.Forall₂ Kin ys zs) : List.Forall₂ Kin xs zs := by
  induction h generalizing zs with
  | nil => exact k
  | cons hx _ ih =>
    cases k with
    | cons ky kr => exact .cons (hx.trans ky) (ih kr)

/-- The parts of every store, oldest first. -/
def allParts (s : State) : List Shard := s.stores.flatMap (·.pieces)

theorem partsAt_eq (s : State) (a : Nat) : partsAt s a = (allParts s).filter (fun x => x.locs.contains a) := by
  rw [partsAt, allParts, List.filter_flatMap]

/-- Memory is as before, and so are the parts of stores, seen by at least the agents that saw them. -/
structure Later (s t : State) : Prop where
  mem : t.mem = s.mem
  parts : List.Forall₂ Kin (allParts s) (allParts t)

section

variable {s t u : State}

theorem Later.refl (s : State) : Later s s := ⟨rfl, List.forall₂_same.2 (fun x _ => Kin.refl x)⟩

theorem Later.trans (h : Later s t) (k : Later t u) : Later s u := ⟨k.mem.trans h.mem, kin_trans_list h.parts k.parts⟩

theorem Later.of_same (hm : t.mem = s.mem) (hs : t.stores = s.stores) : Later s t :=
  ⟨hm, by rw [allParts, allParts, hs]; exact (Later.refl s).parts⟩

/-- A change of parts, each into the same one. -/
theorem mapParts_later {g : Pend → Shard → Shard} (hg : ∀ p x, Kin x (g p x)) : Later s (mapParts s g) := by
  unfold mapParts
  split
  · exact Later.refl s
  · refine ⟨rfl, ?_⟩
    simp only [allParts, List.flatMap_map]
    induction s.stores with
    | nil => exact .nil
    | cons p ps ih =>
      simp only [List.flatMap_cons]
      refine List.rel_append ?_ ih
      rw [List.forall₂_map_right_iff]
      exact List.forall₂_same.2 (fun x _ => hg p x)

theorem landFlights_later (s : State) (p : Flight → Bool) : Later s (landFlights s p) := by
  unfold landFlights
  dsimp only
  split
  · exact Later.refl s
  · refine (mapParts_later (fun q y => ?_)).trans (Later.of_same rfl rfl)
    split
    · exact ⟨rfl, rfl, rfl, fun _ h => h⟩
    · exact Kin.refl y

end

/-! ### What an agent may read of a location -/

/-- A selection of parts, in order, which holds all those that an agent has seen. -/
inductive Chosen (agent : Nat) : List Shard → List Shard → Prop
  | nil : Chosen agent [] []
  | take (x : Shard) {xs vis : List Shard} : Chosen agent xs vis → Chosen agent (x :: xs) (x :: vis)
  | skip {x : Shard} {xs vis : List Shard} : agent ∉ x.seen → Chosen agent xs vis → Chosen agent (x :: xs) vis

section

variable {agent : Nat} {xs ys vis : List Shard}

theorem Chosen.sublist (h : Chosen agent xs vis) : vis.Sublist xs := by
  induction h with
  | nil => exact .slnil
  | take x _ ih => exact ih.cons_cons x
  | skip _ _ ih => exact ih.cons _

theorem Chosen.mem_of_seen (h : Chosen agent xs vis) : ∀ x ∈ xs, agent ∈ x.seen → x ∈ vis := by
  induction h with
  | nil => exact fun x hx => absurd hx List.not_mem_nil
  | take x _ ih =>
    intro y hy hs
    rcases List.mem_cons.1 hy with rfl | hy
    · exact List.mem_cons_self
    · exact List.mem_cons_of_mem _ (ih y hy hs)
  | skip hn _ ih =>
    intro y hy hs
    rcases List.mem_cons.1 hy with rfl | hy
    · exact absurd hs hn
    · exact ih y hy hs

theorem Chosen.filter (h : Chosen agent xs vis) (p : Shard → Bool) : Chosen agent (xs.filter p) (vis.filter p) := by
  induction h with
  | nil => exact .nil
  | take x _ ih =>
    rw [List.filter_cons, List.filter_cons]
    split
    · exact .take x ih
    · exact ih
  | skip hn _ ih =>
    rw [List.filter_cons]
    split
    · exact .skip hn ih
    · exact ih

/-- What an agent picks of parts that more agents have seen, it could pick before. -/
theorem Chosen.back (h : Chosen agent ys vis) (hk : List.Forall₂ Kin xs ys) : ∃ ws, Chosen agent xs ws ∧ List.Forall₂ Kin ws vis := by
  induction h generalizing xs with
  | nil =>
    cases hk
    exact ⟨[], .nil, .nil⟩
  | take y _ ih =>
    cases hk with
    | cons hx hr =>
      obtain ⟨ws, hp, hw⟩ := ih hr
      exact ⟨_, .take _ hp, .cons hx hw⟩
  | skip hn _ ih =>
    cases hk with
    | cons hx hr =>
      obtain ⟨ws, hp, hw⟩ := ih hr
      exact ⟨ws, .skip (fun h => hn (hx.seen _ h)) hp, hw⟩

end

/-- The byte before some parts at a location, from the newest one. -/
def beforeAll (a : Nat) (xs : List Shard) (b : Byte) : Byte := xs.foldr (fun x b => byteAt x x.old a b) b

/-- The byte after some parts at a location. -/
def afterAll (a : Nat) (xs : List Shard) (b : Byte) : Byte := xs.foldl (fun b x => byteAt x x.new a b) b

theorem Kin.byteAt {x y : Shard} (h : Kin x y) (c : List Byte) (a : Nat) (b : Byte) : Safety.byteAt y c a b = Safety.byteAt x c a b := by
  unfold Safety.byteAt
  rw [h.locs]

theorem beforeAll_kin {xs ys : List Shard} (h : List.Forall₂ Kin xs ys) (a : Nat) (b : Byte) : beforeAll a ys b = beforeAll a xs b := by
  induction h with
  | nil => rfl
  | cons hx _ ih =>
    show byteAt _ _ a (beforeAll a _ b) = byteAt _ _ a (beforeAll a _ b)
    rw [ih, hx.byteAt, hx.old]

theorem afterAll_kin {xs ys : List Shard} (h : List.Forall₂ Kin xs ys) (a : Nat) (b : Byte) : afterAll a ys b = afterAll a xs b := by
  induction h generalizing b with
  | nil => rfl
  | cons hx _ ih =>
    show afterAll a _ (byteAt _ _ a b) = afterAll a _ (byteAt _ _ a b)
    rw [ih, hx.byteAt, hx.new]

/-- As `mayRead`, with the parts picked one by one. -/
def Reads (s : State) (agent a : Nat) (v : Byte) : Prop :=
  ∃ vis, Chosen agent (partsAt s a) vis ∧ v = afterAll a vis (beforeAll a (partsAt s a) (Memory.rd s.mem a))

theorem Reads.mayRead {s : State} {agent a : Nat} {v : Byte} (h : Reads s agent a v) : mayRead s agent a v := by
  obtain ⟨vis, hp, hv⟩ := h
  exact ⟨vis, hp.sublist, hp.mem_of_seen, hv⟩

/-- What an agent may read later, it may read now. -/
theorem Reads.back {s t : State} {agent a : Nat} {v : Byte} (h : Reads t agent a v) (hl : Later s t) : Reads s agent a v := by
  obtain ⟨vis, hp, rfl⟩ := h
  have hk : List.Forall₂ Kin (partsAt s a) (partsAt t a) := by
    rw [partsAt_eq, partsAt_eq]
    exact List.rel_filter (fun {x y} hx => show x.locs.contains a = true ↔ y.locs.contains a = true by rw [hx.locs]) hl.parts
  obtain ⟨ws, hw, hv⟩ := hp.back hk
  exact ⟨ws, hw, by rw [afterAll_kin hv, beforeAll_kin hk, hl.mem]⟩

/-! ### Contents laid over bytes -/

theorem overlay_length {locs : List Nat} {bs : List Byte} (h : bs.length = locs.length) (at' : List Nat) (c : List Byte) :
    (overlay locs bs at' c).length = locs.length := by
  rw [overlay, List.length_map, List.length_zip, h, Nat.min_self]

/-- A byte of a location under the content of a part that touches it, and of another part. -/
theorem overlay_getD {locs : List Nat} {bs : List Byte} {k a : Nat} (h : bs.length = locs.length) (hk : locs[k]? = some a) (x : Shard)
    (c : List Byte) : (overlay locs bs x.locs c).getD k 0 = if x.locs.contains a then byteAt x c a (bs.getD k 0) else bs.getD k 0 := by
  obtain ⟨hlt, rfl⟩ := List.getElem?_eq_some_iff.1 hk
  have hb : k < bs.length := by omega
  have hz : (overlay locs bs x.locs c).getD k 0 = (match x.locs.findIdx? (· == locs[k]) with
      | some j => c.getD j bs[k]
      | none => bs[k]) := by
    rw [overlay, List.getD_eq_getElem?_getD, List.getElem?_map, List.getElem?_eq_getElem (by rw [List.length_zip]; omega), List.getElem_zip]
    rfl
  rw [hz, List.getD_eq_getElem _ _ hb]
  split
  · next j hj =>
    rw [List.findIdx?_eq_some_iff_findIdx_eq] at hj
    have hm : x.locs.contains locs[k] = true := by
      obtain ⟨y, hy, he⟩ := List.findIdx_lt_length.1 (hj.2 ▸ hj.1)
      rw [← eq_of_beq he]
      exact List.contains_iff_mem.2 hy
    rw [if_pos hm, byteAt, hj.2]
  · next hj =>
    have hm : ¬ x.locs.contains locs[k] = true := fun hc => by
      have := List.findIdx?_eq_none_iff.1 hj _ (List.contains_iff_mem.1 hc)
      simp at this
    rw [if_neg hm]

/-! ### A read of one single-copy atomic part -/

/-- A lane's reader. -/
def laneReader (agent : Nat) : Reader := { agent := agent }

section

variable {agent n id j : Nat} {locs : List Nat} {bs : List Byte} {xs : List Shard} {v : Sight} {x : Shard} {s : State}

/-- The bytes before the parts that touch some locations. -/
def before (locs : List Nat) (bs : List Byte) (xs : List Shard) : List Byte := xs.foldr (fun x b => overlay locs b x.locs x.old) bs

/-- What a read has found after it has met some parts, the youngest first. -/
structure Found (agent : Nat) (locs : List Nat) (bs : List Byte) (xs : List Shard) (v : Sight) : Prop where
  bytes : v.bs = before locs bs (xs.filter (·.hit locs))
  vis : Chosen agent (xs.filter (·.hit locs)) v.vis

theorem meet_step (h : Found agent locs bs xs v) {sees : Bool} (hs : sees = false → agent ∉ x.seen) :
    Found agent locs bs (x :: xs) (v.meet locs x sees) := by
  unfold Sight.meet
  cases hx : x.hit locs with
  | false =>
    refine ⟨?_, ?_⟩
    · rw [List.filter_cons_of_neg (by simp [hx])]
      exact h.bytes
    · rw [List.filter_cons_of_neg (by simp [hx])]
      exact h.vis
  | true =>
    refine ⟨?_, ?_⟩
    · rw [List.filter_cons_of_pos (by exact hx)]
      show overlay locs v.bs x.locs x.old = overlay locs (before locs bs _) x.locs x.old
      rw [h.bytes]
    · rw [List.filter_cons_of_pos (by exact hx)]
      cases sees with
      | false => exact .skip (hs rfl) h.vis
      | true => exact .take x h.vis

theorem lookPiece_step (h : Found agent locs bs xs v) :
    Found agent locs bs (x :: xs) (lookPiece (laneReader agent) n id j locs x v).2 ∧
      Kin x (lookPiece (laneReader agent) n id j locs x v).1 := by
  unfold lookPiece
  split
  · exact ⟨meet_step h (fun hc => nomatch hc), Kin.refl x⟩
  · next hn =>
    have hn : agent ∉ x.seen := fun hc => hn (List.contains_iff_mem.2 hc)
    split
    · next ho => cases ho
    · split
      · next hx =>
        rw [show v = v.meet locs x false by rw [Sight.meet, if_pos hx]]
        exact ⟨meet_step h (fun _ => hn), Kin.refl x⟩
      · split
        · exact ⟨meet_step h (fun _ => hn), Kin.refl x⟩
        · exact ⟨meet_step h (fun hc => nomatch hc), Kin.see x agent⟩

/-- A read meets the parts of one store. -/
theorem lookPend_step (p : Pend) (h : Found agent locs bs xs v) :
    Found agent locs bs (p.pieces ++ xs) (lookPend (laneReader agent) n j locs p v).2 ∧
      List.Forall₂ Kin p.pieces (lookPend (laneReader agent) n j locs p v).1.pieces := by
  have hf : ∀ ys : List Shard,
      let q := ys.foldr (fun x (q : List Shard × Sight) =>
        let (y, w) := lookPiece (laneReader agent) n p.id j locs x q.2
        (y :: q.1, w)) ([], v)
      Found agent locs bs (ys ++ xs) q.2 ∧ List.Forall₂ Kin ys q.1 := fun ys => by
    induction ys with
    | nil => exact ⟨h, .nil⟩
    | cons y ys ih =>
      obtain ⟨hm, hk⟩ := lookPiece_step (n := n) (id := p.id) (j := j) (x := y) ih.1
      exact ⟨hm, .cons hk ih.2⟩
  unfold lookPend
  rw [if_neg (fun hc => nomatch hc.1)]
  exact hf p.pieces

/-- A read meets every store. -/
theorem lookStores (n j : Nat) (locs : List Nat) (bs : List Byte) (agent : Nat) (ps : List Pend) :
    let q := ps.foldr (fun p (q : List Pend × Sight) =>
      let (y, w) := lookPend (laneReader agent) n j locs p q.2
      (y :: q.1, w)) ([], { bs := bs })
    Found agent locs bs (ps.flatMap (·.pieces)) q.2 ∧ List.Forall₂ Kin (ps.flatMap (·.pieces)) (q.1.flatMap (·.pieces)) := by
  induction ps with
  | nil => exact ⟨⟨rfl, .nil⟩, .nil⟩
  | cons p ps ih =>
    obtain ⟨hm, hk⟩ := lookPend_step (n := n) (j := j) p ih.1
    exact ⟨hm, List.rel_append hk ih.2⟩

end

/-! ### The bytes that a read finds -/

section

variable {agent a k : Nat} {locs : List Nat} {bs : List Byte} {xs vis : List Shard}

theorem before_length (h : bs.length = locs.length) : (before locs bs xs).length = locs.length := by
  induction xs with
  | nil => exact h
  | cons x xs ih => exact overlay_length ih x.locs x.old

theorem before_getD (h : bs.length = locs.length) (hk : locs[k]? = some a) :
    (before locs bs xs).getD k 0 = beforeAll a (xs.filter (fun x => x.locs.contains a)) (bs.getD k 0) := by
  induction xs with
  | nil => rfl
  | cons x xs ih =>
    refine (overlay_getD (before_length h) hk x x.old).trans ?_
    rw [List.filter_cons]
    split
    · show byteAt x x.old a ((before locs bs xs).getD k 0) = byteAt x x.old a (beforeAll a _ _)
      rw [ih]
    · exact ih

theorem after_length (h : bs.length = locs.length) : (vis.foldl (fun b x => overlay locs b x.locs x.new) bs).length = locs.length := by
  induction vis generalizing bs with
  | nil => exact h
  | cons x vis ih => exact ih (overlay_length h x.locs x.new)

theorem after_getD (h : bs.length = locs.length) (hk : locs[k]? = some a) :
    (vis.foldl (fun b x => overlay locs b x.locs x.new) bs).getD k 0 =
      afterAll a (vis.filter (fun x => x.locs.contains a)) (bs.getD k 0) := by
  induction vis generalizing bs with
  | nil => rfl
  | cons x vis ih =>
    refine (ih (overlay_length h x.locs x.new)).trans ?_
    rw [overlay_getD h hk, List.filter_cons]
    split <;> rfl

end

/-- The parts that touch some locations and hold one of them. -/
theorem hit_of_contains {x : Shard} {locs : List Nat} {a : Nat} (ha : a ∈ locs) (h : x.locs.contains a = true) : x.hit locs = true :=
  List.any_eq_true.2 ⟨a, List.contains_iff_mem.1 h, List.contains_iff_mem.2 ha⟩

theorem filter_hit {xs : List Shard} {locs : List Nat} {a : Nat} (ha : a ∈ locs) :
    (xs.filter (·.hit locs)).filter (fun x => x.locs.contains a) = xs.filter (fun x => x.locs.contains a) := by
  rw [List.filter_filter]
  refine List.filter_congr (fun x _ => ?_)
  cases hc : x.locs.contains a
  · rfl
  · rw [hit_of_contains ha hc]
    rfl

/-- The newest bytes are ones that an agent may read where no part of a store stands. -/
theorem newest_reads {s : State} (h : s.stores.isEmpty = true) (agent : Nat) (locs : List Nat) :
    List.Forall₂ (Reads s agent) locs (locs.map (Memory.rd s.mem)) := by
  rw [List.forall₂_map_right_iff]
  refine List.forall₂_same.2 (fun a _ => ⟨[], ?_⟩)
  rw [partsAt, List.isEmpty_iff.1 h]
  exact ⟨.nil, rfl⟩

/-- What a read has found when it has met every part are bytes that its agent may read. -/
theorem found_reads {s : State} {agent : Nat} {locs : List Nat} {v : Sight}
    (h : Found agent locs (locs.map (Memory.rd s.mem)) (allParts s) v) :
    List.Forall₂ (Reads s agent) locs (v.vis.foldl (fun b x => overlay locs b x.locs x.new) v.bs) := by
  have hb : (locs.map (Memory.rd s.mem)).length = locs.length := List.length_map _
  have hl : v.bs.length = locs.length := by
    rw [h.bytes]
    exact before_length hb
  refine List.forall₂_iff_get.2 ⟨(after_length hl).symm, fun k h1 h2 => ?_⟩
  have hk : locs[k]? = some locs[k] := List.getElem?_eq_getElem h1
  have ha : locs[k] ∈ locs := List.getElem_mem h1
  have hd : (locs.map (Memory.rd s.mem)).getD k 0 = Memory.rd s.mem locs[k] := by
    rw [List.getD_eq_getElem?_getD, List.getElem?_map, hk]
    rfl
  refine ⟨v.vis.filter (fun x => x.locs.contains locs[k]), ?_, ?_⟩
  · rw [partsAt_eq, List.get_eq_getElem, ← filter_hit ha]
    exact h.vis.filter _
  · rw [List.get_eq_getElem, List.get_eq_getElem, ← List.getD_eq_getElem _ 0 h2, after_getD hl hk, h.bytes, before_getD hb hk, filter_hit ha,
      hd, partsAt_eq]

/-- R116, R120: what a lane's read of one part finds, byte by byte, of the newest bytes; and the parts of stores stay. -/
theorem lookUnit_reads (s : State) (agent j : Nat) (locs : List Nat) :
    List.Forall₂ (Reads s agent) locs (lookUnit (laneReader agent) s j locs (locs.map (Memory.rd s.mem))).2 ∧
      Later s (lookUnit (laneReader agent) s j locs (locs.map (Memory.rd s.mem))).1 := by
  unfold lookUnit
  split
  · next he => exact ⟨newest_reads he agent locs, Later.refl s⟩
  · obtain ⟨hm, hk⟩ := lookStores s.choice j locs (locs.map (Memory.rd s.mem)) agent s.stores
    exact ⟨found_reads hm, rfl, hk⟩

/-! ### A whole read -/

theorem cutUnits_map {α β : Type} (g : α → β) (ns : List Nat) (xs : List α) : cutUnits ns (xs.map g) = (cutUnits ns xs).map (List.map g) := by
  induction ns generalizing xs with
  | nil => rfl
  | cons n ns ih => rw [cutUnits, cutUnits, List.map_cons, ← List.map_take, ← List.map_drop, ih]

theorem cutUnits_flatten {α : Type} {ns : List Nat} {xs : List α} (h : xs.length ≤ ns.sum) : (cutUnits ns xs).flatten = xs := by
  induction ns generalizing xs with
  | nil =>
    obtain rfl : xs = [] := List.length_eq_zero_iff.1 (Nat.le_zero.1 h)
    rfl
  | cons n ns ih =>
    rw [cutUnits, List.flatten_cons, ih (by rw [List.length_drop]; rw [List.sum_cons] at h; omega), List.take_append_drop]

theorem unitSizes_sum (a w : Nat) : (unitSizes a w).sum = w := by
  unfold unitSizes
  split
  · rw [List.sum_replicate, smul_eq_mul, Nat.mul_one]
  · split
    · next h =>
      rw [h]
      rfl
    · exact Nat.add_zero w

/-- A read of the first `n` of some parts, one after another, from the newest bytes (`lookParts`). -/
def readUnits (agent : Nat) (m : Memory) (us : List (List Nat)) (n : Nat) (s : State) : State × List Byte :=
  (List.range n).foldl (fun p j =>
    let u := lookUnit (laneReader agent) p.1 j (us.getD j []) ((us.getD j []).map (Memory.rd m))
    (u.1, p.2 ++ u.2)) (s, [])

theorem readUnits_reads (s : State) (agent : Nat) (us : List (List Nat)) (n : Nat) :
    List.Forall₂ (Reads s agent) (us.take n).flatten (readUnits agent s.mem us n s).2 ∧ Later s (readUnits agent s.mem us n s).1 := by
  induction n with
  | zero => exact ⟨.nil, Later.refl s⟩
  | succ n ih =>
    obtain ⟨hr, hl⟩ := ih
    unfold readUnits at hr hl ⊢
    rw [List.range_succ, List.foldl_append, List.foldl_cons, List.foldl_nil]
    generalize (List.range n).foldl _ (s, ([] : List Byte)) = p at hr hl ⊢
    obtain ⟨hr', hl'⟩ := lookUnit_reads p.1 agent n (us.getD n [])
    rw [hl.mem] at hr' hl'
    have ht : (us.take (n + 1)).flatten = (us.take n).flatten ++ us.getD n [] := by
      rw [List.take_add_one, List.flatten_append, List.getD_eq_getElem?_getD]
      congr 1
      cases us[n]? <;> simp
    rw [ht]
    exact ⟨List.rel_append hr (hr'.imp (fun _ _ h => h.back hl)), hl.trans hl'⟩

theorem lookParts_eq {s : State} (h : s.stores.isEmpty = false) (agent : Nat) (ns locs : List Nat) :
    lookParts (laneReader agent) s ns locs (locs.map (Memory.rd s.mem)) =
      readUnits agent s.mem (cutUnits ns locs) (cutUnits ns locs).length s := by
  have hz : (cutUnits ns locs).zip (cutUnits ns (locs.map (Memory.rd s.mem))) =
      (cutUnits ns locs).map (fun l => (l, l.map (Memory.rd s.mem))) := by
    rw [cutUnits_map]
    have h := List.zip_map' (f := id) (g := List.map (Memory.rd s.mem)) (l := cutUnits ns locs)
    rwa [List.map_id] at h
  have hu : ∀ j, ((cutUnits ns locs).map (fun l => (l, l.map (Memory.rd s.mem)))).getD j ([], []) =
      ((cutUnits ns locs).getD j [], ((cutUnits ns locs).getD j []).map (Memory.rd s.mem)) := fun j => by
    rw [List.getD_eq_getElem?_getD, List.getD_eq_getElem?_getD, List.getElem?_map]
    cases (cutUnits ns locs)[j]? <;> rfl
  simp only [lookParts, h, Bool.false_eq_true, if_false, hz, hu, List.length_map]
  rfl

/-- R116, R120: what a lane's read finds, part after part. -/
theorem lookParts_reads (s : State) (agent : Nat) {ns locs : List Nat} (hn : locs.length ≤ ns.sum) :
    List.Forall₂ (Reads s agent) locs (lookParts (laneReader agent) s ns locs (locs.map (Memory.rd s.mem))).2 ∧
      Later s (lookParts (laneReader agent) s ns locs (locs.map (Memory.rd s.mem))).1 := by
  cases he : s.stores.isEmpty with
  | true =>
    unfold lookParts
    rw [if_pos he]
    exact ⟨newest_reads he agent locs, Later.refl s⟩
  | false =>
    rw [lookParts_eq he]
    have h := readUnits_reads s agent (cutUnits ns locs) (cutUnits ns locs).length
    rwa [List.take_length, cutUnits_flatten hn] at h

/-- R120: what a lane's read finds. -/
theorem lookBytes_reads (s : State) (agent a : Nat) (locs : List Nat) :
    List.Forall₂ (Reads s agent) locs (lookBytes (laneReader agent) s a locs (locs.map (Memory.rd s.mem))).2 ∧
      Later s (lookBytes (laneReader agent) s a locs (locs.map (Memory.rd s.mem))).1 :=
  lookParts_reads s agent (Nat.le_of_eq (unitSizes_sum a locs.length).symm)

end Sys2Proof.Safety
end

section
/-!
Settles O32 (`LoadedWords`): LD where every byte is translated and no stash mapping stands: what the lanes read, one after another, each
may read where the instruction issues; and the words made of it stay in the registers until they return.
-/

namespace Sys2Proof.Safety

open Sys2Proof.Machine

/-! ### The reads of lanes -/

section

variable {s : State}

theorem fillMsc_stores (s : State) (c : Nat) (wr low : Bool) (ln : Nat) : (fillMsc s c wr low ln).stores = s.stores := by
  unfold fillMsc
  dsimp only
  split <;> rfl

theorem touchMscBy_stores (p : Retain) (s : State) (c : Nat) (wr : Bool) (pas : List Nat) : (touchMscBy p s c wr pas).stores = s.stores := by
  unfold touchMscBy
  refine foldl_related (R := fun s t : State => t.stores = s.stores) (fun _ => rfl) (fun h k => k.trans h) (fun t ln => ?_) _ s
  split
  · rfl
  · split
    · rfl
    · exact fillMsc_stores t c wr _ ln

theorem seekTlb_stores (s : State) (c core : Nat) (k : AccKind) (vas : List Nat) : (seekTlb s c core k vas).stores = s.stores := by
  unfold seekTlb addTally
  split <;> rfl

/-- A read leaves memory, SRAM and the absence of stash mappings, and parts of stores seen by more agents. -/
structure Reading (s t : State) : Prop where
  later : Later s t
  sram : t.sram = s.sram
  unmapped : t.mappings = []

theorem Reading.trans {t u : State} (h : Reading s t) (k : Reading t u) : Reading s u :=
  ⟨h.later.trans k.later, k.sram.trans h.sram, k.unmapped⟩

theorem Reading.refl (h : s.mappings = []) : Reading s s := ⟨Later.refl s, rfl, h⟩

/-- R120: what an agent reads of physical bytes. -/
theorem gReadBy_reads (h : s.mappings = []) (q : Retain) (c a : Nat) (pas : List Nat) :
    List.Forall₂ (Reads s a) pas (gReadBy q s c a pas).2 ∧ Reading s (gReadBy q s c a pas).1 := by
  have hl := landAt_quiet s a pas
  have hn := hl.mappings.trans h
  have ht := touchMscBy_quiet q (landAt s a pas) c false pas
  have hb := lookBytes_quiet (laneReader a) (touchMscBy q (landAt s a pas) c false pas) (pas.headD 0) pas
    (pas.map (Memory.rd (touchMscBy q (landAt s a pas) c false pas).mem))
  have h1 : Later s (touchMscBy q (landAt s a pas) c false pas) :=
    (landFlights_later s _).trans (Later.of_same ht.mem (touchMscBy_stores q _ c false pas))
  obtain ⟨hr, hk⟩ := lookBytes_reads (touchMscBy q (landAt s a pas) c false pas) a (pas.headD 0) pas
  unfold gReadBy gLook
  rw [recalls_unmapped hn]
  exact ⟨hr.imp (fun _ _ x => x.back h1), h1.trans hk, hb.sram.trans (ht.sram.trans hl.sram), hb.mappings.trans (ht.mappings.trans hn)⟩

/-- What a lane has got. -/
def Got.of (s : State) (i : Issue) (l : GLane) (g : Got) : Prop := g.lane = l.1 ∧ List.Forall₂ (Reads s (agentOf i l.1)) l.2 g.bytes

/-- R120: what the lanes of an issue read, one after another, each could read before them all. -/
theorem gReadLanesBy_reads (h : s.mappings = []) (q : Retain) (i : Issue) (ls : List GLane) :
    List.Forall₂ (Got.of s i) ls (gReadLanesBy q s i ls).2 ∧ Reading s (gReadLanesBy q s i ls).1 := by
  suffices hm : ∀ (ls : List GLane) (p : State × List Got), Reading s p.1 →
      let u := ls.foldl (fun (p : State × List Got) l =>
        let (t, bs) := gReadBy q p.1 (ctxIs s i) (agentOf i l.1) l.2
        (t, p.2 ++ [{ lane := l.1, bytes := bs, bad := l.2.map (poisoned t) }])) p
      (∃ gs, u.2 = p.2 ++ gs ∧ List.Forall₂ (Got.of s i) ls gs) ∧ Reading s u.1 by
    obtain ⟨⟨gs, hg, hf⟩, hr⟩ := hm ls (s, []) (Reading.refl h)
    exact ⟨by rw [show (gReadLanesBy q s i ls).2 = [] ++ gs from hg]; exact hf, hr⟩
  intro ls
  induction ls with
  | nil => exact fun p hp => ⟨⟨[], (List.append_nil _).symm, .nil⟩, hp⟩
  | cons l ls ih =>
    intro p hp
    obtain ⟨hf, hr⟩ := gReadBy_reads hp.unmapped q (ctxIs s i) (agentOf i l.1) l.2
    obtain ⟨⟨gs, hg, hgs⟩, hu⟩ := ih ((gReadBy q p.1 (ctxIs s i) (agentOf i l.1) l.2).1, p.2 ++ [_]) (hp.trans hr)
    refine ⟨⟨_ :: gs, hg.trans (List.append_assoc _ _ _), .cons ⟨rfl, ?_⟩ hgs⟩, hu⟩
    exact hf.imp (fun _ _ x => x.back hp.later)

/-- What one of the lanes has got. -/
theorem gotBytes_reads {i : Issue} {ls : List GLane} {gs : List Got} (h : List.Forall₂ (Got.of s i) ls gs) (hn : (ls.map (·.1)).Nodup)
    {l : Nat} {pas : List Nat} (hl : (l, pas) ∈ ls) : List.Forall₂ (Reads s (agentOf i l)) pas (gotBytes gs l) := by
  induction h with
  | nil => exact absurd hl List.not_mem_nil
  | @cons x g ls gs hg _ ih =>
    obtain ⟨hx, hn⟩ := List.nodup_cons.1 hn
    rcases List.mem_cons.1 hl with rfl | hl
    · have hb : gotBytes (g :: gs) l = g.bytes := by
        rw [gotBytes, List.find?_cons_of_pos (by simp [hg.1])]
        rfl
      rw [hb]
      exact hg.2
    · have hne : g.lane ≠ l := fun hc => hx (List.mem_map.2 ⟨_, hl, hc.symm.trans hg.1⟩)
      have hb : gotBytes (g :: gs) l = gotBytes gs l := by
        rw [gotBytes, List.find?_cons_of_neg (by simpa using hne), gotBytes]
      rw [hb]
      exact ih hn hl

theorem got_lanes {i : Issue} {ls : List GLane} {gs : List Got} (h : List.Forall₂ (Got.of s i) ls gs) : gs.map (·.lane) = ls.map (·.1) := by
  induction h with
  | nil => rfl
  | cons hg _ ih => rw [List.map_cons, List.map_cons, hg.1, ih]

end

/-! ### The words of a load (R257) -/

theorem leNat_div (bs : List Byte) (m : Nat) : leNat bs / 256 ^ m = leNat (bs.drop m) := by
  induction m generalizing bs with
  | zero => rw [Nat.pow_zero, Nat.div_one, List.drop_zero]
  | succ m ih =>
    cases bs with
    | nil => exact Nat.zero_div _
    | cons b bs =>
      rw [Nat.pow_succ', ← Nat.div_div_eq_div_mul, List.drop_succ_cons, ← ih]
      congr 1
      have := b.isLt
      simp only [leNat]
      omega

theorem leNat_head (bs : List Byte) : leNat bs = (bs.getD 0 0).toNat + 256 * leNat (bs.drop 1) := by
  cases bs <;> rfl

/-- The four lowest bytes of some bytes. -/
theorem leNat_four (bs : List Byte) : leNat bs = (bs.getD 0 0).toNat + (bs.getD 1 0).toNat * 2 ^ 8 + (bs.getD 2 0).toNat * 2 ^ 16 +
    (bs.getD 3 0).toNat * 2 ^ 24 + 2 ^ 32 * leNat (bs.drop 4) := by
  have hd : ∀ k, (bs.drop k).getD 0 0 = bs.getD k 0 := fun k => by simp [List.getD_eq_getElem?_getD]
  rw [leNat_head bs, leNat_head (bs.drop 1), leNat_head ((bs.drop 1).drop 1), leNat_head (((bs.drop 1).drop 1).drop 1)]
  simp only [List.drop_drop, hd]
  ring

theorem append_toNat (x y : Byte) : (x ++ y).toNat = x.toNat * 2 ^ 8 + y.toNat := by
  rw [BitVec.toNat_append, ← Nat.shiftLeft_add_eq_or_of_lt y.isLt, Nat.shiftLeft_eq]

/-- R257: a word of the destination is made of its bytes. -/
theorem loadWord_bytes {f : Nat} {bs : List Byte} (h : bs.length = Forms.loadWidth f) {j : Nat} (hj : j < (Forms.loadWidth f + 3) / 4) :
    loadWord f bs j = loadedWord f (fun k => bs.getD k 0) j := by
  have past : ∀ {n k}, bs.length = n → n ≤ k → (bs.getD k 0).toNat = 0 := fun hn hk => by
    rw [List.getD_eq_default _ _ (by omega)]
    rfl
  have h0 := leNat_four bs
  match f with
  | 0 =>
    show BitVec.signExtend 32 (BitVec.ofNat 8 (leNat bs)) = BitVec.signExtend 32 (bs.getD 0 0)
    congr 1
    apply BitVec.eq_of_toNat_eq
    rw [BitVec.toNat_ofNat]
    omega
  | 1 =>
    obtain rfl : j = 0 := by simp only [Forms.loadWidth] at hj; omega
    have h1 := past h (k := 1) (Nat.le_refl 1)
    have h2 := past h (k := 2) (by decide)
    have h3 := past h (k := 3) (by decide)
    have hd : bs.drop 4 = [] := List.drop_eq_nil_of_le (by rw [h]; decide)
    apply BitVec.eq_of_toNat_eq
    simp only [loadWord, loadedWord, BitVec.toNat_ofNat, BitVec.toNat_setWidth, Nat.mul_zero, Nat.pow_zero, Nat.div_one]
    rw [h0, h1, h2, h3, hd]
    simp [leNat]
  | 2 =>
    show BitVec.signExtend 32 (BitVec.ofNat 16 (leNat bs)) = BitVec.signExtend 32 (bs.getD 1 0 ++ bs.getD 0 0)
    congr 1
    apply BitVec.eq_of_toNat_eq
    rw [BitVec.toNat_ofNat, append_toNat]
    omega
  | 3 =>
    obtain rfl : j = 0 := by simp only [Forms.loadWidth] at hj; omega
    have h2 := past h (k := 2) (Nat.le_refl 2)
    have h3 := past h (k := 3) (by decide)
    have hd : bs.drop 4 = [] := List.drop_eq_nil_of_le (by rw [h]; decide)
    apply BitVec.eq_of_toNat_eq
    simp only [loadWord, loadedWord, BitVec.toNat_ofNat, BitVec.toNat_setWidth, Nat.mul_zero, Nat.pow_zero, Nat.div_one]
    rw [h0, h2, h3, hd, append_toNat]
    simp only [leNat]
    omega
  | f + 4 =>
    have hp : 2 ^ (32 * j) = 256 ^ (4 * j) := by rw [Nat.pow_mul, Nat.pow_mul]
    have hd : ∀ k, (bs.drop (4 * j)).getD k 0 = bs.getD (4 * j + k) 0 := fun k => by simp [List.getD_eq_getElem?_getD]
    apply BitVec.eq_of_toNat_eq
    simp only [loadWord, loadedWord, BitVec.toNat_ofNat, hp, leNat_div]
    rw [leNat_four (bs.drop (4 * j)), hd, hd, hd, hd, Nat.add_zero, Nat.add_mul_mod_self_left]

/-! ### The words in the destination registers -/

section

variable {r : Raw} {i : Issue} {s t : State}

theorem regWord_of_blocks (h : t.blocks = s.blocks) (b k a l : Nat) : regWord t b k a l = regWord s b k a l := by
  simp only [regWord, slotD, blkD, h]

/-- A change of a register that keeps its words. -/
theorem regWord_keeps (s : State) (b k c : Nat) {g : Reg → Reg} (hg : ∀ x, (g x).vals = x.vals) (d j a l : Nat) :
    regWord (updSlot s b k (fun x => { x with regs := mupd x.regs c g })) d j a l = regWord s d j a l := by
  unfold regWord
  rw [slotD_updSlot]
  by_cases h : d = b ∧ j = k ∧ (mget s.blocks b).isSome ∧ k < (blkD s b).slots.length
  · obtain ⟨rfl, rfl, _⟩ := id h
    rw [if_pos h, mget_mupd]
    by_cases ha : a = c
    · rw [if_pos ha]
      cases mget (slotD s d j).regs a with
      | none => rfl
      | some x => exact congrArg (List.getD · l 0) (hg x)
    · rw [if_neg ha]
  · rw [if_neg h]

theorem regWord_poisonArch (s : State) (b k c : Nat) (ls : List Nat) (d j a l : Nat) :
    regWord (poisonArch s b k c ls) d j a l = regWord s d j a l := by
  unfold poisonArch
  split
  · rfl
  · refine regWord_keeps s b k c (fun x => ?_) d j a l
    rfl

theorem regWord_tagStale (s : State) (b k c id d j a l : Nat) : regWord (tagStale s b k c id) d j a l = regWord s d j a l := by
  refine regWord_keeps s b k c (fun x => ?_) d j a l
  split <;> rfl

theorem regWord_fly (s : State) (fs : List Flight) (d j a l : Nat) : regWord (fly s fs) d j a l = regWord s d j a l := by
  unfold fly
  split
  · rfl
  · refine (regWord_of_blocks (landFlights_quiet _ _).blocks d j a l).trans ?_
    exact foldl_related (R := fun s t => regWord t d j a l = regWord s d j a l) (fun _ => rfl) (fun h k => k.trans h)
      (fun t n => regWord_tagStale t _ _ _ _ d j a l) _ s

theorem fly_mem (s : State) (fs : List Flight) : (fly s fs).mem = s.mem ∧ (fly s fs).sram = s.sram := by
  cases fs with
  | nil => exact ⟨rfl, rfl⟩
  | cons x fs =>
    have hq := landFlights_quiet ((List.range (widthRegs x.w)).foldl (fun u j => tagStale u x.blk x.slot (x.reg + j) x.id) s)
      (fun y => !y.stands ((List.range (widthRegs x.w)).foldl (fun u j => tagStale u x.blk x.slot (x.reg + j) x.id) s))
    have hf : ∀ l : List Nat, ∀ u : State, (l.foldl (fun u j => tagStale u x.blk x.slot (x.reg + j) x.id) u).mem = u.mem ∧
        (l.foldl (fun u j => tagStale u x.blk x.slot (x.reg + j) x.id) u).sram = u.sram :=
      foldl_related (R := fun u v : State => v.mem = u.mem ∧ v.sram = u.sram) (fun _ => ⟨rfl, rfl⟩)
        (fun h k => ⟨k.1.trans h.1, k.2.trans h.2⟩) (fun _ _ => ⟨rfl, rfl⟩)
    exact ⟨hq.mem.trans (hf _ s).1, hq.sram.trans (hf _ s).2⟩

/-- R55: the words of a destination register where lanes of an issue write it. -/
theorem regWord_wrDs (he : exists' i t) (hw : (fibIs t i).wait = none) (k : Nat) (ls : List Nat) (g : Nat → Word) (a : Nat) {l : Nat}
    (hl : l < 32) : regWord (wrDs r (ops r i s) k ls g t) i.blk i.slot a l =
      if a = dstReg r i s k ∧ l ∈ ls then g l else regWord t i.blk i.slot a l := by
  obtain ⟨n, due, hs⟩ := wrDs_step (r := r) (s := s) he hw k ls g
  have hr : regWord (wrDs r (ops r i s) k ls g t) i.blk i.slot a l = match reg (wrDs r (ops r i s) k ls g t) i.blk i.slot a with
      | none => 0
      | some r => r.vals.getD l 0 := rfl
  rw [hr, hs.regs a]
  by_cases ha : a = dstReg r i s k
  · by_cases hn : ls.isEmpty
    · rw [if_pos (.inl hn), if_neg (by simp [List.isEmpty_iff.1 hn])]
      rfl
    · rw [if_neg (by simp [ha, hn])]
      dsimp only
      rw [write_vals _ _ _ _ _ _ _ hl]
      simp only [ha, true_and]
      rfl
  · rw [if_pos (.inr ha), if_neg (by simp [ha])]
    rfl

/-- What a load leaves in its destination registers, before it returns. -/
structure Loaded (r : Raw) (i : Issue) (s : State) (ls : List Nat) (g : Nat → Nat → Word) (n : Nat) (t u : State) : Prop where
  within : Within i t u
  fib : fibIs u i = fibIs t i
  words : ∀ j, j < n → ∀ l, l < 32 → regWord u i.blk i.slot (dstReg r i s j) l =
    if l ∈ ls then g j l else regWord t i.blk i.slot (dstReg r i s j) l
  others : ∀ a, (∀ j, j < n → a ≠ dstReg r i s j) → ∀ l, l < 32 → regWord u i.blk i.slot a l = regWord t i.blk i.slot a l

theorem poisonArch_within (i : Issue) (s : State) (a : Nat) (ls : List Nat) :
    Within i s (poisonArch s i.blk i.slot a ls) ∧ fibIs (poisonArch s i.blk i.slot a ls) i = fibIs s i := by
  unfold poisonArch
  split
  · exact ⟨Within.refl i s, rfl⟩
  · exact ⟨Within.slotUpd i s _ rfl rfl (fun _ _ => rfl), fibD_updSlot s _ _ _ _ _ _ rfl⟩

/-- R257: the destination registers of a load, which differ, are written in turn. -/
theorem writeLoad_loaded (he : exists' i t) (hw : (fibIs t i).wait = none) {f w : Nat} {gs : List Got}
    (hne : ∀ j k, j < widthRegs w → k < widthRegs w → j ≠ k → dstReg r i s j ≠ dstReg r i s k) :
    Loaded r i s (gs.map (·.lane)) (fun j l => loadWord f (gotBytes gs l) j) (widthRegs w) t (writeLoad r (ops r i s) f w gs t) := by
  unfold writeLoad
  dsimp only
  generalize widthRegs w = m at hne ⊢
  induction m with
  | zero => exact ⟨Within.refl i t, rfl, fun j hj => absurd hj (Nat.not_lt_zero j), fun _ _ _ _ => rfl⟩
  | succ n ih =>
    obtain ⟨hin, hfib, hwords, hothers⟩ := ih (fun j k hj hk => hne j k (Nat.lt_succ_of_lt hj) (Nat.lt_succ_of_lt hk))
    rw [List.range_succ, List.foldl_append, List.foldl_cons, List.foldl_nil]
    generalize (List.range n).foldl _ t = u at hin hfib hwords hothers ⊢
    have he' := hin.keeps he
    have hw' : (fibIs u i).wait = none := (congrArg Fibre.wait hfib).trans hw
    obtain ⟨_, _, hs⟩ := wrDs_step (r := r) (s := s) he' hw' n (gs.map (·.lane)) (fun l => loadWord f (gotBytes gs l) n)
    obtain ⟨hp, hpf⟩ := poisonArch_within i (wrDs r (ops r i s) n (gs.map (·.lane)) (fun l => loadWord f (gotBytes gs l) n) u)
      (archReg (ops r i s).wb (r.d.toNat + n)) ((gs.map (·.lane)).filter (fun l => gotBad gs l n))
    refine ⟨hin.trans (hs.within.trans hp), hpf.trans ((hs.fibs _ _ _).trans hfib), fun j hj l hl => ?_, fun a ha l hl => ?_⟩
    · rw [regWord_poisonArch, regWord_wrDs he' hw' _ _ _ _ hl]
      rcases Nat.lt_succ_iff_lt_or_eq.1 hj with hlt | rfl
      · rw [if_neg (fun hc => hne j n hj (Nat.lt_succ_self n) (Nat.ne_of_lt hlt) hc.1)]
        exact hwords j hlt l hl
      · rw [hothers _ (fun k hk => hne j k hj (Nat.lt_succ_of_lt hk) (Nat.ne_of_gt hk)) l hl]
        simp only [true_and]
    · rw [regWord_poisonArch, regWord_wrDs he' hw' _ _ _ _ hl, if_neg (fun hc => ha n (Nat.lt_succ_self n) hc.1)]
      exact hothers a (fun j hj => ha j (Nat.lt_succ_of_lt hj)) l hl

/-- The words of a register in the state in which an instruction makes its effect (R55 to R57). -/
theorem regWord_prep (he : exists' i s) (a l : Nat) : regWord (prep r i s) i.blk i.slot a l =
    if a ∈ markedRegs r (fibIs s i).wb then 0 else regWord s i.blk i.slot a l := by
  have hp := (prep_step (r := r) he).regs a
  have hr : regWord (prep r i s) i.blk i.slot a l = match reg (prep r i s) i.blk i.slot a with
      | none => 0
      | some r => r.vals.getD l 0 := rfl
  rw [hr, hp, reg_landed]
  by_cases hk : a ∈ markedRegs r (fibIs s i).wb
  · simp [killed, hk]
  · simp only [killed, List.contains_iff_mem, hk, if_false]
    rfl

end

/-- R52, R257: field D of a load is aligned to the number of registers that it writes, which so differ. -/
theorem loadRegs_ne {x : RXF} (hw : wf (.ld x) = true) (i : Issue) (s : State) (j k : Nat)
    (hj : j < widthRegs (Forms.loadWidth x.f.toNat)) (hk : k < widthRegs (Forms.loadWidth x.f.toNat)) (h : j ≠ k) :
    dstReg (x.raw 0x28#7) i s j ≠ dstReg (x.raw 0x28#7) i s k := by
  have hd : (Forms.ofRaw (x.raw 0x28#7)).d = Forms.byWidth (Forms.loadWidth x.f.toNat) := rfl
  have hc := check_of_wf hw rfl
  have hf : Forms.loadWidth x.f.toNat = 1 ∨ Forms.loadWidth x.f.toNat = 2 ∨ Forms.loadWidth x.f.toNat = 4 ∨
      Forms.loadWidth x.f.toNat = 8 ∨ Forms.loadWidth x.f.toNat = 16 := by
    unfold Forms.loadWidth
    split <;> decide
  rcases hf with hf | hf | hf | hf | hf <;> rw [hf] at hd hj hk
  · exact dstReg_ne i s (n := 1) (by decide) (Nat.one_dvd _) hj hk h
  · exact dstReg_ne i s (n := 1) (by decide) (Nat.one_dvd _) hj hk h
  · exact dstReg_ne i s (n := 1) (by decide) (Nat.one_dvd _) hj hk h
  · exact dstReg_ne i s (n := 2) (by decide) (aligned_of_check hc hd) hj hk h
  · exact dstReg_ne i s (n := 4) (by decide) (aligned_of_check hc hd) hj hk h

/-- The lanes of an access that reach their bytes. -/
theorem lanePas_lanes (i : Issue) (s : State) (k : AccKind) (n : Nat) (ea : Nat → Nat) (ls : List Nat) :
    (lanePas i s k n ea ls).map (·.1) = ls := by
  rw [lanePas, List.map_map]
  exact List.map_id ls

/-- Between the beginning of an issue and its effect, parts of stores are seen by no fewer agents (R436). -/
theorem prep_later (r : Raw) {i : Issue} {s : State} (he : exists' i s) : Later s (prep r i s) := by
  have hp := prep_step (r := r) he
  have ht : Later s (touch r i s) :=
    (Later.of_same (s := s) (t := updSlot s i.blk i.slot (fun x => useChunks x (touched r (ops r i s).wb))) rfl rfl).trans (landFlights_later _ _)
  exact ht.trans (Later.of_same (hp.within.mem.trans ht.mem.symm) hp.stores)

theorem Got.of.back {s t : State} {i : Issue} {l : GLane} {g : Got} (h : Got.of t i l g) (hl : Later s t) : Got.of s i l g :=
  ⟨h.1, h.2.imp (fun _ _ x => x.back hl)⟩

/-- What a load whose lanes all reach their bytes does: its lanes have read them, and their words stand in the destination registers. -/
theorem performed_load {r : Raw} {i : Issue} {s v : State} {q : Retain} {f n : Nat} {ea : Nat → Nat}
    {fs : State → List GLane → List Flight} (he : exists' i v) (hw : (fibIs v i).wait = none) (hm : v.mappings = [])
    (hr : reaches i (ops r i s) v .read n ea = true)
    (hne : ∀ j k, j < widthRegs n → k < widthRegs n → j ≠ k → dstReg r i s j ≠ dstReg r i s k) :
    let u := performed q i (ops r i s) .read n ea (fun v ls =>
      fly (writeLoad r (ops r i s) f n (gReadLanesBy q v i ls).2 (gReadLanesBy q v i ls).1) (fs (gReadLanesBy q v i ls).1 ls)) v
    ∃ gs, List.Forall₂ (Got.of v i) (lanePas i v .read n ea (ops r i s).act) gs ∧ u.mem = v.mem ∧ u.sram = v.sram ∧
      ∀ j, j < widthRegs n → ∀ l, l < 32 → regWord u i.blk i.slot (dstReg r i s j) l =
        if l ∈ (ops r i s).act then loadWord f (gotBytes gs l) j else regWord v i.blk i.slot (dstReg r i s j) l := by
  have hq := gMeet_quiet v i .read n ea (ops r i s).act
  have hl : Later v (gMeet v i .read n ea (ops r i s).act).s := Later.of_same hq.mem (by
    rw [gMeet_reached hr]
    exact seekTlb_stores v _ _ _ _)
  have hok : (gMeet v i .read n ea (ops r i s).act).ok = lanePas i v .read n ea (ops r i s).act := by rw [gMeet_reached hr]
  unfold performed
  dsimp only
  rw [hok]
  generalize (gMeet v i .read n ea (ops r i s).act).s = m at hq hl ⊢
  obtain ⟨hg, hread⟩ := gReadLanesBy_reads (hq.mappings.trans hm) q i (lanePas i v .read n ea (ops r i s).act)
  have hb := gReadLanesBy_blocks q m i (lanePas i v .read n ea (ops r i s).act)
  have hgl := (got_lanes hg).trans (lanePas_lanes i v .read n ea (ops r i s).act)
  generalize gReadLanesBy q m i (lanePas i v .read n ea (ops r i s).act) = p at hg hread hb hgl ⊢
  have hbv : p.1.blocks = v.blocks := hb.trans hq.blocks
  have hload := writeLoad_loaded (r := r) (s := s) (t := p.1) (f := f) (gs := p.2) ((Shape.of_blocks hbv).exists' he)
    (by rw [fibIs_of_blocks hbv]; exact hw) hne
  have hs := fun u pas => sendAll_quiet q i (coreIs v i) .read v.nextId u pas
  refine ⟨p.2, hg.imp (fun _ _ x => x.back hl), ?_, ?_, fun j hj l hlt => ?_⟩
  · rw [(hs _ _).mem, (fly_mem _ _).1, hload.within.mem, hread.later.mem, hq.mem]
  · rw [(hs _ _).sram, (fly_mem _ _).2, hload.within.sram, hread.sram, hq.sram]
  · rw [regWord_of_blocks (hs _ _).blocks, regWord_fly, hload.words j hj l hlt, hgl, regWord_of_blocks hbv]

/-- Settles O32: what the lanes have read stands in their destination registers, and each could read it where the instruction issues. -/
theorem loadedWords : Obligations.LoadedWords := by
  intro x i s w e n hwf hr hm hreach
  have he := issuing_exists (ready_parts hr).1
  have hprep := prep_step (r := w) he
  have hp : (prep w i s).mappings = [] := by
    rw [hprep.within.world]
    exact hm
  have hpr := reaches_prep (r := w) he hreach
  obtain ⟨t, ht, hi⟩ : Follows w i s (execLd x s) (.goes _) :=
    follows_run hr (globalAccess_reached rfl hpr _) ((Shape.of_blocks (gMeet_quiet _ i _ _ _ _).blocks).trans
      ((loadGlobal_shape _ _ _ _ _ (fun _ _ => _) _ _).trans (Shape.of_blocks (sendAll_quiet _ _ _ _ _ _ _).blocks)))
  obtain ⟨gs, hg, hmem, hsram, hwords⟩ := performed_load (r := w) (s := s) (q := retainOf x.b.toNat) (f := x.f.toNat)
    (fs := fun u ls => ls.map (fun l =>
      { flightOf w e x.f.toNat n u false l.1 (globalAddr x.x e l.1) l.2 0 0 with pol := x.b.toNat }))
    (hprep.within.keeps he) (prep_wait (ready_parts hr).1) hp hpr (loadRegs_ne hwf i s)
  have hnodup : ((lanePas i (prep w i s) .read n (globalAddr x.x e) e.act).map (·.1)).Nodup := by
    rw [lanePas_lanes]
    exact (act_ascending (ready_parts hr).1).imp (fun h => Nat.ne_of_lt h)
  have hreads : ∀ l ∈ e.act, ∀ pas, laneBytes i s .read n (globalAddr x.x e l) = some pas →
      List.Forall₂ (Reads s (agentOf i l)) pas (gotBytes gs l) := fun l hl pas hpas => by
    rw [← laneBytes_prep (r := w) he] at hpas
    refine (gotBytes_reads hg hnodup ?_).imp (fun _ _ h => h.back (prep_later w he))
    exact List.mem_map.2 ⟨l, hl, by rw [pasOf_of_some hpas]⟩
  refine ⟨t, fun l k => (gotBytes gs l).getD k 0, ht, hi.within.mem.trans (hmem.trans hprep.within.mem),
    hi.within.sram.trans (hsram.trans hprep.within.sram), fun l hl pas hpas k a hk => ?_, fun j hj l hl => ?_⟩
  · have hf := hreads l hl pas hpas
    obtain ⟨h1, rfl⟩ := List.getElem?_eq_some_iff.1 hk
    have h2 : k < (gotBytes gs l).length := hf.length_eq ▸ h1
    show mayRead s (agentOf i l) pas[k] ((gotBytes gs l).getD k 0)
    rw [List.getD_eq_getElem _ _ h2]
    exact ((List.forall₂_iff_get.1 hf).2 k h1 h2).mayRead
  · have hreg : regWord t i.blk i.slot (dstReg w i s j) l = if l ∈ e.act then loadWord x.f.toNat (gotBytes gs l) j
        else regWord (prep w i s) i.blk i.slot (dstReg w i s j) l := by
      unfold regWord
      rw [show mget (slotD t i.blk i.slot).regs (dstReg w i s j) = _ from hi.regs _ _ _]
      exact hwords j hj l hl
    rw [hreg, regWord_prep he]
    split
    · next hact =>
      obtain ⟨pas, hpas⟩ := Option.isSome_iff_exists.1 ((reaches_iff.1 hreach).1 l hact).2
      exact loadWord_bytes ((hreads l hact pas hpas).length_eq.symm.trans (laneBytes_length hpas)) hj
    · rfl

end Sys2Proof.Safety
end

section
/-!
SUPPORT. The number of free choices made so far, which ends every step of a sequencer (R331): no access of the sequencer, no error record
and no ticket changes it.
-/

namespace Sys2Proof.Safety

open Sys2Proof.Machine

theorem foldl_choice {α : Type} {g : State → α → State} (hg : ∀ t x, (g t x).choice = t.choice) (l : List α) (s : State) :
    (l.foldl g s).choice = s.choice :=
  foldl_related (R := fun s t : State => t.choice = s.choice) (fun _ => rfl) (fun h k => k.trans h) hg l s

theorem foldl_fst_choice {α β : Type} {g : State × β → α → State × β} (hg : ∀ p x, (g p x).1.choice = p.1.choice) (l : List α)
    (p : State × β) : (l.foldl g p).1.choice = p.1.choice :=
  foldl_related (R := fun p q : State × β => q.1.choice = p.1.choice) (fun _ => rfl) (fun h k => k.trans h) hg l p

/-! ### Stores and accesses in flight -/

@[simp] theorem showParts_choice (s : State) (f : Pend → Shard → Bool) : (showParts s f).choice = s.choice := by
  unfold showParts
  split <;> rfl

@[simp] theorem dropPieces_choice (s : State) (locs : List Nat) : (dropPieces s locs).choice = s.choice := showParts_choice s _

@[simp] theorem mapParts_choice (s : State) (g : Pend → Shard → Shard) : (mapParts s g).choice = s.choice := by
  unfold mapParts
  split <;> rfl

@[simp] theorem joinView_choice (s : State) (a v : Nat) : (joinView s a v).choice = s.choice := mapParts_choice s _

@[simp] theorem seeLocs_choice (s : State) (v : Nat) (locs : List Nat) : (seeLocs s v locs).choice = s.choice := mapParts_choice s _

@[simp] theorem acquireAt_choice (s : State) (locs : List Nat) (agent scope : Nat) (obj : Bool) :
    (acquireAt s locs agent scope obj).choice = s.choice := by
  refine foldl_choice (fun t q => ?_) _ s
  exact joinView_choice t q.view agent

@[simp] theorem endReleases_choice (s : State) (locs : List Nat) : (endReleases s locs).choice = s.choice := by
  unfold endReleases
  split <;> rfl

@[simp] theorem landFlights_choice (s : State) (p : Flight → Bool) : (landFlights s p).choice = s.choice := by
  rw [landFlights_eq]

@[simp] theorem landAt_choice (s : State) (a : Nat) (locs : List Nat) : (landAt s a locs).choice = s.choice := landFlights_choice s _

@[simp] theorem lookUnit_choice (r : Reader) (s : State) (j : Nat) (locs : List Nat) (bs : List Byte) :
    (lookUnit r s j locs bs).1.choice = s.choice := by
  unfold lookUnit
  split <;> rfl

@[simp] theorem lookBytes_choice (r : Reader) (s : State) (a : Nat) (locs : List Nat) (bs : List Byte) :
    (lookBytes r s a locs bs).1.choice = s.choice := by
  unfold lookBytes lookParts
  split
  · rfl
  · refine foldl_fst_choice (fun p j => ?_) _ (s, [])
    exact lookUnit_choice r p.1 j _ _

@[simp] theorem addStore_choice (s : State) (i : Issue) (scope : Nat) (kind : PendKind) : (addStore s i scope kind).choice = s.choice := rfl

@[simp] theorem addPieces_choice (s : State) (id agent : Nat) (xs : List Shard) : (addPieces s id agent xs).choice = s.choice := rfl

@[simp] theorem mergeParts_choice (s : State) (id : Nat) (locs : List Nat) : (mergeParts s id locs).choice = s.choice := rfl

@[simp] theorem markWhole_choice (s : State) (id : Nat) : (markWhole s id).choice = s.choice := rfl

/-! ### Errors and tickets -/

@[simp] theorem noteError_choice (s : State) (e : ErrRec) : (noteError s e).choice = s.choice := rfl

@[simp] theorem startRevoke_choice (s : State) (c : Nat) : (startRevoke s c).choice = s.choice := by
  refine foldl_choice (fun t d => ?_) _ s
  rfl

@[simp] theorem bearLoss_choice (s : State) (c : Nat) (r : ErrRec) : (bearLoss s c r).choice = s.choice := by
  unfold bearLoss
  dsimp only
  split
  · rfl
  · split
    · rfl
    · rfl
    · split
      · rfl
      · exact startRevoke_choice s c

@[simp] theorem consumePoison_choice (s : State) (b unit addr : Nat) : (consumePoison s b unit addr).choice = s.choice :=
  bearLoss_choice s _ _

@[simp] theorem matrixLoss_choice (s : State) (b : Nat) : (matrixLoss s b).choice = s.choice := bearLoss_choice s _ _

@[simp] theorem newTicket_choice (s : State) (c : Nat) (src : TrapSrc) (path : List Nat) (fs : List (Nat × Nat)) :
    (newTicket s c src path fs).choice = s.choice := by
  unfold newTicket
  split
  dsimp only
  split <;> rfl

@[simp] theorem trapSeq_choice (s : State) (i : Issue) (kind detail : Nat) (more : List (Nat × Nat)) :
    (trapSeq s i kind detail more).choice = s.choice := newTicket_choice _ _ _ _ _

@[simp] theorem deferredRec_choice (s : State) (c unit addr : Nat) : (deferredRec s c unit addr).choice = s.choice := rfl

/-! ### The memory side -/

@[simp] theorem putRaw_choice (s : State) (pas : List Nat) (bs : List Byte) : (putRaw s pas bs).choice = s.choice := rfl

@[simp] theorem writeBack_choice (s : State) (m j : Nat) : (writeBack s m j).choice = s.choice := by
  unfold writeBack
  split <;> rfl

@[simp] theorem recalls_choice (s : State) (but : Option (Nat × Nat)) (wr : Bool) (pas : List Nat) :
    (recalls s but wr pas).choice = s.choice := by
  refine foldl_choice (fun t ln => foldl_choice (fun u p => ?_) _ t) _ s
  split
  · unfold invalidateLine
    split
    · rfl
    · rfl
    · exact writeBack_choice u _ _
    · rfl
  · unfold recallLine
    split
    · exact writeBack_choice u _ _
    · rfl

@[simp] theorem touchMscBy_choice (p : Retain) (s : State) (c : Nat) (wr : Bool) (pas : List Nat) :
    (touchMscBy p s c wr pas).choice = s.choice := by
  refine foldl_choice (fun t ln => ?_) _ s
  split
  · rfl
  · split
    · rfl
    · unfold fillMsc
      dsimp only
      split <;> rfl

@[simp] theorem gRead_choice (s : State) (c : Nat) (pas : List Nat) : (gRead s c pas).1.choice = s.choice := by simp [gRead, touchMsc]

@[simp] theorem gLook_choice (p : Retain) (s : State) (c : Nat) (r : Reader) (pas : List Nat) : (gLook p s c r pas).1.choice = s.choice := by
  simp [gLook]

@[simp] theorem gPut_choice (p : Retain) (s : State) (c : Nat) (pas : List Nat) (bs : List Byte) : (gPut p s c pas bs).choice = s.choice := by
  simp [gPut]

@[simp] theorem lPut_choice (s : State) (core off : Nat) (bs : List Byte) : (lPut s core off bs).choice = s.choice := by
  have h : ∀ (ps : List (Nat × Nat)) (g : Nat × Nat → SLine → SLine) (t : State),
      (ps.foldl (fun t p => updLine t p.1 p.2 (g p)) t).choice = t.choice := fun ps g t => by
    refine foldl_choice (fun u p => ?_) ps t
    rfl
  unfold lPut
  dsimp only
  split
  · exact h _ _ _
  · exact h _ _ _

@[simp] theorem lLook_choice (s : State) (r : Reader) (core off n : Nat) : (lLook s r core off n).1.choice = s.choice :=
  lookBytes_choice r s _ _ _

@[simp] theorem lStoreBy_choice (s : State) (i : Issue) (id lane la core off : Nat) (ns : List Nat) (bs : List Byte) :
    (lStoreBy s i id lane la core off ns bs).choice = s.choice := by
  simp [lStoreBy]

@[simp] theorem put_choice (h : Home) (s : State) (c : Nat) (bs : List Byte) : (h.put s c bs).choice = s.choice := by
  cases h with
  | glob pas => exact gPut_choice .usual s c pas bs
  | loc core off => exact lPut_choice s core off bs

@[simp] theorem newest_choice (h : Home) (s : State) (c w : Nat) : (h.newest s c w).1.choice = s.choice := by
  cases h with
  | glob pas => simp [Home.newest, touchMsc]
  | loc core off => rfl

@[simp] theorem acquireHere_choice (s : State) (u : Updater) (locs : List Nat) : (acquireHere s u locs).choice = s.choice := by
  unfold acquireHere
  split
  · rfl
  · exact acquireAt_choice s _ _ _ _

@[simp] theorem releaseHere_choice (s : State) (u : Updater) (locs : List Nat) : (releaseHere s u locs).choice = s.choice := by
  unfold releaseHere
  split
  · rfl
  · exact joinView_choice s _ _

@[simp] theorem updateAt_choice (s : State) (u : Updater) (h : Home) (w : Nat) (g : Nat → Option Nat) :
    (updateAt s u h w g).1.choice = s.choice := by
  have hn : (h.newest (landAt s u.agent (h.locs s w)) u.ctx w).1.choice = s.choice := by simp
  unfold updateAt
  dsimp only
  generalize h.locs s w = locs at hn ⊢
  generalize h.newest (landAt s u.agent locs) u.ctx w = n at hn ⊢
  generalize (if (rival n.1 u.kind u.scope u.agent locs).isSome = true then
    Config.freePick n.1.choice (2 ^ 35 + u.id) (32 * locs.headD 0 + u.lane) % 3 else 0) = k
  have ha : (acquireHere (if k = 0 then seeLocs n.1 u.agent locs else n.1) u locs).choice = s.choice := by
    rw [acquireHere_choice]
    split
    · exact (seeLocs_choice _ _ _).trans hn
    · exact hn
  split
  · exact (seeLocs_choice _ _ _).trans hn
  · split
    · exact ha
    · split
      · exact ha
      · simpa using ha

/-! ### Requests that leave the core -/

@[simp] theorem addTally_choice (s : State) (c e n : Nat) : (addTally s c e n).choice = s.choice := by
  unfold addTally
  split <;> rfl

@[simp] theorem capHold_choice (s : State) (i : Issue) : (capHold s i).choice = s.choice := by
  unfold capHold
  split
  · rfl
  · exact addTally_choice s _ _ _

@[simp] theorem touchL2_choice (p : Retain) (s : State) (die : Nat) (wr : Bool) (ln : Nat) : (touchL2 p s die wr ln).choice = s.choice := by
  have fill : ∀ t : State, (if inL2 t die ln then t else fillL2 t die (decide (p = .low)) ln).choice = t.choice := fun t => by
    split <;> rfl
  cases wr
  · exact fill s
  · exact fill _

@[simp] theorem sendLine_choice (p : Retain) (c core : Nat) (upd wr : Bool) (lo hi : Nat) (s : State) (ln : Nat) :
    (sendLine p c core upd wr lo hi s ln).choice = s.choice := by
  unfold sendLine
  dsimp only
  rw [touchL2_choice]
  split
  · rfl
  · exact addTally_choice s _ _ _

@[simp] theorem sendAll_choice (q : Retain) (i : Issue) (core : Nat) (k : AccKind) (lo : Nat) (s : State) (pas : List Nat) :
    (sendAll q i core k lo s pas).choice = s.choice := foldl_choice (fun t ln => sendLine_choice q _ _ _ _ _ _ t ln) _ s

@[simp] theorem sendFill_choice (s : State) (m : Mapping) (ln : Nat) (wr : Bool) (lns : List Nat) : (sendFill s m ln wr lns).choice = s.choice := by
  unfold sendFill
  dsimp only
  rw [foldl_choice (fun t x => touchL2_choice .usual t _ wr x)]
  split
  · rfl
  · exact addTally_choice s _ _ _

theorem askLine_choice (s : State) (m : Mapping) (p : Nat × Nat) (k : AccKind) (park : Meet) (g : List Nat → SLine → SLine) :
    (askLine s m p k park g).1.choice = s.choice := by
  unfold askLine
  split
  · dsimp only
    split
    · rfl
    · exact (sendFill_choice _ _ _ _ _).trans (addTally_choice s _ _ _)
  · rfl
  · rfl

theorem meetLine_choice (s : State) (right : Option Nat) (store : Bool) (p : Nat × Nat) : (meetLine s right store p).1.choice = s.choice := by
  unfold meetLine
  split
  · rfl
  · dsimp only
    split
    · rfl
    · split
      · rfl
      · split
        case h_5 =>
          split
          · rfl
          · exact askLine_choice s _ _ _ _ _
        case h_7 => exact askLine_choice s _ _ _ _ _
        case h_8 => exact askLine_choice s _ _ _ _ _
        all_goals rfl

theorem meetLines_choice (right : Option Nat) (store : Bool) (ps : List (Nat × Nat)) (s : State) :
    (meetLines s right store ps).1.choice = s.choice := by
  induction ps generalizing s with
  | nil => rfl
  | cons p ps ih =>
    have hp := meetLine_choice s right store p
    unfold meetLines
    split
    · next t heq =>
      rw [heq] at hp
      exact (ih t).trans hp
    · exact hp

end Sys2Proof.Safety
end

section
/-!
SUPPORT. A sequencer instruction and its course (R331, R340): a course is read off an instruction's parts one by one, each of which leaves
the number of free choices made so far.
-/

namespace Sys2Proof.Safety

open Sys2Proof.Machine

/-! ### Parts that leave the number of free choices -/

/-- The state that a result holds has made `n` free choices. -/
def ResAt (n : Nat) : SeqRes → Prop
  | .go v => v.choice = n
  | .jump v _ => v.choice = n
  | .stall v => v.choice = n
  | .hold v _ => v.choice = n
  | .ended v => v.choice = n
  | .trap _ _ => True
  | .parity => True
  | .eaten _ _ => True

/-- A part of an instruction ends in a state that has made `n` free choices, whether it comes to a value or not. -/
structure PartAt {α : Type} (n : Nat) (f : α → State) (x : SeqM α) : Prop where
  value : ∀ a, x = .ok a → (f a).choice = n
  stop : ∀ r, x = .error r → ResAt n r

section

variable {α β : Type} {n : Nat} {f : α → State} {g : β → State} {s : State} {i : Issue}

theorem ok_at {a : α} (h : (f a).choice = n) : PartAt n f (.ok a) := by
  refine ⟨fun b e => ?_, fun r e => nomatch e⟩
  cases e
  exact h

theorem error_at {r : SeqRes} (h : ResAt n r) : PartAt n f (.error r) := by
  refine ⟨fun b e => (nomatch e), fun q e => ?_⟩
  cases e
  exact h

theorem PartAt.bind {x : SeqM α} {k : α → SeqM β} (hx : PartAt n f x) (hk : ∀ a, (f a).choice = n → PartAt n g (k a)) :
    PartAt n g (x >>= k) := by
  cases x with
  | error r => exact error_at (hx.stop r rfl)
  | ok a => exact hk a (hx.value a rfl)

theorem noCause_at {c : Option (Nat × Nat)} {k : Unit → SeqM β} (hk : PartAt n g (k ())) : PartAt n g (noCause c >>= k) := by
  cases c with
  | none => exact hk
  | some p => exact error_at trivial

theorem needLive_at {reads : MatrixCell → Bool} {k : Unit → SeqM β} (hk : PartAt n g (k ())) : PartAt n g (needLive s i reads >>= k) := by
  unfold needLive
  split
  · exact hk
  · exact error_at trivial

theorem seqFault_at (h : s.choice = n) (k : AccKind) (what : Nat) (p : Nat × Xl) : ResAt n (seqFault s i k what p) := by
  unfold seqFault
  split <;> exact h

theorem seqLines_at (h : s.choice = n) (store : Bool) (ps : List (Nat × Nat)) : PartAt n id (seqLines s i store ps) := by
  unfold seqLines
  dsimp only
  have ht := fun xs => (meetLines_choice none store xs s).trans h
  generalize (nub _).filterMap (fun ln => stashAt s (seqCore s i) (64 * ln)) = xs
  replace ht := ht xs
  generalize meetLines s none store xs = q at ht ⊢
  obtain ⟨t, m⟩ := q
  cases m
  case ok => exact ok_at ht
  case fault => exact error_at (seqFault_at ht _ _ _)
  case capped => exact error_at ((capHold_choice _ i).trans ht)
  all_goals exact error_at ht

theorem seqPoison_at (h : s.choice = n) (bad : Bool) (unit addr : Nat) : PartAt n id (seqPoison s i bad unit addr) := by
  unfold seqPoison
  split
  · exact ok_at h
  · split
    · exact error_at trivial
    · exact ok_at ((consumePoison_choice s _ _ _).trans h)

theorem seqLocal_at (h : s.choice = n) (off w : Nat) : PartAt n Prod.fst (seqLocal s i off w) :=
  (seqPoison_at h _ _ _).bind (fun t ht => ok_at ((lLook_choice t _ _ _ _).trans ht))

theorem readVersion_at (h : s.choice = n) (r : MRec) : PartAt n id (readVersion s i r) := by
  unfold readVersion
  split
  · exact (seqLines_at h _ _).bind (fun t ht => (seqLocal_at ht _ _).bind (fun p hp => ok_at hp))
  · exact ok_at h

/-- A local operand is read. -/
theorem readOperand_at (h : s.choice = n) (r : MRec) (w : Nat) : PartAt n Prod.fst (readOperand s i r w) :=
  (readVersion_at h r).bind (fun _ ht => (seqLines_at ht _ _).bind (fun _ hu => seqLocal_at hu _ _))

theorem seqXl_at (h : s.choice = n) (k : AccKind) (va w : Nat) : PartAt n Prod.fst (seqXl s i k va w) := by
  unfold seqXl
  split
  · split
    · exact error_at ((capHold_choice s i).trans h)
    · exact ok_at ((sendAll_choice _ _ _ _ _ s _).trans h)
  · exact error_at (seqFault_at h _ _ _)

theorem seqGlobal_at (h : s.choice = n) (pas : List Nat) : PartAt n Prod.fst (seqGlobal s i pas) :=
  (seqPoison_at ((gLook_choice _ s _ _ _).trans h) _ _ _).bind (fun _ hu => ok_at hu)

theorem seqShape_at (h : s.choice = n) (r : MRec) : PartAt n Prod.fst (seqShape s i r) := by
  unfold seqShape
  split
  · exact error_at trivial
  · exact (seqXl_at h _ _ _).bind (fun p hp => (seqGlobal_at hp _).bind (fun q hq => ok_at hq))

theorem shapeSpot_choice {c core : Nat} {h : Machine.Shape} {is : List Nat} {p : State × Spot × Bool} (hp : shapeSpot s c core h is = .ok p) :
    p.1.choice = s.choice := by
  unfold shapeSpot at hp
  split at hp
  · cases hp
    rfl
  · split at hp
    · cases hp
    · cases hp
      exact gRead_choice s c _

theorem shapeTile_at (hs : s.choice = n) (h : Machine.Shape) (co ro : Nat) (k : AccKind) (ps : List (Nat × Nat)) (out : List (Nat × Nat × Place)) :
    PartAt n Prod.fst (shapeTile i h co ro k ps s out) := by
  induction ps generalizing s out with
  | nil => exact ok_at hs
  | cons p ps ih =>
    unfold shapeTile
    split
    · exact ih hs out
    · dsimp only
      split
      · exact error_at (seqFault_at hs _ _ _)
      · next t p bad heq =>
        have hp := seqPoison_at (i := i) ((shapeSpot_choice heq).trans hs) bad 8 0
        split
        · next _ e he => exact error_at (hp.stop e he)
        · next u hu => exact ih (hp.value u hu) out
        · next u va high hu =>
          have hx := seqXl_at (i := i) (hp.value u hu) k va h.bytesPer
          split
          · next e he => exact error_at (hx.stop e he)
          · next v pas hv => exact ih (hx.value (v, pas) hv) _

theorem openLocal_at (h : s.choice = n) (r : MRec) (z : Nat) (store need : Bool) : PartAt n Tile.s (openLocal s i r z store need) := by
  unfold openLocal
  refine noCause_at (PartAt.bind (f := id) ?_ (fun t ht => ok_at ht))
  split
  · split <;> exact seqLines_at h _ _
  · exact seqLines_at h _ _

theorem openGlobal_at (h : s.choice = n) (a : Nat) (r : MRec) (typ : Nat) (k : AccKind) (need : Bool) :
    PartAt n Tile.s (openGlobal s i a r typ k need) := by
  refine (seqShape_at h r).bind (fun p hp => noCause_at (needLive_at ((shapeTile_at hp _ _ _ _ _ _).bind (fun q hq => ?_))))
  obtain ⟨u, els⟩ := q
  dsimp only
  split
  · exact ok_at hq
  · exact (seqXl_at hq _ _ _).bind (fun v hv => ok_at hv)

/-- A tile access is opened. -/
theorem openTile_at (h : s.choice = n) (a typ : Nat) (k : AccKind) (need : Bool) : PartAt n Tile.s (openTile s i a typ k need) := by
  refine needLive_at ?_
  dsimp only
  split
  · exact error_at trivial
  · split
    · exact openLocal_at h _ _ _ _
    · exact openGlobal_at h _ _ _ _ _

theorem placeRead_at (h : s.choice = n) (p : Place) (w : Nat) : PartAt n Prod.fst (placeRead s i p w) := by
  cases p with
  | loc off => exact seqLocal_at h off w
  | glob va pas => exact seqGlobal_at h pas

/-- The version word of a tile is read. -/
theorem verRead_at {t : Tile} (h : t.s.choice = n) : PartAt n id (verRead t i) := by
  unfold verRead
  split
  · exact ok_at h
  · next p _ =>
    have hp := placeRead_at (i := i) h p 4
    split
    · next u bs hu => exact ok_at (hp.value (u, bs) hu)
    · next e he => exact error_at (hp.stop e he)

/-- The words of a tile are read. -/
theorem readTile_at (h : s.choice = n) (es : List (Nat × Nat × Place)) (out : List (Nat × Nat)) : PartAt n Prod.fst (readTile i es s out) := by
  induction es generalizing s out with
  | nil => exact ok_at h
  | cons e es ih =>
    have hp := placeRead_at (i := i) h e.2.2 4
    unfold readTile
    split
    · next r hr => exact error_at (hp.stop r hr)
    · next t bs ht => exact ih (hp.value (t, bs) ht) _

end

/-! ### Writes of a tile -/

section

variable (s : State) (i : Issue)

@[simp] theorem placeStore_choice (id : Nat) (p : Place) (bs : List Byte) : (placeStore s i id p bs).choice = s.choice := by
  simp [placeStore]

@[simp] theorem placeUpdate_choice (id scope ord : Nat) (kind : PendKind) (p : Place) (g : Nat → Nat) :
    (placeUpdate s i id scope ord kind p g).choice = s.choice := by
  unfold placeUpdate
  dsimp only
  have hu := updateAt_choice s { ctx := ctxIs s i, agent := seqAgent i.blk, id := id, scope := scope, ord := ord, va := p.va, kind := kind }
    (p.home (seqCore s i)) 4 (fun o => some (g o))
  split
  · exact hu
  · cases p with
    | loc off => exact hu
    | glob va pas => exact hu

@[simp] theorem placeRmw_choice (id scope : Nat) (kind : PendKind) (p : Place) (g : Nat → Nat) :
    (placeRmw s i id scope kind p g).choice = s.choice := placeUpdate_choice s i id scope 0 kind p g

end

/-! ### The course of an instruction from those of its parts -/

/-- The state after an instruction whose body comes to `x`. -/
def endOf (i : Issue) (s : State) (x : SeqM SeqRes) : State :=
  seqEnd i s (match x with
    | .ok r => r
    | .error r => r)

theorem seqInsn_next {i : Issue} {s : State} (hc : s.cur = some i) (hs : i.seq = true) (body : Issue → State → SeqM SeqRes) :
    seqInsn s body = .next (endOf i s (body i s)) := by
  unfold seqInsn
  rw [hc]
  exact if_pos hs

/-- A body leaves what a course says, where there is one. -/
def Agrees (i : Issue) (s : State) (x : SeqM SeqRes) (c : Option SeqCourse) : Prop := ∀ d, c = some d → endOf i s x = seqAfter i s d

section

variable {α : Type} {i : Issue} {s : State} {x : SeqM SeqRes} {c : Option SeqCourse}

theorem agrees_go {v : State} (h : v.choice = s.choice) : Agrees i s (.ok (.go v)) (some (.goes v)) := by
  intro d hd
  cases hd
  simp only [endOf, seqEnd, seqAfter, seqNext, updSeq_choice, h]

/-- R493, R495: an instruction that reads a failed cell. -/
theorem agrees_parity : Agrees i s (.error .parity) (some (failed i s)) := by
  intro d hd
  cases hd
  have he : endsByPoison s i.blk = !(ctxD s (ctxIs s i)).root := rfl
  unfold failed
  cases hr : (ctxD s (ctxIs s i)).root with
  | true =>
    rw [if_pos rfl]
    simp only [endOf, seqEnd, seqAfter, he, hr, Bool.not_true, Bool.false_eq_true, if_false, trapSeq_choice, matrixLoss_choice, addrField]
  | false =>
    rw [if_neg (by decide)]
    simp only [endOf, seqEnd, seqAfter, he, hr, Bool.not_false, if_true, matrixLoss_choice]

/-- What stops a part stops the instruction. -/
theorem agrees_stop {r : SeqRes} (h : ResAt s.choice r) : Agrees i s (.error r) (stopped i s r) := by
  cases r with
  | parity => exact agrees_parity
  | go v => exact fun d hd => nomatch hd
  | jump v pc => exact fun d hd => nomatch hd
  | ended v => exact fun d hd => nomatch hd
  | stall v =>
    intro d hd
    cases hd
    simp only [endOf, seqEnd, seqAfter, show v.choice = s.choice from h]
  | trap cause a =>
    intro d hd
    cases hd
    simp only [endOf, seqEnd, seqAfter, trapSeq_choice, addrField]
  | hold v f =>
    intro d hd
    cases hd
    simp only [endOf, seqEnd, seqAfter, updSeq_choice, show v.choice = s.choice from h]
  | eaten u a =>
    intro d hd
    cases hd
    simp only [endOf, seqEnd, seqAfter, consumePoison_choice]

theorem agrees_bind {f : α → State} {y : SeqM α} {k : α → SeqM SeqRes} {m : α → Option SeqCourse} (hy : PartAt s.choice f y)
    (hk : ∀ a, y = .ok a → (f a).choice = s.choice → Agrees i s (k a) (m a)) : Agrees i s (y >>= k) (andThen i s y m) := by
  cases y with
  | error r => exact agrees_stop (hy.stop r rfl)
  | ok a => exact hk a rfl (hy.value a rfl)

theorem agrees_noCause {p : Option (Nat × Nat)} {k : Unit → SeqM SeqRes} (h : Agrees i s (k ()) c) :
    Agrees i s (noCause p >>= k) (barring p c) := by
  cases p with
  | none => exact h
  | some q => exact agrees_stop (r := .trap q.1 q.2) trivial

theorem agrees_needLive {reads : MatrixCell → Bool} {k : Unit → SeqM SeqRes} (h : Agrees i s (k ()) c) :
    Agrees i s (needLive s i reads >>= k) (whole i s reads c) := by
  unfold needLive whole liveCells
  cases (seqD s i.blk).lost.any reads
  · exact h
  · exact agrees_parity

end

end Sys2Proof.Safety
end

section
/-!
Settles O38 (`SequencerTiles`): tile transfers and element operations follow their courses.
-/

namespace Sys2Proof.Safety

open Sys2Proof.Machine

/-! ### Local operands leave the tiles (R340) -/

section

variable {s t : State} {i : Issue}

theorem bind_ok {α β : Type} {x : SeqM α} {k : α → SeqM β} {b : β} (h : (x >>= k) = .ok b) : ∃ a, x = .ok a ∧ k a = .ok b := by
  cases x with
  | error r => cases h
  | ok a => exact ⟨a, rfl, h⟩

theorem seqLines_blocks {store : Bool} {ps : List (Nat × Nat)} (h : seqLines s i store ps = .ok t) : t.blocks = s.blocks := by
  unfold seqLines at h
  dsimp only at h
  generalize (nub _).filterMap (fun ln => stashAt s (seqCore s i) (64 * ln)) = xs at h
  have hb := (meetLines_steady none store xs s).blocks
  generalize meetLines s none store xs = q at h hb
  obtain ⟨u, m⟩ := q
  cases m
  case ok =>
    cases h
    exact hb
  all_goals cases h

theorem startRevoke_blocks (s : State) (c : Nat) : (startRevoke s c).blocks = s.blocks := by
  refine foldl_blocks (fun t d => ?_) _ s
  rfl

theorem consumePoison_blocks (s : State) (b unit addr : Nat) : (consumePoison s b unit addr).blocks = s.blocks := by
  unfold consumePoison bearLoss
  dsimp only
  split
  · rfl
  · split
    · rfl
    · rfl
    · split
      · rfl
      · exact startRevoke_blocks s _

theorem seqPoison_blocks {bad : Bool} {unit addr : Nat} (h : seqPoison s i bad unit addr = .ok t) : t.blocks = s.blocks := by
  unfold seqPoison at h
  split at h
  · cases h
    rfl
  · split at h
    · cases h
    · cases h
      exact consumePoison_blocks s _ _ _

theorem seqLocal_blocks {off w : Nat} {p : State × List Byte} (h : seqLocal s i off w = .ok p) : p.1.blocks = s.blocks := by
  obtain ⟨t, ht, hp⟩ := bind_ok h
  cases hp
  exact (lookBytes_quiet _ t _ _ _).blocks.trans (seqPoison_blocks ht)

theorem readOperand_blocks {r : MRec} {w : Nat} {p : State × List Byte} (h : readOperand s i r w = .ok p) : p.1.blocks = s.blocks := by
  obtain ⟨t, ht, h⟩ := bind_ok h
  obtain ⟨u, hu, hp⟩ := bind_ok h
  refine (seqLocal_blocks hp).trans ((seqLines_blocks hu).trans ?_)
  unfold readVersion at ht
  split at ht
  · obtain ⟨v, hv, ht⟩ := bind_ok ht
    obtain ⟨q, hq, ht⟩ := bind_ok ht
    cases ht
    exact (seqLocal_blocks hq).trans (seqLines_blocks hv)
  · cases ht
    rfl

theorem readOperand_seqD {r : MRec} {w : Nat} {p : State × List Byte} (h : readOperand s i r w = .ok p) : seqD p.1 i.blk = seqD s i.blk := by
  simp only [seqD, blkD, readOperand_blocks h]

end

/-! ### Parts that several instructions share -/

section

variable {i : Issue} {s : State}

/-- R353: a vector record is read. -/
theorem agrees_readVector {r : MRec} {n : Nat} {k : State × (Nat → Nat) → SeqM SeqRes} {m : State × List Byte → Option SeqCourse}
    (hk : ∀ p, readOperand s i r (4 * n) = .ok p → p.1.choice = s.choice →
      Agrees i s (k (p.1, fun j => leNat ((p.2.drop (4 * j)).take 4))) (m p)) :
    Agrees i s (readVector s i r n >>= k) (andThen i s (readOperand s i r (4 * n)) m) := by
  have hr := readOperand_at (i := i) (s := s) (n := s.choice) rfl r (4 * n)
  unfold readVector
  cases hx : readOperand s i r (4 * n) with
  | error e => exact agrees_stop (hr.stop e hx)
  | ok p => exact hk p hx (hr.value p hx)

/-- R353: a tile takes words made of its own and of a vector. -/
theorem agrees_vector {a t : Nat} {g : (Nat → Nat) → Nat → Nat → Nat} {k : State × (Nat → Nat) → SeqM SeqRes}
    (hk : ∀ u v, seqD u i.blk = seqD s i.blk → k (u, v) = .ok (.go (setTile u i t (g v)))) :
    Agrees i s (noCause (brickOf s i a 256 false) >>= fun _ => needLive s i (fun c => inQ [a] c || inTile t 64 64 c) >>= fun _ =>
        readVector s i (mrec s i a) 64 >>= k)
      (barring (brickOf s i a 256 false) (whole i s (fun c => inQ [a] c || inTile t 64 64 c)
        (andThen i s (readOperand s i (mrec s i a) 256) (fun p =>
          some (.goes (tileTo i t (g (fun k => leNat ((p.2.drop (4 * k)).take 4))) p.1)))))) := by
  refine agrees_noCause (agrees_needLive (agrees_readVector (n := 64) (fun p hp hc => ?_)))
  rw [hk _ _ (readOperand_seqD hp)]
  exact agrees_go hc

/-- The next state of an instruction whose body leaves what its course says. -/
theorem course_of_agrees {body : Issue → State → SeqM SeqRes} {ins : Instr} {c : SeqCourse} (hcur : s.cur = some i) (hseq : i.seq = true)
    (h : Agrees i s (body i s) (seqTile ins i s)) (hc : seqTile ins i s = some c) : seqInsn s body = .next (seqAfter i s c) :=
  (seqInsn_next hcur hseq body).trans (congrArg _ (h c hc))

end

/-! ### The instructions -/

section

variable {i : Issue} {s : State} {r : R3} {c : SeqCourse}

theorem execMzero_course (hcur : s.cur = some i) (hseq : i.seq = true) (hc : seqTile (.mzero r) i s = some c) :
    execMzero r s = .next (seqAfter i s c) :=
  course_of_agrees hcur hseq (agrees_go (s := s) (v := setTile s i r.d.toNat (fun _ _ => 0)) rfl) hc

/-- R350: MST with BRK. -/
theorem mstBricks_agrees : Agrees i s (mstBricks s i r.a.toNat (r.b.toNat % 16) r.d.toNat)
    (whole i s (inQ [r.a.toNat]) (
      let rc := mrec s i r.a.toNat
      let q := seqD s i.blk
      let z := nibbles (r.b.toNat % 16) / 2
      let p := brickSize (r.b.toNat % 16) 8 false
      barring (lowCause [if rc.bad then some (2, 0) else none, if rc.kind ≠ 0 then some (6, 0) else none,
          if decide (rc.bad = true ∨ rc.kind ≠ 0) then none
          else spanCause s i rc.base rc.limit (decide (rc.base % 64 = 0)) rc.v [(rc.base, 2 * p)] [(rc.base, 2 * p)]])
        (whole i s (inTile r.d.toNat q.m q.n) (andThen i s (seqLines s i true [(rc.base, 2 * p)]) (fun v =>
          some (.goes (lStoreBy (addStore v i 0 .plain) i v.nextId 0 rc.base (seqCore v i) rc.base (List.replicate 4096 z)
            ((List.range 2).flatMap (fun h => (List.range 64).flatMap (fun m => (List.range 32).flatMap (fun x =>
              natLe z (if m < q.m ∧ 32 * h + x < q.n then storeCode (r.b.toNat % 16) (tileWord q r.d.toNat m (32 * h + x))
                else 0)))))))))))) := by
  unfold mstBricks
  dsimp only
  simp only [decide_eq_true_eq]
  refine agrees_needLive (agrees_noCause (agrees_needLive (agrees_bind (seqLines_at rfl _ _) (fun v _ hv => agrees_go ?_))))
  exact (lStoreBy_choice _ _ _ _ _ _ _ _ _).trans hv

theorem execMst_course (hcur : s.cur = some i) (hseq : i.seq = true) (hc : seqTile (.mst r) i s = some c) :
    execMst r s = .next (seqAfter i s c) := by
  refine course_of_agrees hcur hseq ?_ hc
  unfold seqTile
  dsimp only
  cases hb : r.b.getLsbD 4 with
  | true =>
    rw [if_pos rfl, if_pos rfl]
    exact mstBricks_agrees
  | false =>
    rw [if_neg (by decide), if_neg (by decide)]
    refine agrees_bind (openTile_at rfl _ _ _ _) (fun w _ hw => agrees_needLive (agrees_go ?_))
    refine (foldl_choice (fun v e => placeStore_choice v i _ _ _) _ _).trans hw

theorem execMstadd_course (hcur : s.cur = some i) (hseq : i.seq = true) (hc : seqTile (.mstadd r) i s = some c) :
    execMstadd r s = .next (seqAfter i s c) := by
  refine course_of_agrees hcur hseq (agrees_bind (openTile_at rfl _ _ _ _) (fun w _ hw => agrees_needLive (agrees_go ?_))) hc
  refine (foldl_choice (fun v e => placeRmw_choice v i _ _ _ _ _) _ _).trans hw

/-- R138: a version word is made odd, then even. -/
theorem oddVersion_eq (v : Nat) : oddVersion v = v / 2 * 2 + 1 := by
  unfold oddVersion
  split <;> omega

theorem nextVersion_eq (v : Nat) : nextVersion v = (v / 2 * 2 + 2) % 2 ^ 32 := by
  rw [nextVersion, oddVersion_eq]

theorem versionStep_choice (s : State) (i : Issue) (id scope ord : Nat) (ver : Option Place) (g : Nat → Nat) :
    (versionStep s i id scope ord ver g).choice = s.choice := by
  cases ver with
  | none => rfl
  | some p => exact placeUpdate_choice s i id scope ord .tileAtom p g

theorem execMstatom_course (hcur : s.cur = some i) (hseq : i.seq = true) (hc : seqTile (.mstatom r) i s = some c) :
    execMstatom r s = .next (seqAfter i s c) := by
  have ho : (fun o => o / 2 * 2 + 1) = oddVersion := funext fun v => (oddVersion_eq v).symm
  have hn : (fun o => (o / 2 * 2 + 2) % 2 ^ 32) = nextVersion := funext fun v => (nextVersion_eq v).symm
  refine course_of_agrees hcur hseq ?_ hc
  unfold seqTile
  dsimp only
  rw [ho, hn]
  refine agrees_bind (openTile_at rfl _ _ _ _) (fun w _ hw => agrees_needLive (agrees_go ?_))
  refine (versionStep_choice _ _ _ _ _ _ _).trans ((foldl_choice (fun v e => placeRmw_choice v i _ _ _ _ _) _ _).trans ?_)
  exact (versionStep_choice _ _ _ _ _ _ _).trans hw

theorem execMldt_course (hcur : s.cur = some i) (hseq : i.seq = true) (hc : seqTile (.mldt r) i s = some c) :
    execMldt r s = .next (seqAfter i s c) := by
  refine course_of_agrees hcur hseq (agrees_bind (openTile_at rfl _ _ _ _) (fun w _ hw => agrees_bind (verRead_at hw) (fun v _ hv =>
    agrees_bind (readTile_at hv _ _) (fun p _ hp => agrees_go ?_)))) hc
  exact hp

theorem execMscale_course (hcur : s.cur = some i) (hseq : i.seq = true) (hc : seqTile (.mscale r) i s = some c) :
    execMscale r s = .next (seqAfter i s c) := by
  refine course_of_agrees hcur hseq ?_ hc
  unfold seqTile
  dsimp only
  refine agrees_vector (a := r.a.toNat) (t := r.d.toNat) (g := fun v m n => f32.rnd .rn 0 ((f32.decode (tileWord (seqD s i.blk) r.d.toNat m n)).mul
    (f32.decode (v (if r.b.getLsbD 0 then n else m))))) (fun u v hu => ?_)
  dsimp only
  rw [hu]

theorem execMact_course (hcur : s.cur = some i) (hseq : i.seq = true) (hc : seqTile (.mact r) i s = some c) :
    execMact r s = .next (seqAfter i s c) := by
  refine course_of_agrees hcur hseq ?_ hc
  unfold seqTile
  dsimp only
  cases hb : r.b.getLsbD 2 with
  | true =>
    rw [if_pos rfl, if_pos rfl]
    refine agrees_vector (a := r.a.toNat) (t := r.d.toNat) (g := fun v m n => actWord (r.b.toNat % 4) (f32.rnd .rn 0 (Val.sum false
      [f32.decode (tileWord (seqD s i.blk) r.d.toNat m n), (f32.decode (v m)).neg]))) (fun u v hu => ?_)
    dsimp only
    rw [hu]
  | false =>
    rw [if_neg (by decide), if_neg (by decide)]
    exact agrees_needLive (agrees_go rfl)

/-- R353: the course of an instruction that makes a word of each row of a tile (`seqTile`). -/
def rowsCourse (i : Issue) (s : State) (r : R3) (g : List Nat → Nat) : Option SeqCourse :=
  let q := seqD s i.blk
  let acc := r.b.getLsbD 0
  let rc := mrec s i r.a.toNat
  barring (brickOf s i r.a.toNat (4 * q.m) true) (whole i s (fun c => inQ [r.a.toNat] c || inTile r.d.toNat q.m q.n c) (
    andThen i s (if acc then readOperand s i rc (4 * q.m) else .ok (s, [])) (fun p =>
      andThen i s (seqLines p.1 i true [(rc.base, 4 * q.m)]) (fun v =>
        let row (m : Nat) : List Nat := (List.range q.n).map (tileWord q r.d.toNat m) ++
          (if acc then [leNat ((p.2.drop (4 * m)).take 4)] else [])
        some (.goes (lStoreBy (addStore v i 0 .plain) i v.nextId 0 rc.base (seqCore v i) rc.base (List.replicate q.m 4)
          ((List.range q.m).flatMap (fun m => natLe 4 (g (row m))))))))))

/-- R353: each row of a tile gives a word. -/
theorem rowOp_course {g : List Nat → Nat} (hcur : s.cur = some i) (hseq : i.seq = true) {ins : Instr} (hi : seqTile ins i s = rowsCourse i s r g)
    (hc : seqTile ins i s = some c) : rowOp r g s = .next (seqAfter i s c) := by
  refine course_of_agrees hcur hseq ?_ hc
  rw [hi]
  unfold rowsCourse
  dsimp only
  refine agrees_noCause (agrees_needLive ?_)
  cases hb : r.b.getLsbD 0 with
  | true =>
    simp only [if_true]
    refine agrees_readVector (fun p _ hp => agrees_bind (seqLines_at hp _ _) (fun v _ hv => agrees_go ?_))
    exact (lStoreBy_choice _ _ _ _ _ _ _ _ _).trans hv
  | false =>
    simp only [Bool.false_eq_true, if_false]
    refine agrees_bind (seqLines_at rfl _ _) (fun v _ hv => agrees_go ?_)
    exact (lStoreBy_choice _ _ _ _ _ _ _ _ _).trans hv

theorem execMrowmax_course (hcur : s.cur = some i) (hseq : i.seq = true) (hc : seqTile (.mrowmax r) i s = some c) :
    execMrowmax r s = .next (seqAfter i s c) := rowOp_course hcur hseq rfl hc

theorem execMrowsum_course (hcur : s.cur = some i) (hseq : i.seq = true) (hc : seqTile (.mrowsum r) i s = some c) :
    execMrowsum r s = .next (seqAfter i s c) := rowOp_course hcur hseq rfl hc

end

/-- Settles O38: each instruction of the table follows its course. The table rests on the model's choices of log entries 20, 4 and 21. -/
theorem sequencerTiles : Obligations.SequencerTiles := by
  intro ins i s c _ hcur hseq hc
  cases ins
  case mzero r => exact execMzero_course hcur hseq hc
  case mst r => exact execMst_course hcur hseq hc
  case mstadd r => exact execMstadd_course hcur hseq hc
  case mstatom r => exact execMstatom_course hcur hseq hc
  case mldt r => exact execMldt_course hcur hseq hc
  case mscale r => exact execMscale_course hcur hseq hc
  case mact r => exact execMact_course hcur hseq hc
  case mrowmax r => exact execMrowmax_course hcur hseq hc
  case mrowsum r => exact execMrowsum_course hcur hseq hc
  all_goals cases hc

end Sys2Proof.Safety
end

section
/-!
Refutes O18 (`SyncCourses`): an acquire of an object whose memory line is poisoned and whose own bytes are dirty and good in a stash.

The course judges the object word by its newest bytes (`newBytes`): they stand dirty in the stash, unpoisoned, HOLD is 0, so the object is
free and HOLD becomes 0xFFFFFFFF. The model judges it so too when it decides who may take the object (`objWord`), but writes HOLD only after
the recall (`takeObject`): the 8 bytes that come back do not replace the whole line, the line stays poisoned (R491), and HOLD is left.
-/

namespace Sys2Proof.Safety

open Sys2Proof.Machine

/-- What an instruction that goes on leaves in memory is what its course says. -/
theorem Follows.goes_mem {r : Raw} {i : Issue} {s v : State} {o : Out} (h : Follows r i s o (.goes v)) :
    ∃ t, o = .next t ∧ t.mem = v.mem := by
  obtain ⟨t, ht, hv⟩ := h
  exact ⟨t, ht, by rw [hv.within.world]⟩

/-- The stash line of another core that holds the object's 8 bytes dirty: all of them 0, none poisoned in its bank. -/
def dirtyCopy : Mapping :=
  { core := 1, blk := none, ctx := 0, tag := 0, gbase := 0, stride := 64, foff := 0, fwid := 64, count := 1, lbase := 0
    lines := [{ st := .exclusive, dirty := 0xFF, pas := List.range 64 }] }

/-- The group that issues: lane 0 of the block's one fibre, at the first instruction. -/
def acquirer : Issue := { blk := 0, lanes := [0], pc := BitVec.ofNat 64 rowAddr, next := BitVec.ofNat 64 (rowAddr + 4) }

/-- Memory line 0 is poisoned, and the object at its start stands dirty in a stash. -/
def poisonedHome : State :=
  { State.reset.withFetchWord 32 0 with memPoison := [0], mappings := [(0, dirtyCopy)], cur := some acquirer }

/-- The operands of an ACQX of the object at the pair v2, which holds 0. -/
def acquireFields : R3 := ⟨false, 4, 2, 3⟩

/-- Its word. -/
def acquireRaw : Raw := acquireFields.raw 0x30#7 1#3

/-- Its course where the object's line is poisoned. -/
def acquireCourse : Option Course :=
  syncCourse (.acqx acquireFields) acquirer (ops acquireRaw acquirer poisonedHome) (prep acquireRaw acquirer poisonedHome)
    (touch acquireRaw acquirer poisonedHome)

/-- The lowest byte of HOLD after a course that goes on. -/
def Course.holdByte (c : Course) : Option Byte :=
  match c with
  | .goes v => some (Memory.rd v.mem 0)
  | _ => none

/-- The lowest byte of HOLD after a step. -/
def outHoldByte (o : Out) : Option Byte :=
  match o with
  | .next t => some (Memory.rd t.mem 0)
  | _ => none

theorem ready_poisonedHome : ready acquireRaw acquirer poisonedHome = true := by decide

/-- By the course the acquire raises HOLD. -/
theorem acquireCourse_holdByte : acquireCourse.bind Course.holdByte = some 0xFF := by decide

/-- By the step HOLD stays 0. -/
theorem execAcqx_holdByte : outHoldByte (exec (.acqx acquireFields) poisonedHome) = some 0 := by decide

theorem acquireCourse_goes : ∃ v, acquireCourse = some (.goes v) ∧ Memory.rd v.mem 0 = 0xFF := by
  have h := acquireCourse_holdByte
  match hc : acquireCourse with
  | some (.goes v) =>
    rw [hc] at h
    exact ⟨v, rfl, Option.some.inj h⟩
  | none | some (.jumps _) | some (.parts _) | some (.traps ..) | some (.waits ..) | some .stays | some (.asks _) =>
    rw [hc] at h
    cases h

/-- Refutes O18: ACQX of a free object whose newest bytes are dirty in a stash, over a memory line that stays poisoned, leaves HOLD at 0,
where its course raises it to 0xFFFFFFFF. -/
theorem not_syncCourses : ¬ Obligations.SyncCourses := by
  intro h
  obtain ⟨v, hc, hv⟩ := acquireCourse_goes
  obtain ⟨t, ht, hm⟩ := (h (.acqx acquireFields) acquireRaw acquirer poisonedHome (.goes v) rfl (by decide) ready_poisonedHome hc).goes_mem
  have ho := execAcqx_holdByte
  rw [ht, outHoldByte, hm, hv] at ho
  exact absurd ho (by decide)

end Sys2Proof.Safety
end

section
/-!
Settles O50, O51 and O52: the encoder and the decoder agree, the two streams have opcodes of their own, and words of the tables decode.
-/

namespace Sys2Proof.Safety

open Sys2Proof.Machine

/-! ### Words and their fields (R144, R148, R150, R155) -/

/-- R148: the fields of a base word, from the highest. -/
theorem baseFields (op : BitVec 7) (s : Bool) (d a b : Fld) (f : BitVec 3) :
    let w := op ++ BitVec.ofBool s ++ d ++ a ++ b ++ f
    w.extractLsb' 25 7 = op ∧ w.getLsbD 24 = s ∧ w.extractLsb' 17 7 = d ∧ w.extractLsb' 10 7 = a ∧ w.extractLsb' 3 7 = b ∧
      w.extractLsb' 0 3 = f := by
  simp [-Nat.reduceAdd, BitVec.extractLsb'_append_eq_of_le, BitVec.extractLsb'_append_eq_of_add_le, BitVec.getElem_append]

/-- R150: the fields of an X-ctl word, from the highest. -/
theorem xctlFields (c g : Fld) (ge gn : Bool) (l : BitVec 3) (imm : BitVec 13) :
    let w := c ++ g ++ BitVec.ofBool ge ++ BitVec.ofBool gn ++ l ++ imm
    w.extractLsb' 25 7 = c ∧ w.extractLsb' 18 7 = g ∧ w.getLsbD 17 = ge ∧ w.getLsbD 16 = gn ∧ w.extractLsb' 13 3 = l ∧
      w.extractLsb' 0 13 = imm := by
  simp [-Nat.reduceAdd, BitVec.extractLsb'_append_eq_of_le, BitVec.extractLsb'_append_eq_of_add_le, BitVec.getElem_append]

/-- R155, R158: the fields of a parcel with bits 15:14 at 0b10. -/
theorem parcelFields (s : Bool) (k : BitVec 3) (index : BitVec 10) :
    let p := (0b10#2) ++ BitVec.ofBool s ++ k ++ index
    isShort p = true ∧ p.getLsbD 13 = s ∧ p.extractLsb' 10 3 = k ∧ p.extractLsb' 0 10 = index := by
  simp [-Nat.reduceAdd, isShort, BitVec.extractLsb'_append_eq_of_le, BitVec.extractLsb'_append_eq_of_add_le, BitVec.getElem_append]

theorem rawWord_encodeBase (r : Raw) : rawWord (encodeBase r) r.x r.i = r := by
  obtain ⟨op, s, d, a, b, f, x, i⟩ := r
  obtain ⟨hop, hs, hd, ha, hb, hf⟩ := baseFields op s d a b f
  exact Raw.mk.injEq .. ▸ ⟨hop, hs, hd, ha, hb, hf, rfl, rfl⟩

theorem xcWord_encodeXc (x : Xc) : xcWord (encodeXc x) = x := by
  obtain ⟨c, g, ge, gn, l, imm⟩ := x
  obtain ⟨hc, hg, hge, hgn, hl, himm⟩ := xctlFields c g ge gn l imm
  exact Xc.mk.injEq .. ▸ ⟨hc, hg, hge, hgn, hl, himm⟩

/-- R144: the two parcels of a word make the word. -/
theorem wordOf_parcelsOf (w : Word) : wordOf (par (parcelsOf w) 0) (par (parcelsOf w) 1) = w :=
  (BitVec.extractLsb'_append_extractLsb'_eq_extractLsb' (x := w) (start₁ := 0) (start₂ := 16) (len₁ := 16) (len₂ := 16) rfl).trans
    BitVec.extractLsb'_eq_self

/-! ### The words of an instruction (R145, R153, R165) -/

/-- R145, R150, R153: the word after the base word. -/
def extWord (r : Raw) : Option Word := (r.x.map encodeXc).or r.i

/-- R145, R165: raw words are of the length of their opcode. -/
def Framed (r : Raw) : Prop :=
  match r.x, r.i with
  | none, none => ∃ n, Forms.opInfo r.op.toNat = some (.one, n)
  | some _, none => ∃ n, Forms.opInfo r.op.toNat = some (.x, n)
  | none, some _ => ∃ n, Forms.opInfo r.op.toNat = some (.i, n)
  | some _, some _ => False

theorem Framed.isSome {r : Raw} (h : Framed r) : (Forms.opInfo r.op.toNat).isSome = true := by
  unfold Framed at h
  split at h
  case h_4 => exact h.elim
  all_goals
    obtain ⟨n, hn⟩ := h
    rw [hn]
    rfl

theorem framed_of_rawOf {i : Instr} {r : Raw} (h : rawOf i = some r) : Framed r := by
  cases i
  all_goals cases h
  all_goals exact ⟨_, rfl⟩

theorem encode_of_rawOf {i : Instr} {r : Raw} (h : rawOf i = some r) :
    encode i = parcelsOf (encodeBase r) ++ (extWord r).elim [] parcelsOf := by
  cases i
  all_goals cases h
  all_goals rfl

/-- No field of an encoding is dropped, for every row of the table. -/
theorem build_of_rawOf (i : Instr) : Laws.RawForm.Statement i := by
  intro r h
  cases i
  all_goals cases h
  all_goals rfl

/-- R145: the base word tells the length, and the fields come back (R148, R150, R153). -/
theorem frame_encodeBase {r : Raw} (h : Framed r) (e : Word) (he : ∀ w ∈ extWord r, e = w) :
    frame (encodeBase r) e = some (r, 2 + 2 * (extWord r).toList.length) := by
  have hr := rawWord_encodeBase r
  have hop : (encodeBase r).extractLsb' 25 7 = r.op := congrArg Raw.op hr
  obtain ⟨op, s, d, a, b, f, x, i⟩ := r
  cases x with
  | none =>
    cases i with
    | none =>
      obtain ⟨n, hn⟩ := h
      simp only [frame, hop, hn]
      exact congrArg (fun r => some (r, 2)) hr
    | some w =>
      obtain ⟨n, hn⟩ := h
      obtain rfl := he w rfl
      simp only [frame, hop, hn]
      exact congrArg (fun r => some (r, 4)) hr
  | some x =>
    cases i with
    | none =>
      obtain ⟨n, hn⟩ := h
      obtain rfl := he _ rfl
      simp only [frame, hop, hn, xcWord_encodeXc]
      exact congrArg (fun r => some (r, 4)) hr
    | some w => exact h.elim

/-- R145, R166: no opcode of two parcels or more begins with the bits of a dictionary parcel. -/
theorem opInfo_not_short : ∀ op : BitVec 7, (Forms.opInfo op.toNat).isSome = true → (op.extractLsb' 5 2 == 0b10#2) = false := by decide

theorem isShort_encodeBase {r : Raw} (h : Framed r) : isShort ((encodeBase r).extractLsb' 16 16) = false := by
  have hop : (encodeBase r).extractLsb' 25 7 = r.op := congrArg Raw.op (rawWord_encodeBase r)
  have hs := opInfo_not_short r.op h.isSome
  have hb : ((encodeBase r).extractLsb' 16 16).extractLsb' 14 2 = ((encodeBase r).extractLsb' 25 7).extractLsb' 5 2 := by
    apply BitVec.eq_of_getElem_eq
    intro k hk
    simp only [BitVec.getElem_extractLsb', BitVec.getLsbD_extractLsb']
    grind
  rw [isShort, hb, hop, hs]

/-! ### The opcode of what is built (R165) -/

/-- What is built names the opcode `op` in its words. -/
def HasOp (op : Nat) (o : Option Instr) : Prop := ∀ i ∈ o, ∀ r ∈ rawOf i, r.op.toNat = op

theorem HasOp.dite {c : Prop} [Decidable c] {op : Nat} {f : c → Option Instr} {g : ¬c → Option Instr} (hf : ∀ e, HasOp op (f e))
    (hg : ∀ e, HasOp op (g e)) : HasOp op (dite c f g) := by
  split
  · exact hf _
  · exact hg _

theorem hasOp_buildI (op : Nat) (f : BitVec 3) (s : Bool) (d a b : Fld) (w : Word) : HasOp op (buildI op f s d a b w) := by
  unfold buildI
  split
  all_goals rintro _ ⟨⟩
  all_goals
    rintro _ ⟨⟩
    rfl

theorem hasOp_buildX (op : Nat) (f : BitVec 3) (s : Bool) (d a b : Fld) (x : Xc) : HasOp op (buildX op f s d a b x) := by
  unfold buildX
  split
  all_goals rintro _ ⟨⟩
  all_goals
    rintro _ ⟨⟩
    rfl

/-- `split` does not take a match of so many rows: its tree of tests is taken apart, the opcodes and then the functions of each. -/
theorem hasOp_buildOne (op : Nat) (f : BitVec 3) (s : Bool) (d a b : Fld) : HasOp op (buildOne op f s d a b) := by
  unfold buildOne
  generalize f.toNat = n
  delta buildOne.match_1
  dsimp only
  repeat' refine HasOp.dite (fun e => ?_) (fun _ => ?_)
  rotate_right
  · rintro _ ⟨⟩
  all_goals subst e
  all_goals repeat' refine HasOp.dite (fun e => by subst e; rintro _ ⟨⟩ _ ⟨⟩; rfl) (fun _ => ?_)
  all_goals rintro _ ⟨⟩
  all_goals
    rintro _ ⟨⟩
    rfl

theorem hasOp_build (r : Raw) : HasOp r.op.toNat (build r) := by
  unfold build
  split
  · exact hasOp_buildX _ _ _ _ _ _ _
  · exact hasOp_buildI _ _ _ _ _ _ _
  · exact hasOp_buildOne _ _ _ _ _ _

/-! ### What decodes (R145, R155, R158, R164, R167) -/

/-- R164, R167: words that are an instruction have an opcode of their stream. -/
theorem isM_of_check {m : Bool} {r : Raw} (h : Forms.check m r = none) : Forms.isM r.op.toNat = m := by
  have h := least_none h
  simp only [Forms.reasons] at h
  split at h
  · cases h
  · split at h
    · cases h
    · simp only [List.append_eq_nil_iff] at h
      by_contra hne
      exact absurd h (by simp [Forms.rif, hne])

/-- R155: a parcel with SUB 0 is a dictionary parcel. -/
theorem decodeParcel_zero {p : Parcel16} (h : (p.extractLsb' 10 3).toNat = 0) :
    decodeParcel p = .ok (.dictionaryParcel ⟨p.getLsbD 13, p.extractLsb' 0 10⟩, 1) := by
  rw [decodeParcel, h]
  rfl

/-- R158: a parcel with SUB 7 is BRK16, where its bit 13 is 0. -/
theorem decodeParcel_seven {p : Parcel16} (h : (p.extractLsb' 10 3).toNat = 7) :
    decodeParcel p = if p.getLsbD 13 then .error 0x03 else .ok (.brk16 ⟨p.getLsbD 13, p.extractLsb' 0 10⟩, 1) := by
  rw [decodeParcel, h]
  rfl

/-- R155: any other SUB is reserved. -/
theorem decodeParcel_other {p : Parcel16} (h0 : (p.extractLsb' 10 3).toNat ≠ 0) (h7 : (p.extractLsb' 10 3).toNat ≠ 7) :
    decodeParcel p = .error 0x06 := by
  unfold decodeParcel
  generalize (p.extractLsb' 10 3).toNat = k at *
  match k with
  | 1 | 2 | 3 | 4 | 5 | 6 => rfl
  | n+8 => rfl

theorem decodeParcel_rawOf {p : Parcel16} {x : Instr × Nat} (h : decodeParcel p = .ok x) : rawOf x.1 = none := by
  by_cases h0 : (p.extractLsb' 10 3).toNat = 0
  · rw [decodeParcel_zero h0] at h
    cases h
    rfl
  by_cases h7 : (p.extractLsb' 10 3).toNat = 7
  · rw [decodeParcel_seven h7] at h
    split at h
    · cases h
    · cases h
      rfl
  · rw [decodeParcel_other h0 h7] at h
    cases h

/-- A word decodes only where it is framed, legal and built. -/
theorem decodeWord_ok {m : Bool} {w ext : Word} {i : Instr} {n : Nat} (h : decodeWord m w ext = .ok (i, n)) :
    ∃ r, frame w ext = some (r, n) ∧ Forms.check m r = none ∧ build r = some i := by
  unfold decodeWord at h
  split at h
  · cases h
  · rename_i r k hf
    split at h
    · cases h
    · rename_i hc
      split at h
      · rename_i hb
        cases h
        exact ⟨r, hf, hc, hb⟩
      · cases h

/-- What has raw words decodes from two parcels or more. -/
theorem decode4_ok {m : Bool} {p0 p1 p2 p3 : Parcel16} {i : Instr} {n : Nat} {r : Raw} (h : decode4 m p0 p1 p2 p3 = .ok (i, n))
    (hr : rawOf i = some r) : decodeWord m (wordOf p0 p1) (wordOf p2 p3) = .ok (i, n) := by
  unfold decode4 at h
  split at h
  · split at h
    · cases h
    · rename_i x hp
      split at h
      · cases h
      · cases h
        exact absurd ((decodeParcel_rawOf hp).symm.trans hr) (by simp)
  · exact h

theorem decode4_short {p : Parcel16} {x : Instr × Nat} (hs : isShort p = true) (h : decodeParcel p = .ok x) (p1 p2 p3 : Parcel16) :
    decode4 false p p1 p2 p3 = .ok x := by
  rw [decode4, if_pos hs, h]
  rfl

/-- What decodes at the words of a well-formed instruction, in its own stream. -/
theorem decode4_words {r : Raw} {j : Instr} {ps : List Parcel16} (h : Framed r) (hc : Forms.check (Forms.isM r.op.toNat) r = none)
    (hb : build r = some j) (hp : ps = parcelsOf (encodeBase r) ++ (extWord r).elim [] parcelsOf) :
    decode4 (Forms.isM r.op.toNat) (par ps 0) (par ps 1) (par ps 2) (par ps 3) = .ok (j, ps.length) := by
  have hw : wordOf (par ps 0) (par ps 1) = encodeBase r := hp ▸ wordOf_parcelsOf (encodeBase r)
  have he : ∀ w ∈ extWord r, wordOf (par ps 2) (par ps 3) = w := by
    intro w hx
    rw [hp, Option.mem_def.1 hx]
    exact wordOf_parcelsOf w
  have hl : ps.length = 2 + 2 * (extWord r).toList.length := by
    rw [hp]
    cases extWord r <;> rfl
  have hs : isShort (par ps 0) = false := hp ▸ isShort_encodeBase h
  rw [decode4, hs, if_neg Bool.false_ne_true, decodeWord, hw, frame_encodeBase h _ he]
  simp only [hc, hb, hl]

/-- An instruction that is no event has raw words or is of one parcel. -/
theorem rawOf_or_parcel {i : Instr} (h : isEvent i = false) :
    (∃ r, rawOf i = some r) ∨ (∃ p, i = .dictionaryParcel p) ∨ ∃ p, i = .brk16 p := by
  unfold isEvent at h
  split at h
  · exact .inr (.inl ⟨_, rfl⟩)
  · exact .inr (.inr ⟨_, rfl⟩)
  · exact .inl (Option.isSome_iff_exists.1 (by simpa using h))

/-! ### The obligations -/

/-- Settles O50: the fields of the words come back (`rawWord_encodeBase`, `xcWord_encodeXc`), their length is that of the opcode
(`framed_of_rawOf`), and they build the first row of those that share them (`build_of_rawOf`): the model's choice (log entry 11). -/
theorem decodeEncode : Obligations.DecodeEncode := by
  intro i hw he
  obtain ⟨r, hr⟩ | ⟨p, rfl⟩ | ⟨p, rfl⟩ := rawOf_or_parcel he
  · rw [hr, encode_of_rawOf hr]
    exact decode4_words (framed_of_rawOf hr) (check_of_wf hw hr) (build_of_rawOf i r hr) rfl
  · obtain ⟨hs, hb, hk, hi⟩ := parcelFields p.s 0#3 p.index
    refine decode4_short hs ((decodeParcel_zero (by rw [hk]; rfl)).trans ?_) _ _ _
    rw [hb, hi]
    rfl
  · obtain ⟨hs, hb, hk, hi⟩ := parcelFields p.s 7#3 p.index
    have hp : p.s = false := by simpa [wf, illFormed] using hw
    refine decode4_short hs ((decodeParcel_seven (by rw [hk]; rfl)).trans ?_) _ _ _
    rw [hb, hi, hp]
    exact congrArg (fun q => Except.ok (Instr.brk16 q, 1)) (by rw [← hp])

/-- Settles O51: what is built has the opcode of the word that was checked, and the check turns away the opcodes of the other stream. -/
theorem streamsApart : Obligations.StreamsApart := by
  intro m p0 p1 p2 p3 i n r h hr
  obtain ⟨q, -, hc, hb⟩ := decodeWord_ok (decode4_ok h hr)
  rw [hasOp_build q i hb r hr]
  exact isM_of_check hc

/-- Settles O52: the ten words are evaluated. -/
theorem decodedWords : Obligations.DecodedWords := by
  unfold Obligations.DecodedWords
  decide

end Sys2Proof.Safety
end

section
/-!
Settles O27 (`DictionaryParcels`) and O28 (`RepeatedTargets`): an instruction that runs another one does what that one does. The integer
tables are met here with the model's own words.
-/

namespace Sys2Proof.Safety
open Sys2Proof.Machine

/-! ### Results of one word (R179 to R188, R191, R192) -/

theorem add_word32 (a b : Word) : a + b = .ofNat 32 (a.toNat + b.toNat) := by
  rw [BitVec.ofNat_add, BitVec.ofNat_toNat, BitVec.ofNat_toNat, BitVec.setWidth_eq, BitVec.setWidth_eq]

theorem mul_word32 (a b : Word) : a * b = .ofNat 32 (a.toNat * b.toNat) := by
  rw [BitVec.ofNat_mul, BitVec.ofNat_toNat, BitVec.ofNat_toNat, BitVec.setWidth_eq, BitVec.setWidth_eq]

theorem mulAdd_word32 (a b c : Word) : a * b + c = .ofNat 32 (a.toNat * b.toNat + c.toNat) := by
  rw [BitVec.ofNat_add, ← mul_word32, BitVec.ofNat_toNat, BitVec.setWidth_eq]

theorem neg_word32 (a : Word) : -a = .ofInt 32 (-(a.toNat : Int)) := by
  rw [BitVec.ofInt_neg, BitVec.ofInt_natCast, BitVec.ofNat_toNat, BitVec.setWidth_eq]

theorem sub_word32 (a b : Word) : a - b = .ofInt 32 (a.toNat - b.toNat : Int) := by
  rw [BitVec.sub_eq_add_neg, neg_word32, Int.sub_eq_add_neg, BitVec.ofInt_add, BitVec.ofInt_natCast, BitVec.ofNat_toNat,
    BitVec.setWidth_eq]

theorem clampInt_eq {lo hi : Int} (h : lo ≤ hi) (x : Int) : clampInt lo hi x = max lo (min hi x) := by
  unfold clampInt
  omega

theorem subFloor_word32 (m n : Nat) : BitVec.ofNat 32 (m - n) = .ofInt 32 (max (m - n : Int) 0) := by
  rw [← BitVec.ofInt_natCast]
  congr 1
  omega

/-- R181: bits 63:32 of a product. -/
theorem highWord_eq (x : Int) : (dwordOfInt x).extractLsb' 32 32 = .ofInt 32 (x / 2 ^ 32) := by
  apply BitVec.eq_of_toNat_eq
  rw [dwordOfInt, BitVec.extractLsb'_toNat, BitVec.toNat_ofInt, BitVec.toNat_ofInt, Nat.shiftRight_eq_div_pow]
  omega

theorem quotient_eq (a b : Int) : wordOfInt (a.tdiv b) = if a = -2 ^ 31 ∧ b = -1 then 0x80000000#32 else .ofInt 32 (a.tdiv b) := by
  split
  · next h =>
    rw [h.1, h.2]
    decide
  · rfl

theorem remainder_eq (a b : Int) : wordOfInt (a - b * a.tdiv b) = if a = -2 ^ 31 ∧ b = -1 then 0#32 else .ofInt 32 (a.tmod b) := by
  split
  · next h =>
    rw [h.1, h.2]
    decide
  · rw [Int.tmod_def]
    rfl

theorem flag_eq_truth (p : Prop) [Decidable p] : flag (decide p) = truth p := by
  by_cases h : p <;> simp [flag, truth, h]

theorem intCond_eq (f : Nat) (a b : Word) : flag (intCond f a b) = condition f a b := by
  unfold intCond condition
  split <;> exact flag_eq_truth _

theorem least_eq (a b : Word) : (if a.toInt ≤ b.toInt then a else b) = .ofInt 32 (min a.toInt b.toInt) := by
  split
  · next h => rw [min_eq_left h, BitVec.ofInt_toInt]
  · next h => rw [min_eq_right (Int.le_of_not_le h), BitVec.ofInt_toInt]

theorem greatest_eq (a b : Word) : (if a.toInt ≤ b.toInt then b else a) = .ofInt 32 (max a.toInt b.toInt) := by
  split
  · next h => rw [max_eq_right h, BitVec.ofInt_toInt]
  · next h => rw [max_eq_left (Int.le_of_not_le h), BitVec.ofInt_toInt]

theorem leastN_eq (a b : Word) : (if a.toNat ≤ b.toNat then a else b) = .ofNat 32 (min a.toNat b.toNat) := by
  split
  · next h => rw [min_eq_left h, BitVec.ofNat_toNat, BitVec.setWidth_eq]
  · next h => rw [min_eq_right (Nat.le_of_not_le h), BitVec.ofNat_toNat, BitVec.setWidth_eq]

theorem greatestN_eq (a b : Word) : (if a.toNat ≤ b.toNat then b else a) = .ofNat 32 (max a.toNat b.toNat) := by
  split
  · next h => rw [max_eq_right h, BitVec.ofNat_toNat, BitVec.setWidth_eq]
  · next h => rw [max_eq_left (Nat.le_of_not_le h), BitVec.ofNat_toNat, BitVec.setWidth_eq]

/-- R187: a left shift multiplies by a power of two. -/
theorem shl32_eq (a : Word) (n : Nat) : shl32 a n = shiftWord 0 a n := by
  have h : a <<< n = .ofNat 32 (a.toNat * 2 ^ n) := by
    apply BitVec.eq_of_toNat_eq
    rw [BitVec.toNat_shiftLeft, BitVec.toNat_ofNat, Nat.shiftLeft_eq]
  exact congrArg (ite _ _) h

/-- R187: a logical right shift divides by a power of two. -/
theorem shr32_eq (a : Word) (n : Nat) : shr32 a n = shiftWord 1 a n := by
  have h : a >>> n = .ofNat 32 (a.toNat / 2 ^ n) := by
    apply BitVec.eq_of_toNat_eq
    rw [BitVec.toNat_ushiftRight, BitVec.toNat_ofNat, Nat.shiftRight_eq_div_pow,
      Nat.mod_eq_of_lt (Nat.lt_of_le_of_lt (Nat.div_le_self _ _) a.isLt)]
  exact congrArg (ite _ _) h

/-- R187: an arithmetic right shift divides the signed value by a power of two, downwards. -/
theorem sar32_eq (a : Word) (n : Nat) : sar32 a n = shiftWord 2 a n := by
  unfold sar32 shiftWord
  have hs : a.msb = decide (a.toInt < 0) := BitVec.msb_eq_toInt
  split
  · rw [hs]
    by_cases h : a.toInt < 0 <;> simp [h]
  · rw [BitVec.sshiftRight, Int.shiftRight_eq_div_pow]
    norm_cast

/-- The two parts of a rotated word have no bit in common: their union is their sum modulo 2^32. -/
theorem rotated_parts {a j k : Nat} (ha : a < 2 ^ 32) (h : j + k = 32) :
    a * 2 ^ j % 2 ^ 32 ||| a / 2 ^ k = (a * 2 ^ j + a / 2 ^ k) % 2 ^ 32 := by
  have hp : 2 ^ 32 = 2 ^ j * 2 ^ k := by rw [← pow_add, h]
  have hq : a / 2 ^ k < 2 ^ j := Nat.div_lt_of_lt_mul (by rw [Nat.mul_comm, ← hp]; exact ha)
  have hm : a * 2 ^ j % 2 ^ 32 = 2 ^ j * (a % 2 ^ k) := by rw [hp, Nat.mul_comm a, Nat.mul_mod_mul_left]
  have hs : 2 ^ j * (a % 2 ^ k) + a / 2 ^ k < 2 ^ 32 := by
    have hk : a % 2 ^ k + 1 ≤ 2 ^ k := Nat.mod_lt _ (Nat.two_pow_pos k)
    calc 2 ^ j * (a % 2 ^ k) + a / 2 ^ k < 2 ^ j * (a % 2 ^ k) + 2 ^ j := Nat.add_lt_add_left hq _
      _ = 2 ^ j * (a % 2 ^ k + 1) := (Nat.mul_succ _ _).symm
      _ ≤ 2 ^ j * 2 ^ k := Nat.mul_le_mul_left _ hk
      _ = 2 ^ 32 := hp.symm
  rw [hm, ← Nat.two_pow_add_eq_or_of_lt hq, ← Nat.mod_add_mod, hm, Nat.mod_eq_of_lt hs]

/-- R187: a rotation to the left. -/
theorem rotl32_eq (a : Word) (n : Nat) : rotl32 a n = shiftWord 3 a n := by
  have hn : n % 32 < 32 := Nat.mod_lt n (by decide)
  apply BitVec.eq_of_toNat_eq
  rw [rotl32, BitVec.toNat_rotateLeft, Nat.mod_mod, Nat.shiftLeft_eq, Nat.shiftRight_eq_div_pow,
    rotated_parts a.isLt (Nat.add_sub_cancel' hn.le)]
  exact (BitVec.toNat_ofNat _ 32).symm

/-- R187: a rotation to the right. -/
theorem rotr32_eq (a : Word) (n : Nat) : rotr32 a n = shiftWord 4 a n := by
  have hn : n % 32 < 32 := Nat.mod_lt n (by decide)
  apply BitVec.eq_of_toNat_eq
  rw [rotr32, BitVec.toNat_rotateRight, Nat.mod_mod, Nat.shiftLeft_eq, Nat.shiftRight_eq_div_pow, Nat.or_comm,
    rotated_parts a.isLt (Nat.sub_add_cancel hn.le), Nat.add_comm]
  exact (BitVec.toNat_ofNat _ 32).symm

/-! ### The tables of one word -/

theorem aluOp_congr {r : Raw} {s : State} {f g : Env → Nat → Word} (h : ∀ e l, f e l = g e l) : aluOp r s f = aluOp r s g :=
  congrArg (aluOp r s) (funext₂ h)

theorem addRow_exec {ins : Instr} {r : Raw} {g : Row Word} (hg : addRow ins = some g) (hr : rawOf ins = some r) (s : State) :
    exec ins s = aluOp r s g.val ∧ r.op.toNat = g.op ∧ r.f.toNat = g.f ∧ g.op ≤ 0x11 := by
  unfold addRow at hg
  split at hg <;> cases hg <;> cases hr <;> refine ⟨?_, rfl, rfl, Nat.le_of_ble_eq_true rfl⟩
  case h_1 => exact aluOp_congr fun _ _ => add_word32 _ _
  case h_2 => exact aluOp_congr fun _ _ => sub_word32 _ _
  case h_3 => exact aluOp_congr fun _ _ => congrArg wordOfInt (clampInt_eq (by decide) _)
  case h_4 => exact aluOp_congr fun _ _ => congrArg wordOfInt (clampInt_eq (by decide) _)
  case h_5 => rfl
  case h_6 => exact aluOp_congr fun _ _ => subFloor_word32 _ _
  case h_7 => rfl
  case h_8 => exact aluOp_congr fun _ _ => neg_word32 _
  case h_9 => exact aluOp_congr fun _ _ => add_word32 _ _
  case h_10 => exact aluOp_congr fun _ _ => sub_word32 _ _

theorem mulRow_exec {ins : Instr} {r : Raw} {g : Row Word} (hg : mulRow ins = some g) (hr : rawOf ins = some r) (s : State) :
    exec ins s = aluOp r s g.val ∧ r.op.toNat = g.op ∧ r.f.toNat = g.f ∧ g.op ≤ 0x11 := by
  unfold mulRow at hg
  split at hg <;> cases hg <;> cases hr <;> refine ⟨?_, rfl, rfl, Nat.le_of_ble_eq_true rfl⟩
  case h_1 => exact aluOp_congr fun _ _ => mul_word32 _ _
  case h_2 => exact aluOp_congr fun _ _ => highWord_eq _
  case h_3 => rfl
  case h_4 => exact aluOp_congr fun _ _ => mulAdd_word32 _ _ _
  case h_5 => exact aluOp_congr fun _ _ => congrArg (ite _ _) (quotient_eq _ _)
  case h_6 => rfl
  case h_7 => exact aluOp_congr fun _ _ => congrArg (ite _ _) (remainder_eq _ _)
  case h_8 => rfl

theorem logicRow_exec {ins : Instr} {r : Raw} {g : Row Word} (hg : logicRow ins = some g) (hr : rawOf ins = some r) (s : State) :
    exec ins s = aluOp r s g.val ∧ r.op.toNat = g.op ∧ r.f.toNat = g.f ∧ g.op ≤ 0x11 := by
  unfold logicRow at hg
  split at hg <;> cases hg <;> cases hr <;> refine ⟨?_, rfl, rfl, Nat.le_of_ble_eq_true rfl⟩
  case h_13 => exact aluOp_congr fun _ _ => least_eq _ _
  case h_14 => exact aluOp_congr fun _ _ => greatest_eq _ _
  case h_15 => exact aluOp_congr fun _ _ => leastN_eq _ _
  case h_16 => exact aluOp_congr fun _ _ => greatestN_eq _ _
  case h_17 => exact aluOp_congr fun _ _ => intCond_eq _ _ _
  case h_18 => exact aluOp_congr fun _ _ => intCond_eq _ _ _
  case h_20 => exact aluOp_congr fun _ _ => flag_eq_truth _
  case h_21 => exact aluOp_congr fun _ _ => flag_eq_truth _
  case h_22 => exact aluOp_congr fun _ _ => flag_eq_truth _
  all_goals rfl

theorem shiftRow_exec {ins : Instr} {r : Raw} {g : Row Word} (hg : shiftRow ins = some g) (hr : rawOf ins = some r) (s : State) :
    exec ins s = aluOp r s g.val ∧ r.op.toNat = g.op ∧ r.f.toNat = g.f ∧ g.op ≤ 0x11 := by
  unfold shiftRow at hg
  split at hg <;> cases hg <;> cases hr <;> refine ⟨?_, rfl, rfl, Nat.le_of_ble_eq_true rfl⟩
  case h_1 | h_6 => exact aluOp_congr fun _ _ => shl32_eq _ _
  case h_2 | h_7 => exact aluOp_congr fun _ _ => shr32_eq _ _
  case h_3 | h_8 => exact aluOp_congr fun _ _ => sar32_eq _ _
  case h_4 | h_9 => exact aluOp_congr fun _ _ => rotl32_eq _ _
  case h_5 | h_10 => exact aluOp_congr fun _ _ => rotr32_eq _ _

/-- R178 to R193: an integer instruction makes the word of its row, under the row's opcode and function. -/
theorem integerRow_exec {ins : Instr} {r : Raw} {g : Row Word} (hg : integerRow ins = some g) (hr : rawOf ins = some r) (s : State) :
    exec ins s = aluOp r s g.val ∧ r.op.toNat = g.op ∧ r.f.toNat = g.f ∧ g.op ≤ 0x11 := by
  unfold integerRow at hg
  split at hg
  · next ha =>
    cases hg
    exact addRow_exec ha hr s
  split at hg
  · next hm =>
    cases hg
    exact mulRow_exec hm hr s
  split at hg
  · next hl =>
    cases hg
    exact logicRow_exec hl hr s
  · exact shiftRow_exec hg hr s

/-! ### Instructions that stand for raw words (R165) -/

/-- R165: an instruction of the lane stream but REP, of length (1) or (X), does what its raw words do. -/
theorem exec_eq_runRaw {ins : Instr} {r : Raw} (h : inLanes ins r) (hi : r.i = none) (s : State) : exec ins s = runRaw r s := by
  obtain ⟨hr, hm, hop⟩ := h
  cases ins
  all_goals cases hr
  case rep => exact absurd rfl hop
  all_goals cases hm
  all_goals cases hi
  all_goals rfl

theorem orderFor_of_rawOf {ins : Instr} {r : Raw} (h : rawOf ins = some r) (s : State) : orderFor ins s = orderRaw r s := by
  rw [orderFor, h]

theorem ordersNothing_of_op {r : Raw} (h : r.op.toNat ≤ 0x11) : ordersNothing r = true := by
  simp [ordersNothing, Nat.le_trans h (by decide : 0x11 ≤ 0x31)]

theorem orderRaw_of_op {r : Raw} (h : r.op.toNat ≤ 0x11) (s : State) : orderRaw r s = s := by
  rw [orderRaw, ordersNothing_of_op h, Bool.true_or, if_pos rfl]

/-- R165: raw words of the lane stream run as the instruction that they are, in the state that it finds. -/
theorem runRaw_orderRaw {ins : Instr} {r : Raw} (h : inLanes ins r) (hi : r.i = none) (s : State) :
    runRaw r (orderRaw r s) = exec ins (orderFor ins s) := by
  rw [exec_eq_runRaw h hi, orderFor_of_rawOf h.1]

/-- R178 to R193: an integer instruction that stands in another one's place completes with its result. -/
theorem integer_completes {ins : Instr} {r : Raw} {i : Issue} {s : State} {g : Row Word} (h : rawOf ins = some r)
    (hg : integerRow ins = some g) (hr : ready r i s = true) :
    ∃ t, exec ins (orderFor ins s) = .next t ∧ Advances r i (fibIs s i) [dstReg r i s 0] s t ∧
      Receives r i s t 0 (g.val (ops r i s)) := by
  obtain ⟨hx, hop, -, hle⟩ := integerRow_exec hg h s
  rw [orderFor_of_rawOf h, orderRaw_of_op (hop ▸ hle), hx]
  exact aluOp_result g.val hr

/-! ### Dictionary parcels (R155 to R157) -/

/-- R156: where an entry comes from. -/
theorem entryOf_source {s : State} {i : Issue} {k : Nat} {w : Word} (h : entryOf s i k = some (.word w)) :
    mget i.entries k = some w ∨ (blkD s i.blk).dict[k]? = some (.word w) ∨ freshEntry s i k = some w := by
  unfold entryOf at h
  split at h
  · next hm =>
    cases h
    exact .inl hm
  · obtain ⟨e, he, h⟩ := Option.map_eq_some_iff.mp h
    right
    rw [he]
    split at h
    · next hf =>
      split at h
      · exact .inl (congrArg some h)
      · cases h
        exact .inr hf
    · next hf =>
      split at h
      · cases h
      · cases h
        exact .inr hf
    · exact .inl (congrArg some h)

/-- R157: a legal entry is the target of its parcel, with bit S the OR of both. -/
theorem dictTarget_word {s : State} {i : Issue} {w : Word} {r : Raw} (b : Bool) (index : BitVec 10)
    (he : entryOf s i index.toNat = some (.word w)) (hr : r = { rawWord w none none with s := w.getLsbD 24 || b })
    (hl : entryLegal w = true) (hc : Forms.check false r = none) :
    let x : Parcel16 := (0b10#2) ++ BitVec.ofBool b ++ (0b000#3) ++ index
    dictTarget s i x = .ok r 1 w (x.setWidth 32) := by
  obtain ⟨-, hb, -, hk⟩ := parcelFields b 0#3 index
  intro x
  have hn : Forms.least (Forms.reasons false r ++ (if entryLegal w then [] else [0x07])) = none := by
    rw [hl, if_pos rfl, List.append_nil]
    exact hc
  have hs : { rawWord w none none with s := (rawWord w none none).s || x.getLsbD 13 } = r := by
    rw [hr]
    exact congrArg (fun c => { rawWord w none none with s := w.getLsbD 24 || c }) hb
  unfold dictTarget
  rw [hk, he]
  simp only
  rw [hs, hn]

theorem dictIndex_parcel (b : Bool) (index : BitVec 10) :
    dictIndex ((0b10#2) ++ BitVec.ofBool b ++ (0b000#3) ++ index) = some index.toNat := by
  obtain ⟨hp, -, hk, hn⟩ := parcelFields b 0#3 index
  rw [dictIndex, if_pos ⟨eq_of_beq hp, hk⟩, hn]

/-- Settles O27: the entry is the target of its parcel, and raw words of the lane stream run as the instruction that they are. -/
theorem dictionaryParcels : Obligations.DictionaryParcels := by
  intro p i s w ins r hcur x k u he hr hl hc hin j v
  have hrun : exec (.dictionaryParcel p) s = runRaw r (orderRaw r v) := by
    show execDictionaryParcel p s = _
    have hj : { i.took x w with insn := w, ext := x.setWidth 32 } = j := by
      rw [Issue.took, dictIndex_parcel]
    unfold execDictionaryParcel
    rw [hcur]
    simp only
    rw [show parcelOf p = x from rfl, dictTarget_word p.s p.index he hr hl hc]
    simp only
    rw [hj, if_neg hin.2.2]
  rw [hrun, runRaw_orderRaw hin (by rw [hr]; rfl)]
  exact ⟨entryOf_source he, rfl, fun g hg hready => integer_completes hin.1 hg hready⟩

/-! ### Repetitions (R159 to R163) -/

theorem dictIndex_of_long {p : Parcel16} (h : isShort p = false) : dictIndex p = none :=
  if_neg fun hp => Bool.false_ne_true (h.symm.trans (beq_iff_eq.mpr hp.1))

theorem settleEntryOf_of_long {p : Parcel16} (h : isShort p = false) (s : State) (i : Issue) : settleEntryOf s i p = s := by
  rw [settleEntryOf, dictIndex_of_long h]
  rfl

theorem took_of_long {p : Parcel16} (h : isShort p = false) (i : Issue) (w : Word) : i.took p w = i := by
  rw [Issue.took, dictIndex_of_long h]

/-- R161: a legal target of one or two words. -/
theorem targetOf_words {s : State} {i : Issue} {ps : List Parcel16} {t : Raw} {n : Nat} (hs : isShort (par ps 0) = false)
    (hf : frame (wordOf (par ps 0) (par ps 1)) (wordOf (par ps 2) (par ps 3)) = some (t, n)) (hc : Forms.check false t = none) :
    targetOf s i ps = .ok t n (wordOf (par ps 0) (par ps 1)) (wordOf (par ps 2) (par ps 3)) := by
  have h : ¬ (par ps 0).extractLsb' 14 2 = 0b10#2 := fun hp => Bool.false_ne_true (hs.symm.trans (beq_iff_eq.mpr hp))
  unfold targetOf
  simp only
  rw [if_neg h, hf]
  simp only
  rw [hc]

/-- R160: the two readings of a repeated target name the same fields. -/
theorem stepRaw_eq_repeated (q : RepWord) (t : Raw) (k : Nat) : stepRaw q t k = repeated q t k := by
  rw [stepRaw, repeated, Bool.and_comm]

/-- R162: a step that is not admitted. -/
theorem stepBad_eq (u : Use) (name step last : Nat) :
    stepBad u name step last = decide (step ≠ 0 ∧ (Forms.isV u = false ∨ 127 < name + last * step)) := by
  rw [stepBad]
  cases Forms.isV u <;> simp

/-- R162: the two readings of the rules of REP agree. -/
theorem repBad_eq_repWrong (q : RepWord) (t : Raw) : repBad q t = repWrong q t := by
  have hop : repExcluded t.op.toNat =
      decide (t.op.toNat = 0x36 ∨ (0x38 ≤ t.op.toNat ∧ t.op.toNat ≤ 0x3F) ∨ 0x70 ≤ t.op.toNat) := by
    simp [repExcluded, Bool.or_assoc]
  simp only [repBad, repWrong, hop, stepBad_eq, stepRaw_eq_repeated]
  cases t.x <;> simp

theorem repWrong_one_word {q : RepWord} {t : Raw} (h : repWrong q t = false) : t.i = none := by
  cases hi : t.i with
  | none => rfl
  | some w => simp [repWrong, hi] at h

/-- R160, R163: the issue of a repetition. -/
theorem repIssue_eq (i : Issue) (r : R3) (ps : List Parcel16) (n k0 : Nat) :
    (let i1 := { i with insn := wordOf (par ps 0) (par ps 1), ext := wordOf (par ps 2) (par ps 3), target := ps }
     if k0 < (repFields r).last then { i1 with next := i.pc, repNext := k0 + 1 }
     else { i1 with next := i.pc + 4 + BitVec.ofNat 64 (2 * n), repNext := 0 }) =
      repIssue i (repFields r) ps n (min k0 (repFields r).last) := by
  have ha : i.pc + 4 + BitVec.ofNat 64 (2 * n) = i.pc + BitVec.ofNat 64 (4 + 2 * n) := by
    rw [BitVec.ofNat_add, ← BitVec.add_assoc]
    rfl
  rw [ha]
  unfold repIssue
  by_cases h : k0 < (repFields r).last
  · simp only [Nat.min_eq_left h.le, if_pos h]
  · simp only [Nat.min_eq_right (Nat.le_of_not_lt h), if_neg h, if_neg (Nat.lt_irrefl _)]

/-- R159 to R163: REP runs its target, stepped, as the issue of that repetition. -/
theorem exec_rep {r : R3} {i : Issue} {s u : State} {ps : List Parcel16} {t : Raw} {n : Nat} (hcur : s.cur = some i)
    (hu : i.target = [] ∧ fetchCode s (coreIs s i) (ctxIs s i) (i.pc + 4).toNat .lane = .ok (u, ps) ∨
      i.target = ps ∧ ps ≠ [] ∧ u = s)
    (hs : isShort (par ps 0) = false)
    (hf : frame (wordOf (par ps 0) (par ps 1)) (wordOf (par ps 2) (par ps 3)) = some (t, n)) (hc : Forms.check false t = none)
    (hw : repWrong (repFields r) t = false) :
    let k := min (laneD (fibIs s i) (lowest i.lanes)).rep (repFields r).last
    let w := repeated (repFields r) t k
    exec (.rep r) s = runRaw w (orderRaw w { u with cur := some (repIssue i (repFields r) ps n k) }) := by
  have hps : (if i.target.isEmpty then fetchCode s (coreIs s i) (ctxIs s i) (i.pc + 4).toNat .lane else .ok (s, i.target)) =
      .ok (u, ps) := by
    rcases hu with ⟨ht, hu⟩ | ⟨ht, hne, rfl⟩
    · rw [ht, if_pos List.isEmpty_nil, hu]
    · rw [ht, if_neg (by rwa [List.isEmpty_iff])]
  have hq : repOf (r.raw 0x3E#7 0#3) = repFields r := rfl
  show execRep r s = _
  unfold execRep
  rw [hcur]
  unfold repAt
  simp only [hps, hq, settleEntryOf_of_long hs, targetOf_words hs hf hc, repBad_eq_repWrong, hw, took_of_long hs, stepRaw_eq_repeated,
    Bool.false_eq_true, if_false]
  rw [← repIssue_eq]

/-- Settles O28: a repetition runs the stepped target as an issue of its own, and a stepped target is an instruction of the lane stream of
one word or two. -/
theorem repeatedTargets : Obligations.RepeatedTargets := by
  intro r i s u ps t n ins q k hcur hu hs hf hc hw hin j v
  have hi : (repeated q t k).i = none := repWrong_one_word (t := t) hw
  rw [exec_rep hcur hu hs hf hc hw, runRaw_orderRaw hin hi]
  exact ⟨rfl, fun g hg hready => integer_completes hin.1 hg hready⟩

end Sys2Proof.Safety
end

section
/-!
Settles O25 (`TaskCourses`): SPAWN, TASKEND, COLL and COLLT follow their courses.
-/

namespace Sys2Proof.Safety

open Sys2Proof.Machine

/-! ### TASKEND (R224) -/

/-- A change of every slot of a block that keeps their fibres and lanes. -/
theorem updBlk_shape (s : State) (b : Nat) (g : Block → Block) (h : Slot → Slot) (f : Fibre → Fibre)
    (hg : ∀ x, (g x).slots = x.slots.map h) (hh : ∀ x, (h x).fibs = x.fibs.map f) (hf : ∀ x, (f x).lanes.length = x.lanes.length) :
    Shape s (updBlk s b g) := by
  have hb := fun c => blkD_updBlk s b c g
  constructor
  case present =>
    intro c
    rw [updBlk, mget_mupd]
    split <;> simp
  case slots =>
    intro c
    rw [hb]
    split
    · next hc => rw [hg, List.length_map, hc.1]
    · rfl
  case fibs =>
    intro c k
    rw [slotD, hb]
    split
    · next hc =>
      rw [hg, hc.1]
      exact getD_map_of_keeps (φ := fun y : Slot => y.fibs.length) (fun x => by rw [hh, List.length_map]) _ k {}
    · rfl
  case lanes =>
    intro c k j
    rw [fibD, slotD, hb]
    split
    · next hc =>
      rw [hg, hc.1]
      refine getD_map_of_keeps (φ := fun y : Slot => (y.fibs.getD j {}).lanes.length) (fun x => ?_) _ k {}
      rw [hh]
      exact getD_map_of_keeps (φ := fun y : Fibre => y.lanes.length) hf _ j {}
    · rfl

theorem updBlk_shape_of_slots (s : State) (b : Nat) (g : Block → Block) (hg : ∀ x, (g x).slots = x.slots) : Shape s (updBlk s b g) :=
  updBlk_shape s b g id id (fun x => by rw [hg, List.map_id]) (fun x => (List.map_id _).symm) (fun _ => rfl)

theorem endFib_lanes (x : Fibre) : (endFib x).lanes.length = x.lanes.length := by
  unfold endFib
  split
  · rfl
  · exact List.length_map _

theorem setNewest_blocks (s : State) (cs : List (Nat × Byte)) : (setNewest s cs).blocks = s.blocks := by
  refine foldl_blocks (fun t p => ?_) cs s
  split
  · rfl
  · split <;> rfl

theorem undoPart_blocks (s : State) (id : Nat) (x : Shard) : (undoPart s id x).blocks = s.blocks := setNewest_blocks _ _

theorem cutStores_blocks (s : State) (f : Pend → Bool) : (cutStores s f).blocks = s.blocks := by
  refine foldl_blocks (fun t p => ?_) _ s
  split
  · exact foldl_blocks (fun u x => undoPart_blocks u _ x) _ t
  · split
    · exact foldl_blocks (fun u x => undoPart_blocks u _ x) _ t
    · rfl

theorem lowerM_shape (s : State) (b kf : Nat) : Shape s (lowerM s b kf) := updFib_shape s _ _ _ _ (fun _ => rfl)

theorem endSeq_shape (s : State) (b : Nat) : Shape s (endSeq s b) := by
  unfold endSeq updSeq
  refine Shape.trans (foldl_shape (fun t kf => lowerM_shape t b kf) ((seqD s b).queue.flatMap id) s) ?_
  exact updBlk_shape_of_slots _ b _ (fun _ => rfl)

/-- R22: the end of a block leaves its slots, fibres and lanes where they are. -/
theorem endBlock_shape (s : State) (b : Nat) : Shape s (endBlock s b) := by
  have h1 : Shape s (closeBlockWindows (cutStores s (fun p => p.blk == b && p.agent == 64)) b) := Shape.of_blocks (cutStores_blocks s _)
  have h2 : ∀ t, Shape t (updBlk t b endFibres) := fun t => updBlk_shape t b endFibres endSlot endFib (fun _ => rfl) (fun _ => rfl) endFib_lanes
  exact h1.trans ((h2 _).trans ((endSeq_shape _ b).trans (updBlk_shape_of_slots _ b _ (fun _ => rfl))))

/-- R224: TASKEND takes effect once every pipe of the block has issued in the clk. -/
theorem taskEnd_eq (s : State) (i : Issue) : taskEnd s i =
    let pipes := ((blkD s i.blk).ending).getD (otherPipes s i.blk i.slot)
    if pipes = [] then endBlock s i.blk else updBlk s i.blk (fun b => { b with ending := some pipes }) := by
  unfold taskEnd
  cases (blkD s i.blk).ending with
  | none =>
    dsimp only [Option.getD_none]
    cases otherPipes s i.blk i.slot <;> rfl
  | some ps => cases ps <;> rfl

theorem taskEnd_shape (s : State) (i : Issue) : Shape s (taskEnd s i) := by
  rw [taskEnd_eq]
  dsimp only
  split
  · exact endBlock_shape s i.blk
  · exact updBlk_shape_of_slots s i.blk _ (fun _ => rfl)

theorem execTaskend_follows {x : R3} {i : Issue} {s : State} {c : Course} (hr : ready (x.raw 0x3F#7 2#3) i s = true)
    (hc : taskCourse (.taskend x) i (ops (x.raw 0x3F#7 2#3) i s) (prep (x.raw 0x3F#7 2#3) i s) (touch (x.raw 0x3F#7 2#3) i s) = some c) :
    Follows (x.raw 0x3F#7 2#3) i s (execTaskend x s) c := by
  simp only [taskCourse, ← taskEnd_eq, Option.some.injEq] at hc
  cases hc
  exact follows_jumps hr rfl ((taskEnd_shape _ i).exists' (prep_placed hr).here)

/-! ### What a collective leaves of the blocks (R293, R467, R468) -/

theorem gRead_blocks (s : State) (c : Nat) (pas : List Nat) : (gRead s c pas).1.blocks = s.blocks :=
  (dropPieces_quiet _ _).blocks.trans ((touchMscBy_quiet _ _ _ _ _).blocks.trans (recalls_blocks _ _ _ _))

theorem asked_blocks (s : State) (i : Issue) (k : AccKind) (vas pas : List Nat) : (asked s i k vas pas).blocks = s.blocks :=
  (sendAll_quiet _ _ _ _ _ _ _).blocks.trans (seekTlb_quiet _ _ _ _ _).blocks

theorem bindGroup_blocks (s : State) (o : Op) : (bindGroup s o).blocks = s.blocks := by
  unfold bindGroup
  dsimp only
  split <;> rfl

theorem sendWhistle_blocks (s : State) (k : Nat) : (sendWhistle s k).blocks = s.blocks := by
  unfold sendWhistle
  split
  · rfl
  · split
    · rfl
    · dsimp only
      split
      · rfl
      · split
        · rfl
        · split
          · rfl
          · split <;> rfl

theorem whistleAt_blocks (s : State) (c g gid step : Nat) : (whistleAt s c g gid step).1.blocks = s.blocks := by
  unfold whistleAt
  split <;> rfl

theorem collArrive_blocks (s : State) (id : Nat) (o : Op) : (collArrive s id o).blocks = s.blocks := by
  unfold collArrive
  dsimp only
  split
  · exact bindGroup_blocks s o
  · split
    · exact bindGroup_blocks s o
    · split
      · exact bindGroup_blocks s o
      · exact (sendWhistle_blocks _ _).trans ((whistleAt_blocks _ _ _ _ _).trans (bindGroup_blocks s o))

theorem xlSpan_under {s : State} {B : Map Block} (h : Alike s B) (i : Issue) (k : AccKind) (a n : Nat) :
    xlSpan (under s B) i k a n = xlSpan s i k a n := by
  have hx : ∀ c core a, xlate (under s B) c core a k = xlate s c core a k := fun _ _ _ => rfl
  simp only [xlSpan, xlBytes, h.ctxIs, h.coreIs, hx, h.capStalls]

theorem prep_xlSpan {r : Raw} {i : Issue} {s : State} (hr : ready r i s = true) (k : AccKind) (a n : Nat) :
    xlSpan (prep r i s) i k a n = xlSpan (touch r i s) i k a n := by
  rw [prep_eq_under, xlSpan_under (prep_alike r (issuing_exists (ready_parts hr).1))]


/-! ### COLL and COLLT (R293, R154) -/

/-- R293: a collective is in flight, with its descriptor read (`collOp`). -/
def collStart (t : Bool) (i : Issue) (a : Nat) (pas : List Nat) (u : State) : State :=
  let p := gRead (asked u i .read (spanOf a 64) pas) (ctxIs u i) pas
  startOp p.1 i 4 .coll (fun o => { o with x := a, y := leNat p.2, w := if t then 1 else 0 })

/-- R293: what COLL or COLLT does (`collOp`). -/
def collBody (t : Bool) (e : Env) (u : State) : State × After :=
  if e.act.isEmpty then (if ctrFull u e.i 4 then (u, .stay) else (startOp u e.i 4 .idle (fun o => o), .advance)) else
  let a := (pr e.a 0 e.low).toNat
  if badGlobal 64 64 a then trapAll u e 0x02 0 (addrField a) else
  match xlSpan u e.i .read a 64 with
  | .error f => parkAll u e .read 0 f
  | .ok pas =>
    if ctrFull u e.i 4 then (u, .stay) else
    let (v, bs) := gRead (asked u e.i .read (spanOf a 64) pas) (ctxIs u e.i) pas
    let w := startOp v e.i 4 .coll (fun o => { o with x := a, y := leNat bs, w := if t then 1 else 0 })
    match mget w.ops v.nextId with
    | some o => (collArrive w v.nextId o, .advance)
    | none => (w, .advance)

theorem collOp_eq (r : Raw) (t : Bool) (s : State) : collOp r t s = laneInsn r s (collBody t) := rfl

section

variable {r : Raw} {t : Bool} {i : Issue} {e : Env} {s u w : State} {c : Course} {a : Nat}

theorem collBody_idle (h : e.act = []) :
    collBody t e u = if ctrFull u e.i 4 then (u, .stay) else (startOp u e.i 4 .idle (fun o => o), .advance) :=
  if_pos (List.isEmpty_iff.2 h)

theorem collBody_trap (h : e.act ≠ []) (hb : badGlobal 64 64 (pr e.a 0 e.low).toNat = true) :
    collBody t e u = trapAll u e 0x02 0 (addrField (pr e.a 0 e.low).toNat) :=
  (if_neg (fun k => h (List.isEmpty_iff.1 k))).trans (if_pos hb)

theorem collBody_fault {f : Nat × Xl} (h : e.act ≠ []) (hb : ¬ badGlobal 64 64 (pr e.a 0 e.low).toNat = true)
    (hx : xlSpan u e.i .read (pr e.a 0 e.low).toNat 64 = .error f) : collBody t e u = parkAll u e .read 0 f := by
  refine (if_neg (fun k => h (List.isEmpty_iff.1 k))).trans ((if_neg hb).trans ?_)
  rw [hx]

theorem collBody_full {pas : List Nat} (h : e.act ≠ []) (hb : ¬ badGlobal 64 64 (pr e.a 0 e.low).toNat = true)
    (hx : xlSpan u e.i .read (pr e.a 0 e.low).toNat 64 = .ok pas) (hf : ctrFull u e.i 4 = true) : collBody t e u = (u, .stay) := by
  refine (if_neg (fun k => h (List.isEmpty_iff.1 k))).trans ((if_neg hb).trans ?_)
  rw [hx]
  exact if_pos hf

theorem collBody_runs {pas : List Nat} {o : Op} (h : e.act ≠ []) (hb : ¬ badGlobal 64 64 (pr e.a 0 e.low).toNat = true)
    (hx : xlSpan u e.i .read (pr e.a 0 e.low).toNat 64 = .ok pas) (hf : ¬ ctrFull u e.i 4 = true) :
    let v := (gRead (asked u e.i .read (spanOf (pr e.a 0 e.low).toNat 64) pas) (ctxIs u e.i) pas).1
    let z := collStart t e.i (pr e.a 0 e.low).toNat pas u
    mget z.ops v.nextId = some o → collBody t e u = (collArrive z v.nextId o, .advance) := by
  intro v z ho
  refine (if_neg (fun k => h (List.isEmpty_iff.1 k))).trans ((if_neg hb).trans ?_)
  rw [hx]
  refine (if_neg hf).trans ?_
  dsimp only [z, v, collStart] at ho ⊢
  rw [ho]

theorem collStart_shape (pas : List Nat) : Shape u (collStart t i a pas u) := by
  unfold collStart
  exact (Shape.of_blocks ((gRead_blocks _ _ _).trans (asked_blocks _ _ _ _ _))).trans (startOp_shape _ _ _ _ _)

/-- R254: an access of a record is misaligned, or lies outside the canonical ranges (R88). -/
theorem badGlobal_iff (al n a : Nat) :
    badGlobal al n a = true ↔ a % al ≠ 0 ∨ (spanOf a n).any (fun x => !canonical x) = true := by
  rw [badGlobal_eq, Bool.or_eq_true, decide_eq_true_eq]

/-- R254: the active lanes of a per-issue instruction park for a fault at its record, or a locked page or the miss cap holds the issue. -/
theorem parkAll_follows {body : Env → State → State × After} {k : AccKind} {what : Nat} {f : Nat × Xl} (hr : ready r i s = true)
    (hu : body (ops r i s) (prep r i s) = parkAll (prep r i s) (ops r i s) k what f)
    (hw : body (ops r i s) (touch r i s) = parkAll (touch r i s) (ops r i s) k what f)
    (hc : faulted i (ops r i s) (touch r i s) k what f = some c) : Follows r i s (laneInsn r s body) c := by
  obtain ⟨va, x⟩ := f
  cases x
  case fault =>
    cases hc
    have hp := fun ls g => (parkLanes_shape (touch r i s) i ls g).placed (touch_placed hr)
    exact follows_parts hr hu hw (hp _ _).here (hp _ _).lanes
  case ok =>
    cases hc
    exact follows_asks hr hu hw (by rw [fibIs_of_blocks (capHold_quiet _ i).blocks]; exact touch_wait hr)
  all_goals
    cases hc
    exact follows_asks hr hu hw (touch_wait hr)

theorem collOp_follows (hr : ready r i s = true)
    (hc : collectiveCourse t i (ops r i s) (prep r i s) (touch r i s) = some c) : Follows r i s (collOp r t s) c := by
  have hi : (ops r i s).i = i := rfl
  have hfull : ctrFull (prep r i s) i 4 = decide (63 ≤ (fibIs (prep r i s) i).ctrs.getD 4 0) := rfl
  rw [collOp_eq]
  unfold collectiveCourse recordAt recordRead at hc
  dsimp only at hc
  split at hc
  · next ha =>
    have hb := fun u => collBody_idle (t := t) (u := u) ha
    split at hc
    · next hf =>
      cases hc
      have hf' := hf
      rw [← hfull, prep_ctrFull hr] at hf'
      exact follows_stays hr ((hb _).trans (if_pos hf)) ((hb _).trans (if_pos hf'))
    · next hf =>
      cases hc
      exact follows_run hr ((hb _).trans (if_neg hf)) (startOp_shape _ _ _ _ _)
  · next ha =>
    split at hc
    · next hg =>
      have hg' := (badGlobal_iff _ _ _).2 hg
      cases hc
      exact follows_traps hr (collBody_trap ha hg') (collBody_trap ha hg') (by simp)
    · next hg =>
      have hg' := fun h => hg ((badGlobal_iff _ _ _).1 h)
      rw [← hfull] at hc
      cases hx : xlSpan (prep r i s) i .read (pr (ops r i s).a 0 (ops r i s).low).toNat 64 with
      | error f =>
        rw [show xlSpan (prep r i s) i .read (pa (ops r i s) (lowest (ops r i s).act)).toNat 64 = .error f from hx,
          if_neg (fun h => Bool.false_ne_true h.1)] at hc
        have hx' := hx
        rw [prep_xlSpan hr] at hx'
        exact parkAll_follows hr (collBody_fault ha hg' hx) (collBody_fault ha hg' hx') hc
      | ok pas =>
        rw [show xlSpan (prep r i s) i .read (pa (ops r i s) (lowest (ops r i s).act)).toNat 64 = .ok pas from hx] at hc
        by_cases hf : ctrFull (prep r i s) i 4 = true
        · rw [if_pos ⟨rfl, hf⟩] at hc
          have hx' := hx
          have hf' := hf
          rw [prep_xlSpan hr] at hx'
          rw [prep_ctrFull hr] at hf'
          cases hc
          exact follows_stays hr (collBody_full ha hg' hx hf) (collBody_full ha hg' hx' hf')
        · rw [if_neg (fun h => hf h.2)] at hc
          dsimp only at hc
          split at hc
          · next o ho =>
            cases hc
            refine follows_run hr (collBody_runs ha hg' hx hf ho) ?_
            exact (collStart_shape pas).trans (Shape.of_blocks (collArrive_blocks _ _ _))
          · exact absurd hc nofun

end

/-! ### What a push of SPAWN leaves of the blocks (R428, R448 to R450) -/

section

variable (s : State) (c q : Nat)

theorem gWrite_blocks (pas : List Nat) (bs : List Byte) : (gWrite s c pas bs).blocks = s.blocks :=
  (endReleases_quiet _ _).blocks.trans ((dropPieces_quiet _ _).blocks.trans (gPut_blocks _ _ _ _ _))

theorem mapRemote_blocks (f : Nat) (v : Bool) : (mapRemote s f v).blocks = s.blocks :=
  foldl_blocks (fun t _ => foldl_blocks (fun u _ => updCtx_blocks u _ _) _ t) _ s

theorem askMigration_blocks (page : Nat) : (askMigration s c page).blocks = s.blocks := by
  unfold askMigration
  split
  · rfl
  · dsimp only
    split
    · rfl
    · split
      · exact mapRemote_blocks _ _ _
      · rfl

/-- The state in which an access of the kennel die leaves the machine. -/
def accState (x : KAcc) : State :=
  match x with
  | .ok _ => s
  | .wait t => t
  | .bad t _ => t

theorem kAcc_blocks (va n : Nat) (k : AccKind) : (accState s (kAcc s c va n k)).blocks = s.blocks := by
  unfold kAcc
  split
  · rfl
  · split
    · exact askMigration_blocks s c _
    · exact (noteBadLeaf_quiet s _ _ _).blocks
  · rfl

/-- The state in which a read by the kennel die leaves the machine. -/
def readState (x : KRead) : State :=
  match x with
  | .ok t _ _ => t
  | .wait t => t
  | .bad t _ => t

theorem kGet_blocks (va n : Nat) : (readState (kGet s c va n)).blocks = s.blocks := by
  have h := kAcc_blocks s c va n .read
  unfold kGet
  split
  · exact gRead_blocks s c _
  · next heq =>
    rw [heq] at h
    exact h
  · next heq =>
    rw [heq] at h
    exact h

theorem payErr_blocks : (payErr s c q).blocks = s.blocks := by
  unfold payErr
  split
  · rfl
  · next a v _ =>
    have h := kAcc_blocks s c a 1 .write
    dsimp only
    split
    · rw [updCtx_blocks]
      split
      · rfl
      · exact gWrite_blocks s c _ _
    · next heq =>
      rw [heq] at h
      exact h
    · next heq =>
      rw [heq] at h
      exact h

theorem queueError_blocks : (queueError s c q).blocks = s.blocks := by
  unfold queueError
  split
  · rfl
  · exact payErr_blocks _ c q

theorem watchHdr_blocks : (watchHdr s c q).blocks = s.blocks := by
  unfold watchHdr
  split <;> rfl

/-- The state in which the read of a header leaves the machine. -/
def hdrState (x : QRead) : State :=
  match x with
  | .ok t _ => t
  | .none t => t
  | .wait t => t

theorem readHdr_blocks : (hdrState (readHdr s c q)).blocks = s.blocks := by
  unfold readHdr
  have hp : (if (ctxD s c).st = .free ∨ (ctxD s c).st = .revoking then s else payErr s c q).blocks = s.blocks := by
    split
    · rfl
    · exact payErr_blocks s c q
  dsimp only
  generalize (if (ctxD s c).st = .free ∨ (ctxD s c).st = .revoking then s else payErr s c q) = u at hp
  have hg := kGet_blocks u c (hvaOf u c q) 64
  split
  · exact hp
  · split
    · exact hp
    · split
      · next heq =>
        rw [heq] at hg
        exact hg.trans hp
      · next heq =>
        rw [heq] at hg
        exact (queueError_blocks _ c q).trans (hg.trans hp)
      · next heq =>
        rw [heq] at hg
        split
        · exact (queueError_blocks _ c q).trans (hg.trans hp)
        · exact (watchHdr_blocks _ c q).trans (hg.trans hp)

/-- The state in which a push leaves the machine. -/
def pushState (x : PushRes) : State :=
  match x with
  | .ok t _ => t
  | .full t => t
  | .none t => t
  | .wait t => t

theorem poisonIf_blocks (bad : Bool) (lns : List Nat) : (if bad then addPoison s lns else s).blocks = s.blocks := by
  cases bad <;> rfl

theorem push_blocks (bs : List Byte) (bad : Bool) : (pushState (push s c q bs bad)).blocks = s.blocks := by
  have hh := readHdr_blocks s c q
  unfold push
  split
  · rfl
  · split
    · next heq =>
      rw [heq] at hh
      exact hh
    · next heq =>
      rw [heq] at hh
      exact hh
    · next t h heq =>
      rw [heq] at hh
      have h1 := kAcc_blocks t c (h.entry h.tail) 64 .write
      have h2 := kAcc_blocks t c ((hvaOf t c q + 8) % 2 ^ 64) 4 .write
      split
      · exact hh
      · split
        · exact hh
        · split
          · exact (watchHdr_blocks _ c q).trans ((gWrite_blocks _ c _ _).trans
              ((poisonIf_blocks _ bad _).trans ((gWrite_blocks t c _ _).trans hh)))
          · next hw =>
            rw [hw] at h1
            exact h1.trans hh
          · next hw _ =>
            rw [hw] at h2
            exact h2.trans hh
          · exact (queueError_blocks _ c q).trans hh

theorem spawnLane_blocks (pas : List Nat) : (spawnLane c q s pas).1.blocks = s.blocks := by
  have hp := (push_blocks (gRead s c pas).1 c q (gRead s c pas).2 (anyPoison (gRead s c pas).1 pas)).trans (gRead_blocks s c pas)
  unfold spawnLane
  dsimp only
  split
  all_goals
    next heq =>
      rw [heq] at hp
      exact hp

end

theorem spawnLanes_blocks (e : Env) (c : Nat) (s : State) (ok : List GLane) : (spawnLanes e c s ok).1.blocks = s.blocks := by
  refine foldl_fst_blocks (fun p l => ?_) ok _
  split
  · rfl
  · exact spawnLane_blocks _ _ _ _

/-! ### SPAWN (R222) -/

theorem markedRegs_of_no_ctl {r : Raw} (hx : r.x = none) (wb : Nat) : markedRegs r wb = [] := by
  unfold markedRegs
  rw [hx]

/-- R57: an instruction without an X-ctl word marks no register. -/
theorem prep_eq_touch {r : Raw} (hx : r.x = none) (i : Issue) (s : State) : prep r i s = touch r i s := by
  unfold prep
  rw [markedRegs_of_no_ctl hx]
  rfl

/-- A write depends on its words only where it writes. -/
theorem regWrite_congr (o : Option Reg) (fib clk : Nat) (due : Option Nat) {ls : List Nat} {g h : Nat → Word} (hgh : ∀ l ∈ ls, g l = h l) :
    Reg.write o fib clk due ls g = Reg.write o fib clk due ls h := by
  have hv : ∀ old : List Word, lanes32.map (fun l => if ls.contains l then g l else old.getD l 0) =
      lanes32.map (fun l => if ls.contains l then h l else old.getD l 0) := fun old =>
    List.map_congr_left (fun l _ => ite_congr rfl (fun hl => hgh l (List.contains_iff_mem.1 hl)) (fun _ => rfl))
  simp only [Reg.write, hv]

theorem writeArch_congr (s : State) (b k f a : Nat) (lat : Option Nat) {ls : List Nat} {g h : Nat → Word} (hgh : ∀ l ∈ ls, g l = h l) :
    writeArch s b k f a lat ls g = writeArch s b k f a lat ls h := by
  unfold writeArch
  simp only [regWrite_congr _ _ _ _ hgh]

/-- R222: the lanes of SPAWN whose record lies on a boundary of 64 bytes. -/
def spawnMet (i : Issue) (e : Env) (u : State) : Met :=
  gMeet u i .read 64 (fun l => (pa e l).toNat) (e.act.filter (fun l => decide ((pa e l).toNat % 64 = 0)))

/-- R222: what their pushes come to. -/
def spawnRun (i : Issue) (e : Env) (u : State) : State × List (Nat × Word) × Bool :=
  spawnLanes e (ctxIs u i) (sendAll .usual i (coreIs u i) .read u.nextId (spawnMet i e u).s ((spawnMet i e u).ok.flatMap (·.2)))
    (spawnMet i e u).ok

/-- R222: the statuses are written, 3 for a record off the boundary. -/
def spawnAnswer (x : R3) (i : Issue) (e : Env) (p : State × List (Nat × Word) × Bool) : State :=
  writeArch p.1 i.blk i.slot i.fib (archReg e.wb x.d.toNat) e.lat
    (e.act.filter (fun l => decide ((pa e l).toNat % 64 ≠ 0) || p.2.1.any (fun q => q.1 == l)))
    (fun l => if (pa e l).toNat % 64 ≠ 0 then 3 else ((p.2.1.find? (fun q => q.1 == l)).map (·.2)).getD 0)

/-- R222: what SPAWN does (`execSpawn`). -/
def spawnBody (w : Raw) (e : Env) (t : State) : State × After :=
  let ea (l : Nat) := (pr e.a 0 l).toNat
  match e.act.find? (fun l => !canonical (ea l)) with
  | some l => (trapFibre t e.i 0x02 0 [l] (addrField (ea l)), .stay)
  | none =>
    let odd := e.act.filter (fun l => decide (ea l % 64 ≠ 0))
    let m := gMeet t e.i .read 64 ea (e.act.filter (fun l => decide (ea l % 64 = 0)))
    if m.stall then (m.s, .stay) else
    let t0 := sendAll .usual e.i (coreIs t e.i) .read t.nextId m.s (m.ok.flatMap (·.2))
    let (t1, st, wt) := spawnLanes e (ctxIs t e.i) t0 m.ok
    if wt then (withAsks t t1, .stay) else
    let t2 := wrDs w e 0 (e.act.filter (fun l => odd.contains l || st.any (fun p => p.1 == l)))
      (fun l => if odd.contains l then 3 else ((st.find? (fun p => p.1 == l)).map (·.2)).getD 0) t1
    if m.bad.isEmpty then (t2, .advance) else (parkBad t2 e.i m.bad, .part)

theorem execSpawn_eq (x : R3) (s : State) : execSpawn x s = laneInsn (x.raw 0x3F#7 0#3) s (spawnBody (x.raw 0x3F#7 0#3)) := rfl

section

variable {x : R3} {i : Issue} {e : Env} {s u : State} {c : Course}

theorem spawnMet_blocks : (spawnMet i e u).s.blocks = u.blocks := (gMeet_quiet _ _ _ _ _ _).blocks

theorem spawnRun_blocks : (spawnRun i e u).1.blocks = u.blocks :=
  (spawnLanes_blocks _ _ _ _).trans ((sendAll_quiet _ _ _ _ _ _ _).blocks.trans spawnMet_blocks)

theorem spawnAnswer_shape : Shape u (spawnAnswer x i e (spawnRun i e u)) :=
  (Shape.of_blocks spawnRun_blocks).trans (writeArch_shape _ _ _ _ _ _ _ _)

/-- The statuses that the body writes are those of the table. -/
theorem wrDs_eq_spawnAnswer {p : State × List (Nat × Word) × Bool} (hw : (fibIs p.1 e.i).wait = none) :
    let odd := e.act.filter (fun l => decide ((pa e l).toNat % 64 ≠ 0))
    wrDs (x.raw 0x3F#7 0#3) e 0 (e.act.filter (fun l => odd.contains l || p.2.1.any (fun q => q.1 == l)))
      (fun l => if odd.contains l then 3 else ((p.2.1.find? (fun q => q.1 == l)).map (·.2)).getD 0) p.1 = spawnAnswer x e.i e p := by
  intro odd
  have ho : ∀ l ∈ e.act, odd.contains l = decide ((pa e l).toNat % 64 ≠ 0) := fun l hl => by
    rw [Bool.eq_iff_iff, List.contains_iff_mem, List.mem_filter]
    exact and_iff_right hl
  have hl : e.act.filter (fun l => odd.contains l || p.2.1.any (fun q => q.1 == l)) =
      e.act.filter (fun l => decide ((pa e l).toNat % 64 ≠ 0) || p.2.1.any (fun q => q.1 == l)) :=
    List.filter_congr (fun l hl => by rw [ho l hl])
  rw [wrDs_issue hw, hl]
  refine writeArch_congr _ _ _ _ _ _ (fun l hl => ?_)
  simp only [ho l (List.mem_of_mem_filter hl), decide_eq_true_eq]

theorem spawnBody_traps {w : Raw} {l : Nat} (h : e.act.find? (fun l => !canonical (pa e l).toNat) = some l) :
    spawnBody w e u = (trapFibre u e.i 0x02 0 [l] (addrField (pa e l).toNat), .stay) := by
  unfold spawnBody
  dsimp only
  rw [show e.act.find? (fun l => !canonical (pr e.a 0 l).toNat) = some l from h]

theorem spawnBody_meets (h : e.act.find? (fun l => !canonical (pa e l).toNat) = none) (hw : (fibIs u e.i).wait = none) :
    spawnBody (x.raw 0x3F#7 0#3) e u =
      if (spawnMet e.i e u).stall then ((spawnMet e.i e u).s, .stay)
      else if (spawnRun e.i e u).2.2 then (withAsks u (spawnRun e.i e u).1, .stay)
      else if (spawnMet e.i e u).bad.isEmpty then (spawnAnswer x e.i e (spawnRun e.i e u), .advance)
      else (parkBad (spawnAnswer x e.i e (spawnRun e.i e u)) e.i (spawnMet e.i e u).bad, .part) := by
  have ha : (fibIs (spawnRun e.i e u).1 e.i).wait = none := by rwa [fibIs_of_blocks spawnRun_blocks]
  rw [← wrDs_eq_spawnAnswer ha]
  unfold spawnBody
  dsimp only
  rw [show e.act.find? (fun l => !canonical (pr e.a 0 l).toNat) = none from h]
  rfl

theorem taskCourse_spawn_traps {w : State} {l : Nat} (h : e.act.find? (fun l => !canonical (pa e l).toNat) = some l) :
    taskCourse (.spawn x) i e u w = some (.traps 0x02 0 [l] [(12, (pa e l).toNat % 2 ^ 32), (13, (pa e l).toNat / 2 ^ 32)]) := by
  unfold taskCourse
  dsimp only
  rw [h]

theorem taskCourse_spawn_meets {w : State} (h : e.act.find? (fun l => !canonical (pa e l).toNat) = none) :
    taskCourse (.spawn x) i e u w =
      if (spawnMet i e w).stall then some (.asks (spawnMet i e w).s)
      else if (spawnRun i e w).2.2 then some (.asks (withAsks w (spawnRun i e w).1))
      else if (spawnMet i e w).bad = [] then some (.goes (spawnAnswer x i e (spawnRun i e u)))
      else some (.parts (parkBad (spawnAnswer x i e (spawnRun i e w)) i (spawnMet i e w).bad)) := by
  unfold taskCourse
  dsimp only
  rw [h]
  rfl

theorem execSpawn_follows (hr : ready (x.raw 0x3F#7 0#3) i s = true)
    (hc : taskCourse (.spawn x) i (ops (x.raw 0x3F#7 0#3) i s) (prep (x.raw 0x3F#7 0#3) i s) (touch (x.raw 0x3F#7 0#3) i s) = some c) :
    Follows (x.raw 0x3F#7 0#3) i s (execSpawn x s) c := by
  have hpt : prep (x.raw 0x3F#7 0#3) i s = touch (x.raw 0x3F#7 0#3) i s := prep_eq_touch rfl i s
  have hw := touch_wait hr
  rw [execSpawn_eq]
  cases hl : (ops (x.raw 0x3F#7 0#3) i s).act.find? (fun l => !canonical (pa (ops (x.raw 0x3F#7 0#3) i s) l).toNat) with
  | some l =>
    rw [taskCourse_spawn_traps hl] at hc
    cases hc
    exact follows_traps hr (spawnBody_traps hl) (spawnBody_traps hl) (by simp)
  | none =>
    rw [taskCourse_spawn_meets hl, hpt] at hc
    have hb := spawnBody_meets (x := x) hl hw
    split at hc
    · next hst =>
      replace hb := hb.trans (if_pos hst)
      cases hc
      exact follows_asks hr (hpt ▸ hb) hb (by rwa [fibIs_of_blocks spawnMet_blocks])
    · next hst =>
      replace hb := hb.trans (if_neg hst)
      split at hc
      · next ha =>
        replace hb := hb.trans (if_pos ha)
        cases hc
        exact follows_asks hr (hpt ▸ hb) hb hw
      · next ha =>
        replace hb := hb.trans (if_neg ha)
        have hp := (spawnAnswer_shape (x := x) (i := i) (e := ops (x.raw 0x3F#7 0#3) i s)).placed (touch_placed hr)
        split at hc
        · next hbad =>
          replace hb := hb.trans (if_pos (List.isEmpty_iff.2 hbad))
          cases hc
          exact follows_goes hr (hpt ▸ hb) hp.here hp.lanes
        · next hbad =>
          replace hb := hb.trans (if_neg (fun h => hbad (List.isEmpty_iff.1 h)))
          cases hc
          have hq := fun bad => (parkBad_shape _ i bad).placed hp
          exact follows_parts hr (hpt ▸ hb) hb (hq _).here (hq _).lanes

end

/-- Settles O25: SPAWN, TASKEND and the two collectives, one instruction at a time. -/
theorem taskCourses : Obligations.TaskCourses := by
  intro ins r i s c hraw _ hr hc
  cases ins
  case spawn x =>
    cases hraw
    exact execSpawn_follows hr hc
  case taskend x =>
    cases hraw
    exact execTaskend_follows hr hc
  case coll x =>
    cases hraw
    exact collOp_follows hr hc
  case collt x =>
    cases hraw
    exact collOp_follows hr hc
  all_goals exact absurd hc nofun

end Sys2Proof.Safety
end
